-- ==== Sys2Proof/Word.lean ====
section
/-! DEFINITION. The word types of the module and their plainest arithmetic (00_scope.md R7: registers are 64 bits wide and
little-endian). -/
namespace Sys2Proof

/-- A 64-bit register or memory word (R7). -/
abbrev Word := BitVec 64
/-- One byte. -/
abbrev Byte := BitVec 8
/-- An 8-bit master ID (17_register_pages.md R482). -/
abbrev Mid := BitVec 8
/-- A 32-byte command record (07_command_encoding.md R185). -/
abbrev Rec := BitVec 256
/-- A 64-byte descriptor or mask record (R190, R195, R198). -/
abbrev Desc := BitVec 512
/-- Core 0 to 31 (00_scope.md R12). -/
abbrev Core := Fin 32
/-- Context 0 to 7 of a core (06_control_core.md R146). -/
abbrev CtxId := Fin 8
/-- Panel 0 to 3. -/
abbrev Panel := Fin 4
/-- Fabric port 0 to 15. -/
abbrev Port := Fin 16
/-- HBM stack 0 to 7. -/
abbrev Stack := Fin 8
/-- Hem 0 to 32, numbered as the HEM sub-pages (17_register_pages.md R474). -/
abbrev HemId := Fin 33
/-- A sparse table: keys strictly rising, no entry equal to its default. -/
abbrev Tab (α : Type) := List (Nat × α)

/-! Operand types of the commands. -/

/-- An operand feeder of a core (03_outer_product_arrays.md R75): row segment `seg` of position `pos`, or column segment
`seg` of an OPE. -/
inductive Feeder | row (pos : Fin 4) (seg : Fin 8) | col (ope : Fin 2) (seg : Fin 4)
  deriving DecidableEq, Repr

/-- An array of a core: OPE and position (R64). -/
structure ArrayId where
  ope : Fin 2
  pos : Fin 4
  deriving DecidableEq, Repr

/-- A group of 8 x 4 cells (R76): row segment `rs` and column segment `cs` of an array. -/
structure CellGroup where
  ope : Fin 2
  pos : Fin 4
  rs : Fin 8
  cs : Fin 4
  deriving DecidableEq, Repr

/-- A block with random sources (04_numerics.md R115). -/
inductive SrBlock | core (c : Core) | coll (p : Panel) | opt (p : Panel)
  deriving DecidableEq, Repr

/-- What an access does: a read of `n` bytes or a write of bytes. -/
inductive MemOp | read (n : Nat) | write (bytes : List Byte)
  deriving DecidableEq, Repr

/-- The outcome of an error check on a read word: the event of silicon that the command reports (log entry 7). -/
inductive Ecc | clean | corrected | uncorrectable
  deriving DecidableEq, Repr

/-- The outcome of the LLC's checks (10_hbm_llc.md R288). -/
inductive LlcEcc | clean | dataCorrected | dataUncorrectable | tagCorrected | tagUncorrectable
  deriving DecidableEq, Repr

/-- What a change notice names (09_yoke_pockets.md R242, R238): a sync word by 131072 * core + word index, or a Pocket. -/
inductive Notice | word (w : Nat) | pocket (k : Nat)
  deriving DecidableEq, Repr

/-- Who writes PKT_GO or PKT_TAKE (R252, R253): a master on the fabric, or a context's PKT.SEND or PKT.RECV. -/
inductive PktSrc | fabric (mid : Mid) | ctx (c : Core) (x : CtxId)
  deriving DecidableEq, Repr

/-- Who rings a Button (R258): a write of BTN_RING, or a context's BTN.RING request. -/
inductive BtnSrc | fabric (mid receiver : Mid) (ring : BitVec 32) | ctx (c : Core) (x : CtxId)
  deriving DecidableEq, Repr

/-- The symbolic key a frame is sealed under (log entry 8): a pair key or group key of 15_mantle_cloak.md R413, by its
HKDF inputs. -/
inductive LinkKey
  | pair (secret lowRank highRank epoch : Nat)
  | group (secret rootRank group : Nat)
  deriving DecidableEq, Repr

/-- The messages of the Panel fabric, as 11_onchip_fabric.md Table: Drain classes lists them. -/
inductive FabKind
  | readRequest | scalarLoad | scalarStore | mmioRead | mmioWrite | fullEmpty | barrierArrival | pocketWrite
  | readData | acknowledgement | aborted
  | hbmWrite | toPort
  | memoryWrite | writeAcceptance | registration | changeNotice | release | wake | ring
  deriving DecidableEq, Repr

/-- The blocks attached to the mesh (11_onchip_fabric.md R290), and the pages Table: Mesh attachment gives no place. -/
inductive FabBlock
  | core (c : Core) | port (i : Port) | hbm (k : Stack) | crypto (p : Panel) | llc (p : Panel) (bank : Fin 32) | yoke | pockets | wordPockets
  | bindings | bist (p : Panel) | service (p : Panel) | mantle (p : Panel) | control | coll (p : Panel) | opt (p : Panel) | recovery (p : Panel)
  | button (mid : Mid) | page (p : Panel)
  deriving DecidableEq, Repr

/-- What a block sends: kind, source, destination, the address it targets or concerns, and the bytes of data it carries. -/
structure FabReq where
  kind : FabKind
  src : FabBlock
  dst : FabBlock
  addr : Option Nat
  bytes : Nat
  deriving DecidableEq, Repr

/-- What blocks do while an arbiter decides: one sends a message, or one handles the oldest message of a class at its sink, and sends `out`. -/
inductive FabIn | send (r : FabReq) | serve (b : FabBlock) (cls : Fin 4) (out : List FabReq)
  deriving DecidableEq, Repr

/-- The AES-256-GCM tag of a frame, by what it was made of (12_wyist_links.md R319, log entry 8): key, 96-bit nonce, the header as additional authenticated data, and the
payload. It verifies exactly under the same four. -/
structure GcmTag where
  key : LinkKey
  nonce : BitVec 96
  aad : List Byte
  text : List Byte
  deriving DecidableEq, Repr

/-- A Wyist frame: the header fields of 12_wyist_links.md R318, the payload, and its tag (`none`: one that no key made). -/
structure WFrame where
  type : Nat
  cls : Nat
  mcast : Bool
  len : Nat
  opc : Nat
  ver : Nat
  srcRank : Nat
  dst : Nat
  seq : Nat
  xseq : Nat
  ackSeq : Nat
  sack : Nat
  credit : Nat
  repoch : Nat
  epoch : Nat
  addr : Nat
  attr : Nat
  payload : List Byte
  tag : Option GcmTag
  deriving DecidableEq, Repr

/-- What stands before a Wyist frame on the wire (12_wyist_links.md R320): in standard mode destination and source address, the 802.1Q tags (TPID, PCP with DEI and VID)
and EtherType; in native mode the start word. -/
inductive WireHead
  | eth (dst src : BitVec 48) (tags : List (BitVec 16 × BitVec 16)) (etype : BitVec 16)
  | start (word : Word)
  deriving DecidableEq, Repr

/-- A frame on the wire of a port. In native mode zero bytes pad its payload to a multiple of 8. -/
structure WirePkt where
  port : Nat
  head : WireHead
  f : WFrame
  deriving DecidableEq, Repr

/-- A received stream (12_wyist_links.md R326): the unicast stream of a partner entry in a class, or a group's. -/
inductive RxStream | entry (e : Nat) (cls : Nat) | group (g : Nat)
  deriving DecidableEq, Repr

/-- A stream sent (R326, R332, R336): to a partner entry in a class, a group's frames, or their replay to one detached leg. -/
inductive TxStream | entry (e : Nat) (cls : Nat) | group (g : Nat) | leg (g : Nat) (l : Nat)
  deriving DecidableEq, Repr

/-- What the port's receiver found of a frame before the header checks (12_wyist_links.md): codewords corrected, an
uncorrectable codeword, the FCS, and what stands before the frame. -/
structure RxCheck where
  fecCorrected : Nat
  fecUncorrectable : Bool
  fcsOk : Bool
  head : WireHead
  deriving DecidableEq, Repr

/-- A control-port frame (16_bringup_service.md R443). -/
structure CpFrame where
  cls : Nat
  type : Nat
  opc : Nat
  aux : Nat
  len : Nat
  seq : Nat
  ackSeq : Nat
  addr : Nat
  payload : List Byte
  deriving DecidableEq, Repr

end Sys2Proof
end

