-- ==== Sys2Proof/Syntax.lean ====
section
/-! DEFINITION. The commands the module takes: one constructor per row of spec/opcode_table.json. -/
namespace Sys2Proof

/-- A command: a register access or write with its master, an event of one of the module's own engines at the instance it
names, or an event from outside with what it brings. -/
inductive Instr where
  /-- ACCOUNTING_UE (R24). An uncorrectable error strikes a block's accounting state; the block freezes itself, sets FROZEN and logs CONSERVATION_BREACH. -/
  | accountingUe (page : Nat) (addr : Word)
  /-- READ_CLEAR (R481). A read of an RC register returns its value and clears it, with concurrent events ordered under R11. -/
  | readClear (mid : Mid) (addr : Word)
  /-- REGISTER_WRITE (R9). A write to a register that has no row of its own acts on each field by its access code, or is a violation. -/
  | registerWrite (mid : Mid) (addr : Word) (value : Word)
  /-- DL_MARGIN_LOW (R41). The margin monitor finds the delay-line margin below 4 % and sets DL_MARGIN_LOW and the DL_MARGIN event. -/
  | dlMarginLow (c : Core) (margin : Byte)
  /-- RECAL (R454). A write of 1 to DL_CTL.RECAL starts a recalibration of the core's delay lines. -/
  | recal (mid : Mid) (c : Core)
  /-- DL_RECAL_DONE (R39). A calibration or recalibration completes, setting the delay to 1.10 times the replica delay and CALIBRATED. -/
  | dlRecalDone (c : Core) (replica : Nat) (margin : Byte)
  /-- HEM_CLOCK_STOP (R52). A Hem's clock stops for gating, relock or frequency change, and transfers into it wait with REQ held. -/
  | hemClockStop (h : HemId)
  /-- HEM_CLOCK_RUN (R52). A Hem's clock runs again and the held transfers resume with nothing lost or duplicated. -/
  | hemClockRun (h : HemId)
  /-- HEM_CLOCK_LOSS (R53). PLL lock stays lost for more than 100 µs and the Mantle sets CLOCK_LOSS and logs HEM_CLOCK_LOSS. -/
  | hemClockLoss (h : HemId)
  /-- OVERRUN (R54). A word arrives at a full receive FIFO of a fabric or control port crossing and is dropped. -/
  | overrun (h : HemId)
  /-- RESYNC (R56). One side of a crossing is reset; the other side empties the FIFOs, returns ABORTED completions and raises RESYNC_ACK. -/
  | resync (h : HemId) (hemSide : Bool)
  /-- RESYNC_READY (R56). The reset side sees RESYNC_ACK after its own reset is released, raises READY and traffic resumes. -/
  | resyncReady (h : HemId) (hemSide : Bool)
  /-- ENGINE_RECORD_ISSUE (R152). The control core takes an engine record from a READY context into the OPE, vector or stream queues, or holds the context in WAIT_QUEUE. -/
  | engineRecordIssue (c : Core) (x : CtxId)
  /-- OPE_PRODUCT (R156). A product reaches the head of the OPE queues, is checked, waits for full tiles, then fires in both OPEs or is refused. -/
  | opeProduct (c : Core)
  /-- FEEDER_REFILL (R75). A segment feeder with room in its elastic link reads its banks and refills up to two entries. -/
  | feederRefill (c : Core) (f : Feeder)
  /-- CELL_GROUP_FIRE (R76). A group of 8 × 4 cells fires step t once both segments' entries are present and step t − 1 is done. -/
  | cellGroupFire (c : Core) (g : CellGroup)
  /-- DRAIN_COPY (R78). After the last update, the accumulators are copied into empty drain latches and cleared, and DRAIN_BUSY is set. -/
  | drainCopy (c : Core) (a : ArrayId)
  /-- DRAIN_ROW (R78). One fed row is read from the drain latches, converted and written to the destination tile. -/
  | drainRow (c : Core) (a : ArrayId)
  /-- DRAIN_DONE (R78). Every fed array of an OPE has written its last row; DRAIN_BUSY clears and the destination tile is marked full. -/
  | drainDone (c : Core) (ope : Fin 2)
  /-- SCALED_RETRY (R107). A retryable attempt has drained, and the core reruns the product with group sums scaled by 2^−(a × shift). -/
  | scaledRetry (c : Core)
  /-- ACC_CLOSE (R71). Once every fired product of an owner that entered ERROR or IDLE completes, the open accumulation is closed to +0. -/
  | accClose (c : Core)
  /-- SR_KAT_RUN (R115). A write of 1 to NUM_CTL.SR_KAT_RUN starts the known-answer test of every random source of the block. -/
  | srKatRun (mid : Mid) (block : SrBlock) (value : Word)
  /-- SR_KAT_DONE (R116). A known-answer test ends after 64 step times; a pass returns the source to service, a failure puts it in fallback. -/
  | srKatDone (block : SrBlock) (source : Nat) (pass : Bool)
  /-- NUM_STEP_WRITE (R101). A write to NUM_STEP sets the step index for draws and clears DRAW_SEQ in every context of the core. -/
  | numStepWrite (mid : Mid) (c : Core) (value : Word)
  /-- START (R148). A write of 1 to CTX_CTL.START moves an IDLE context to READY at CTX_PC. -/
  | start (mid : Mid) (c : Core) (x : CtxId)
  /-- STOP (R148). A write of 1 to CTX_CTL.STOP moves a HALTED or ERROR context to IDLE, discarding an open task. -/
  | stop (mid : Mid) (c : Core) (x : CtxId)
  /-- RESUME (R182). A write of 1 to CTX_CTL.RESUME returns a HALTED context to READY or to its wait. -/
  | resume (mid : Mid) (c : Core) (x : CtxId)
  /-- STEP (R182). A write of 1 to CTX_CTL.STEP takes exactly one record from a HALTED context and halts it again. -/
  | stepCtx (mid : Mid) (c : Core) (x : CtxId)
  /-- HALT_ALL (R181). A write of 1 to CC_CTL.HALT_ALL halts every context of the core at its next record. -/
  | haltAll (mid : Mid) (c : Core)
  /-- RESUME_ALL (R184). A write of 1 to CC_CTL.RESUME_ALL clears HALT_ALL and resumes every HALTED context. -/
  | resumeAll (mid : Mid) (c : Core)
  /-- NOP (R208). The control core executes NOP, which does nothing. -/
  | nop (c : Core) (x : CtxId)
  /-- MARK (R208). MARK writes a trace record of TAG, VALUE and DL_RING_CNT, except under Cloak. -/
  | mark (c : Core) (x : CtxId)
  /-- HALT (R168). HALT discards an open task and moves the context to IDLE once every record it issued has completed. -/
  | halt (c : Core) (x : CtxId)
  /-- FENCE (R155). FENCE holds the context in WAIT_LOCAL until every record it issued to the masked queues has completed. -/
  | fence (c : Core) (x : CtxId)
  /-- CTX_SEQ (R176). CTX.SEQ sets the context's DRAW_SEQ from a scalar or immediate. -/
  | ctxSeq (c : Core) (x : CtxId)
  /-- SC_ALU (R208). SC.ALU computes a scalar function modulo 2^64 into SD. -/
  | scAlu (c : Core) (x : CtxId)
  /-- SC_LI (R208). SC.LI loads a 64-bit immediate into SD. -/
  | scLi (c : Core) (x : CtxId)
  /-- SC_LD (R208). SC.LD sends a 64-bit load and holds the context in WAIT_LOCAL. -/
  | scLd (c : Core) (x : CtxId)
  /-- SC_ST (R208). SC.ST sends a 64-bit store and holds the context in WAIT_LOCAL until accepted. -/
  | scSt (c : Core) (x : CtxId)
  /-- SCALAR_ACCESS_RESPONSE (R208). The answer to a scalar load or store arrives; SD is written, or the record is refused with MEM_ERROR. -/
  | scalarAccessResponse (c : Core) (x : CtxId)
  /-- A_SET (R208). A.SET sets BASE and optionally INC of an address descriptor register. -/
  | aSet (c : Core) (x : CtxId)
  /-- PRED_CMP (R167). PRED.CMP sets a predicate from a comparison of scalars or a scalar and an immediate. -/
  | predCmp (c : Core) (x : CtxId)
  /-- PRED_LOGIC (R167). PRED.LOGIC sets a predicate from a logical function of predicates. -/
  | predLogic (c : Core) (x : CtxId)
  /-- PRED_FULL (R167). PRED.FULL sets a predicate from the present full bit of a tile without waiting. -/
  | predFull (c : Core) (x : CtxId)
  /-- PRED_TASK (R167). PRED.TASK sets a predicate from whether the last closed task committed. -/
  | predTask (c : Core) (x : CtxId)
  /-- BR (R168). BR changes PC by a signed record offset, refused if it leaves the innermost loop body. -/
  | br (c : Core) (x : CtxId)
  /-- LOOP_BEGIN (R163). LOOP.BEGIN latches the count and pushes a loop level, or skips the body when the count is 0. -/
  | loopBegin (c : Core) (x : CtxId)
  /-- LOOP_END (R163). LOOP.END advances the iteration index and takes the back-edge or pops the level. -/
  | loopEnd (c : Core) (x : CtxId)
  /-- LOOP_BREAK (R163). LOOP.BREAK pops the innermost loop and continues after its LOOP.END. -/
  | loopBreak (c : Core) (x : CtxId)
  /-- REFETCH_DONE (R165). Two step times after a change of PC the refetch ends and the context returns to READY. -/
  | refetchDone (c : Core) (x : CtxId)
  /-- TASK_BEGIN (R169). TASK.BEGIN opens a task, names its abort target and saves S, P, A and DRAW_SEQ. -/
  | taskBegin (c : Core) (x : CtxId)
  /-- TASK_COMMIT (R173). TASK.COMMIT holds the context in WAIT_LOCAL until every command of the task has completed. -/
  | taskCommit (c : Core) (x : CtxId)
  /-- TASK_COMMIT_APPLY (R173). Once the task's commands are done, the commit frees the log entries and makes its full bits visible in one step time. -/
  | taskCommitApply (c : Core) (x : CtxId)
  /-- TASK_ABORT (R174). TASK.ABORT starts the discard of the open task. -/
  | taskAbort (c : Core) (x : CtxId)
  /-- TASK_LOG_WRITE (R171). Before a task's write to a granule, the control core saves the granule into the task write log, or the write waits for a free entry. -/
  | taskLogWrite (c : Core)
  /-- LOG_FULL (R172). Every task holding log entries waits on the log and none is closing, so the youngest is discarded with cause LOG_FULL. -/
  | logFull (c : Core)
  /-- TASK_DISCARD (R174). After the task's commands complete or are removed, logged granules are written back and full bits restored. -/
  | taskDiscard (c : Core) (x : CtxId)
  /-- TASK_DISCARD_DONE (R174). The write-back ends; registers and DRAW_SEQ are restored and the context resumes at the abort target, ERROR or IDLE. -/
  | taskDiscardDone (c : Core) (x : CtxId)
  /-- VEC_EW (R202). VEC.EW fires and applies an element-wise function to its sources into the destination. -/
  | vecEw (c : Core)
  /-- VEC_FN (R202). VEC.FN fires and applies a unary function to each element. -/
  | vecFn (c : Core)
  /-- VEC_FN_BWD (R201). VEC.FN_BWD fires and writes dx = dy × f′(x). -/
  | vecFnBwd (c : Core)
  /-- VEC_ROW_RED (R201). VEC.ROW_RED fires and reduces each row to a sum, maximum or sum of squares. -/
  | vecRowRed (c : Core)
  /-- VEC_COL_RED (R201). VEC.COL_RED fires and forms column sums into the AUX region. -/
  | vecColRed (c : Core)
  /-- VEC_NORM_STAT (R132). VEC.NORM_STAT fires, opens row-statistics records and forms μ and r by Welford merge. -/
  | vecNormStat (c : Core)
  /-- VEC_NORM_FWD (R134). VEC.NORM_FWD fires and normalises rows from the saved records. -/
  | vecNormFwd (c : Core)
  /-- VEC_NORM_BWD (R201). VEC.NORM_BWD fires and makes two passes to write dx and accumulate dγ and dβ. -/
  | vecNormBwd (c : Core)
  /-- VEC_SMAX_FOLD (R132). VEC.SMAX_FOLD fires and folds a key block of scores into each row's softmax record. -/
  | vecSmaxFold (c : Core)
  /-- VEC_SMAX_APPLY (R133). VEC.SMAX_APPLY fires and writes probabilities from the saved m and l. -/
  | vecSmaxApply (c : Core)
  /-- VEC_SMAX_D (R134). VEC.SMAX_D fires and adds Σ p × dp into KIND 4 records. -/
  | vecSmaxD (c : Core)
  /-- VEC_SMAX_BWD (R134). VEC.SMAX_BWD fires and writes score gradients ds = p × (dp − D). -/
  | vecSmaxBwd (c : Core)
  /-- VEC_DROPOUT (R161). VEC.DROPOUT fires and keeps or zeroes each element by its site 3 draw. -/
  | vecDropout (c : Core)
  /-- VEC_RAND (R161). VEC.RAND fires and writes site 3 draws as unsigned 16-bit integers. -/
  | vecRand (c : Core)
  /-- VEC_SCATTER_ADD (R180). VEC.SCATTER_ADD fires and adds rows into index-tensor targets in FP32 in increasing i. -/
  | vecScatterAdd (c : Core)
  /-- VECTOR_COMPLETE (R153). A vector command finishes its last write, marks its destinations full, applies releases and frees its queue entry. -/
  | vectorComplete (c : Core)
  /-- STR_MOVE (R206). STR.MOVE fires once its destinations are EMPTY and its sources full, and moves a region with any conversion. -/
  | strMove (c : Core)
  /-- STR_LINING (R127). STR.LINING fires and builds the transposed Lining of a weight window. -/
  | strLining (c : Core)
  /-- STR_GATHER (R231). STR.GATHER fires and gathers rows at index-unit addresses into a tile. -/
  | strGather (c : Core)
  /-- STR_SCATTER (R231). STR.SCATTER fires and writes tile rows to index-unit addresses. -/
  | strScatter (c : Core)
  /-- STR_EOS (R232). STR.EOS fires at the head of the stream queue and waits for the earlier records of its stream. -/
  | strEos (c : Core)
  /-- STR_EOS_COMPLETE (R232). Every earlier record of the stream has completed and its writes are visible, so STR.EOS completes. -/
  | strEosComplete (c : Core) (sid : Byte)
  /-- STREAM_REQUEST (R219). A stream request leaves its slot with a tag, or parks at the pseudo-channel cap. -/
  | streamRequest (c : Core) (slot : Fin 16)
  /-- TAG_GRANT (R226). A freed shared tag is granted to the slot request with the smallest deadline. -/
  | tagGrant (p : Panel)
  /-- STREAM_REQUEST_DONE (R220). A request's destination write is done and its tag returns; a record whose last request ends completes. -/
  | streamRequestDone (c : Core) (req : Nat)
  /-- FB_SET_FULL (R215). An FB_CMD write with OP 1 sets a full-bit entry FULL. -/
  | fbSetFull (mid : Mid) (c : Core) (entry : BitVec 12)
  /-- FB_SET_EMPTY (R215). An FB_CMD write with OP 2 sets a full-bit entry EMPTY. -/
  | fbSetEmpty (mid : Mid) (c : Core) (entry : BitVec 12)
  /-- FB_PARITY (R218). A full-bit table parity mismatch sets the entry to FILLING and logs FB_PARITY. -/
  | fbParity (c : Core) (entry : BitVec 12)
  /-- WATCH_REGION_WRITE (R228). A write to WATCH_BASE or WATCH_LIMIT changes a watch entry and increments its version. -/
  | watchRegionWrite (mid : Mid) (p : Panel) (w : Fin 16) (limit : Bool) (value : Word)
  /-- WATCH_VERSION_REPORT (R228). A version increment of a WATCHED region reaches a stream engine, invalidating and refetching affected tiles. -/
  | watchVersionReport (c : Core) (p : Panel) (w : Fin 16)
  /-- CS_FABRIC_ACCESS (R212). A read or write arriving over the Panel fabric is served at a core-store bank. -/
  | csFabricAccess (mid : Mid) (addr : Word) (op : MemOp) (ecc : Ecc)
  /-- FE_TAKE (R241). FE.TAKE sends its request to the sync word and waits in WAIT_SYNC. -/
  | feTake (c : Core) (x : CtxId)
  /-- FE_PEEK (R241). FE.PEEK sends its request to the sync word and waits in WAIT_SYNC. -/
  | fePeek (c : Core) (x : CtxId)
  /-- FE_PUT (R241). FE.PUT sends its request to the sync word and waits in WAIT_SYNC. -/
  | fePut (c : Core) (x : CtxId)
  /-- FE_SET (R241). FE.SET sends a write that sets the word FULL without waiting. -/
  | feSet (c : Core) (x : CtxId)
  /-- FE_CLEAR (R241). FE.CLEAR sends a request that sets the word EMPTY without waiting. -/
  | feClear (c : Core) (x : CtxId)
  /-- SYNC_BANK_ACCESS (R242). A sync bank performs a full/empty request indivisibly, registering a waiter or sending a change notice. -/
  | syncBankAccess (c : Core) (x : CtxId) (ecc : Ecc)
  /-- YOKE_REGISTRATION (R242). A registration reaches the Yoke and a wait entry is held for the context. -/
  | yokeRegistration (c : Core) (x : CtxId)
  /-- CHANGE_NOTICE (R242). A change notice reaches the Yoke, which wakes every context waiting on the word. -/
  | changeNotice (n : Notice)
  /-- SYNC_WAKE (R239). A wake reaches a core; matching entries are removed and contexts become READY to execute their record again. -/
  | syncWake (c : Core)
  /-- SYNC_ANSWER (R235). The target's answer reaches the context, which completes its synchronisation or Pocket record. -/
  | syncAnswer (c : Core) (x : CtxId)
  /-- BAR_ARRIVE (R246). BAR.ARRIVE sends an arrival to its barrier slot and waits in WAIT_SYNC. -/
  | barArrive (c : Core) (x : CtxId)
  /-- YOKE_ARRIVAL (R246). The Yoke handles an arrival by the participant's lead, counting it or refusing it as an overrun. -/
  | yokeArrival (c : Core) (x : CtxId)
  /-- RELEASE_ARRIVAL (R247). A release reaches a core, which wakes its contexts waiting on that slot and generation. -/
  | releaseArrival (c : Core) (slot : Byte)
  /-- SLOT_ENABLE (R245). A write of 1 to SLOT_CTL.EN enables a slot with GEN, ARRIVED, AHEAD and leads at 0. -/
  | slotEnable (mid : Mid) (slot : Byte)
  /-- SLOT_DISABLE (R248). A write of 0 to SLOT_CTL.EN discards the slot's arrivals and wakes its waiters. -/
  | slotDisable (mid : Mid) (slot : Byte)
  /-- PKT_SEND (R252). PKT.SEND sends message registers and GO to a Pocket and waits for the outcome. -/
  | pktSend (c : Core) (x : CtxId)
  /-- PKT_RECV (R253). PKT.RECV asks a Pocket for its message and waits with KIND 5 while GO is clear. -/
  | pktRecv (c : Core) (x : CtxId)
  /-- PKT_GO (R252). A PKT_GO write or PKT.SEND request reaches the Pocket, which sets GO and rings RECV_BTN, rejects it or returns it ABORTED. -/
  | pktGo (src : PktSrc) (k : Fin 512)
  /-- PKT_TAKE (R253). A PKT_TAKE write or PKT.RECV request takes the message, clears GO and rings EMPTY_BTN when set. -/
  | pktTake (src : PktSrc) (k : Fin 512)
  /-- PKT_CLEAR (R254). A write to PKT_CLEAR returns a Pocket's message ABORTED and completes its waiting receiver. -/
  | pktClear (mid : Mid) (k : Fin 512)
  /-- LOCK_SET (R250). A write of 1 to PKT_LOCK.LOCK_SET locks the binding table. -/
  | lockSet (mid : Mid)
  /-- WP_GO (R256). A write of 1 to WP_GO sends a word Pocket's word and rings its receiver's Button. -/
  | wpGo (mid : Mid) (w : Fin 16)
  /-- WP_TAKE (R256). A write of 1 to WP_TAKE takes the word and sends a take notice to the sender. -/
  | wpTake (mid : Mid) (w : Fin 16)
  /-- BTN_RING (R258). A BTN_RING write or BTN.RING request sets, merges or drops the Button of the receiver. -/
  | btnRing (src : BtnSrc)
  /-- BTN_WAIT (R260). BTN.WAIT takes pending Buttons in MASK, or waits with KIND 6. -/
  | btnWait (c : Core) (x : CtxId)
  /-- HBM_ACCESS (R267). An HBM controller performs a read or write of a granule in arrival order, with ECC and decryption. -/
  | hbmAccess (addr : Word) (op : MemOp) (ecc : Ecc)
  /-- HBM_TRAIN_DONE (R269). PHY training ends at 6.4 or 9.6 Gb/s per pin, setting PIN_RATE or logging HBM_TRAIN_FAIL. -/
  | hbmTrainDone (st : Stack) (full : Bool) (ok : Bool)
  /-- HBM_1500_GO (R270). A write of 1 to HBM_1500_CTL.GO starts an IEEE 1500 operation, or refuses it outside reduced service. -/
  | hbm1500Go (mid : Mid) (st : Stack) (ctl : Word)
  /-- HBM_1500_DONE (R270). An IEEE 1500 operation completes and sets DONE with the shifted-out bits. -/
  | hbm1500Done (st : Stack) (out : Word)
  /-- HBM_SCRUB_GRANULE (R274). The patrol scrub reads a granule and writes it back corrected, or reports it uncorrectable. -/
  | hbmScrubGranule (st : Stack) (addr : Word) (ecc : Ecc) (last : Bool)
  /-- HBM_TEMP_READING (R276). Every 1 ms the controller reads the stack temperature and updates the throttle limit. -/
  | hbmTempReading (st : Stack) (temp : Byte) (riseAllowed : Bool)
  /-- THROTTLE_WINDOW (R276). A 1 µs window of HEM_REFCNT ends and the admitted-byte budget renews. -/
  | throttleWindow (st : Stack)
  /-- SOFT_REPAIR (R279). HBM_REPAIR_CMD OP 1 starts soft post-package repair of the granule's row. -/
  | softRepair (mid : Mid) (st : Stack) (addr : Word)
  /-- SOFT_REPAIR_DONE (R279). The soft repair ends, writing the row back and releasing the bank. -/
  | softRepairDone (st : Stack) (resource : Bool)
  /-- SPARING_ENTRY (R280). HBM_REPAIR_CMD OP 2 copies a granule into a sparing entry and serves it from there. -/
  | sparingEntry (mid : Mid) (st : Stack) (addr : Word) (ecc : Ecc)
  /-- RETIRE_WRITE (R281). A write to the shared retire list retires a 2 MiB region for later accesses. -/
  | retireWrite (mid : Mid) (st : Stack) (e : Byte) (value : Word)
  /-- LLC_ACCESS (R287). An LLC slice serves an access, allocating and evicting by pseudo-LRU or serving scratchpad. -/
  | llcAccess (mid : Mid) (addr : Word) (op : MemOp) (ecc : LlcEcc)
  /-- LLC_WAY_MODE_WRITE (R286). A write to LLC_WAY_MODE starts the change of each way between cache and scratchpad, or is ignored while busy. -/
  | llcWayModeWrite (mid : Mid) (p : Panel) (value : BitVec 16)
  /-- WAY_CHANGE_DONE (R286). The way changes end and WAY_BUSY clears. -/
  | wayChangeDone (p : Panel)
  /-- FLUSH (R287). A write of 1 to LLC_CTL.FLUSH starts writing back every line dirty at that moment. -/
  | flush (mid : Mid) (p : Panel)
  /-- FLUSH_DONE (R287). The last flushed line is accepted and FLUSH_BUSY clears. -/
  | flushDone (p : Panel)
  /-- ARBITER_GRANT (R301). An arbiter decides the next grant among eligible inputs by priority and round-robin. -/
  | arbiterGrant (p : Panel) (x : Fin 4) (y : Fin 4) (out : Nat) (during : List FabIn)
  /-- ARB_COMMIT (R306). A write of 1 to ARB_COMMIT.GO copies the shadow priority table to the arbiters. -/
  | arbCommit (mid : Mid) (p : Panel)
  /-- ARB_COMMIT_DONE (R306). Every arbiter has taken the new table and BUSY clears. -/
  | arbCommitDone (p : Panel)
  /-- SEAM_CRC_REJECT (R297). A Seam receiver rejects a flit on CRC and the sender replays the group's flits. -/
  | seamCrcReject (n : Panel) (dirB : Bool) (g : Fin 8) (i : Fin 64)
  /-- SEAM_LANE_TEST_END (R297). After 10 µs the lane test replaces failing lanes with spares or retires the group. -/
  | seamLaneTestEnd (n : Panel) (dirB : Bool) (g : Fin 8) (failing : Nat)
  /-- ENABLE (R338). A write of LINK_CTL.ENABLE starts training of the port, or takes it DOWN when written 0. -/
  | enable (mid : Mid) (p : Port) (value : Bool)
  /-- RETRAIN (R340). A write of 1 to LINK_CTL.RETRAIN takes the port DOWN and retrains it while traffic moves to other ports. -/
  | retrain (mid : Mid) (p : Port)
  /-- LINK_TRAIN_DONE (R338). Seeded or full training ends, moving the port to ALIGNED or, after the third failure, to FAILED. -/
  | linkTrainDone (p : Port) (ok : Bool)
  /-- LINK_DOWN (R338). Loss of FEC lock or a remote fault takes a port DOWN and it trains again. -/
  | linkDown (p : Port) (remoteFault : Bool)
  /-- LLDP_CAPTURE (R343). An ALIGNED port in standard mode captures the first LLDP frame and sets LLDP_VALID. -/
  | lldpCapture (p : Port) (bytes : List Byte)
  /-- LINK_MAC_WRITE (R343). A write to LINK_MAC sets the port address, moving it to ADDRESSED and UP, or is ignored and sets MAC_IGN. -/
  | linkMacWrite (mid : Mid) (p : Port) (addr : BitVec 48)
  /-- HELLO (R343). A native-mode HELLO arrives; the port writes its address to LINK_MAC, echoes it and comes UP. -/
  | hello (p : Port) (addr : BitVec 48)
  /-- PFC_RECEIVED (R317). A PFC frame arrives and pauses CONTROL frames for its time, or is counted and ignored. -/
  | pfcReceived (p : Port) (classes : BitVec 8) (time : Nat)
  /-- PFC_PAUSE_END (R317). The pause time of a received PFC frame expires and CONTROL frames resume. -/
  | pfcPauseEnd (p : Port)
  /-- DATA_FRAME_RX (R330). A DATA frame passes the receive checks and is accepted into a slot, or dropped as duplicate or outside the window. -/
  | dataFrameRx (p : Port) (f : WFrame) (chk : RxCheck)
  /-- FRAME_WRITES_START (R326). The previous frame of the stream is accepted by its sinks and the next frame's WRITE or ENGINE operation starts. -/
  | frameWritesStart (src : RxStream)
  /-- ACK_FRAME_RX (R331). An ACK frame arrives; acknowledged frames leave the replay region and credits return. -/
  | ackFrameRx (p : Port) (f : WFrame) (chk : RxCheck)
  /-- NACK_FRAME_RX (R332). A NACK frame arrives and the sender retransmits the unacknowledged frames below its highest SACK bit. -/
  | nackFrameRx (p : Port) (f : WFrame) (chk : RxCheck)
  /-- KEEPALIVE_RX (R333). A KEEPALIVE arrives, counting as liveness and, with ATTR[0] set, asking for an ACK on the same port. -/
  | keepaliveRx (p : Port) (f : WFrame) (chk : RxCheck)
  /-- DATA_FRAME_TX (R328). A sender with a credit sends a DATA frame for the first time on a usable port with the next XSEQ. -/
  | dataFrameTx (e : Nat) (f : WFrame)
  /-- ACK_DELAY (R331). ACK_DELAY expires after an unacknowledged frame and the receiver sends an acknowledgement. -/
  | ackDelay (src : RxStream)
  /-- RETX_TIMEOUT (R332). The oldest unacknowledged frame of a stream waits RETX_TIMEOUT and is retransmitted. -/
  | retxTimeout (dst : TxStream)
  /-- PROBE_KEEPALIVE (R333). Every 1 ms a KEEPALIVE with ATTR[0] set probes a port marked not OK. -/
  | probeKeepalive (e : Nat) (p : Port)
  /-- LIVENESS_WINDOW (R341). A 10 µs window ends; a KEEPALIVE is sent or a miss counted, and a third miss makes the entry DEAD. -/
  | livenessWindow (e : Nat)
  /-- GROUP_FRAME_TX (R336). A root sends the next group frame once every attached leg has a credit and the replay region has room. -/
  | groupFrameTx (g : Nat) (f : WFrame)
  /-- LOAD (R344). PARTNER_CMD LOAD fills an invalid partner entry from the staging registers. -/
  | load (mid : Mid) (link : Panel) (e : Nat)
  /-- PARTNER_REDRAW (R345). PARTNER_CMD REDRAW sets the entry to AUDIT and waits for its started frame writes. -/
  | partnerRedraw (mid : Mid) (link : Panel) (e : Nat)
  /-- REMOVE (R345). PARTNER_CMD REMOVE sets the entry to AUDIT and waits for its started frame writes. -/
  | remove (mid : Mid) (link : Panel) (e : Nat)
  /-- CREDIT_AUDIT (R345). The entry's writes have completed; credits and slots are reclaimed and checked, and the entry is reloaded or invalidated. -/
  | creditAudit (e : Nat)
  /-- GROUP_VALID_WRITE (R349). A write of GRP_CFG.VALID enables a group and derives its key, or disables it. -/
  | groupValidWrite (mid : Mid) (g : Nat) (value : Word)
  /-- SELF_RANK_WRITE (R335). A write to LNK_SELF_RANK sets the rank and rank epoch and, on Panel 0, restarts the group XSEQ counters. -/
  | selfRankWrite (mid : Mid) (link : Panel) (value : Word)
  /-- COLL_COMMAND_TAKE (R351). A collective engine takes a command message when its queue has room and reads and checks the descriptor. -/
  | collCommandTake (p : Panel)
  /-- ALL_GATHER (R354). An ALL_GATHER starts and sends the own shard as group frames to the set. -/
  | allGather (p : Panel)
  /-- REDUCE_SCATTER (R354). A REDUCE_SCATTER starts, folds the local numerics words and sends chunks to their owners. -/
  | reduceScatter (p : Panel)
  /-- ALL_REDUCE (R354). An ALL_REDUCE starts a reduce-scatter whose owners then all-gather the converted sums. -/
  | allReduce (p : Panel)
  /-- COLL_FRAME_RX (R355). A collective ENGINE frame reaches the engine and is held for its fold or written. -/
  | collFrameRx (p : Panel)
  /-- COLL_FOLD (R356). An owner holds frame f from every member and folds it in W40 in position order, then converts and writes. -/
  | collFold (p : Panel) (collId : Nat) (frame : Nat)
  /-- COLL_COMMAND_COMPLETE (R351). A collective command's last write is accepted; tiles are marked FULL, a contribution is posted and DONE_BTN rung. -/
  | collCommandComplete (p : Panel)
  /-- CLOSING_PHASE (R370). Every earlier command has completed and every entry is UPDATED, so the closing phase folds and sends CLOSE1. -/
  | closingPhase
  /-- CLOSE1_MERGED (R370). All CLOSE1 words have arrived and merged, and CLOSE2 frames are sent to the holders of the shard index. -/
  | close1Merged
  /-- CLOSE2_MERGED (R370). All CLOSE2 words have merged into the fleet word, written to OPT_VOTE_WORD of the four optimizer engines. -/
  | close2Merged
  /-- OPT_UPDATE (R363). After a contribution is posted the optimizer engine updates each element of the entry into the shadow planes. -/
  | optUpdate (p : Panel) (k : Nat)
  /-- OPT_UPDATE_DONE (R367). The update has written every plane and the entry becomes UPDATED. -/
  | optUpdateDone (p : Panel) (k : Nat)
  /-- OPT_COMMIT (R371). With bit 63 clear and the snapshot complete, the engine toggles CUR_PLANE, copies resident shadows and increments NUM_STEP. -/
  | optCommit (p : Panel)
  /-- STEP_START (R373). Service processor 0 reads NUM_STEP, writes it to the collective engines and sends the step-start message. -/
  | stepStart
  /-- LOCAL_SLOT_SEALED (R379). A recovery engine finishes copying its regions and writes the slot header with SEALED set. -/
  | localSlotSealed (p : Panel)
  /-- MIRROR_HEADER_WRITE (R382). Every engine has sent its mirror part and the Panel 0 engine writes the sealed mirror header to the buddy. -/
  | mirrorHeaderWrite
  /-- SNAPSHOT (R392). REC_CMD SNAPSHOT starts a snapshot and mirror of the present state. -/
  | snapshot (mid : Mid)
  /-- RESTORE_MIRROR (R389). REC_CMD RESTORE_MIRROR pulls the buddy's mirror slot into the planes and resident tiles. -/
  | restoreMirror (mid : Mid)
  /-- RESTORE_REPLICA (R389). REC_CMD RESTORE_REPLICA pulls the state of a live holder of the same shard index. -/
  | restoreReplica (mid : Mid)
  /-- RESTORE_LOCAL (R392). REC_CMD RESTORE_LOCAL restores the snapshot regions from the module's own local slot. -/
  | restoreLocal (mid : Mid)
  /-- VERIFY (R391). REC_CMD VERIFY computes Dp and compares it with a replica or the mirror header. -/
  | verify (mid : Mid)
  /-- ABANDON (R386). REC_CMD ABANDON drops collective commands and lets started updates finish, completing when COLLECTIVE frames are acknowledged. -/
  | abandon (mid : Mid)
  /-- ADOPT (R392). REC_CMD ADOPT applies commit or discard as though OPT_VOTE_WORD held OUTCOME. -/
  | adopt (mid : Mid) (outcome : Bool)
  /-- ROLLBACK (R392). REC_CMD ROLLBACK toggles CUR_PLANE back, lowers NUM_STEP and restores the local slot of the previous step. -/
  | rollback (mid : Mid)
  /-- PURGE (R392). REC_CMD PURGE frees orphaned COLLECTIVE slots, returns ledgers to EXPECTED and sets resident tiles FULL. -/
  | purge (mid : Mid)
  /-- RESTORE_PULL_REQUEST (R389). A source recovery engine receives a pull request and answers with WRITE frames in the SNAPSHOT class. -/
  | restorePullRequest (p : Panel)
  /-- REC_COMMAND_COMPLETE (R392). A recovery command ends, writing RESULT and ringing DONE_BTN. -/
  | recCommandComplete
  /-- UNFREEZE (R404). The Mantle clears FROZEN of a master, releases its handshakes and reopens its queues. -/
  | unfreeze (w : Fin 8)
  /-- UNFREEZE_PARTNER (R404). The Mantle clears INGRESS_FROZEN of a partner entry. -/
  | unfreezePartner (w : Fin 8)
  /-- PORT_DISABLE (R406). The Mantle writes ENABLE 0 on the masked ports and locks it. -/
  | portDisable (w : Fin 8)
  /-- PORT_RELEASE (R406). The Mantle ends PORT_DISABLE on the masked ports. -/
  | portRelease (w : Fin 8)
  /-- LOG_CLEAR (R406). The Mantle clears VALID in every MNT_VIOL_LOG entry. -/
  | logClear (w : Fin 8)
  /-- BIND_UNLOCK (R250). The Mantle clears PKT_LOCK.LOCKED when every context is IDLE. -/
  | bindUnlock (w : Fin 8)
  /-- JOB_ARM (R399). The Mantle applies the owners and write windows of the last measured image's access section. -/
  | jobArm (w : Fin 8)
  /-- SESSION_OPEN (R411). The Mantle generates a session key pair and new memory keys and sets KEYLESS and CLOAK. -/
  | sessionOpen (w : Fin 8)
  /-- KEY_LOAD (R412). The Mantle unwraps the fleet link secret and image key from the request buffer blob. -/
  | keyLoad (w : Fin 8)
  /-- SESSION_END (R416). The Mantle sets SESSION to ENDING and rings Button 29 of the service processors to scrub. -/
  | sessionEnd (w : Fin 8)
  /-- SESSION_SCRUB (R416). A service processor resets its cores, zeroes core stores, LLC and replay region, and rings Mantle Button 8 + p. -/
  | sessionScrub (p : Panel)
  /-- SESSION_END_COMPLETE (R416). All four scrub Buttons are rung; the Mantle zeroises session keys, renews memory keys and sets SESSION to NONE. -/
  | sessionEndComplete
  /-- SCRUB_FAIL (R416). 100 ms pass without all scrub Buttons; the Mantle zeroises the keys and answers SCRUB_FAIL. -/
  | scrubFail
  /-- KEY_ROTATE (R418). The Mantle generates a new memory key into the free slot and starts the sweep. -/
  | keyRotate (w : Fin 8)
  /-- KEY_SWEEP_GRANULE (R418). A crypto engine re-encrypts one granule under the new key and advances the cursor, flipping finished regions. -/
  | keySweepGranule (p : Panel)
  /-- ATTEST (R422). The Mantle writes a signed session certificate, or defers while an update is pending. -/
  | attest (w : Fin 8)
  /-- RNG_HEALTH_FAIL (R407). An entropy health test fails; the source stops and RNG_FAIL is set. -/
  | rngHealthFail
  /-- FW_UPDATE (R455). The Mantle verifies a firmware or microcode image and writes it to the inactive slot. -/
  | fwUpdate (w : Fin 8)
  /-- FW_ACTIVATE (R455). At the drain point the new image is activated and measured and a deferred ATTEST is answered READY. -/
  | fwActivate
  /-- FW_START_TIMEOUT (R456). A new image does not start within 1 s; the Mantle returns to the previous slot and answers AUTH_FAIL. -/
  | fwStartTimeout
  /-- FW_ABORT (R455). FW_ABORT ends an update that has not yet activated. -/
  | fwAbort (w : Fin 8)
  /-- FUSE_DARN (R464). The Mantle burns a block's valid Darn entries into fuses during reduced service. -/
  | fuseDarn (w : Fin 8)
  /-- STANDBY_POWER_ON (R429). Standby power is present; PD_49 leaves reset, Mantle firmware is verified and keys are generated. -/
  | standbyPowerOn
  /-- STANDBY_POWER_LOSS (R488). The standby converter stops and the module starts cold with every pool at its initial value. -/
  | standbyPowerLoss
  /-- MAIN_POWER_GOOD (R488). The input holds 46.0 V for 10 ms and the Mantle switches on the fabric and service domains. -/
  | mainPowerGood
  /-- CP_TRAIN_DONE (R429). The control port comes UP, sends a HELLO, and the Mantle switches on the remaining domains and sets REDUCED_SERVICE. -/
  | cpTrainDone
  /-- REDUCED_SERVICE_EXIT (R432). Mantle Button 12 is rung and the Mantle clears REDUCED_SERVICE if every condition holds, or rings Button 30. -/
  | reducedServiceExit
  /-- INPUT_LOW (R489). The input stays below 45.0 V for 100 µs; PD_00 to PD_48 switch off and ALERT_N is asserted. -/
  | inputLow
  /-- RESET_N_ASSERT (R497). RESET_N stays low for the filter time; PD_00 to PD_48 are held in reset and PWR_GOOD falls. -/
  | resetNAssert
  /-- RESET_N_RELEASE (R430). RESET_N is released and the Mantle repeats the power-up sequence from step 4. -/
  | resetNRelease
  /-- PWR_REQ_OFF (R435). PWR_DOMAIN.REQ OFF switches a domain off, or is refused. -/
  | pwrReqOff (mid : Mid) (d : Fin 50)
  /-- PWR_REQ_RETENTION (R435). PWR_DOMAIN.REQ RETENTION puts a domain into retention, or is refused. -/
  | pwrReqRetention (mid : Mid) (d : Fin 50)
  /-- PWR_REQ_ON (R435). PWR_DOMAIN.REQ ON switches a domain on, or is refused. -/
  | pwrReqOn (mid : Mid) (d : Fin 50)
  /-- PWR_REQ_RESET (R435). PWR_DOMAIN.REQ 3 resets a domain and returns it to ON. -/
  | pwrReqReset (mid : Mid) (d : Fin 50)
  /-- PWR_TRANSITION_DONE (R435). A power-domain transition completes and BUSY clears. -/
  | pwrTransitionDone (d : Fin 50)
  /-- RATE_LOOP_TICK (R438). Every 1 ms island p measures a core's step rate and moves VCORE p by 5 mV toward the target. -/
  | rateLoopTick (p : Panel) (measured : Nat)
  /-- THERMAL_READING (R439). Every 100 µs island p reads its junction sensors and lowers or raises the rails. -/
  | thermalReading (p : Panel) (tj : Byte)
  /-- POWER_MEASUREMENT (R440). Every 100 µs island 0 measures input power and lowers VCORE while it exceeds the limit. -/
  | powerMeasurement (watts : Nat) (mJ : Nat)
  /-- CP_POCKET_WRITE (R443). A POCKET WRITE frame is accepted and its words are written to Pocket, word Pocket or Button registers. -/
  | cpPocketWrite (f : CpFrame) (crcOk : Bool)
  /-- CP_IMAGE_WRITE (R446). An IMAGE WRITE frame is written to staging, or dropped outside the staging region. -/
  | cpImageWrite (f : CpFrame) (crcOk : Bool)
  /-- CP_TELEMETRY_READ (R443). A TELEMETRY READ frame reads registers and answers with READ_DATA. -/
  | cpTelemetryRead (f : CpFrame) (crcOk : Bool)
  /-- CP_ACK_RX (R444). A control-port ACK arrives; acknowledged frames are freed, taken Pockets are written and CP_TELE_TAIL advances. -/
  | cpAckRx (f : CpFrame) (crcOk : Bool)
  /-- CP_HELLO_RX (R445). A control-port HELLO arrives and the streams continue or restart. -/
  | cpHelloRx (f : CpFrame) (crcOk : Bool)
  /-- CP_DELIVER (R446). The port's Button for an outgoing Pocket is rung and it sends the message as a DELIVER frame. -/
  | cpDeliver (k : Nat)
  /-- CP_REPORT (R446). The port sends telemetry ring bytes up to CP_TELE_HEAD as REPORT frames. -/
  | cpReport
  /-- CP_RETX_TIMEOUT (R444). The oldest unacknowledged control frame waits RETX_TIMEOUT and it and every later frame are resent. -/
  | cpRetxTimeout (cls : Fin 3)
  /-- CP_ACK_DELAY (R444). ACK_DELAY expires and the control port sends an acknowledgement. -/
  | cpAckDelay (cls : Fin 3)
  /-- FLASH_RECORD (R447). A record on Pocket 2 + p is appended to Mantle flash, or refused with ABORT_BTN when flash is full. -/
  | flashRecord (p : Panel)
  /-- IMAGE_LOAD (R451). The service firmware checks, verifies and decrypts a staged job image and has it measured. -/
  | imageLoad
  /-- RANK_ASSIGN (R452). The service firmware chooses the rank sections and writes the rank and rank epoch to the link blocks. -/
  | rankAssign
  /-- JOB_LOAD (R452). The service firmware applies the image sections and locks the binding table. -/
  | jobLoad
  /-- JOB_START (R448). The service firmware starts the named contexts and sends the first step-start. -/
  | jobStart
  /-- JOB_STOP (R386). The service firmware stops step-starts, resets the cores, disables Yoke slots and writes ABANDON. -/
  | jobStop
  /-- REC (R448). The service firmware writes a recovery command to the Panel 0 recovery engine and answers at its completion. -/
  | recv
  /-- REDRAW (R448). The service firmware stages the partner entry values and issues PARTNER_CMD REDRAW. -/
  | redraw
  /-- POWER (R448). The service firmware writes a power-domain request or a step-rate target. -/
  | powerCmd
  /-- TELEMETRY_CFG (R448). The service firmware sets the telemetry report period. -/
  | telemetryCfg
  /-- BIST_REQ (R457). A write to BIST_REQ queues a request record, or ends in a bus error when the queue is full. -/
  | bistReq (mid : Mid) (p : Panel) (addr : Word)
  /-- BIST_CHUNK (R458). The BIST engine holds, saves, tests and restores one 4 KiB chunk. -/
  | bistChunk (p : Panel) (fails : List Nat)
  /-- BIST_RESULT (R459). A BIST request ends and its result record is written and BUTTON rung. -/
  | bistResult (p : Panel)
  /-- DARN_WRITE (R460). A Darn entry written VALID copies the row to a spare and redirects later accesses, or is ignored. -/
  | darnWrite (mid : Mid) (page : Nat) (k : Nat) (value : Word)
  /-- SMB_STATUS (R500). The SMBus STATUS read returns the cause bits and may release ALERT_N. -/
  | smbStatus
  /-- REG_ADDR (R500). The SMBus REG_ADDR write sets the address for REG_READ. -/
  | regAddr (addr : Word)
  /-- REG_READ (R501). The SMBus REG_READ reads a power, HBM or Mantle register as master 0xF0, or answers refused. -/
  | regRead
  /-- POWER_LIMIT (R500). The SMBus POWER_LIMIT write sets PWR_MODULE.LIMIT_W. -/
  | powerLimit (watts : BitVec 16)
  /-- IMG_OFFSET (R502). The SMBus IMG_OFFSET write sets the image offset and clears IMG_FAIL. -/
  | imgOffset (off : BitVec 32)
  /-- IMG_DATA (R502). The SMBus IMG_DATA write stores 32 bytes of a Mantle image and advances the offset. -/
  | imgData (bytes : List Byte)
  /-- IMG_COMMIT (R502). The SMBus IMG_COMMIT verifies the image and restarts the Mantle from it, or sets IMG_FAIL. -/
  | imgCommit
  /-- DBG_ACCESS (R504). An Update of the DBG_ACCESS data register performs a 64-bit read or write as master 0x45. -/
  | dbgAccess (write : Bool) (addr : Word) (value : Word)
  /-- IDCODE (R503). The TAP instruction IDCODE selects the identification register. -/
  | idcode
  /-- BYPASS (R503). The TAP instruction BYPASS selects the bypass register. -/
  | bypass
  /-- SAMPLE_PRELOAD (R503). The TAP instruction SAMPLE/PRELOAD samples the boundary cells while the main domains are not ON. -/
  | samplePreload (pins : List Bool)
  /-- EXTEST (R503). The TAP instruction EXTEST drives the boundary cells while the main domains are not ON. -/
  | extest (cells : List Bool)
  /-- CP_LINK_DROP (R445). The control port link drops, its streams hold their unacknowledged frames, and they continue or restart at the next HELLO. -/
  | cpLinkDrop
  /-- SLEEP_INSTRUCTION (R255). A service processor executes its sleep instruction and becomes asleep, so that RECV_ASLEEP is set and only an enabled Button wakes it. -/
  | sleepInstruction (p : Panel)
  /-- VERIFY_DIGEST_REQUEST (R391). A replica holder's recovery engines receive a VERIFY request, compute Dp at the named step and return it, or answer PEER. -/
  | verifyDigestRequest
  deriving DecidableEq, Repr

end Sys2Proof
end

