-- ==== Sys2Proof/Decode.lean ====
section
/-! DEFINITION. The commands that words spell by the opcode table's bits. No row of the table gives bits: the module's commands are register
writes, frames and events, told apart by where they arrive. -/
namespace Sys2Proof

/-- The command a word spells by the bits of spec/opcode_table.json: none, since no row gives any. -/
def decodeTableWord (_nbits _w : Nat) : Option Instr := none

end Sys2Proof
end

