-- ==== Sys2Proof/Config.lean ====
section
/-! DEFINITION. What the spec leaves open: free values, each an opaque constant with no body, and in its docstring the entry of the assumption log. -/
namespace Sys2Proof.Config

/-- The pseudo-LRU victim among the cache ways of an LLC set, on the count of choices made (log entry 10). -/
opaque plruWay : (choice : Nat) → Nat

/-- SHA-512 of a byte list, as a number (log entry 8). -/
opaque sha512 : List (BitVec 8) → BitVec 512

/-- Does an ECDSA P-521 signature verify: key, signed bytes, signature (log entry 8). -/
opaque ecdsaOk : (key : List (BitVec 8)) → (msg : List (BitVec 8)) → (sig : List (BitVec 8)) → Bool

/-- The firmware public key in the mask ROM of island 0 (15_mantle_cloak.md R408), 133 bytes (log entry 8). -/
opaque fwKey : List (BitVec 8)

/-- AES-256-GCM decryption of an encrypted image section: none where the tag fails (log entry 8). -/
opaque gcmOpen : (key : Nat) → (nonce : List (BitVec 8)) → List (BitVec 8) → Option (List (BitVec 8))

/-- The fleet link secret and the image key of a KEY_LOAD blob, under the session key of draw `key` and session number `seq`: ECDH on P-521, HKDF and AES-256-GCM
(15_mantle_cloak.md R412); none where the tag fails (log entry 8). -/
opaque unwrapKeys : (key : Nat) → (seq : Nat) → (blob : List (BitVec 8)) → Option (BitVec 256 × BitVec 256)

/-- A signature of the attestation key over bytes (log entry 8). -/
opaque attestSign : (msg : List (BitVec 8)) → (drbg : Nat) → List (BitVec 8)

/-- A key or nonce drawn from the DRBG, on the count of draws (log entry 8). -/
opaque drbg : Nat → BitVec 512

/-- The public point of a private key, 133 bytes (log entry 8). -/
opaque publicPoint : BitVec 512 → List (BitVec 8)

/-- Speed-ring oscillations of a core in one idle step of the model, on the count of idle steps (02_handshake_time.md R42
gives bounds only), log entry 6. -/
opaque ringStep : (core : Nat) → (tick : Nat) → Nat

/-- The row a controller addresses for block `q` of a pseudo-channel: "a mapping of its own, which this manual does not give"
(10_hbm_llc.md R266), log entry 11. -/
opaque hbmRow : (q : Nat) → BitVec 16

/-- The choice of a bank for block `q` of a pseudo-channel, among those R266 admits (log entry 11). -/
opaque hbmBankChoice : (q : Nat) → BitVec 6

/-- The error that strikes memory in an idle step of the model, if any: the manual says what the module does with errors, not when they come
(log entry 102). -/
opaque strike : (tick : Nat) → Nat

/-- The replica delay of a core as its fuses hold it, in the unit of the margin monitor (16_bringup_service.md R431), log entry 4. -/
opaque fusedReplica : (core : Nat) → Nat

/-- The IEEE 1500 wrapper instruction of the temperature readout (10_hbm_llc.md R270 names it, the standard gives its code),
log entry 11. -/
opaque tempInstr : BitVec 8

/-- What the service firmware adds to the ingest cursor after a commit: the spec names the cursor and its advance, not the layout of the ring
(13_collectives_optimizer.md R373), on the step committed (log entry 79). -/
opaque ingestAdvance : (step : Nat) → BitVec 64

/-- The bytes of a report of the service firmware, whose format the spec does not give: kind and value, on the count of free values (log entry 111). -/
opaque reportBytes : (kind value count : Nat) → List (BitVec 8)

/-- The flits that the shared pool of a fabric buffer holds: of a router (16 * Panel + 4 * row + column), or of a final sink (64 and above): "each buffer also has
a shared pool" (11_onchip_fabric.md R309), whose size the spec does not give (log entry 122). -/
opaque fabPool : (place : Nat) → Nat

/-- A result the spec does not state, on a count of such results (log entry 12). -/
opaque freeValue : (w : Nat) → (count : Nat) → BitVec w

end Sys2Proof.Config
end

