-- ==== Sys2Proof/Machine/Tab.lean ====
section
/-! DEFINITION. Sparse tables in one canonical form: keys strictly rising, no entry equal to what an unlisted key reads as. -/
namespace Sys2Proof.Machine

/-- The value at key `k`; an unlisted key reads as `d k`. -/
def tabGet {α : Type} (d : Nat → α) : Tab α → Nat → α
  | [], k => d k
  | (k', v) :: m, k => if k' = k then v else tabGet d m k

/-- `m` without its entries at key `k`. -/
def tabDel {α : Type} : Tab α → Nat → Tab α
  | [], _ => []
  | (k', v) :: m, k => if k' = k then tabDel m k else (k', v) :: tabDel m k

/-- `m` with the entry `(k, v)` put before the first larger key. -/
def tabIns {α : Type} : Tab α → Nat → α → Tab α
  | [], k, v => [(k, v)]
  | (k', v') :: m, k, v => if k < k' then (k, v) :: (k', v') :: m else (k', v') :: tabIns m k v

/-- Write `v` at key `k`; writing the default removes the entry. -/
def tabSet {α : Type} [DecidableEq α] (d : Nat → α) (m : Tab α) (k : Nat) (v : α) : Tab α :=
  if v = d k then tabDel m k else tabIns (tabDel m k) k v

/-- The canonical form of a table with default `d`. -/
def tabWf {α : Type} [DecidableEq α] (d : Nat → α) : Tab α → Bool
  | [] => true
  | [(k, v)] => decide (v ≠ d k)
  | (k, v) :: (k', v') :: m => decide (v ≠ d k) && decide (k < k') && tabWf d ((k', v') :: m)

/-- Bits `[hi:lo]` of a bit vector, as a number. -/
def bits {w : Nat} (v : BitVec w) (hi lo : Nat) : Nat := (v.toNat >>> lo) % 2 ^ (hi + 1 - lo)

/-- Bit `i` of a bit vector. -/
def bitAt {w : Nat} (v : BitVec w) (i : Nat) : Bool := v.getLsbD i

/-- The word with ones in bits `[hi:lo]`. -/
def maskHL (hi lo : Nat) : Word := BitVec.ofNat 64 ((2 ^ (hi + 1 - lo) - 1) <<< lo)

/-- `v` with bits `[hi:lo]` set to the low bits of `n`. -/
def setBits (v : Word) (hi lo n : Nat) : Word :=
  (v &&& ~~~ maskHL hi lo) ||| (BitVec.ofNat 64 (n <<< lo) &&& maskHL hi lo)

/-- `v` with bit `i` set to `b`. -/
def setBit (v : Word) (i : Nat) (b : Bool) : Word := setBits v i i (if b then 1 else 0)

/-- 64-bit word of a number. -/
def w64 (n : Nat) : Word := BitVec.ofNat 64 n

/-- The unsigned number a list of little-endian bytes spells. -/
def bytesVal : List Byte → Nat
  | [] => 0
  | b :: bs => b.toNat + 256 * bytesVal bs

/-- The `n` little-endian bytes of a number. -/
def valBytes : Nat → Nat → List Byte
  | 0, _ => []
  | n + 1, v => BitVec.ofNat 8 (v % 256) :: valBytes n (v / 256)

/-- The signed reading of the low `w` bits of `n`. -/
def sext (w n : Nat) : Int := if n % 2 ^ w < 2 ^ (w - 1) then (n % 2 ^ w : Nat) else ((n % 2 ^ w : Nat) : Int) - 2 ^ w

/-- `n + i` modulo 2^64. -/
def addOff (n : Nat) (i : Int) : Nat := (((n : Int) + i) % (2 ^ 64 : Int)).toNat

/-- Lookup in a list by position with a default. -/
def nth {α : Type} (d : α) : List α → Nat → α
  | [], _ => d
  | a :: _, 0 => a
  | _ :: l, n + 1 => nth d l n

/-- Change the element at a position. -/
def modNth {α : Type} (f : α → α) : List α → Nat → List α
  | [], _ => []
  | a :: l, 0 => f a :: l
  | a :: l, n + 1 => a :: modNth f l n

end Sys2Proof.Machine
end

