-- ==== Sys2Proof/Machine/Num.lean ====
section
/-! DEFINITION. Number formats, rounding, conversion, the numerics word and the draws (04_numerics.md R87 to R118). -/
namespace Sys2Proof.Machine

/-- An exact value: NaN, a signed infinity, or (-1)^neg * m * 2^e. -/
inductive FVal
  | nan
  | inf (neg : Bool)
  | fin (neg : Bool) (m : Nat) (e : Int)
  deriving DecidableEq, Repr

/-- Format codes of 07_command_encoding.md R191. -/
inductive Fmt | fp32 | bf16 | fp16 | f8a | f8b | kb4 | w40 | u16 | u32 | stat
  deriving DecidableEq, Repr

/-- The format of a FMT code; codes 0xA to 0xF are reserved (R191). -/
def fmtOf : Nat → Option Fmt
  | 0 => some .fp32 | 1 => some .bf16 | 2 => some .fp16 | 3 => some .f8a | 4 => some .f8b | 5 => some .kb4
  | 6 => some .w40 | 7 => some .u16 | 8 => some .u32 | 9 => some .stat | _ => none

/-- Element size in half bytes (R191): KB4 elements are half a byte. -/
def Fmt.nibbles : Fmt → Nat
  | .fp32 => 8 | .bf16 => 4 | .fp16 => 4 | .f8a => 2 | .f8b => 2 | .kb4 => 1 | .w40 => 16 | .u16 => 4 | .u32 => 8 | .stat => 32

/-- Layout of a floating-point format (R87): exponent bits, fraction bits, bias, code of the maximum finite value and of
infinity and the canonical NaN (R90), all without the sign. -/
structure FloatLay where
  ebits : Nat
  fbits : Nat
  bias : Nat
  maxCode : Nat
  infCode : Nat
  nanCode : Nat
  deriving DecidableEq, Repr

/-- Table: Formats and Table: Canonical encodings of R87, R90. KB4 and the integer formats have none. -/
def Fmt.lay : Fmt → Option FloatLay
  | .f8a => some ⟨4, 3, 7, 0x7D, 0x7E, 0x7F⟩
  | .f8b => some ⟨5, 2, 15, 0x7B, 0x7C, 0x7E⟩
  | .bf16 => some ⟨8, 7, 127, 0x7F7F, 0x7F80, 0x7FC0⟩
  | .fp16 => some ⟨5, 10, 15, 0x7BFF, 0x7C00, 0x7E00⟩
  | .fp32 => some ⟨8, 23, 127, 0x7F7FFFFF, 0x7F800000, 0x7FC00000⟩
  | .w40 => some ⟨10, 29, 511, 0x7FDFFFFFFF, 0x7FE0000000, 0x7FF0000000⟩
  | _ => none

def layFp32 : FloatLay := ⟨8, 23, 127, 0x7F7FFFFF, 0x7F800000, 0x7FC00000⟩
def layW40 : FloatLay := ⟨10, 29, 511, 0x7FDFFFFFFF, 0x7FE0000000, 0x7FF0000000⟩

/-- The value a code of a floating-point format stands for (R88, R90). -/
def fDecode (l : FloatLay) (c : Nat) : FVal :=
  let neg := (c >>> (l.ebits + l.fbits)) % 2 == 1
  let mag := c % 2 ^ (l.ebits + l.fbits)
  if mag = l.infCode then .inf neg
  else if l.infCode < mag then .nan
  else
    let ex := mag / 2 ^ l.fbits
    let fr := mag % 2 ^ l.fbits
    if ex = 0 then .fin neg fr (1 - (l.bias : Int) - l.fbits)
    else .fin neg (2 ^ l.fbits + fr) ((ex : Int) - l.bias - l.fbits)

/-- Events of a rounding: overflows, non-finite values, underflow flushes (R92, R96, R104). -/
structure NumEv where
  ovf : Nat
  nonfin : Nat
  uflow : Nat
  deriving DecidableEq, Repr

def NumEv.zero : NumEv := ⟨0, 0, 0⟩
def NumEv.add (a b : NumEv) : NumEv := ⟨a.ovf + b.ovf, a.nonfin + b.nonfin, a.uflow + b.uflow⟩

/-- A rounding method: nearest even, or stochastic with its 16-bit draw (R97). -/
inductive Rnd | rne | sr (draw : Nat)
  deriving DecidableEq, Repr

/-- Does a remainder `rem` of a quantum `2^sh` above `lo` round up; `odd` is the parity of `lo` (R97). -/
def roundsUp (r : Rnd) (rem sh : Nat) (odd : Bool) : Bool :=
  match r with
  | .rne => decide (2 ^ sh < 2 * rem) || (decide (2 * rem = 2 ^ sh) && odd)
  | .sr d => decide (65536 ≤ rem * 65536 / 2 ^ sh + d)

/-- The magnitude code nearest by the rounding, with an unbounded exponent: `m * 2^e` in layout `l` (R97). -/
def magRound (l : FloatLay) (r : Rnd) (m : Nat) (e : Int) : Nat :=
  let top : Int := (m.log2 : Int) + e
  let emin : Int := 1 - (l.bias : Int)
  let ex : Int := if top < emin then emin else top
  let q : Int := ex - l.fbits
  let base := ((ex + l.bias - 1).toNat) * 2 ^ l.fbits
  if q ≤ e then base + m * 2 ^ (e - q).toNat
  else
    let sh := (q - e).toNat
    let n := m / 2 ^ sh
    base + n + (if m % 2 ^ sh ≠ 0 ∧ roundsUp r (m % 2 ^ sh) sh (n % 2 == 1) then 1 else 0)

/-- The sign bit of a layout. -/
def signCode (l : FloatLay) (neg : Bool) : Nat := if neg then 2 ^ (l.ebits + l.fbits) else 0

/-- Conversion to a floating-point format at a conversion point, with its counts (R104). -/
def fRound (l : FloatLay) (r : Rnd) : FVal → Nat × NumEv
  | .nan => (l.nanCode, ⟨0, 1, 0⟩)
  | .inf n => (signCode l n + l.infCode, ⟨0, 1, 0⟩)
  | .fin n m e =>
    if m = 0 then (signCode l n, .zero)
    else
      let c := magRound l r m e
      if l.maxCode < c then (signCode l n + l.infCode, ⟨1, 1, 0⟩)
      else if c = 0 then (signCode l n, ⟨0, 0, 1⟩)
      else (signCode l n + c, .zero)

/-- Exact product (R93, R95). -/
def FVal.mul : FVal → FVal → FVal
  | .nan, _ => .nan
  | _, .nan => .nan
  | .inf a, .inf b => .inf (a != b)
  | .inf a, .fin b m _ => if m = 0 then .nan else .inf (a != b)
  | .fin a m _, .inf b => if m = 0 then .nan else .inf (a != b)
  | .fin a m e, .fin b m' e' => .fin (a != b) (m * m') (e + e')

/-- Exact sum (R93, R95): an exact zero sum is +0 unless both terms are -0. -/
def FVal.add : FVal → FVal → FVal
  | .nan, _ => .nan
  | _, .nan => .nan
  | .inf a, .inf b => if a = b then .inf a else .nan
  | .inf a, .fin _ _ _ => .inf a
  | .fin _ _ _, .inf b => .inf b
  | .fin a m e, .fin b m' e' =>
    let q := min e e'
    let x : Int := (if a then -1 else 1) * ((m * 2 ^ (e - q).toNat : Nat) : Int)
    let y : Int := (if b then -1 else 1) * ((m' * 2 ^ (e' - q).toNat : Nat) : Int)
    if x + y = 0 then .fin (m = 0 && m' = 0 && a && b) 0 q
    else .fin (decide (x + y < 0)) (x + y).natAbs q

def FVal.neg : FVal → FVal
  | .nan => .nan
  | .inf a => .inf (!a)
  | .fin a m e => .fin (!a) m e

/-- Multiplication by 2^k. -/
def FVal.scale (k : Int) : FVal → FVal
  | .fin a m e => .fin a m (e + k)
  | v => v

def FVal.zero : FVal := .fin false 0 0
def FVal.one : FVal := .fin false 1 0
def FVal.ofNat (n : Nat) : FVal := .fin false n 0

def FVal.isFinite : FVal → Bool
  | .fin _ _ _ => true
  | _ => false

def FVal.isZero : FVal → Bool
  | .fin _ m _ => m == 0
  | _ => false

/-- Signed exact comparison of finite or infinite values; NaN compares false. -/
def FVal.lt : FVal → FVal → Bool
  | .nan, _ => false
  | _, .nan => false
  | .inf a, .inf b => a && !b
  | .inf a, .fin _ _ _ => a
  | .fin _ _ _, .inf b => !b
  | .fin a m e, .fin b m' e' =>
    let q := min e e'
    let x : Int := (if a then -1 else 1) * ((m * 2 ^ (e - q).toNat : Nat) : Int)
    let y : Int := (if b then -1 else 1) * ((m' * 2 ^ (e' - q).toNat : Nat) : Int)
    decide (x < y)

def FVal.eq : FVal → FVal → Bool
  | .nan, _ => false
  | _, .nan => false
  | x, y => !(FVal.lt x y) && !(FVal.lt y x)

/-- Maximum, NaN if either is NaN (R202). -/
def FVal.max (a b : FVal) : FVal :=
  match a, b with
  | .nan, _ => .nan
  | _, .nan => .nan
  | a, b => if FVal.lt a b then b else a

/-- Minimum, NaN if either is NaN (R202). -/
def FVal.min (a b : FVal) : FVal :=
  match a, b with
  | .nan, _ => .nan
  | _, .nan => .nan
  | a, b => if FVal.lt b a then b else a

/-- The FP32 code nearest to an exact value, RNE: the result of a vector operation (06_control_core.md R158). -/
def fp32 (v : FVal) : Nat := (fRound layFp32 .rne v).1

/-- An exact value rounded to FP32 with RNE (R158). -/
def r32 (v : FVal) : FVal := fDecode layFp32 (fp32 v)

/-- Quotient carried to 64 significant bits with a sticky bit, so that one RNE rounding to FP32 is exact. -/
def FVal.div : FVal → FVal → FVal
  | .nan, _ => .nan
  | _, .nan => .nan
  | .inf _, .inf _ => .nan
  | .inf a, .fin b _ _ => .inf (a != b)
  | .fin a _ _, .inf b => .fin (a != b) 0 0
  | .fin a m e, .fin b m' e' =>
    if m' = 0 then (if m = 0 then .nan else .inf (a != b))
    else
      let k := 64 + m'.log2
      let n := (m * 2 ^ k) / m'
      let rem := (m * 2 ^ k) % m'
      .fin (a != b) (2 * n + (if rem = 0 then 0 else 1)) (e - e' - k - 1)

/-- Integer square root by bisection with `fuel` halvings. -/
def isqrtGo : Nat → Nat → Nat → Nat → Nat
  | 0, lo, _, _ => lo
  | f + 1, lo, hi, n =>
    if hi ≤ lo + 1 then lo
    else
      let mid := (lo + hi) / 2
      if mid * mid ≤ n then isqrtGo f mid hi n else isqrtGo f lo mid n

def isqrt (n : Nat) : Nat := isqrtGo (n.log2 + 2) 0 (2 ^ (n.log2 / 2 + 1)) n

/-- Square root carried with a sticky bit (as `FVal.div`). -/
def FVal.sqrt : FVal → FVal
  | .nan => .nan
  | .inf a => if a then .nan else .inf false
  | .fin a m e =>
    if m = 0 then .fin a 0 0
    else if a then .nan
    else
      let k : Nat := 80 + (if (e - 80) % 2 = 0 then 0 else 1)
      let n := isqrt (m * 2 ^ k)
      let ex := n * n = m * 2 ^ k
      .fin false (2 * n + (if ex then 0 else 1)) ((e - k) / 2 - 1)

/-- Reciprocal square root: 1 / sqrt x with a sticky bit, on a wide square root. -/
def FVal.rsqrt : FVal → FVal
  | .nan => .nan
  | .inf a => if a then .nan else .fin false 0 0
  | .fin a m e =>
    if m = 0 then .inf a
    else if a then .nan
    else
      let k : Nat := 160 + 2 * m.log2 + (if (e + 160) % 2 = 0 then 0 else 1)
      let n := isqrt (2 ^ k / m)
      let ex := n * n * m = 2 ^ k
      .fin false (2 * n + (if ex then 0 else 1)) ((-(e + k)) / 2 - 1)

/-! KB4 blocks (R89, R91, R92). -/

/-- Magnitude codes in halves (Table: KB4 magnitude codes). -/
def kb4Half (c : Nat) : Nat := nth 12 [0, 1, 2, 3, 4, 6, 8, 12] c

/-- The value of a KB4 element code under a block scale (R89). -/
def kb4Decode (scale code : Nat) : FVal :=
  let neg := code / 8 % 2 == 1
  if scale = 0xFF then (if code % 8 = 7 then .inf neg else .nan)
  else .fin neg (kb4Half (code % 8)) ((scale : Int) - 128)

/-- Round `a * 2^(-b)` halves to a KB4 magnitude code (R91 step 4, R97). -/
def kb4Mag (r : Rnd) (a b : Nat) : Nat :=
  let rec go : List Nat → Nat
    | [] => 7
    | c :: cs =>
      let lo := kb4Half c * 2 ^ b
      let hi := kb4Half (c + 1) * 2 ^ b
      if a = lo then c
      else if a < hi then
        let w := hi - lo
        let up := match r with
          | .rne => decide (w < 2 * (a - lo)) || (decide (2 * (a - lo) = w) && c % 2 == 1)
          | .sr d => decide (65536 ≤ (a - lo) * 65536 / w + d)
        if up then c + 1 else c
      else go cs
  go [0, 1, 2, 3, 4, 5, 6]

/-- The scale byte of a block with largest magnitude `m * 2^e`, not zero: 127 + ceil(log2(amax / 6)), before clipping. -/
def kb4Scale (m : Nat) (e : Int) : Int :=
  127 + e + (m.log2 : Int) - 2 + (if 2 * m ≤ 3 * 2 ^ m.log2 then 0 else 1)

/-- Largest magnitude of finite values, as `(m, e)`. -/
def amaxGo : List FVal → Nat × Int → Nat × Int
  | [], a => a
  | .fin _ m e :: l, (am, ae) =>
    amaxGo l (if FVal.lt (.fin false am ae) (.fin false m e) then (m, e) else (am, ae))
  | _ :: l, a => amaxGo l a

def FVal.sign : FVal → Bool
  | .nan => false
  | .inf a => a
  | .fin a _ _ => a

/-- Convert a block of values, each with its rounding, to a scale byte and element codes with counts (R91, R92). -/
def kb4Block (vs : List (FVal × Rnd)) : Nat × List Nat × NumEv :=
  let xs := vs.map (fun p => p.1)
  if xs.any (fun v => !v.isFinite) then
    (0xFF, xs.map (fun v => match v with | .inf n => (if n then 15 else 7) | _ => 0), ⟨0, xs.length, 0⟩)
  else if xs.all FVal.isZero then (127, xs.map (fun v => if v.sign then 8 else 0), .zero)
  else
    let a := amaxGo xs (0, 0)
    let s := kb4Scale a.1 a.2
    if 254 < s then (0xFF, xs.map (fun v => if v.sign then 15 else 7), ⟨xs.length, xs.length, 0⟩)
    else
      let sc := s.toNat
      let code := fun (p : FVal × Rnd) => match p.1 with
        | .fin n m e =>
          let k : Int := e - ((sc : Int) - 127) + 1
          let c := if 0 ≤ k then kb4Mag p.2 (m * 2 ^ k.toNat) 0 else kb4Mag p.2 m (-k).toNat
          (if n then 8 else 0) + c
        | _ => 0
      let cs := vs.map code
      let fl := (List.zip xs cs).countP (fun p => !p.1.isZero && p.2 % 8 == 0)
      (sc, cs, ⟨0, 0, fl⟩)

/-! Accumulation (R93 to R96). -/

/-- One accumulator rounding of an exact sum to W40: new code and events; a non-finite value counts on the passage from
finite to non-finite only (R96). -/
def accRound (r : Rnd) (old : Nat) (x : FVal) : Nat × NumEv :=
  let p := fRound layW40 r x
  let was := (fDecode layW40 old).isFinite
  let isf := (fDecode layW40 p.1).isFinite
  (p.1, ⟨p.2.ovf, if was && !isf then 1 else 0, p.2.uflow⟩)

/-! The numerics word (R111, R112). -/

/-- Merge of two numerics words (R112). -/
def nwMerge (a b : Word) : Word :=
  w64 (min (bits a 15 0 + bits b 15 0) 0xFFFF
    + min (bits a 31 16 + bits b 31 16) 0xFFFF * 2 ^ 16
    + min (bits a 47 32 + bits b 47 32) 0xFFFF * 2 ^ 32
    + min (bits a 55 48 + bits b 55 48) 0xFF * 2 ^ 48
    + max (bits a 63 63) (bits b 63 63) * 2 ^ 63)

/-- The numerics word of counted events and scaled retries (R111). -/
def nwOf (e : NumEv) (retries : Nat) : Word :=
  w64 (min e.ovf 0xFFFF + min e.nonfin 0xFFFF * 2 ^ 16 + min e.uflow 0xFFFF * 2 ^ 32 + min retries 0xFF * 2 ^ 48
    + (if e.nonfin = 0 then 0 else 2 ^ 63))

/-! Draws (R99): Philox-4x32 with 10 rounds. -/

/-- Ten-round Philox: `n` rounds left, key words, counter words; output word 0. -/
def philoxGo : Nat → Nat → Nat → Nat → Nat → Nat → Nat → Nat
  | 0, _, _, c0, _, _, _ => c0
  | n + 1, k0, k1, c0, c1, c2, c3 =>
    let p0 := 0xD2511F53 * c0
    let p1 := 0xCD9E8D57 * c2
    philoxGo n ((k0 + 0x9E3779B9) % 2 ^ 32) ((k1 + 0xBB67AE85) % 2 ^ 32)
      (Nat.xor (Nat.xor (p1 / 2 ^ 32) c1) k0) (p1 % 2 ^ 32)
      (Nat.xor (Nat.xor (p0 / 2 ^ 32) c3) k1) (p0 % 2 ^ 32)

/-- What a command latches for its draws (R99). -/
structure DrawKey where
  step : Nat
  seed : Nat
  shard : Nat
  tag : Nat
  ctx : Nat
  seq : Nat
  deriving DecidableEq, Repr

/-- The 16-bit draw of a site at its coordinates (R99, R100). A tile row above 255 does not fit the 8-bit row field, and the spec does not say what a draw takes there:
its low 8 bits (DESIGN CHOICE, log entry 112). -/
def draw (k : DrawKey) (site row col index : Nat) : Nat :=
  philoxGo 10 (k.seed % 2 ^ 32) (Nat.xor (k.seed / 2 ^ 32 % 2 ^ 32) ((k.shard % 4096) * 2 ^ 20 % 2 ^ 32))
    (k.step % 2 ^ 32)
    ((row % 256) * 2 ^ 24 + (col % 32) * 2 ^ 19 + site * 2 ^ 16 + k.step / 2 ^ 32 % 2 ^ 16)
    (k.tag * 2 ^ 16 + k.ctx * 2 ^ 13 + k.seq % 8192)
    (index % 2 ^ 32) % 65536

end Sys2Proof.Machine
end

