-- ==== Sys2Proof/Machine/RegMap.lean ====
section
/-! DEFINITION. The register pages: page classes, owners, domains and field tables (17_register_pages.md R470 to R484, and the
field tables of every chapter). -/
namespace Sys2Proof.Machine

/-- Access codes of 00_scope.md R9. -/
inductive Acc | ro | rw | wo | w1c | rc | mw
  deriving DecidableEq, Repr

/-- One field: bits `[hi:lo]`, its access code and its reset value. -/
structure Fld where
  hi : Nat
  lo : Nat
  acc : Acc
  rst : Nat
  deriving DecidableEq, Repr

/-- `count` registers `stride` bytes apart from offset `lo`, with the same fields. -/
structure RegRow where
  lo : Nat
  stride : Nat
  count : Nat
  flds : List Fld
  deriving DecidableEq, Repr

/-- What a page holds, with the instance it belongs to (17_register_pages.md R474). -/
inductive PageKind
  | core (c : Nat) | ctx (c x : Nat) | hem (h : Nat) | tagpool (p : Nat) | yoke | yokeSlots (k : Nat)
  | pocket (k : Nat) | wordPocket (w : Nat) | binding (b : Nat) | button (mid : Nat) | hbm (s : Nat) | llc (p : Nat)
  | fabric (p : Nat) | seam (n : Nat) | port (p : Nat) | link (p : Nat) | partner (k : Nat) | group (k : Nat)
  | leg (k : Nat) | coll (p : Nat) | collMember (p k : Nat) | opt (p : Nat) | optShard (p k : Nat) | recov (p : Nat)
  | mantle (p : Nat) | mantleReq | mantleCert | crypto (p : Nat) | power (p : Nat) | ctlport | bist (p : Nat)
  | service (p : Nat)
  deriving DecidableEq, Repr

/-! Register offsets by the manual's register names; an array is named by its first offset. -/
abbrev R_BLK_ID : Nat := 0x0
abbrev R_BLK_CAP : Nat := 0x8
abbrev R_BLK_CTL : Nat := 0x10
abbrev R_BLK_STAT : Nat := 0x18
abbrev R_BLK_EVT : Nat := 0x20
abbrev R_BLK_EVT_MASK : Nat := 0x28
abbrev R_BLK_ERR_LOG : Nat := 0x30
abbrev R_BLK_ERR_ADDR : Nat := 0x38
abbrev R_BLK_SHADOW_COMMIT : Nat := 0x40
abbrev R_BLK_OWNER : Nat := 0x48
abbrev R_BLK_POWER : Nat := 0x50
abbrev R_BLK_ERR_CNT : Nat := 0x58
abbrev R_BLK_CLIP_CNT : Nat := 0x60
abbrev R_BLK_FREEZE_CNT : Nat := 0x68
abbrev R_BLK_DEGRADE_CNT : Nat := 0x70
abbrev R_BLK_RD_CNT : Nat := 0x78
abbrev R_BLK_WR_CNT : Nat := 0x80
abbrev R_BLK_VIOL_CNT : Nat := 0x88
abbrev R_HEM_REFCNT : Nat := 0x100
abbrev R_HEM_XING_STAT : Nat := 0x108
abbrev R_HEM_OVERRUN_CNT : Nat := 0x110
abbrev R_HEM_RESYNC_CNT : Nat := 0x118
abbrev R_OPE_POS_MAP : Nat := 0x200
abbrev R_OPE_STATUS : Nat := 0x208
abbrev R_OPE_STEP_CNT : Nat := 0x210
abbrev R_OPE_CELL_UPD_CNT : Nat := 0x218
abbrev R_OPE_IDLE_CNT : Nat := 0x220
abbrev R_OPE_STALL_A_CNT : Nat := 0x228
abbrev R_OPE_STALL_B_CNT : Nat := 0x230
abbrev R_OPE_STALL_DRAIN_CNT : Nat := 0x238
abbrev R_OPE_PARITY_CNT : Nat := 0x240
abbrev R_OPE_ERR_LOC : Nat := 0x248
abbrev R_DL_RING_CNT : Nat := 0x300
abbrev R_DL_STATUS : Nat := 0x308
abbrev R_DL_CTL : Nat := 0x310
abbrev R_NUM_WORD_LOCAL : Nat := 0x380
abbrev R_NUM_CTL : Nat := 0x388
abbrev R_NUM_STEP : Nat := 0x390
abbrev R_NUM_SEED : Nat := 0x398
abbrev R_NUM_SHARD : Nat := 0x3A0
abbrev R_NUM_OVF_CNT : Nat := 0x3A8
abbrev R_NUM_NONFINITE_CNT : Nat := 0x3B0
abbrev R_NUM_UFLOW_CNT : Nat := 0x3B8
abbrev R_NUM_RETRY_CNT : Nat := 0x3C0
abbrev R_NUM_RETRY_FAIL_CNT : Nat := 0x3C8
abbrev R_NUM_SR_FAIL_CNT : Nat := 0x3D0
abbrev R_CC_STATUS : Nat := 0x400
abbrev R_CC_CTL : Nat := 0x408
abbrev R_CC_ISSUE_CNT : Nat := 0x410
abbrev R_CC_EXEC_CNT : Nat := 0x418
abbrev R_CC_SKIP_CNT : Nat := 0x420
abbrev R_CC_STALL_QUEUE_CNT : Nat := 0x428
abbrev R_CC_IDLE_CNT : Nat := 0x430
abbrev R_VEC_OOO_CNT : Nat := 0x438
abbrev R_VEC_DRAW_BORROW_CNT : Nat := 0x440
abbrev R_TASK_LOG_USED : Nat := 0x448
abbrev R_TASK_COMMIT_CNT : Nat := 0x450
abbrev R_TASK_DISCARD_CNT : Nat := 0x458
abbrev R_TASK_LOG_STALL_CNT : Nat := 0x460
abbrev R_IDX_ROWS_CNT : Nat := 0x468
abbrev R_IDX_SKIP_CNT : Nat := 0x470
abbrev R_IDX_OOR_CNT : Nat := 0x478
abbrev R_CS_STATUS : Nat := 0x500
abbrev R_FB_CMD : Nat := 0x508
abbrev R_CS_CE_CNT : Nat := 0x510
abbrev R_CS_UE_CNT : Nat := 0x518
abbrev R_CS_BANK_WAIT_CNT : Nat := 0x520
abbrev R_STR_REQ_CNT : Nat := 0x528
abbrev R_STR_LAT_SUM : Nat := 0x530
abbrev R_STR_BYTES_CNT : Nat := 0x538
abbrev R_CAP_HIT_CNT : Nat := 0x540
abbrev R_PF_USED_CNT : Nat := 0x548
abbrev R_PF_UNUSED_CNT : Nat := 0x550
abbrev R_PF_LATE_CNT : Nat := 0x558
abbrev R_PF_EARLY_EVICT_CNT : Nat := 0x560
abbrev R_STALE_PREFETCH_CNT : Nat := 0x568
abbrev R_GATHER_GRAN_CNT : Nat := 0x570
abbrev R_STR_EOS_CNT : Nat := 0x578
abbrev R_STR_TAG_WAIT_CNT : Nat := 0x580
abbrev R_SYNC_WAIT : Nat := 0x600
abbrev R_FE_OP_CNT : Nat := 0x640
abbrev R_FE_WAIT_CNT : Nat := 0x648
abbrev R_SPURIOUS_WAKE_CNT : Nat := 0x650
abbrev R_BAR_ARRIVE_CNT : Nat := 0x658
abbrev R_BAR_OVERRUN_CNT : Nat := 0x660
abbrev R_PKT_SEND_CNT : Nat := 0x668
abbrev R_PKT_REJECT_CNT : Nat := 0x670
abbrev R_PKT_RECV_CNT : Nat := 0x678
abbrev R_DARN_STATUS : Nat := 0x700
abbrev R_DARN_REMAP_CNT : Nat := 0x708
abbrev R_SEG_RETIRE_CNT : Nat := 0x710
abbrev R_SEG_RETIRED : Nat := 0x740
abbrev R_DARN : Nat := 0x800
abbrev R_FB_STATE : Nat := 0xC00
abbrev R_S : Nat := 0x100
abbrev R_A_BASE : Nat := 0x300
abbrev R_A_INC : Nat := 0x308
abbrev R_CTX_PRED : Nat := 0x400
abbrev R_CTX_PC : Nat := 0x408
abbrev R_CTX_CTL : Nat := 0x410
abbrev R_CTX_STATUS : Nat := 0x418
abbrev R_CTX_CMD_CNT : Nat := 0x420
abbrev R_CTX_SEQ : Nat := 0x428
abbrev R_LOOP_PC : Nat := 0x440
abbrev R_LOOP_COUNT : Nat := 0x448
abbrev R_LOOP_ITER : Nat := 0x450
abbrev R_TASK_STATUS : Nat := 0x4A0
abbrev R_BP_CTL : Nat := 0x4B0
abbrev R_BP_CMD_COUNT : Nat := 0x4B8
abbrev R_BP_TAG : Nat := 0x4C0
abbrev R_CTX_ERR_INFO : Nat := 0x4C8
abbrev R_POOL_STATUS : Nat := 0x100
abbrev R_POOL_DCLASS_BIAS : Nat := 0x108
abbrev R_POOL_GRANT_CNT : Nat := 0x110
abbrev R_POOL_EXHAUST_CNT : Nat := 0x118
abbrev R_WATCH_BASE : Nat := 0x200
abbrev R_WATCH_LIMIT : Nat := 0x208
abbrev R_WATCH_VER : Nat := 0x210
abbrev R_YOKE_STATUS : Nat := 0x100
abbrev R_YOKE_RELEASE_CNT : Nat := 0x108
abbrev R_YOKE_WAKE_CNT : Nat := 0x110
abbrev R_YOKE_OVERRUN_CNT : Nat := 0x118
abbrev R_YOKE_DISCARD_CNT : Nat := 0x120
abbrev R_SLOT_MASK0 : Nat := 0x100
abbrev R_SLOT_MASK1 : Nat := 0x108
abbrev R_SLOT_MASK2 : Nat := 0x110
abbrev R_SLOT_MASK3 : Nat := 0x118
abbrev R_SLOT_CTL : Nat := 0x120
abbrev R_SLOT_STATE : Nat := 0x128
abbrev R_SLOT_RELEASE_CNT : Nat := 0x130
abbrev R_SLOT_OVERRUN_CNT : Nat := 0x138
abbrev R_PKT_MSG : Nat := 0x100
abbrev R_PKT_GO : Nat := 0x180
abbrev R_PKT_TAKE : Nat := 0x188
abbrev R_PKT_STATUS : Nat := 0x190
abbrev R_PKT_SENT_CNT : Nat := 0x198
abbrev R_PKT_ABORT_CNT : Nat := 0x1A0
abbrev R_WP_WORD : Nat := 0x100
abbrev R_WP_GO : Nat := 0x108
abbrev R_WP_TAKE : Nat := 0x110
abbrev R_WP_STATUS : Nat := 0x118
abbrev R_PKT_LOCK : Nat := 0x100
abbrev R_PKT_CLEAR : Nat := 0x108
abbrev R_PKT_BIND : Nat := 0x200
abbrev R_BTN_PEND : Nat := 0x100
abbrev R_BTN_MASK : Nat := 0x108
abbrev R_BTN_RING : Nat := 0x110
abbrev R_BTN_RING_CNT : Nat := 0x118
abbrev R_BTN_MERGE_CNT : Nat := 0x120
abbrev R_BTN_DROP_CNT : Nat := 0x128
abbrev R_HBM_STATUS : Nat := 0x100
abbrev R_HBM_CTL : Nat := 0x108
abbrev R_HBM_TEMP : Nat := 0x110
abbrev R_HBM_THR_CFG : Nat := 0x118
abbrev R_HBM_REPAIR_CMD : Nat := 0x120
abbrev R_HBM_REPAIR_STAT : Nat := 0x128
abbrev R_HBM_ERR_INFO : Nat := 0x130
abbrev R_HBM_SCRUB_CFG : Nat := 0x138
abbrev R_HBM_CE_CNT : Nat := 0x140
abbrev R_HBM_UE_CNT : Nat := 0x148
abbrev R_HBM_RD_BYTES_CNT : Nat := 0x150
abbrev R_HBM_WR_BYTES_CNT : Nat := 0x158
abbrev R_HBM_THROTTLE_CNT : Nat := 0x160
abbrev R_HBM_CLIP_CNT : Nat := 0x168
abbrev R_HBM_PPR_CNT : Nat := 0x170
abbrev R_HBM_SPARE_CNT : Nat := 0x178
abbrev R_HBM_RETIRED_HIT_CNT : Nat := 0x180
abbrev R_HBM_SPARE_USED : Nat := 0x200
abbrev R_HBM_1500_CTL : Nat := 0x300
abbrev R_HBM_1500_DATA : Nat := 0x308
abbrev R_HBM_RETIRE : Nat := 0x800
abbrev R_LLC_STATUS : Nat := 0x100
abbrev R_LLC_WAY_MODE : Nat := 0x108
abbrev R_LLC_CTL : Nat := 0x110
abbrev R_LLC_HIT_CNT : Nat := 0x118
abbrev R_LLC_MISS_CNT : Nat := 0x120
abbrev R_LLC_WB_CNT : Nat := 0x128
abbrev R_LLC_CE_CNT : Nat := 0x130
abbrev R_LLC_UE_CNT : Nat := 0x138
abbrev R_LLC_SEG_RETIRED : Nat := 0x780
abbrev R_LLC_DARN : Nat := 0x800
abbrev R_FAB_STATUS : Nat := 0x100
abbrev R_ARB_PRIO_SHADOW : Nat := 0x108
abbrev R_ARB_PRIO_ACTIVE : Nat := 0x110
abbrev R_ARB_COMMIT : Nat := 0x118
abbrev R_FAB_FLIT_CNT : Nat := 0x120
abbrev R_ARB_GRANT_CNT : Nat := 0x128
abbrev R_ARB_PARKED_CNT : Nat := 0x130
abbrev R_ARB_DEAD_ROUND_CNT : Nat := 0x138
abbrev R_ARB_STALE_CNT : Nat := 0x140
abbrev R_FAB_RESERVE_CNT : Nat := 0x148
abbrev R_FAB_HBM_OFF_CNT : Nat := 0x150
abbrev R_SEAM_STATUS : Nat := 0x100
abbrev R_SEAM_GROUPS : Nat := 0x108
abbrev R_SEAM_FLIT_A_CNT : Nat := 0x110
abbrev R_SEAM_FLIT_B_CNT : Nat := 0x118
abbrev R_SEAM_CRC_CNT : Nat := 0x120
abbrev R_SEAM_REPLAY_CNT : Nat := 0x128
abbrev R_SEAM_LANE_TEST_CNT : Nat := 0x130
abbrev R_SEAM_GROUP_RETIRE_CNT : Nat := 0x138
abbrev R_LINK_STATUS : Nat := 0x100
abbrev R_LINK_CTL : Nat := 0x108
abbrev R_LINK_MAC : Nat := 0x110
abbrev R_LINK_QTAG : Nat := 0x118
abbrev R_LINK_TX_FRAME_CNT : Nat := 0x120
abbrev R_LINK_RX_FRAME_CNT : Nat := 0x128
abbrev R_LINK_FEC_CORR_CNT : Nat := 0x130
abbrev R_LINK_FEC_UNCORR_CNT : Nat := 0x138
abbrev R_LINK_RX_DROP_CNT : Nat := 0x140
abbrev R_LINK_PFC_RX_CNT : Nat := 0x148
abbrev R_LINK_PFC_IGN_CNT : Nat := 0x150
abbrev R_LINK_TRAIN_CNT : Nat := 0x158
abbrev R_LINK_LLDP_BUF : Nat := 0x800
abbrev R_LNK_STATUS : Nat := 0x100
abbrev R_LNK_CFG : Nat := 0x108
abbrev R_LNK_TX_WEIGHT : Nat := 0x110
abbrev R_LNK_REPLAY_BASE : Nat := 0x118
abbrev R_LNK_REPLAY_SIZE : Nat := 0x120
abbrev R_LNK_SELF_RANK : Nat := 0x128
abbrev R_LNK_STAGE_CFG0 : Nat := 0x130
abbrev R_LNK_STAGE_CFG1 : Nat := 0x138
abbrev R_PARTNER_CMD : Nat := 0x140
abbrev R_PARTNER_CMD_STAT : Nat := 0x148
abbrev R_LNK_AUDIT_TX : Nat := 0x150
abbrev R_LNK_AUDIT_RX : Nat := 0x158
abbrev R_LNK_GRP_XSEQ : Nat := 0x160
abbrev R_LNK_RETX_CNT : Nat := 0x180
abbrev R_LNK_TIMEOUT_CNT : Nat := 0x188
abbrev R_LNK_NACK_CNT : Nat := 0x190
abbrev R_LNK_GCM_FAIL_CNT : Nat := 0x198
abbrev R_LNK_STALE_EPOCH_CNT : Nat := 0x1A0
abbrev R_LNK_SEQ_WINDOW_CNT : Nat := 0x1A8
abbrev R_LNK_DUP_CNT : Nat := 0x1B0
abbrev R_LNK_UNKNOWN_CNT : Nat := 0x1B8
abbrev R_LNK_BUS_ERR_CNT : Nat := 0x1C0
abbrev R_LNK_FROZEN_DROP_CNT : Nat := 0x1C8
abbrev R_LNK_KEEPALIVE_MISS_CNT : Nat := 0x1D0
abbrev R_LNK_DEAD_CNT : Nat := 0x1D8
abbrev R_LNK_AUDIT_CNT : Nat := 0x1E0
abbrev R_DETACHED_LEGS_CNT : Nat := 0x1E8
abbrev R_LNK_REATTACH_CNT : Nat := 0x1F0
abbrev R_LNK_CRED_RTT_SUM : Nat := 0x1F8
abbrev R_LNK_CRED_RTT_CNT : Nat := 0x200
abbrev R_PTR_CFG0 : Nat := 0x800
abbrev R_PTR_CFG1 : Nat := 0x808
abbrev R_PTR_STATE : Nat := 0x810
abbrev R_PTR_TX_SEQ0 : Nat := 0x818
abbrev R_PTR_TX_SEQ1 : Nat := 0x820
abbrev R_PTR_TX_SEQ2 : Nat := 0x828
abbrev R_PTR_TX_SEQ3 : Nat := 0x830
abbrev R_PTR_RX_SEQ0 : Nat := 0x838
abbrev R_PTR_RX_SEQ1 : Nat := 0x840
abbrev R_PTR_RX_SEQ2 : Nat := 0x848
abbrev R_PTR_RX_SEQ3 : Nat := 0x850
abbrev R_GRP_CFG : Nat := 0x800
abbrev R_GRP_ADDR : Nat := 0x808
abbrev R_GRP_SEQ : Nat := 0x810
abbrev R_GRP_STATE : Nat := 0x818
abbrev R_Leg_entry : Nat := 0x800
abbrev R_COLL_STATUS : Nat := 0x100
abbrev R_COLL_CLOSE_CFG : Nat := 0x108
abbrev R_COLL_STEP_WORD : Nat := 0x110
abbrev R_COLL_LAST_WORD : Nat := 0x118
abbrev R_COLL_ERR : Nat := 0x120
abbrev R_COLL_CMD_CNT : Nat := 0x128
abbrev R_COLL_TX_BYTES_CNT : Nat := 0x130
abbrev R_COLL_RX_BYTES_CNT : Nat := 0x138
abbrev R_COLL_FOLD_HOLD_CNT : Nat := 0x140
abbrev R_COLL_CLOSE_CNT : Nat := 0x148
abbrev R_COLL_REFUSE_CNT : Nat := 0x150
abbrev R_COLL_SET : Nat := 0x800
abbrev R_Member_entry : Nat := 0x800
abbrev R_OPT_STATUS : Nat := 0x100
abbrev R_OPT_LOSS : Nat := 0x108
abbrev R_OPT_VOTE_WORD : Nat := 0x110
abbrev R_OPT_CFG : Nat := 0x118
abbrev R_OPT_ELEM_CNT : Nat := 0x120
abbrev R_OPT_COMMIT_CNT : Nat := 0x128
abbrev R_OPT_DISCARD_CNT : Nat := 0x130
abbrev R_OPT_LEDGER_DUP_CNT : Nat := 0x138
abbrev R_OPT_SNAP_WAIT_CNT : Nat := 0x140
abbrev R_OPT_LS_CHANGE_CNT : Nat := 0x148
abbrev R_OPT_SET_STAGE_word_0 : Nat := 0x800
abbrev R_OPT_SET_STAGE_word_1 : Nat := 0x808
abbrev R_OPT_SET_STAGE_word_2 : Nat := 0x810
abbrev R_OPT_SET_STAGE_word_3 : Nat := 0x818
abbrev R_OPT_SET_ACTIVE_word_0 : Nat := 0x820
abbrev R_OPT_SET_ACTIVE_word_1 : Nat := 0x828
abbrev R_OPT_SET_ACTIVE_word_2 : Nat := 0x830
abbrev R_OPT_SET_ACTIVE_word_3 : Nat := 0x838
abbrev R_SH_CFG : Nat := 0x800
abbrev R_SH_STATE_BASE : Nat := 0x808
abbrev R_SH_GRAD : Nat := 0x810
abbrev R_SH_RES_DESC : Nat := 0x818
abbrev R_SH_LAST_STEP : Nat := 0x820
abbrev R_REC_STATUS : Nat := 0x100
abbrev R_REC_CFG : Nat := 0x108
abbrev R_REC_CMD : Nat := 0x110
abbrev R_REC_CMD_STAT : Nat := 0x118
abbrev R_REC_ARG0 : Nat := 0x120
abbrev R_REC_ARG1 : Nat := 0x128
abbrev R_REC_SNAP_BASE : Nat := 0x130
abbrev R_REC_SNAP_SLOT : Nat := 0x138
abbrev R_REC_MIR_SLOT : Nat := 0x148
abbrev R_REC_MIR_PART : Nat := 0x150
abbrev R_REC_MIR_BASE : Nat := 0x140
abbrev R_REC_INGEST : Nat := 0x158
abbrev R_REC_VOTE_STEP : Nat := 0x160
abbrev R_REC_DIGEST : Nat := 0x180
abbrev R_REC_SNAP_CNT : Nat := 0x1C0
abbrev R_REC_MIRROR_CNT : Nat := 0x1C8
abbrev R_REC_MIRROR_BYTES_CNT : Nat := 0x1D0
abbrev R_REC_RESTORE_CNT : Nat := 0x1D8
abbrev R_REC_VERIFY_FAIL_CNT : Nat := 0x1E0
abbrev R_REC_POISON_CNT : Nat := 0x1E8
abbrev R_REC_SNAP_REGION_BASE : Nat := 0x800
abbrev R_REC_SNAP_REGION_SIZE : Nat := 0x808
abbrev R_MNT_STATUS : Nat := 0x100
abbrev R_MNT_SESSION_SEQ : Nat := 0x108
abbrev R_MNT_LOT_CLASS : Nat := 0x110
abbrev R_MNT_VIOL_NEXT : Nat := 0x118
abbrev R_MNT_VIOL_CNT : Nat := 0x120
abbrev R_MNT_VIOL_OVF_CNT : Nat := 0x128
abbrev R_MNT_CMD_CNT : Nat := 0x130
abbrev R_MNT_ATTEST_CNT : Nat := 0x138
abbrev R_MNT_FROZEN : Nat := 0x140
abbrev R_MNT_VIOL_LOG_word_0 : Nat := 0x200
abbrev R_MNT_VIOL_LOG_ADDR : Nat := 0x208
abbrev R_MNT_WIN_word_0 : Nat := 0x400
abbrev R_MNT_WIN_word_1 : Nat := 0x408
abbrev R_Request_buffer : Nat := 0x100
abbrev R_Certificate : Nat := 0x100
abbrev R_CRY_STATUS : Nat := 0x100
abbrev R_CRY_SWEEP_CFG : Nat := 0x108
abbrev R_CRY_EPOCH_COUNT : Nat := 0x110
abbrev R_CRY_SWEEP_POS : Nat := 0x118
abbrev R_CRY_EPOCH_ABANDON : Nat := 0x120
abbrev R_CRY_SWEEP_BYTES_CNT : Nat := 0x128
abbrev R_CRY_DERIVE_CNT : Nat := 0x130
abbrev R_PWR_STATUS : Nat := 0x100
abbrev R_PWR_RATE_TARGET : Nat := 0x108
abbrev R_PWR_THR_CFG : Nat := 0x110
abbrev R_PWR_MODULE : Nat := 0x118
abbrev R_PWR_CLIP_CNT : Nat := 0x120
abbrev R_PWR_ENERGY_CNT : Nat := 0x128
abbrev R_PWR_DOMAIN : Nat := 0x200
abbrev R_CP_STATUS : Nat := 0x100
abbrev R_CP_STAGE_BASE : Nat := 0x108
abbrev R_CP_STAGE_SIZE : Nat := 0x110
abbrev R_CP_TELE_BASE : Nat := 0x118
abbrev R_CP_TELE_SIZE : Nat := 0x120
abbrev R_CP_TELE_HEAD : Nat := 0x128
abbrev R_CP_TELE_TAIL : Nat := 0x130
abbrev R_CP_CFG : Nat := 0x138
abbrev R_CP_TX_FRAME_CNT : Nat := 0x140
abbrev R_CP_RX_FRAME_CNT : Nat := 0x148
abbrev R_CP_CRC_CNT : Nat := 0x150
abbrev R_CP_RETX_CNT : Nat := 0x158
abbrev R_CP_SEQ_DROP_CNT : Nat := 0x160
abbrev R_CP_STAGE_ERR_CNT : Nat := 0x168
abbrev R_BIST_STATUS : Nat := 0x100
abbrev R_BIST_REQ : Nat := 0x108
abbrev R_BIST_REQ_CNT : Nat := 0x110
abbrev R_BIST_FAIL_CNT : Nat := 0x118
abbrev R_BIST_HOLD_CNT : Nat := 0x120

/-- Registers of the hdr page kind (17_register_pages.md R476). -/
def rowsHdr : List RegRow := [
  ⟨0x0, 8, 1, [⟨39, 32, .ro, 1⟩, ⟨25, 24, .ro, 0⟩, ⟨15, 0, .ro, 0⟩]⟩, -- BLK_ID
  ⟨0x8, 8, 1, [⟨47, 32, .ro, 0⟩, ⟨25, 16, .ro, 0⟩, ⟨9, 0, .ro, 0⟩]⟩, -- BLK_CAP
  ⟨0x10, 8, 1, [⟨12, 8, .rw, 20⟩, ⟨0, 0, .rw, 0⟩]⟩, -- BLK_CTL
  ⟨0x18, 8, 1, [⟨9, 9, .ro, 0⟩, ⟨8, 8, .ro, 0⟩, ⟨7, 7, .ro, 0⟩, ⟨6, 6, .ro, 0⟩, ⟨5, 5, .ro, 0⟩, ⟨4, 4, .ro, 0⟩, ⟨3, 3, .ro, 0⟩, ⟨2, 2, .ro, 0⟩, ⟨1, 1, .ro, 0⟩, ⟨0, 0, .w1c, 0⟩]⟩, -- BLK_STAT
  ⟨0x20, 8, 1, [⟨7, 7, .w1c, 0⟩, ⟨6, 6, .w1c, 0⟩, ⟨5, 5, .w1c, 0⟩, ⟨4, 4, .w1c, 0⟩, ⟨3, 3, .w1c, 0⟩, ⟨2, 2, .w1c, 0⟩, ⟨1, 1, .w1c, 0⟩, ⟨0, 0, .w1c, 0⟩]⟩, -- BLK_EVT
  ⟨0x28, 8, 1, [⟨7, 7, .rw, 0⟩, ⟨6, 6, .rw, 0⟩, ⟨5, 5, .rw, 0⟩, ⟨4, 4, .rw, 0⟩, ⟨3, 3, .rw, 0⟩, ⟨2, 2, .rw, 0⟩, ⟨1, 1, .rw, 0⟩, ⟨0, 0, .rw, 0⟩]⟩, -- BLK_EVT_MASK
  ⟨0x30, 8, 1, [⟨63, 63, .w1c, 0⟩, ⟨62, 62, .ro, 0⟩, ⟨15, 0, .ro, 0⟩]⟩, -- BLK_ERR_LOG
  ⟨0x38, 8, 1, [⟨63, 0, .ro, 0⟩]⟩, -- BLK_ERR_ADDR
  ⟨0x40, 8, 1, [⟨63, 0, .ro, 0⟩]⟩, -- BLK_SHADOW_COMMIT
  ⟨0x48, 8, 1, [⟨7, 0, .mw, 0⟩]⟩, -- BLK_OWNER
  ⟨0x50, 8, 1, [⟨9, 8, .ro, 0⟩, ⟨5, 0, .ro, 0⟩]⟩, -- BLK_POWER
  ⟨0x58, 8, 1, [⟨63, 0, .rc, 0⟩]⟩, -- BLK_ERR_CNT
  ⟨0x60, 8, 1, [⟨63, 0, .rc, 0⟩]⟩, -- BLK_CLIP_CNT
  ⟨0x68, 8, 1, [⟨63, 0, .rc, 0⟩]⟩, -- BLK_FREEZE_CNT
  ⟨0x70, 8, 1, [⟨63, 0, .rc, 0⟩]⟩, -- BLK_DEGRADE_CNT
  ⟨0x78, 8, 1, [⟨63, 0, .rc, 0⟩]⟩, -- BLK_RD_CNT
  ⟨0x80, 8, 1, [⟨63, 0, .rc, 0⟩]⟩, -- BLK_WR_CNT
  ⟨0x88, 8, 1, [⟨63, 0, .rc, 0⟩]⟩] -- BLK_VIOL_CNT

/-- Registers of the hem page kind (02_handshake_time.md R45). -/
def rowsHem : List RegRow := [
  ⟨0x100, 8, 1, [⟨63, 0, .ro, 0⟩]⟩, -- HEM_REFCNT
  ⟨0x108, 8, 1, [⟨4, 4, .w1c, 0⟩, ⟨3, 3, .ro, 0⟩, ⟨2, 2, .ro, 0⟩, ⟨1, 1, .w1c, 0⟩, ⟨0, 0, .ro, 0⟩]⟩, -- HEM_XING_STAT
  ⟨0x110, 8, 1, [⟨63, 0, .rc, 0⟩]⟩, -- HEM_OVERRUN_CNT
  ⟨0x118, 8, 1, [⟨63, 0, .rc, 0⟩]⟩] -- HEM_RESYNC_CNT

/-- Registers of the core page kind (03_outer_product_arrays.md R83). -/
def rowsCore0 : List RegRow := [
  ⟨0x200, 8, 1, [⟨49, 40, .ro, 0⟩, ⟨11, 8, .ro, 0⟩, ⟨3, 0, .ro, 0⟩]⟩, -- OPE_POS_MAP
  ⟨0x208, 8, 1, [⟨31, 24, .ro, 0⟩, ⟨23, 16, .ro, 0⟩, ⟨15, 8, .ro, 0⟩, ⟨5, 5, .w1c, 0⟩, ⟨4, 4, .ro, 0⟩, ⟨2, 0, .ro, 0⟩]⟩, -- OPE_STATUS
  ⟨0x210, 8, 1, [⟨63, 0, .rc, 0⟩]⟩, -- OPE_STEP_CNT
  ⟨0x218, 8, 1, [⟨63, 0, .rc, 0⟩]⟩, -- OPE_CELL_UPD_CNT
  ⟨0x220, 8, 1, [⟨63, 0, .rc, 0⟩]⟩, -- OPE_IDLE_CNT
  ⟨0x228, 8, 1, [⟨63, 0, .rc, 0⟩]⟩, -- OPE_STALL_A_CNT
  ⟨0x230, 8, 1, [⟨63, 0, .rc, 0⟩]⟩, -- OPE_STALL_B_CNT
  ⟨0x238, 8, 1, [⟨63, 0, .rc, 0⟩]⟩, -- OPE_STALL_DRAIN_CNT
  ⟨0x240, 8, 1, [⟨63, 0, .rc, 0⟩]⟩, -- OPE_PARITY_CNT
  ⟨0x248, 8, 1, [⟨15, 15, .ro, 0⟩, ⟨14, 14, .ro, 0⟩, ⟨13, 12, .ro, 0⟩, ⟨11, 6, .ro, 0⟩, ⟨3, 0, .ro, 0⟩]⟩, -- OPE_ERR_LOC
  ⟨0x300, 8, 1, [⟨63, 0, .ro, 0⟩]⟩, -- DL_RING_CNT
  ⟨0x308, 8, 1, [⟨15, 8, .ro, 0⟩, ⟨1, 1, .w1c, 0⟩, ⟨0, 0, .ro, 0⟩]⟩, -- DL_STATUS
  ⟨0x310, 8, 1, [⟨0, 0, .wo, 0⟩]⟩, -- DL_CTL
  ⟨0x380, 8, 1, [⟨63, 63, .rc, 0⟩, ⟨55, 48, .rc, 0⟩, ⟨47, 32, .rc, 0⟩, ⟨31, 16, .rc, 0⟩, ⟨15, 0, .rc, 0⟩]⟩, -- NUM_WORD_LOCAL
  ⟨0x388, 8, 1, [⟨16, 16, .wo, 0⟩, ⟨4, 4, .ro, 0⟩, ⟨3, 0, .rw, 4⟩]⟩, -- NUM_CTL
  ⟨0x390, 8, 1, [⟨63, 0, .rw, 0⟩]⟩, -- NUM_STEP
  ⟨0x398, 8, 1, [⟨63, 0, .rw, 0⟩]⟩, -- NUM_SEED
  ⟨0x3A0, 8, 1, [⟨11, 0, .rw, 0⟩]⟩, -- NUM_SHARD
  ⟨0x3A8, 8, 1, [⟨63, 0, .rc, 0⟩]⟩, -- NUM_OVF_CNT
  ⟨0x3B0, 8, 1, [⟨63, 0, .rc, 0⟩]⟩, -- NUM_NONFINITE_CNT
  ⟨0x3B8, 8, 1, [⟨63, 0, .rc, 0⟩]⟩, -- NUM_UFLOW_CNT
  ⟨0x3C0, 8, 1, [⟨63, 0, .rc, 0⟩]⟩, -- NUM_RETRY_CNT
  ⟨0x3C8, 8, 1, [⟨63, 0, .rc, 0⟩]⟩, -- NUM_RETRY_FAIL_CNT
  ⟨0x3D0, 8, 1, [⟨63, 0, .rc, 0⟩]⟩, -- NUM_SR_FAIL_CNT
  ⟨0x400, 8, 1, [⟨31, 24, .ro, 0⟩, ⟨23, 16, .ro, 0⟩, ⟨15, 8, .ro, 0⟩, ⟨3, 3, .w1c, 0⟩, ⟨2, 2, .ro, 0⟩, ⟨1, 1, .ro, 0⟩, ⟨0, 0, .ro, 0⟩]⟩, -- CC_STATUS
  ⟨0x408, 8, 1, [⟨1, 1, .wo, 0⟩, ⟨0, 0, .rw, 0⟩]⟩, -- CC_CTL
  ⟨0x410, 8, 1, [⟨63, 0, .rc, 0⟩]⟩, -- CC_ISSUE_CNT
  ⟨0x418, 8, 1, [⟨63, 0, .rc, 0⟩]⟩, -- CC_EXEC_CNT
  ⟨0x420, 8, 1, [⟨63, 0, .rc, 0⟩]⟩, -- CC_SKIP_CNT
  ⟨0x428, 8, 1, [⟨63, 0, .rc, 0⟩]⟩, -- CC_STALL_QUEUE_CNT
  ⟨0x430, 8, 1, [⟨63, 0, .rc, 0⟩]⟩, -- CC_IDLE_CNT
  ⟨0x438, 8, 1, [⟨63, 0, .rc, 0⟩]⟩, -- VEC_OOO_CNT
  ⟨0x440, 8, 1, [⟨63, 0, .rc, 0⟩]⟩, -- VEC_DRAW_BORROW_CNT
  ⟨0x448, 8, 1, [⟨15, 0, .ro, 0⟩]⟩, -- TASK_LOG_USED
  ⟨0x450, 8, 1, [⟨63, 0, .rc, 0⟩]⟩, -- TASK_COMMIT_CNT
  ⟨0x458, 8, 1, [⟨63, 0, .rc, 0⟩]⟩, -- TASK_DISCARD_CNT
  ⟨0x460, 8, 1, [⟨63, 0, .rc, 0⟩]⟩, -- TASK_LOG_STALL_CNT
  ⟨0x468, 8, 1, [⟨63, 0, .rc, 0⟩]⟩, -- IDX_ROWS_CNT
  ⟨0x470, 8, 1, [⟨63, 0, .rc, 0⟩]⟩, -- IDX_SKIP_CNT
  ⟨0x478, 8, 1, [⟨63, 0, .rc, 0⟩]⟩] -- IDX_OOR_CNT

/-- Registers of the core page kind (08_core_store_streaming.md R233). -/
def rowsCore1 : List RegRow := [
  ⟨0x500, 8, 1, [⟨27, 16, .ro, 0⟩, ⟨11, 8, .ro, 0⟩, ⟨4, 4, .w1c, 0⟩, ⟨3, 3, .w1c, 0⟩, ⟨2, 2, .w1c, 0⟩, ⟨1, 1, .ro, 0⟩, ⟨0, 0, .ro, 0⟩]⟩, -- CS_STATUS
  ⟨0x508, 8, 1, [⟨17, 16, .wo, 0⟩, ⟨11, 0, .wo, 0⟩]⟩, -- FB_CMD
  ⟨0x510, 8, 1, [⟨63, 0, .rc, 0⟩]⟩, -- CS_CE_CNT
  ⟨0x518, 8, 1, [⟨63, 0, .rc, 0⟩]⟩, -- CS_UE_CNT
  ⟨0x520, 8, 1, [⟨63, 0, .rc, 0⟩]⟩, -- CS_BANK_WAIT_CNT
  ⟨0x528, 8, 1, [⟨63, 0, .rc, 0⟩]⟩, -- STR_REQ_CNT
  ⟨0x530, 8, 1, [⟨63, 0, .rc, 0⟩]⟩, -- STR_LAT_SUM
  ⟨0x538, 8, 1, [⟨63, 0, .rc, 0⟩]⟩, -- STR_BYTES_CNT
  ⟨0x540, 8, 1, [⟨63, 0, .rc, 0⟩]⟩, -- CAP_HIT_CNT
  ⟨0x548, 8, 1, [⟨63, 0, .rc, 0⟩]⟩, -- PF_USED_CNT
  ⟨0x550, 8, 1, [⟨63, 0, .rc, 0⟩]⟩, -- PF_UNUSED_CNT
  ⟨0x558, 8, 1, [⟨63, 0, .rc, 0⟩]⟩, -- PF_LATE_CNT
  ⟨0x560, 8, 1, [⟨63, 0, .rc, 0⟩]⟩, -- PF_EARLY_EVICT_CNT
  ⟨0x568, 8, 1, [⟨63, 0, .rc, 0⟩]⟩, -- STALE_PREFETCH_CNT
  ⟨0x570, 8, 1, [⟨63, 0, .rc, 0⟩]⟩, -- GATHER_GRAN_CNT
  ⟨0x578, 8, 1, [⟨63, 0, .rc, 0⟩]⟩, -- STR_EOS_CNT
  ⟨0x580, 8, 1, [⟨63, 0, .rc, 0⟩]⟩, -- STR_TAG_WAIT_CNT
  ⟨0x600, 8, 8, [⟨39, 8, .ro, 0⟩, ⟨4, 4, .ro, 0⟩, ⟨3, 0, .ro, 0⟩]⟩, -- SYNC_WAIT
  ⟨0x640, 8, 1, [⟨63, 0, .rc, 0⟩]⟩, -- FE_OP_CNT
  ⟨0x648, 8, 1, [⟨63, 0, .rc, 0⟩]⟩, -- FE_WAIT_CNT
  ⟨0x650, 8, 1, [⟨63, 0, .rc, 0⟩]⟩, -- SPURIOUS_WAKE_CNT
  ⟨0x658, 8, 1, [⟨63, 0, .rc, 0⟩]⟩, -- BAR_ARRIVE_CNT
  ⟨0x660, 8, 1, [⟨63, 0, .rc, 0⟩]⟩, -- BAR_OVERRUN_CNT
  ⟨0x668, 8, 1, [⟨63, 0, .rc, 0⟩]⟩, -- PKT_SEND_CNT
  ⟨0x670, 8, 1, [⟨63, 0, .rc, 0⟩]⟩, -- PKT_REJECT_CNT
  ⟨0x678, 8, 1, [⟨63, 0, .rc, 0⟩]⟩, -- PKT_RECV_CNT
  ⟨0x700, 8, 1, [⟨0, 0, .w1c, 0⟩]⟩, -- DARN_STATUS
  ⟨0x708, 8, 1, [⟨63, 0, .rc, 0⟩]⟩, -- DARN_REMAP_CNT
  ⟨0x710, 8, 1, [⟨63, 0, .rc, 0⟩]⟩, -- SEG_RETIRE_CNT
  ⟨0x740, 8, 9, [⟨63, 0, .rw, 0⟩]⟩, -- SEG_RETIRED
  ⟨0x800, 8, 128, [⟨63, 63, .rw, 0⟩, ⟨55, 54, .rw, 0⟩, ⟨51, 50, .rw, 0⟩, ⟨47, 40, .rw, 0⟩, ⟨13, 0, .rw, 0⟩]⟩, -- DARN
  ⟨0xC00, 8, 128, [⟨63, 0, .ro, 0⟩]⟩] -- FB_STATE

def rowsCore : List RegRow := rowsCore0 ++ rowsCore1

/-- Registers of the ctx page kind (06_control_core.md R148). -/
def rowsCtx : List RegRow := [
  ⟨0x100, 8, 64, [⟨63, 0, .rw, 0⟩]⟩, -- S
  ⟨0x300, 16, 16, [⟨63, 0, .rw, 0⟩]⟩, -- A.BASE
  ⟨0x308, 16, 16, [⟨31, 0, .rw, 0⟩]⟩, -- A.INC
  ⟨0x400, 8, 1, [⟨7, 1, .rw, 0⟩, ⟨0, 0, .ro, 1⟩]⟩, -- CTX_PRED
  ⟨0x408, 8, 1, [⟨25, 5, .rw, 0⟩]⟩, -- CTX_PC
  ⟨0x410, 8, 1, [⟨3, 3, .wo, 0⟩, ⟨2, 2, .wo, 0⟩, ⟨1, 1, .wo, 0⟩, ⟨0, 0, .wo, 0⟩]⟩, -- CTX_CTL
  ⟨0x418, 8, 1, [⟨39, 32, .ro, 0⟩, ⟨26, 24, .ro, 0⟩, ⟨16, 16, .ro, 0⟩, ⟨10, 8, .ro, 0⟩, ⟨2, 0, .ro, 0⟩]⟩, -- CTX_STATUS
  ⟨0x420, 8, 1, [⟨63, 0, .ro, 0⟩]⟩, -- CTX_CMD_CNT
  ⟨0x428, 8, 1, [⟨12, 0, .rw, 0⟩]⟩, -- CTX_SEQ
  ⟨0x440, 24, 4, [⟨57, 32, .rw, 0⟩, ⟨25, 0, .rw, 0⟩]⟩, -- LOOP_PC
  ⟨0x448, 24, 4, [⟨63, 0, .rw, 0⟩]⟩, -- LOOP_COUNT
  ⟨0x450, 24, 4, [⟨63, 0, .rw, 0⟩]⟩, -- LOOP_ITER
  ⟨0x4A0, 8, 1, [⟨57, 32, .ro, 0⟩, ⟨31, 16, .ro, 0⟩, ⟨10, 8, .ro, 0⟩, ⟨0, 0, .ro, 0⟩]⟩, -- TASK_STATUS
  ⟨0x4B0, 8, 1, [⟨7, 7, .rw, 0⟩, ⟨1, 1, .rw, 0⟩, ⟨0, 0, .rw, 0⟩]⟩, -- BP_CTL
  ⟨0x4B8, 8, 1, [⟨63, 0, .rw, 0⟩]⟩, -- BP_CMD_COUNT
  ⟨0x4C0, 8, 1, [⟨31, 16, .rw, 0⟩, ⟨15, 0, .rw, 0⟩]⟩, -- BP_TAG
  ⟨0x4C8, 8, 1, [⟨57, 32, .ro, 0⟩, ⟨15, 0, .ro, 0⟩]⟩] -- CTX_ERR_INFO

/-- Registers of the tagpool page kind (08_core_store_streaming.md R234). -/
def rowsTagpool : List RegRow := [
  ⟨0x100, 8, 1, [⟨43, 32, .ro, 1792⟩, ⟨27, 16, .ro, 0⟩]⟩, -- POOL_STATUS
  ⟨0x108, 8, 1, [⟨63, 48, .rw, 4096⟩, ⟨47, 32, .rw, 1024⟩, ⟨31, 16, .rw, 256⟩, ⟨15, 0, .rw, 0⟩]⟩, -- POOL_DCLASS_BIAS
  ⟨0x110, 8, 1, [⟨63, 0, .rc, 0⟩]⟩, -- POOL_GRANT_CNT
  ⟨0x118, 8, 1, [⟨63, 0, .rc, 0⟩]⟩, -- POOL_EXHAUST_CNT
  ⟨0x200, 24, 16, [⟨63, 6, .rw, 0⟩, ⟨0, 0, .rw, 0⟩]⟩, -- WATCH_BASE
  ⟨0x208, 24, 16, [⟨63, 6, .rw, 0⟩]⟩, -- WATCH_LIMIT
  ⟨0x210, 24, 16, [⟨63, 0, .ro, 0⟩]⟩] -- WATCH_VER

/-- Registers of the yoke page kind (09_yoke_pockets.md R262). -/
def rowsYoke : List RegRow := [
  ⟨0x100, 8, 1, [⟨24, 16, .ro, 0⟩, ⟨8, 0, .ro, 0⟩]⟩, -- YOKE_STATUS
  ⟨0x108, 8, 1, [⟨63, 0, .rc, 0⟩]⟩, -- YOKE_RELEASE_CNT
  ⟨0x110, 8, 1, [⟨63, 0, .rc, 0⟩]⟩, -- YOKE_WAKE_CNT
  ⟨0x118, 8, 1, [⟨63, 0, .rc, 0⟩]⟩, -- YOKE_OVERRUN_CNT
  ⟨0x120, 8, 1, [⟨63, 0, .rc, 0⟩]⟩] -- YOKE_DISCARD_CNT

/-- Registers of the yokeSlots page kind (09_yoke_pockets.md R244). -/
def rowsYokeSlots : List RegRow := [
  ⟨0x100, 64, 32, [⟨63, 0, .rw, 0⟩]⟩, -- SLOT_MASK0
  ⟨0x108, 64, 32, [⟨63, 0, .rw, 0⟩]⟩, -- SLOT_MASK1
  ⟨0x110, 64, 32, [⟨63, 0, .rw, 0⟩]⟩, -- SLOT_MASK2
  ⟨0x118, 64, 32, [⟨63, 0, .rw, 0⟩]⟩, -- SLOT_MASK3
  ⟨0x120, 64, 32, [⟨0, 0, .rw, 0⟩]⟩, -- SLOT_CTL
  ⟨0x128, 64, 32, [⟨48, 48, .ro, 0⟩, ⟨40, 32, .ro, 0⟩, ⟨24, 16, .ro, 0⟩, ⟨8, 0, .ro, 0⟩]⟩, -- SLOT_STATE
  ⟨0x130, 64, 32, [⟨63, 0, .rc, 0⟩]⟩, -- SLOT_RELEASE_CNT
  ⟨0x138, 64, 32, [⟨63, 0, .rc, 0⟩]⟩] -- SLOT_OVERRUN_CNT

/-- Registers of the pocket page kind (09_yoke_pockets.md R249). -/
def rowsPocket : List RegRow := [
  ⟨0x100, 8, 16, [⟨63, 0, .rw, 0⟩]⟩, -- PKT_MSG
  ⟨0x180, 8, 1, [⟨0, 0, .wo, 0⟩]⟩, -- PKT_GO
  ⟨0x188, 8, 1, [⟨0, 0, .wo, 0⟩]⟩, -- PKT_TAKE
  ⟨0x190, 8, 1, [⟨3, 3, .ro, 0⟩, ⟨2, 2, .ro, 0⟩, ⟨1, 1, .ro, 0⟩, ⟨0, 0, .ro, 0⟩]⟩, -- PKT_STATUS
  ⟨0x198, 8, 1, [⟨63, 0, .rc, 0⟩]⟩, -- PKT_SENT_CNT
  ⟨0x1A0, 8, 1, [⟨63, 0, .rc, 0⟩]⟩] -- PKT_ABORT_CNT

/-- Registers of the wordPocket page kind (09_yoke_pockets.md R256). -/
def rowsWordPocket : List RegRow := [
  ⟨0x100, 8, 1, [⟨63, 0, .rw, 0⟩]⟩, -- WP_WORD
  ⟨0x108, 8, 1, [⟨0, 0, .wo, 0⟩]⟩, -- WP_GO
  ⟨0x110, 8, 1, [⟨0, 0, .wo, 0⟩]⟩, -- WP_TAKE
  ⟨0x118, 8, 1, [⟨3, 3, .ro, 0⟩, ⟨0, 0, .ro, 0⟩]⟩] -- WP_STATUS

/-- Registers of the binding0 page kind (09_yoke_pockets.md R254). -/
def rowsBinding0 : List RegRow := [
  ⟨0x100, 8, 1, [⟨1, 1, .wo, 0⟩, ⟨0, 0, .mw, 0⟩]⟩, -- PKT_LOCK
  ⟨0x108, 8, 1, [⟨8, 0, .wo, 0⟩]⟩] -- PKT_CLEAR

/-- Registers of the binding page kind (09_yoke_pockets.md R263). -/
def rowsBinding : List RegRow := [
  ⟨0x200, 8, 256, [⟨63, 63, .rw, 0⟩, ⟨40, 40, .rw, 0⟩, ⟨36, 32, .rw, 0⟩, ⟨28, 24, .rw, 0⟩, ⟨20, 16, .rw, 0⟩, ⟨15, 8, .rw, 0⟩, ⟨7, 0, .rw, 0⟩]⟩] -- PKT_BIND

/-- Registers of the button page kind (09_yoke_pockets.md R257). -/
def rowsButton : List RegRow := [
  ⟨0x100, 8, 1, [⟨31, 0, .w1c, 0⟩]⟩, -- BTN_PEND
  ⟨0x108, 8, 1, [⟨31, 0, .rw, 4026531840⟩]⟩, -- BTN_MASK
  ⟨0x110, 8, 1, [⟨31, 0, .wo, 0⟩]⟩, -- BTN_RING
  ⟨0x118, 8, 1, [⟨63, 0, .rc, 0⟩]⟩, -- BTN_RING_CNT
  ⟨0x120, 8, 1, [⟨63, 0, .rc, 0⟩]⟩, -- BTN_MERGE_CNT
  ⟨0x128, 8, 1, [⟨63, 0, .rc, 0⟩]⟩] -- BTN_DROP_CNT

/-- Registers of the hbm page kind (10_hbm_llc.md R289). -/
def rowsHbm : List RegRow := [
  ⟨0x100, 8, 1, [⟨11, 8, .ro, 8⟩, ⟨6, 6, .ro, 0⟩, ⟨5, 5, .w1c, 0⟩, ⟨4, 4, .ro, 0⟩, ⟨3, 3, .ro, 0⟩, ⟨1, 0, .ro, 0⟩]⟩, -- HBM_STATUS
  ⟨0x108, 8, 1, [⟨15, 8, .rw, 255⟩, ⟨0, 0, .rw, 1⟩]⟩, -- HBM_CTL
  ⟨0x110, 8, 1, [⟨8, 8, .ro, 0⟩, ⟨7, 0, .ro, 0⟩]⟩, -- HBM_TEMP
  ⟨0x118, 8, 1, [⟨15, 8, .mw, 105⟩, ⟨7, 0, .mw, 95⟩]⟩, -- HBM_THR_CFG
  ⟨0x120, 8, 1, [⟨63, 62, .wo, 0⟩, ⟨38, 6, .wo, 0⟩]⟩, -- HBM_REPAIR_CMD
  ⟨0x128, 8, 1, [⟨7, 4, .ro, 0⟩, ⟨0, 0, .ro, 0⟩]⟩, -- HBM_REPAIR_STAT
  ⟨0x130, 8, 1, [⟨63, 63, .w1c, 0⟩, ⟨31, 16, .ro, 0⟩, ⟨15, 10, .ro, 0⟩, ⟨9, 5, .ro, 0⟩, ⟨4, 2, .ro, 0⟩]⟩, -- HBM_ERR_INFO
  ⟨0x138, 8, 1, [⟨15, 0, .rw, 24⟩]⟩, -- HBM_SCRUB_CFG
  ⟨0x140, 8, 1, [⟨63, 0, .rc, 0⟩]⟩, -- HBM_CE_CNT
  ⟨0x148, 8, 1, [⟨63, 0, .rc, 0⟩]⟩, -- HBM_UE_CNT
  ⟨0x150, 8, 1, [⟨63, 0, .rc, 0⟩]⟩, -- HBM_RD_BYTES_CNT
  ⟨0x158, 8, 1, [⟨63, 0, .rc, 0⟩]⟩, -- HBM_WR_BYTES_CNT
  ⟨0x160, 8, 1, [⟨63, 0, .rc, 0⟩]⟩, -- HBM_THROTTLE_CNT
  ⟨0x168, 8, 1, [⟨63, 0, .rc, 0⟩]⟩, -- HBM_CLIP_CNT
  ⟨0x170, 8, 1, [⟨63, 0, .rc, 0⟩]⟩, -- HBM_PPR_CNT
  ⟨0x178, 8, 1, [⟨63, 0, .rc, 0⟩]⟩, -- HBM_SPARE_CNT
  ⟨0x180, 8, 1, [⟨63, 0, .rc, 0⟩]⟩, -- HBM_RETIRED_HIT_CNT
  ⟨0x200, 8, 16, [⟨8, 0, .ro, 0⟩]⟩, -- HBM_SPARE_USED
  ⟨0x300, 8, 1, [⟨63, 63, .wo, 0⟩, ⟨62, 62, .ro, 0⟩, ⟨61, 61, .ro, 0⟩, ⟨60, 60, .rw, 0⟩, ⟨22, 16, .rw, 0⟩, ⟨15, 8, .rw, 0⟩, ⟨7, 0, .rw, 0⟩]⟩, -- HBM_1500_CTL
  ⟨0x308, 8, 1, [⟨63, 0, .rw, 0⟩]⟩, -- HBM_1500_DATA
  ⟨0x800, 8, 256, [⟨63, 63, .rw, 0⟩, ⟨15, 0, .rw, 0⟩]⟩] -- HBM_RETIRE

/-- Registers of the llc page kind (10_hbm_llc.md R289). -/
def rowsLlc : List RegRow := [
  ⟨0x100, 8, 1, [⟨17, 17, .ro, 0⟩, ⟨16, 16, .w1c, 0⟩, ⟨15, 0, .ro, 0⟩]⟩, -- LLC_STATUS
  ⟨0x108, 8, 1, [⟨15, 0, .rw, 0⟩]⟩, -- LLC_WAY_MODE
  ⟨0x110, 8, 1, [⟨0, 0, .wo, 0⟩]⟩, -- LLC_CTL
  ⟨0x118, 8, 1, [⟨63, 0, .rc, 0⟩]⟩, -- LLC_HIT_CNT
  ⟨0x120, 8, 1, [⟨63, 0, .rc, 0⟩]⟩, -- LLC_MISS_CNT
  ⟨0x128, 8, 1, [⟨63, 0, .rc, 0⟩]⟩, -- LLC_WB_CNT
  ⟨0x130, 8, 1, [⟨63, 0, .rc, 0⟩]⟩, -- LLC_CE_CNT
  ⟨0x138, 8, 1, [⟨63, 0, .rc, 0⟩]⟩, -- LLC_UE_CNT
  ⟨0x780, 8, 4, [⟨63, 0, .rw, 0⟩]⟩, -- LLC_SEG_RETIRED
  ⟨0x800, 8, 64, [⟨63, 63, .rw, 0⟩, ⟨55, 54, .rw, 0⟩, ⟨51, 50, .rw, 0⟩, ⟨47, 40, .rw, 0⟩, ⟨13, 0, .rw, 0⟩]⟩] -- LLC_DARN

/-- Registers of the fabric page kind (11_onchip_fabric.md R312). -/
def rowsFabric : List RegRow := [
  ⟨0x100, 8, 1, [⟨1, 1, .ro, 0⟩, ⟨0, 0, .w1c, 0⟩]⟩, -- FAB_STATUS
  ⟨0x108, 8, 1, [⟨63, 48, .rw, 52428⟩, ⟨47, 32, .rw, 34952⟩, ⟨31, 16, .rw, 17476⟩, ⟨15, 0, .rw, 0⟩]⟩, -- ARB_PRIO_SHADOW
  ⟨0x110, 8, 1, [⟨63, 48, .ro, 52428⟩, ⟨47, 32, .ro, 34952⟩, ⟨31, 16, .ro, 17476⟩, ⟨15, 0, .ro, 0⟩]⟩, -- ARB_PRIO_ACTIVE
  ⟨0x118, 8, 1, [⟨1, 1, .ro, 0⟩, ⟨0, 0, .wo, 0⟩]⟩, -- ARB_COMMIT
  ⟨0x120, 8, 1, [⟨63, 0, .rc, 0⟩]⟩, -- FAB_FLIT_CNT
  ⟨0x128, 8, 1, [⟨63, 0, .rc, 0⟩]⟩, -- ARB_GRANT_CNT
  ⟨0x130, 8, 1, [⟨63, 0, .rc, 0⟩]⟩, -- ARB_PARKED_CNT
  ⟨0x138, 8, 1, [⟨63, 0, .rc, 0⟩]⟩, -- ARB_DEAD_ROUND_CNT
  ⟨0x140, 8, 1, [⟨63, 0, .rc, 0⟩]⟩, -- ARB_STALE_CNT
  ⟨0x148, 8, 1, [⟨63, 0, .rc, 0⟩]⟩, -- FAB_RESERVE_CNT
  ⟨0x150, 8, 1, [⟨63, 0, .rc, 0⟩]⟩] -- FAB_HBM_OFF_CNT

/-- Registers of the seam page kind (11_onchip_fabric.md R313). -/
def rowsSeam : List RegRow := [
  ⟨0x100, 8, 1, [⟨3, 3, .ro, 0⟩, ⟨2, 2, .ro, 0⟩, ⟨1, 1, .ro, 0⟩, ⟨0, 0, .ro, 0⟩]⟩, -- SEAM_STATUS
  ⟨0x108, 8, 1, [⟨63, 48, .ro, 0⟩, ⟨47, 32, .ro, 0⟩, ⟨15, 8, .ro, 0⟩, ⟨7, 0, .ro, 0⟩]⟩, -- SEAM_GROUPS
  ⟨0x110, 8, 1, [⟨63, 0, .rc, 0⟩]⟩, -- SEAM_FLIT_A_CNT
  ⟨0x118, 8, 1, [⟨63, 0, .rc, 0⟩]⟩, -- SEAM_FLIT_B_CNT
  ⟨0x120, 8, 1, [⟨63, 0, .rc, 0⟩]⟩, -- SEAM_CRC_CNT
  ⟨0x128, 8, 1, [⟨63, 0, .rc, 0⟩]⟩, -- SEAM_REPLAY_CNT
  ⟨0x130, 8, 1, [⟨63, 0, .rc, 0⟩]⟩, -- SEAM_LANE_TEST_CNT
  ⟨0x138, 8, 1, [⟨63, 0, .rc, 0⟩]⟩] -- SEAM_GROUP_RETIRE_CNT

/-- Registers of the port page kind (12_wyist_links.md R348). -/
def rowsPort : List RegRow := [
  ⟨0x100, 8, 1, [⟨8, 8, .w1c, 0⟩, ⟨7, 7, .ro, 0⟩, ⟨6, 6, .ro, 0⟩, ⟨5, 5, .ro, 0⟩, ⟨4, 4, .ro, 0⟩, ⟨3, 3, .ro, 0⟩, ⟨2, 0, .ro, 0⟩]⟩, -- LINK_STATUS
  ⟨0x108, 8, 1, [⟨3, 3, .rw, 0⟩, ⟨2, 2, .wo, 0⟩, ⟨1, 1, .rw, 0⟩, ⟨0, 0, .rw, 0⟩]⟩, -- LINK_CTL
  ⟨0x110, 8, 1, [⟨47, 0, .rw, 0⟩]⟩, -- LINK_MAC
  ⟨0x118, 8, 1, [⟨30, 28, .rw, 1⟩, ⟨26, 24, .rw, 2⟩, ⟨22, 20, .rw, 6⟩, ⟨18, 16, .rw, 3⟩, ⟨11, 0, .rw, 0⟩]⟩, -- LINK_QTAG
  ⟨0x120, 8, 1, [⟨63, 0, .rc, 0⟩]⟩, -- LINK_TX_FRAME_CNT
  ⟨0x128, 8, 1, [⟨63, 0, .rc, 0⟩]⟩, -- LINK_RX_FRAME_CNT
  ⟨0x130, 8, 1, [⟨63, 0, .rc, 0⟩]⟩, -- LINK_FEC_CORR_CNT
  ⟨0x138, 8, 1, [⟨63, 0, .rc, 0⟩]⟩, -- LINK_FEC_UNCORR_CNT
  ⟨0x140, 8, 1, [⟨63, 0, .rc, 0⟩]⟩, -- LINK_RX_DROP_CNT
  ⟨0x148, 8, 1, [⟨63, 0, .rc, 0⟩]⟩, -- LINK_PFC_RX_CNT
  ⟨0x150, 8, 1, [⟨63, 0, .rc, 0⟩]⟩, -- LINK_PFC_IGN_CNT
  ⟨0x158, 8, 1, [⟨63, 0, .rc, 0⟩]⟩, -- LINK_TRAIN_CNT
  ⟨0x800, 8, 64, [⟨63, 0, .ro, 0⟩]⟩] -- LINK_LLDP_BUF

/-- Registers of the link page kind (12_wyist_links.md R348). -/
def rowsLink : List RegRow := [
  ⟨0x100, 8, 1, [⟨47, 32, .ro, 0⟩, ⟨29, 16, .ro, 0⟩, ⟨13, 0, .ro, 0⟩]⟩, -- LNK_STATUS
  ⟨0x108, 8, 1, [⟨44, 40, .rw, 25⟩, ⟨36, 32, .rw, 24⟩, ⟨27, 24, .rw, 4⟩, ⟨23, 8, .rw, 20⟩, ⟨7, 0, .rw, 5⟩]⟩, -- LNK_CFG
  ⟨0x110, 8, 1, [⟨23, 16, .rw, 2⟩, ⟨15, 8, .rw, 2⟩, ⟨7, 0, .rw, 12⟩]⟩, -- LNK_TX_WEIGHT
  ⟨0x118, 8, 1, [⟨63, 12, .rw, 0⟩]⟩, -- LNK_REPLAY_BASE
  ⟨0x120, 8, 1, [⟨15, 0, .rw, 0⟩]⟩, -- LNK_REPLAY_SIZE
  ⟨0x128, 8, 1, [⟨23, 16, .rw, 0⟩, ⟨15, 0, .rw, 0⟩]⟩, -- LNK_SELF_RANK
  ⟨0x130, 8, 1, [⟨63, 63, .rw, 0⟩, ⟨62, 62, .rw, 0⟩, ⟨59, 44, .rw, 0⟩, ⟨43, 0, .rw, 0⟩]⟩, -- LNK_STAGE_CFG0
  ⟨0x138, 8, 1, [⟨63, 56, .rw, 0⟩, ⟨55, 40, .rw, 0⟩, ⟨39, 0, .rw, 0⟩]⟩, -- LNK_STAGE_CFG1
  ⟨0x140, 8, 1, [⟨18, 16, .wo, 0⟩, ⟨11, 0, .wo, 0⟩]⟩, -- PARTNER_CMD
  ⟨0x148, 8, 1, [⟨7, 4, .ro, 0⟩, ⟨0, 0, .ro, 0⟩]⟩, -- PARTNER_CMD_STAT
  ⟨0x150, 8, 1, [⟨63, 40, .ro, 0⟩, ⟨39, 0, .ro, 0⟩]⟩, -- LNK_AUDIT_TX
  ⟨0x158, 8, 1, [⟨39, 0, .ro, 0⟩]⟩, -- LNK_AUDIT_RX
  ⟨0x180, 8, 1, [⟨63, 0, .rc, 0⟩]⟩, -- LNK_RETX_CNT
  ⟨0x188, 8, 1, [⟨63, 0, .rc, 0⟩]⟩, -- LNK_TIMEOUT_CNT
  ⟨0x190, 8, 1, [⟨63, 0, .rc, 0⟩]⟩, -- LNK_NACK_CNT
  ⟨0x198, 8, 1, [⟨63, 0, .rc, 0⟩]⟩, -- LNK_GCM_FAIL_CNT
  ⟨0x1A0, 8, 1, [⟨63, 0, .rc, 0⟩]⟩, -- LNK_STALE_EPOCH_CNT
  ⟨0x1A8, 8, 1, [⟨63, 0, .rc, 0⟩]⟩, -- LNK_SEQ_WINDOW_CNT
  ⟨0x1B0, 8, 1, [⟨63, 0, .rc, 0⟩]⟩, -- LNK_DUP_CNT
  ⟨0x1B8, 8, 1, [⟨63, 0, .rc, 0⟩]⟩, -- LNK_UNKNOWN_CNT
  ⟨0x1C0, 8, 1, [⟨63, 0, .rc, 0⟩]⟩, -- LNK_BUS_ERR_CNT
  ⟨0x1C8, 8, 1, [⟨63, 0, .rc, 0⟩]⟩, -- LNK_FROZEN_DROP_CNT
  ⟨0x1D0, 8, 1, [⟨63, 0, .rc, 0⟩]⟩, -- LNK_KEEPALIVE_MISS_CNT
  ⟨0x1D8, 8, 1, [⟨63, 0, .rc, 0⟩]⟩, -- LNK_DEAD_CNT
  ⟨0x1E0, 8, 1, [⟨63, 0, .rc, 0⟩]⟩, -- LNK_AUDIT_CNT
  ⟨0x1E8, 8, 1, [⟨63, 0, .rc, 0⟩]⟩, -- DETACHED_LEGS_CNT
  ⟨0x1F0, 8, 1, [⟨63, 0, .rc, 0⟩]⟩, -- LNK_REATTACH_CNT
  ⟨0x1F8, 8, 1, [⟨63, 0, .rc, 0⟩]⟩, -- LNK_CRED_RTT_SUM
  ⟨0x200, 8, 1, [⟨63, 0, .rc, 0⟩]⟩] -- LNK_CRED_RTT_CNT

/-- Registers of the link0 page kind (12_wyist_links.md R335). -/
def rowsLink0 : List RegRow := [
  ⟨0x160, 8, 4, [⟨63, 0, .ro, 0⟩]⟩] -- LNK_GRP_XSEQ

/-- Registers of the partner page kind (12_wyist_links.md R348). -/
def rowsPartner : List RegRow := [
  ⟨0x800, 128, 16, [⟨63, 63, .ro, 0⟩, ⟨62, 62, .ro, 0⟩, ⟨59, 44, .ro, 0⟩, ⟨43, 0, .ro, 0⟩]⟩, -- PTR_CFG0
  ⟨0x808, 128, 16, [⟨63, 56, .ro, 0⟩, ⟨55, 40, .ro, 0⟩, ⟨39, 0, .ro, 0⟩]⟩, -- PTR_CFG1
  ⟨0x810, 128, 16, [⟨63, 24, .ro, 0⟩, ⟨23, 8, .ro, 0⟩, ⟨7, 6, .ro, 0⟩, ⟨3, 3, .mw, 0⟩, ⟨2, 0, .ro, 0⟩]⟩, -- PTR_STATE
  ⟨0x818, 128, 16, [⟨63, 0, .ro, 0⟩]⟩, -- PTR_TX_SEQ0
  ⟨0x820, 128, 16, [⟨63, 0, .ro, 0⟩]⟩, -- PTR_TX_SEQ1
  ⟨0x828, 128, 16, [⟨63, 0, .ro, 0⟩]⟩, -- PTR_TX_SEQ2
  ⟨0x830, 128, 16, [⟨63, 0, .ro, 0⟩]⟩, -- PTR_TX_SEQ3
  ⟨0x838, 128, 16, [⟨63, 0, .ro, 0⟩]⟩, -- PTR_RX_SEQ0
  ⟨0x840, 128, 16, [⟨63, 0, .ro, 0⟩]⟩, -- PTR_RX_SEQ1
  ⟨0x848, 128, 16, [⟨63, 0, .ro, 0⟩]⟩, -- PTR_RX_SEQ2
  ⟨0x850, 128, 16, [⟨63, 0, .ro, 0⟩]⟩] -- PTR_RX_SEQ3

/-- Registers of the group page kind (12_wyist_links.md R349). -/
def rowsGroup : List RegRow := [
  ⟨0x800, 64, 16, [⟨63, 63, .rw, 0⟩, ⟨62, 62, .rw, 0⟩, ⟨61, 60, .rw, 0⟩, ⟨59, 52, .rw, 16⟩, ⟨51, 40, .rw, 0⟩, ⟨39, 32, .rw, 0⟩, ⟨31, 20, .rw, 0⟩, ⟨19, 12, .rw, 0⟩]⟩, -- GRP_CFG
  ⟨0x808, 64, 16, [⟨47, 0, .rw, 0⟩]⟩, -- GRP_ADDR
  ⟨0x810, 64, 16, [⟨63, 0, .ro, 0⟩]⟩, -- GRP_SEQ
  ⟨0x818, 64, 16, [⟨47, 32, .ro, 0⟩, ⟨15, 8, .ro, 0⟩, ⟨7, 0, .ro, 0⟩]⟩] -- GRP_STATE

/-- Registers of the leg page kind (12_wyist_links.md R349). -/
def rowsLeg : List RegRow := [
  ⟨0x800, 8, 256, [⟨63, 63, .ro, 0⟩, ⟨47, 16, .ro, 0⟩, ⟨11, 0, .rw, 0⟩]⟩] -- Leg entry

/-- Registers of the coll page kind (13_collectives_optimizer.md R375). -/
def rowsColl : List RegRow := [
  ⟨0x100, 8, 1, [⟨15, 8, .ro, 0⟩, ⟨7, 4, .ro, 0⟩, ⟨3, 3, .ro, 0⟩, ⟨2, 2, .ro, 0⟩, ⟨1, 1, .ro, 0⟩, ⟨0, 0, .w1c, 0⟩]⟩, -- COLL_STATUS
  ⟨0x108, 8, 1, [⟨15, 15, .rw, 0⟩, ⟨13, 8, .rw, 0⟩, ⟨7, 7, .rw, 0⟩, ⟨5, 0, .rw, 0⟩]⟩, -- COLL_CLOSE_CFG
  ⟨0x110, 8, 1, [⟨63, 0, .ro, 0⟩]⟩, -- COLL_STEP_WORD
  ⟨0x118, 8, 1, [⟨63, 0, .ro, 0⟩]⟩, -- COLL_LAST_WORD
  ⟨0x120, 8, 1, [⟨39, 32, .ro, 0⟩, ⟨31, 16, .ro, 0⟩, ⟨15, 0, .ro, 0⟩]⟩, -- COLL_ERR
  ⟨0x128, 8, 1, [⟨63, 0, .rc, 0⟩]⟩, -- COLL_CMD_CNT
  ⟨0x130, 8, 1, [⟨63, 0, .rc, 0⟩]⟩, -- COLL_TX_BYTES_CNT
  ⟨0x138, 8, 1, [⟨63, 0, .rc, 0⟩]⟩, -- COLL_RX_BYTES_CNT
  ⟨0x140, 8, 1, [⟨63, 0, .rc, 0⟩]⟩, -- COLL_FOLD_HOLD_CNT
  ⟨0x148, 8, 1, [⟨63, 0, .rc, 0⟩]⟩, -- COLL_CLOSE_CNT
  ⟨0x150, 8, 1, [⟨63, 0, .rc, 0⟩]⟩, -- COLL_REFUSE_CNT
  ⟨0x380, 8, 1, [⟨63, 63, .rc, 0⟩, ⟨55, 48, .rc, 0⟩, ⟨47, 32, .rc, 0⟩, ⟨31, 16, .rc, 0⟩, ⟨15, 0, .rc, 0⟩]⟩, -- NUM_WORD_LOCAL
  ⟨0x388, 8, 1, [⟨16, 16, .wo, 0⟩, ⟨4, 4, .ro, 0⟩, ⟨3, 0, .rw, 4⟩]⟩, -- NUM_CTL
  ⟨0x390, 8, 1, [⟨63, 0, .rw, 0⟩]⟩, -- NUM_STEP
  ⟨0x398, 8, 1, [⟨63, 0, .rw, 0⟩]⟩, -- NUM_SEED
  ⟨0x3A0, 8, 1, [⟨11, 0, .rw, 0⟩]⟩, -- NUM_SHARD
  ⟨0x3A8, 8, 1, [⟨63, 0, .rc, 0⟩]⟩, -- NUM_OVF_CNT
  ⟨0x3B0, 8, 1, [⟨63, 0, .rc, 0⟩]⟩, -- NUM_NONFINITE_CNT
  ⟨0x3B8, 8, 1, [⟨63, 0, .rc, 0⟩]⟩, -- NUM_UFLOW_CNT
  ⟨0x3C0, 8, 1, [⟨63, 0, .rc, 0⟩]⟩, -- NUM_RETRY_CNT
  ⟨0x3C8, 8, 1, [⟨63, 0, .rc, 0⟩]⟩, -- NUM_RETRY_FAIL_CNT
  ⟨0x3D0, 8, 1, [⟨63, 0, .rc, 0⟩]⟩, -- NUM_SR_FAIL_CNT
  ⟨0x800, 8, 64, [⟨63, 63, .rw, 0⟩, ⟨50, 40, .rw, 0⟩, ⟨39, 30, .rw, 0⟩, ⟨29, 20, .rw, 0⟩, ⟨15, 8, .rw, 0⟩]⟩] -- COLL_SET

/-- Registers of the collMember page kind (13_collectives_optimizer.md R375). -/
def rowsCollMember : List RegRow := [
  ⟨0x800, 8, 256, [⟨11, 0, .rw, 0⟩]⟩] -- Member entry

/-- Registers of the opt page kind (13_collectives_optimizer.md R376). -/
def rowsOpt : List RegRow := [
  ⟨0x100, 8, 1, [⟨28, 16, .ro, 0⟩, ⟨4, 4, .ro, 0⟩, ⟨3, 3, .ro, 0⟩, ⟨2, 2, .w1c, 0⟩, ⟨1, 1, .w1c, 0⟩, ⟨0, 0, .ro, 0⟩]⟩, -- OPT_STATUS
  ⟨0x108, 8, 1, [⟨63, 48, .ro, 0⟩, ⟨47, 32, .rw, 0⟩, ⟨24, 24, .rw, 0⟩, ⟨23, 16, .rw, 0⟩, ⟨15, 8, .rw, 0⟩, ⟨7, 0, .rw, 0⟩]⟩, -- OPT_LOSS
  ⟨0x110, 8, 1, [⟨63, 0, .ro, 0⟩]⟩, -- OPT_VOTE_WORD
  ⟨0x118, 8, 1, [⟨12, 8, .rw, 26⟩, ⟨2, 2, .rw, 0⟩, ⟨1, 1, .rw, 0⟩, ⟨0, 0, .rw, 0⟩]⟩, -- OPT_CFG
  ⟨0x120, 8, 1, [⟨63, 0, .rc, 0⟩]⟩, -- OPT_ELEM_CNT
  ⟨0x128, 8, 1, [⟨63, 0, .rc, 0⟩]⟩, -- OPT_COMMIT_CNT
  ⟨0x130, 8, 1, [⟨63, 0, .rc, 0⟩]⟩, -- OPT_DISCARD_CNT
  ⟨0x138, 8, 1, [⟨63, 0, .rc, 0⟩]⟩, -- OPT_LEDGER_DUP_CNT
  ⟨0x140, 8, 1, [⟨63, 0, .rc, 0⟩]⟩, -- OPT_SNAP_WAIT_CNT
  ⟨0x148, 8, 1, [⟨63, 0, .rc, 0⟩]⟩, -- OPT_LS_CHANGE_CNT
  ⟨0x380, 8, 1, [⟨63, 63, .rc, 0⟩, ⟨55, 48, .rc, 0⟩, ⟨47, 32, .rc, 0⟩, ⟨31, 16, .rc, 0⟩, ⟨15, 0, .rc, 0⟩]⟩, -- NUM_WORD_LOCAL
  ⟨0x388, 8, 1, [⟨16, 16, .wo, 0⟩, ⟨4, 4, .ro, 0⟩, ⟨3, 0, .rw, 4⟩]⟩, -- NUM_CTL
  ⟨0x390, 8, 1, [⟨63, 0, .rw, 0⟩]⟩, -- NUM_STEP
  ⟨0x398, 8, 1, [⟨63, 0, .rw, 0⟩]⟩, -- NUM_SEED
  ⟨0x3A0, 8, 1, [⟨11, 0, .rw, 0⟩]⟩, -- NUM_SHARD
  ⟨0x3A8, 8, 1, [⟨63, 0, .rc, 0⟩]⟩, -- NUM_OVF_CNT
  ⟨0x3B0, 8, 1, [⟨63, 0, .rc, 0⟩]⟩, -- NUM_NONFINITE_CNT
  ⟨0x3B8, 8, 1, [⟨63, 0, .rc, 0⟩]⟩, -- NUM_UFLOW_CNT
  ⟨0x3C0, 8, 1, [⟨63, 0, .rc, 0⟩]⟩, -- NUM_RETRY_CNT
  ⟨0x3C8, 8, 1, [⟨63, 0, .rc, 0⟩]⟩, -- NUM_RETRY_FAIL_CNT
  ⟨0x3D0, 8, 1, [⟨63, 0, .rc, 0⟩]⟩, -- NUM_SR_FAIL_CNT
  ⟨0x800, 64, 8, [⟨63, 32, .rw, 0⟩, ⟨31, 0, .rw, 0⟩]⟩, -- OPT_SET_STAGE word 0
  ⟨0x808, 64, 8, [⟨63, 32, .rw, 0⟩, ⟨31, 0, .rw, 0⟩]⟩, -- OPT_SET_STAGE word 1
  ⟨0x810, 64, 8, [⟨63, 32, .rw, 0⟩, ⟨31, 0, .rw, 0⟩]⟩, -- OPT_SET_STAGE word 2
  ⟨0x818, 64, 8, [⟨31, 0, .rw, 0⟩]⟩, -- OPT_SET_STAGE word 3
  ⟨0x820, 64, 8, [⟨63, 32, .ro, 0⟩, ⟨31, 0, .ro, 0⟩]⟩, -- OPT_SET_ACTIVE word 0
  ⟨0x828, 64, 8, [⟨63, 32, .ro, 0⟩, ⟨31, 0, .ro, 0⟩]⟩, -- OPT_SET_ACTIVE word 1
  ⟨0x830, 64, 8, [⟨63, 32, .ro, 0⟩, ⟨31, 0, .ro, 0⟩]⟩, -- OPT_SET_ACTIVE word 2
  ⟨0x838, 64, 8, [⟨31, 0, .ro, 0⟩]⟩] -- OPT_SET_ACTIVE word 3

/-- Registers of the optShard page kind (13_collectives_optimizer.md R376). -/
def rowsOptShard : List RegRow := [
  ⟨0x800, 64, 32, [⟨63, 63, .rw, 0⟩, ⟨62, 61, .ro, 0⟩, ⟨60, 58, .rw, 0⟩, ⟨57, 56, .rw, 0⟩, ⟨55, 55, .rw, 0⟩, ⟨51, 48, .rw, 0⟩, ⟨47, 32, .rw, 0⟩, ⟨31, 0, .rw, 0⟩]⟩, -- SH_CFG
  ⟨0x808, 64, 32, [⟨63, 12, .rw, 0⟩]⟩, -- SH_STATE_BASE
  ⟨0x810, 64, 32, [⟨63, 6, .rw, 0⟩, ⟨3, 0, .rw, 0⟩]⟩, -- SH_GRAD
  ⟨0x818, 64, 32, [⟨63, 6, .rw, 0⟩]⟩, -- SH_RES_DESC
  ⟨0x820, 64, 32, [⟨63, 0, .ro, 0⟩]⟩] -- SH_LAST_STEP

/-- Registers of the rec page kind (14_recovery.md R396). -/
def rowsRec : List RegRow := [
  ⟨0x100, 8, 1, [⟨7, 6, .ro, 0⟩, ⟨5, 5, .ro, 0⟩, ⟨4, 4, .ro, 0⟩, ⟨3, 3, .ro, 0⟩, ⟨2, 2, .ro, 0⟩, ⟨0, 0, .ro, 0⟩]⟩, -- REC_STATUS
  ⟨0x118, 8, 1, [⟨7, 4, .ro, 0⟩, ⟨0, 0, .ro, 0⟩]⟩, -- REC_CMD_STAT
  ⟨0x120, 8, 1, [⟨63, 0, .rw, 0⟩]⟩, -- REC_ARG0
  ⟨0x128, 8, 1, [⟨63, 63, .rw, 0⟩, ⟨11, 0, .rw, 0⟩]⟩, -- REC_ARG1
  ⟨0x130, 8, 1, [⟨63, 12, .rw, 0⟩]⟩, -- REC_SNAP_BASE
  ⟨0x138, 8, 1, [⟨31, 0, .rw, 0⟩]⟩, -- REC_SNAP_SLOT
  ⟨0x148, 8, 1, [⟨31, 0, .rw, 0⟩]⟩, -- REC_MIR_SLOT
  ⟨0x150, 8, 1, [⟨31, 0, .rw, 0⟩]⟩, -- REC_MIR_PART
  ⟨0x140, 8, 1, [⟨63, 12, .rw, 0⟩]⟩, -- REC_MIR_BASE
  ⟨0x158, 8, 1, [⟨63, 3, .rw, 0⟩]⟩, -- REC_INGEST
  ⟨0x160, 8, 1, [⟨63, 0, .ro, 0⟩]⟩, -- REC_VOTE_STEP
  ⟨0x180, 8, 8, [⟨63, 0, .ro, 0⟩]⟩, -- REC_DIGEST
  ⟨0x1C0, 8, 1, [⟨63, 0, .rc, 0⟩]⟩, -- REC_SNAP_CNT
  ⟨0x1C8, 8, 1, [⟨63, 0, .rc, 0⟩]⟩, -- REC_MIRROR_CNT
  ⟨0x1D0, 8, 1, [⟨63, 0, .rc, 0⟩]⟩, -- REC_MIRROR_BYTES_CNT
  ⟨0x1D8, 8, 1, [⟨63, 0, .rc, 0⟩]⟩, -- REC_RESTORE_CNT
  ⟨0x1E0, 8, 1, [⟨63, 0, .rc, 0⟩]⟩, -- REC_VERIFY_FAIL_CNT
  ⟨0x1E8, 8, 1, [⟨63, 0, .rc, 0⟩]⟩, -- REC_POISON_CNT
  ⟨0x800, 16, 64, [⟨63, 6, .rw, 0⟩]⟩, -- REC_SNAP_REGION BASE
  ⟨0x808, 16, 64, [⟨63, 63, .rw, 0⟩, ⟨62, 62, .rw, 0⟩, ⟨31, 0, .rw, 0⟩]⟩] -- REC_SNAP_REGION SIZE

/-- Registers of the rec0 page kind (14_recovery.md R396). -/
def rowsRec0 : List RegRow := [
  ⟨0x108, 8, 1, [⟨28, 24, .rw, 27⟩, ⟨16, 16, .rw, 0⟩, ⟨11, 0, .rw, 0⟩]⟩, -- REC_CFG
  ⟨0x110, 8, 1, [⟨8, 8, .wo, 0⟩, ⟨3, 0, .wo, 0⟩]⟩] -- REC_CMD

/-- Registers of the mantle0 page kind (15_mantle_cloak.md R427). -/
def rowsMantle0 : List RegRow := [
  ⟨0x100, 8, 1, [⟨19, 16, .ro, 0⟩, ⟨15, 15, .ro, 0⟩, ⟨14, 14, .ro, 1⟩, ⟨13, 13, .ro, 0⟩, ⟨12, 12, .ro, 0⟩, ⟨9, 8, .ro, 0⟩, ⟨0, 0, .ro, 0⟩]⟩, -- MNT_STATUS
  ⟨0x108, 8, 1, [⟨63, 0, .ro, 0⟩]⟩, -- MNT_SESSION_SEQ
  ⟨0x118, 8, 1, [⟨3, 0, .ro, 0⟩]⟩, -- MNT_VIOL_NEXT
  ⟨0x130, 8, 1, [⟨63, 0, .rc, 0⟩]⟩, -- MNT_CMD_CNT
  ⟨0x138, 8, 1, [⟨63, 0, .rc, 0⟩]⟩, -- MNT_ATTEST_CNT
  ⟨0x200, 16, 16, [⟨63, 63, .ro, 0⟩, ⟨55, 48, .ro, 0⟩, ⟨47, 40, .ro, 0⟩, ⟨39, 0, .ro, 0⟩]⟩, -- MNT_VIOL_LOG word 0
  ⟨0x208, 16, 16, [⟨63, 0, .ro, 0⟩]⟩, -- MNT_VIOL_LOG ADDR
  ⟨0x400, 16, 32, [⟨63, 12, .ro, 0⟩, ⟨11, 0, .ro, 0⟩]⟩, -- MNT_WIN word 0
  ⟨0x408, 16, 32, [⟨63, 12, .ro, 0⟩, ⟨0, 0, .ro, 0⟩]⟩] -- MNT_WIN word 1

/-- Registers of the mantle page kind (15_mantle_cloak.md R427). -/
def rowsMantle : List RegRow := [
  ⟨0x110, 8, 1, [⟨63, 0, .ro, 0⟩]⟩, -- MNT_LOT_CLASS
  ⟨0x120, 8, 1, [⟨63, 0, .rc, 0⟩]⟩, -- MNT_VIOL_CNT
  ⟨0x128, 8, 1, [⟨63, 0, .rc, 0⟩]⟩, -- MNT_VIOL_OVF_CNT
  ⟨0x140, 8, 4, [⟨63, 0, .ro, 0⟩]⟩] -- MNT_FROZEN

/-- Registers of the mantleReq page kind (15_mantle_cloak.md R427). -/
def rowsMantleReq : List RegRow := [
  ⟨0x100, 8, 480, [⟨63, 0, .rw, 0⟩]⟩] -- Request buffer

/-- Registers of the mantleCert page kind (15_mantle_cloak.md R427). -/
def rowsMantleCert : List RegRow := [
  ⟨0x100, 8, 426, [⟨63, 0, .ro, 0⟩]⟩] -- Certificate

/-- Registers of the crypto page kind (15_mantle_cloak.md R428). -/
def rowsCrypto : List RegRow := [
  ⟨0x100, 8, 1, [⟨2, 2, .ro, 0⟩, ⟨1, 1, .ro, 0⟩, ⟨0, 0, .ro, 0⟩]⟩, -- CRY_STATUS
  ⟨0x108, 8, 1, [⟨7, 0, .rw, 16⟩]⟩, -- CRY_SWEEP_CFG
  ⟨0x110, 8, 1, [⟨16, 0, .ro, 0⟩]⟩, -- CRY_EPOCH_COUNT
  ⟨0x118, 8, 1, [⟨31, 16, .ro, 0⟩, ⟨14, 0, .ro, 0⟩]⟩, -- CRY_SWEEP_POS
  ⟨0x120, 8, 1, [⟨63, 0, .ro, 0⟩]⟩, -- CRY_EPOCH_ABANDON
  ⟨0x128, 8, 1, [⟨63, 0, .rc, 0⟩]⟩, -- CRY_SWEEP_BYTES_CNT
  ⟨0x130, 8, 1, [⟨63, 0, .rc, 0⟩]⟩] -- CRY_DERIVE_CNT

/-- Registers of the power page kind (16_bringup_service.md R466). -/
def rowsPower : List RegRow := [
  ⟨0x100, 8, 1, [⟨39, 32, .ro, 0⟩, ⟨29, 28, .ro, 0⟩, ⟨27, 16, .ro, 750⟩, ⟨11, 0, .ro, 600⟩]⟩, -- PWR_STATUS
  ⟨0x108, 8, 1, [⟨7, 0, .rw, 0⟩]⟩, -- PWR_RATE_TARGET
  ⟨0x110, 8, 1, [⟨15, 8, .mw, 110⟩, ⟨7, 0, .mw, 95⟩]⟩, -- PWR_THR_CFG
  ⟨0x120, 8, 1, [⟨63, 0, .rc, 0⟩]⟩, -- PWR_CLIP_CNT
  ⟨0x200, 8, 50, [⟨11, 8, .ro, 0⟩, ⟨7, 7, .ro, 0⟩, ⟨6, 6, .w1c, 0⟩, ⟨5, 4, .ro, 0⟩, ⟨1, 0, .rw, 0⟩]⟩] -- PWR_DOMAIN

/-- Registers of the power0 page kind (16_bringup_service.md R466). -/
def rowsPower0 : List RegRow := [
  ⟨0x118, 8, 1, [⟨43, 32, .mw, 1800⟩, ⟨11, 0, .ro, 0⟩]⟩, -- PWR_MODULE
  ⟨0x128, 8, 1, [⟨63, 0, .rc, 0⟩]⟩] -- PWR_ENERGY_CNT

/-- Registers of the ctlport page kind (16_bringup_service.md R467). -/
def rowsCtlport : List RegRow := [
  ⟨0x100, 8, 1, [⟨1, 1, .ro, 0⟩, ⟨0, 0, .ro, 0⟩]⟩, -- CP_STATUS
  ⟨0x108, 8, 1, [⟨63, 12, .rw, 0⟩]⟩, -- CP_STAGE_BASE
  ⟨0x110, 8, 1, [⟨31, 0, .rw, 1048576⟩]⟩, -- CP_STAGE_SIZE
  ⟨0x118, 8, 1, [⟨63, 12, .rw, 0⟩]⟩, -- CP_TELE_BASE
  ⟨0x120, 8, 1, [⟨31, 0, .rw, 0⟩]⟩, -- CP_TELE_SIZE
  ⟨0x128, 8, 1, [⟨63, 0, .rw, 0⟩]⟩, -- CP_TELE_HEAD
  ⟨0x130, 8, 1, [⟨63, 0, .ro, 0⟩]⟩, -- CP_TELE_TAIL
  ⟨0x138, 8, 1, [⟨23, 8, .rw, 20⟩, ⟨7, 0, .rw, 20⟩]⟩, -- CP_CFG
  ⟨0x140, 8, 1, [⟨63, 0, .rc, 0⟩]⟩, -- CP_TX_FRAME_CNT
  ⟨0x148, 8, 1, [⟨63, 0, .rc, 0⟩]⟩, -- CP_RX_FRAME_CNT
  ⟨0x150, 8, 1, [⟨63, 0, .rc, 0⟩]⟩, -- CP_CRC_CNT
  ⟨0x158, 8, 1, [⟨63, 0, .rc, 0⟩]⟩, -- CP_RETX_CNT
  ⟨0x160, 8, 1, [⟨63, 0, .rc, 0⟩]⟩, -- CP_SEQ_DROP_CNT
  ⟨0x168, 8, 1, [⟨63, 0, .rc, 0⟩]⟩] -- CP_STAGE_ERR_CNT

/-- Registers of the bist page kind (16_bringup_service.md R467). -/
def rowsBist : List RegRow := [
  ⟨0x100, 8, 1, [⟨20, 16, .ro, 0⟩, ⟨0, 0, .ro, 0⟩]⟩, -- BIST_STATUS
  ⟨0x108, 8, 1, [⟨63, 0, .wo, 0⟩]⟩, -- BIST_REQ
  ⟨0x110, 8, 1, [⟨63, 0, .rc, 0⟩]⟩, -- BIST_REQ_CNT
  ⟨0x118, 8, 1, [⟨63, 0, .rc, 0⟩]⟩, -- BIST_FAIL_CNT
  ⟨0x120, 8, 1, [⟨63, 0, .rc, 0⟩]⟩] -- BIST_HOLD_CNT

/-- The masters that have Buttons (09_yoke_pockets.md R257). -/
def hasButtons (mid : Nat) : Bool :=
  mid < 0x20 || (0x40 ≤ mid && mid ≤ 0x44) || (0x48 ≤ mid && mid ≤ 0x53) || mid == 0xF0

/-- The page kind of a page index, `none` where the page is unoccupied (17_register_pages.md R470, R472, R474). -/
def pageKind (page : Nat) : Option PageKind :=
  let u := page % 1024
  match page / 1024 with
  | 0x01 => if u < 32 then some (.core u) else if 256 ≤ u ∧ u < 512 then some (.ctx ((u - 256) / 8) ((u - 256) % 8)) else none
  | 0x02 => if u < 33 then some (.hem u) else none
  | 0x03 => if u < 4 then some (.tagpool u) else none
  | 0x04 => if u = 0 then some .yoke else if u < 9 then some (.yokeSlots (u - 1)) else none
  | 0x05 => if u < 512 then some (.pocket u) else if u < 528 then some (.wordPocket (u - 512))
            else if u < 530 then some (.binding (u - 528)) else none
  | 0x06 => if hasButtons u then some (.button u) else none
  | 0x07 => if u < 8 then some (.hbm u) else none
  | 0x08 => if u < 4 then some (.llc u) else none
  | 0x09 => if u < 4 then some (.fabric u) else none
  | 0x0A => if u < 4 then some (.seam u) else none
  | 0x0B => if u < 16 then some (.port u) else none
  | 0x0C => if u < 4 then some (.link u) else none
  | 0x0D => if u < 256 then some (.partner u) else none
  | 0x0E => if u < 16 then some (.group u) else none
  | 0x0F => if u < 16 then some (.leg u) else none
  | 0x10 => if u < 32 then (if u % 8 = 0 then some (.coll (u / 8)) else if u % 8 < 5 then some (.collMember (u / 8) (u % 8 - 1)) else none) else none
  | 0x11 => if u < 516 then (if u % 129 = 0 then some (.opt (u / 129)) else some (.optShard (u / 129) (u % 129 - 1))) else none
  | 0x12 => if u < 4 then some (.recov u) else none
  | 0x13 => if u < 4 then some (.mantle u) else if u = 4 then some .mantleReq else if u = 5 then some .mantleCert else none
  | 0x14 => if u < 4 then some (.crypto u) else none
  | 0x15 => if u < 4 then some (.power u) else none
  | 0x16 => if u = 0 then some .ctlport else none
  | 0x17 => if u < 4 then some (.bist u) else none
  | 0x18 => if u < 4 then some (.service u) else none
  | _ => none

/-! Page indices by block (R470, R474). -/
abbrev pgCore (c : Nat) : Nat := 0x400 + c
abbrev pgCtx (c x : Nat) : Nat := 0x500 + (8 * c + x)
abbrev pgHem (h : Nat) : Nat := 0x800 + h
abbrev pgPool (p : Nat) : Nat := 0xC00 + p
abbrev pgYoke : Nat := 0x1000
abbrev pgSlots (k : Nat) : Nat := 0x1001 + k
abbrev pgPocket (k : Nat) : Nat := 0x1400 + k
abbrev pgWord (w : Nat) : Nat := 0x1600 + w
abbrev pgBind (b : Nat) : Nat := 0x1610 + b
abbrev pgBtn (m : Nat) : Nat := 0x1800 + m
abbrev pgHbm (s : Nat) : Nat := 0x1C00 + s
abbrev pgLlc (p : Nat) : Nat := 0x2000 + p
abbrev pgFab (p : Nat) : Nat := 0x2400 + p
abbrev pgSeam (n : Nat) : Nat := 0x2800 + n
abbrev pgPort (p : Nat) : Nat := 0x2C00 + p
abbrev pgLink (p : Nat) : Nat := 0x3000 + p
abbrev pgPartner (k : Nat) : Nat := 0x3400 + k
abbrev pgGroup (k : Nat) : Nat := 0x3800 + k
abbrev pgLeg (k : Nat) : Nat := 0x3C00 + k
abbrev pgColl (p : Nat) : Nat := 0x4000 + 8 * p
abbrev pgOpt (p : Nat) : Nat := 0x4400 + 129 * p
abbrev pgRec (p : Nat) : Nat := 0x4800 + p
abbrev pgMnt (p : Nat) : Nat := 0x4C00 + p
abbrev pgMntReq : Nat := 0x4C04
abbrev pgMntCert : Nat := 0x4C05
abbrev pgCry (p : Nat) : Nat := 0x5000 + p
abbrev pgPwr (p : Nat) : Nat := 0x5400 + p
abbrev pgCp : Nat := 0x5800
abbrev pgBist (p : Nat) : Nat := 0x5C00 + p
abbrev pgSvc (p : Nat) : Nat := 0x6000 + p

/-- The key of a register: its byte offset in the MMIO region. -/
abbrev reg (page off : Nat) : Nat := page * 4096 + off

/-- The owning block's page of a Hem (02_handshake_time.md R49, R58). -/
def hemOwnerPage (h : Nat) : Nat :=
  if h < 8 then pgHbm h else if h < 24 then pgPort (h - 8) else if h = 24 then pgCp
  else if h < 29 then pgSvc (h - 25) else pgMnt (h - 29)

/-- The main page of a sub-page, the page itself otherwise (R475). -/
def mainPage (page : Nat) : Nat :=
  match pageKind page with
  | some (.ctx c _) => pgCore c
  | some (.yokeSlots _) => pgYoke
  | some (.partner k) => pgLink (k / 64)
  | some (.group k) => pgLink (k / 4)
  | some (.leg k) => pgLink (k / 4)
  | some (.collMember p _) => pgColl p
  | some (.optShard p _) => pgOpt p
  | _ => page

/-- The page whose BLK_OWNER a page shows (R475). -/
def ownerPage (page : Nat) : Nat :=
  match pageKind page with
  | some (.hem h) => hemOwnerPage h
  | _ => mainPage page

/-- The Panel that holds a page's block. -/
def pagePanel (page : Nat) : Nat :=
  match pageKind page with
  | some (.core c) => c / 8
  | some (.ctx c _) => c / 8
  | some (.hem h) => if h < 8 then h / 2 else if h < 24 then (h - 8) / 4 else if h = 24 then 0 else if h < 29 then h - 25 else h - 29
  | some (.button m) => if m < 0x20 then m / 8 else if m = 0x44 ∨ m = 0xF0 then 0 else m % 4
  | some (.hbm s) => s / 2
  | some (.tagpool p) | some (.llc p) | some (.fabric p) | some (.seam p) | some (.link p) | some (.coll p)
  | some (.collMember p _) | some (.opt p) | some (.optShard p _) | some (.recov p) | some (.mantle p) | some (.crypto p)
  | some (.power p) | some (.bist p) | some (.service p) => p
  | some (.port p) => p / 4
  | some (.partner k) => k / 64
  | some (.group k) | some (.leg k) => k / 4
  | _ => 0

/-- The power domain PD_d of a page's block (R480). -/
def pageDomain (page : Nat) : Nat :=
  let p := pagePanel page
  match pageKind page with
  | some (.core c) => c
  | some (.ctx c _) => c
  | some (.llc _) => 32 + p
  | some (.hbm _) => 36 + p
  | some (.port _) | some (.link _) | some (.partner _) | some (.group _) | some (.leg _) => 40 + p
  | some .ctlport => 48
  | some (.mantle _) | some .mantleReq | some .mantleCert => 49
  | some (.hem h) => if h < 8 then 36 + p else if h < 24 then 40 + p else if h = 24 then 48 else if h < 29 then 44 + p else 49
  | some (.button m) => if m = 0xF0 then 49 else 44 + p
  | _ => 44 + p

/-- The owner after PD_49 leaves reset (R474, 15_mantle_cloak.md R399, R427). -/
def ownerReset (page : Nat) : Nat :=
  match pageKind page with
  | some .yoke | some (.yokeSlots _) | some (.binding _) | some .ctlport => 0x40
  | some (.wordPocket w) => if w < 8 then 0xF0 else 0x44
  | some (.pocket _) => 0
  | some (.button m) => m
  | some (.mantle _) | some .mantleCert => 0xF0
  | some .mantleReq => 0x44
  | some (.hem h) => if h = 24 then 0x40 else if 29 ≤ h then 0xF0 else 0x40 + pagePanel page
  | some _ => 0x40 + pagePanel page
  | none => 0

/-- Pages of a class (R474). -/
def classPages (cls : Nat) : Nat :=
  nth 0 [0, 288, 33, 4, 9, 530, 50, 8, 4, 4, 4, 16, 4, 256, 16, 16, 20, 516, 4, 6, 4, 4, 1, 4, 4] cls

/-- FIRST and SPAN of a page's run (R506). -/
def pageRun (page : Nat) : Nat × Nat :=
  match pageKind page with
  | some (.ctx c _) => (256 + 8 * c, 8)
  | some .yoke | some (.yokeSlots _) => (0, 9)
  | some (.binding _) => (528, 2)
  | some (.partner k) => (64 * (k / 64), 64)
  | some (.group k) | some (.leg k) => (4 * (k / 4), 4)
  | some (.coll p) | some (.collMember p _) => (8 * p, 5)
  | some (.opt p) | some (.optShard p _) => (129 * p, 129)
  | _ => (page % 1024, 1)

/-- The block-specific register rows of a page kind (R483, R484). -/
def kindRows : PageKind → List RegRow
  | .core _ => rowsCore
  | .ctx _ _ => rowsCtx
  | .hem _ => rowsHem
  | .tagpool _ => rowsTagpool
  | .yoke => rowsYoke
  | .yokeSlots _ => rowsYokeSlots
  | .pocket _ => rowsPocket
  | .wordPocket _ => rowsWordPocket
  | .binding b => if b = 0 then rowsBinding0 ++ rowsBinding else rowsBinding
  | .button _ => rowsButton
  | .hbm _ => rowsHbm
  | .llc _ => rowsLlc
  | .fabric _ => rowsFabric
  | .seam _ => rowsSeam
  | .port _ => rowsPort
  | .link p => if p = 0 then rowsLink ++ rowsLink0 else rowsLink
  | .partner _ => rowsPartner
  | .group _ => rowsGroup
  | .leg _ => rowsLeg
  | .coll _ => rowsColl
  | .collMember _ _ => rowsCollMember
  | .opt _ => rowsOpt
  | .optShard _ _ => rowsOptShard
  | .recov p => if p = 0 then rowsRec ++ rowsRec0 else rowsRec
  | .mantle p => if p = 0 then rowsMantle ++ rowsMantle0 else rowsMantle
  | .mantleReq => rowsMantleReq
  | .mantleCert => rowsMantleCert
  | .crypto _ => rowsCrypto
  | .power p => if p = 0 then rowsPower ++ rowsPower0 else rowsPower
  | .ctlport => rowsCtlport
  | .bist _ => rowsBist
  | .service _ => []

/-- Does a row hold a register at offset `off`? -/
def RegRow.hits (r : RegRow) (off : Nat) : Bool :=
  r.lo ≤ off && (off - r.lo) % r.stride == 0 && decide ((off - r.lo) / r.stride < r.count)

/-- The fields of the register at an offset of a page; empty where the offset holds none (R472, R476). -/
def regFlds (page off : Nat) : List Fld :=
  match pageKind page with
  | none => []
  | some k => match (if off < 0x100 then rowsHdr else kindRows k).find? (fun r => r.hits off) with
    | none => []
    | some r => r.flds

/-- The word with every field at its reset value. -/
def fldsReset (fs : List Fld) : Word := w64 (fs.foldl (fun a f => a + f.rst * 2 ^ f.lo) 0)

/-- The bits of the fields with access code `a`. -/
def fldsMask (a : Acc) (fs : List Fld) : Word :=
  fs.foldl (fun m f => if f.acc = a then m ||| maskHL f.hi f.lo else m) 0

/-- The reset value of the register at key `k`. BLK_OWNER resets to its table owner (R474); write window 0 admits SP,
PORT and BIST to all of memory at PD_49 reset (15_mantle_cloak.md R400). OPE_POS_MAP holds the fuses of a KNM-A256 (log entry 4). -/
def regReset (k : Nat) : Word :=
  if k = reg (pgMnt 0) R_MNT_WIN_word_0 then 0x10C
  else if k = reg (pgMnt 0) R_MNT_WIN_word_1 then 0x810FFFF001
  else if k % 4096 = R_OPE_POS_MAP ∧ k / 4096 / 1024 = 1 ∧ k / 4096 % 1024 < 32 then w64 (256 * 2 ^ 40 + 8 * 2 ^ 8)
  else if k % 4096 = R_BLK_OWNER then w64 (ownerReset (k / 4096)) else fldsReset (regFlds (k / 4096) (k % 4096))

end Sys2Proof.Machine
end

