-- ==== Sys2Proof/Machine/State.lean ====
section
/-! DEFINITION. The state of the module, plain data: every register, memory, queue, latch and pin the spec names, and the queue
of waiting commands. -/
namespace Sys2Proof.Machine

/-! ## Control cores (06_control_core.md) -/

/-- Context states of R147. HALTED is the flag `Ctx.halted` over the state beneath it, since a halted context resumes into
the wait it was in (R182). -/
inductive CtxState | idle | ready | waitQueue | waitSync | waitLocal | error
  deriving DecidableEq, Repr

/-- A scalar access in flight (R208). -/
inductive ScalarAcc | ld (addr sd : Nat) | st (addr : Nat) (value : Word)
  deriving DecidableEq, Repr

/-- What WAIT_LOCAL waits for (R147, CTX_STATUS.WAIT_CAUSE). `fence` and `halt` hold the commands awaited. -/
inductive LocalWait
  | none | fence (ids : List Nat) | mem (a : ScalarAcc) | task | refetch | halt
  deriving DecidableEq, Repr

/-- The condition of a waiting synchronisation record: KIND and TARGET of SYNC_WAIT (09_yoke_pockets.md R238). -/
inductive WaitCond
  | full (w : Nat) | empty (w : Nat) | barrier (slot : Nat) (gen : Bool) | overrun (slot : Nat) (gen : Bool)
  | pocket (k : Nat) | button (mask : Nat)
  deriving DecidableEq, Repr

/-- A synchronisation or Pocket request on its way to its target (R235). -/
inductive SyncReq
  | take (w sd : Nat) | peek (w sd : Nat) | put (w : Nat) (v : Word) | set (w : Nat) (v : Word) | clear (w : Nat)
  | arrive (slot : Nat) (wait : Bool)
  | send (k : Nat) (words : List Word) (pd : Nat) | recv (k sbase count pd : Nat)
  | ring (mid button : Nat)
  deriving DecidableEq, Repr

/-- The target's answer on its way back (R235, R241, R246, R251 to R253): registers to write, an error to refuse with. -/
inductive SyncAns
  | done | value (sd : Nat) (v : Word) | outcome (pd : Nat) (ok : Bool) (sbase : Nat) (words : List Word)
  | refuse (code : Nat)
  deriving DecidableEq, Repr

/-- State of a full-bit table entry (08_core_store_streaming.md R215). -/
inductive FbState | empty | filling | full
  deriving DecidableEq, Repr

/-- A full-bit table entry: state, writers that hold it in FILLING, the parity condition of R218, the context (8 * core + context) whose open
task wrote it (R171), and for a prefetched tile the stream, bytes, whether a consumer has read it and whether it has been counted late (R225, R230). -/
structure FbEntry where
  st : FbState
  writers : Nat
  parity : Bool
  task : Option Nat
  prefetch : Option (Nat × Nat)
  read : Bool
  late : Bool
  deriving DecidableEq, Repr

/-- How a closing task ends (06_control_core.md R173, R174): committed, or discarded with CAUSE, or discarded by HALT. -/
inductive TaskEnd | commit | discard (cause : Nat) | halt
  deriving DecidableEq, Repr

/-- An open task (R169, R170): opening order, depth at opening, the saved registers by offset of the context page, the
full-bit entries to restore, and how it is closing. `writing` is the write-back of R174 under way. -/
structure TaskSt where
  order : Nat
  depth : Nat
  saved : List (Nat × Word)
  fbSaved : List (Nat × FbEntry)
  closing : Option TaskEnd
  writing : Bool
  deriving DecidableEq, Repr

/-- A context (R146, R147): scalars, predicates, address descriptors, PC, loop levels, DRAW_SEQ, command count and
breakpoints are in its register page; the rest is here. `cur` is the executed record it took last, in the form taken (07_command_encoding.md R187);
`released` says that the wake it keeps is the release its arrival waited for, with which it completes (09_yoke_pockets.md R240, R247). -/
structure Ctx where
  st : CtxState
  halted : Bool
  stepping : Bool
  bpSkip : Bool
  haltNext : Bool
  wait : Option WaitCond
  wakePending : Bool
  woken : Bool
  lw : LocalWait
  depth : Nat
  err : Nat
  task : Option TaskSt
  taskCommitted : Bool
  taskCause : Nat
  taskAbort : Nat
  req : Option SyncReq
  ans : Option SyncAns
  cur : Rec
  released : Bool
  deriving DecidableEq, Repr

/-- A record in an engine queue (R152 to R154): its number, context, PC, the record, DRAW_SEQ found at issue, the BASE of
each descriptor operand at issue (R188), the reduction length K of a product, whether it is a command of an open task;
then what it reads when it comes to fire (R193) and what it latches when it fires (04_numerics.md R99). -/
structure QEntry where
  id : Nat
  ctx : Nat
  pc : Nat
  word : Rec
  bases : List Nat
  kLen : Nat
  task : Bool
  arrived : Bool
  desc : List Desc
  fired : Bool
  key : DrawKey
  shifted : List Nat
  deriving DecidableEq, Repr

/-! ## Arrays (03_outer_product_arrays.md) -/

/-- A product in its step phase (R65 to R79): entry number, steps, attempt of a scaled retry and its shift, steps done by each cell
group, entries fetched by each feeder and the entries of it that the feeder's link holds, counts of this attempt, whether every operand read
was finite, the arrays whose accumulators have been copied, the arrays ACC_ZERO has cleared for it, the fed arrays as bits, whether the open
accumulation ends with it. -/
structure OpeRun where
  id : Nat
  steps : Nat
  attempt : Nat
  shift : Nat
  groups : Tab Nat
  fetched : Tab Nat
  links : Tab (List (List (List FVal)))
  ev : NumEv
  finite : Bool
  copied : List Nat
  zeroed : List Nat
  fed : Nat
  closes : Bool
  deriving DecidableEq, Repr

/-- A product in its drain (R78): entry, attempt, rows left by array, OPEs finished, counts of the attempt. -/
structure DrainRun where
  id : Nat
  attempt : Nat
  shift : Nat
  left : List (Nat × List Nat)
  opes : List Nat
  ev : NumEv
  finite : Bool
  deriving DecidableEq, Repr

/-- A drain latch: W40 code, whether a parity mismatch has been found in its value, and whether one stands in it unseen (R84). -/
structure LatchCell where
  code : Nat
  nan : Bool
  bad : Bool
  deriving DecidableEq, Repr

/-- A saved granule of the task write log (06_control_core.md R171). -/
structure LogEntry where
  ctx : Nat
  addr : Nat
  old : List Byte
  deriving DecidableEq, Repr

/-- A write of a task's command to a 64-byte granule (numbered by address / 64) that is still to be logged and made: its bytes by address (R172). -/
structure PendWrite where
  id : Nat
  ctx : Nat
  gran : Nat
  parts : List (Nat × List Byte)
  deriving DecidableEq, Repr

/-! ## Stream engines (08_core_store_streaming.md) -/

/-- Which tag a request holds (R220, R223): none yet, one of the engine's 32, or a shared one. -/
inductive TagKind | none | reserved | shared
  deriving DecidableEq, Repr

/-- A stream request (R219, R231): its record, its number in the record, the destination block it writes in copy `copy`
(or granule `row`, `lo` for gathers and scatters), and the HBM pseudo-channels it uses (64 per Panel, 256 in all). -/
structure StrReq where
  cmd : Nat
  num : Nat
  copy : Nat
  row : Nat
  lo : Nat
  len : Nat
  target : Nat
  pcs : List Nat
  tag : TagKind
  asked : Bool
  moved : Bool
  taken : Nat
  deriving DecidableEq, Repr

/-- A fired stream record (R219): its entry, stream, deadline class, requests still to be made, the watch versions its reads
carried, whether it was invalidated, whether it is a refetch of a record that has completed, and whether refetch state is
retained for its tile (R228, R229). -/
structure StrRun where
  id : Nat
  cmd : QEntry
  sid : Nat
  dclass : Nat
  todo : List StrReq
  vers : List (Nat × Nat)
  invalid : Bool
  refetch : Bool
  watched : Bool
  deriving DecidableEq, Repr

/-- Per-stream deadline estimate (R225): rate with 8 fraction bits, bytes buffered, last release, never released. -/
structure StrEst where
  rate : Int
  buffered : Int
  lastRel : Nat
  neverReleased : Bool
  deriving DecidableEq, Repr

/-- Retained refetch state of a watched tile (R228, R229): its entry in a core's full-bit table, the record, and the watch
entries with the versions the reads carried. -/
structure WatchTile where
  core : Nat
  entry : Nat
  cmd : QEntry
  vers : List (Nat × Nat)
  deriving DecidableEq, Repr

/-- An access to a bank of a core store (08_core_store_streaming.md R212): its core, the step times until it comes to the bank, the bank (64 to 71 the sync
banks), and the class of its requester, 1 to 8 in the order of R212. -/
structure BankAsk where
  core : Nat
  delay : Nat
  bank : Nat
  cls : Nat
  deriving DecidableEq, Repr

/-- The setting of a core's delay lines in hundredths of a replica delay unit (02_handshake_time.md R39): the fused setting, 1.5 times the replica delay
(16_bringup_service.md R431), or one that a calibration has set. -/
inductive DelaySet | fused | set (hundredths : Nat)
  deriving DecidableEq, Repr

/-- The engines of a core: round-robin pointer, next command number, the three queues, the products in their steps (oldest first), the drains, the
arrays (`accBad`: the accumulators that hold a parity mismatch, R84), the task write log, the
stream engine, and what the step-time counters need (R86, R184): since the last step time counted, the steps fired by each cell group and the
records taken. -/
structure CoreSt where
  rr : Nat
  nextId : Nat
  taskOrder : Nat
  opeQ : List QEntry
  vecQ : List QEntry
  strQ : List QEntry
  prods : List OpeRun
  drains : List DrainRun
  acc : Tab Nat
  accBad : List Nat
  latch : Tab LatchCell
  accOwner : Option Nat
  accTask : Bool
  accClosing : Bool
  arrFail : Nat
  vecFail : Bool
  strFail : Bool
  katRunning : List Nat
  log : List LogEntry
  logQ : List PendWrite
  runs : List StrRun
  slots : List StrReq
  held : List StrReq
  parked : List StrReq
  watch : List WatchTile
  nextReq : Nat
  fires : Tab Nat
  took : Nat
  recal : Bool
  delay : DelaySet
  keptDelay : Nat
  keptValid : Bool
  deriving DecidableEq, Repr

/-! ## Synchronisation (09_yoke_pockets.md) -/

/-- FULL and WAITED of a sync word (R241). -/
structure SyncFlags where
  full : Bool
  waited : Bool
  deriving DecidableEq, Repr

/-- A registration or change notice on its way to the Yoke (R242). -/
inductive YokeMsg | reg (core ctx : Nat) (cond : WaitCond) | notice (n : Notice)
  deriving DecidableEq, Repr

/-- A wake on its way to a core (R239): the contexts it names, or the Buttons newly rung. -/
inductive Wake | ctxs (core : Nat) (xs : List Nat) (cond : Notice) | button (core bits : Nat)
  deriving DecidableEq, Repr

/-- A release on its way to a core (R247), or the wake of a disable (R248). -/
structure Release where
  core : Nat
  slot : Nat
  gen : Bool
  disable : Bool
  deriving DecidableEq, Repr

/-- A barrier slot (R245 to R248): enabled, GEN, ARRIVED, AHEAD, and the participants with lead 1 and lead 2, as
256-bit masks. -/
structure SlotSt where
  en : Bool
  gen : Bool
  arrived : Nat
  ahead : Nat
  lead1 : Nat
  lead2 : Nat
  deriving DecidableEq, Repr

/-! ## Memory (10_hbm_llc.md) -/

/-- A valid LLC line: its way, dirty bit, poison of its two granules and 128 bytes (R284, R287, R288); the error that stands in its data and in
its tag until the line is read next (R288, log entry 102). -/
structure LlcLine where
  way : Nat
  dirty : Bool
  p0 : Bool
  p1 : Bool
  data : List Byte
  err : Ecc
  tag : Ecc
  deriving DecidableEq, Repr

/-- A sparing entry (R280): the granule, and what the stack itself holds of it, which is read again once the entry is lost: bytes, key,
uncorrectable words, poison. -/
structure Spare where
  gran : Nat
  data : List Byte
  key : Nat
  bad : List Bool
  pois : Bool
  deriving DecidableEq, Repr

/-- An IEEE 1500 operation that runs (R270): its stack, and the channel and length it was started with. -/
structure Op1500 where
  stack : Nat
  chan : Nat
  len : Nat
  deriving DecidableEq, Repr

/-- Memory beside its bytes: words that read uncorrectable, words in which a correctable error stands, poisoned granules, the memory key each granule of HBM was
written under, the key in each of the two slots of a Panel (15_mantle_cloak.md R417; 0: zeroised) and the epoch bit of each
2 MiB region, spared granules (their bytes stand in `cells`, for the spare store serves them), the LLC lines by line address, the line addresses still to be flushed, the
IEEE 1500 operations running, the soft repairs running (stack, granule), and the Panels whose HBM was taken out of ON and has not trained since (16_bringup_service.md R436). -/
structure MemSt where
  cells : List Host.Cell
  bad : Tab Bool
  weak : Tab Bool
  poison : Tab Bool
  keyOf : Tab Nat
  slotKey : Tab Nat
  epoch : Tab Bool
  spared : List Spare
  llc : Tab LlcLine
  flushing : List Nat
  run1500 : List Op1500
  repairing : List (Nat × Nat)
  wasOff : List Nat
  choices : Nat
  deriving DecidableEq, Repr

/-! ## Accesses -/

/-- The answer of the last bus access: the model's own field. -/
inductive Resp | none | ok | data (v : Word) | bytes (b : List Byte) | poison (b : List Byte) | busError | violation | refused
  deriving DecidableEq, Repr
/-! ## Panel fabric (11_onchip_fabric.md) -/

/-- Where a message of the fabric stands: at its source, in the buffer of an incoming port of a router, on the way over a Seam, at its sink. -/
inductive FabAt | source | buf (p x y port : Nat) | seam (n : Nat) (dirB : Bool) | sink
  deriving DecidableEq, Repr

/-- The space a message holds where it stands, or on the far side of the Seam it crosses (R309): the shared pool, the reserve of a crossing index and class, or
space of its own. -/
inductive FabSlot | own | pool | reserve (index cls : Nat)
  deriving DecidableEq, Repr

/-- A flit on its way over a Seam (R296, R297): its sequence number, its lane group, and whether it is being replayed. -/
structure FabFlit where
  seq : Nat
  group : Nat
  again : Bool
  deriving DecidableEq, Repr

/-- A message of the fabric: what was sent, the Seams it has entered, where it stands, the space it holds, its unacknowledged flits on a Seam, and whether the sending
end of a Seam that went down re-sends it (R299). -/
structure FabMsg where
  req : FabReq
  cross : Nat
  loc : FabAt
  slot : FabSlot
  fly : List FabFlit
  resent : Bool
  deriving DecidableEq, Repr

/-- An arbiter (R301 to R305): the input (4 * port + class) it granted last, on which the grant stays parked, none after a reset of the fabric domain; the input
decided on for the next grant and the inputs that were eligible when that round began; the sequence number of the next flit where it enters a Seam. -/
structure ArbSt where
  last : Option Nat
  decided : Option Nat
  seen : List Nat
  seq : Nat
  deriving DecidableEq, Repr

/-! ## Wyist links (12_wyist_links.md) -/

/-- An unacknowledged frame in the replay region (R332): the frame, the port and time of its last transmission, the time it was last
retransmitted for a NACK, its slot of the region. -/
structure TxFrame where
  f : WFrame
  port : Nat
  sentAt : Nat
  nackAt : Option Nat
  slot : Nat
  deriving DecidableEq, Repr

/-- A receive slot that holds an accepted frame (R327): its port, and whether it has been handed to an engine, which still
holds the slot. -/
structure RxSlot where
  f : WFrame
  port : Nat
  handed : Bool
  deriving DecidableEq, Repr

/-- The deficit round-robin of a port (R325): the class it stands at, and the bytes each class may still send. -/
structure DrrSt where
  cur : Nat
  bytes : Tab Nat
  deriving DecidableEq, Repr

/-- A partner entry beside its registers (R323 to R333, R341): the pair key, and by class the 16-bit counts of first
transmissions, of the highest CREDIT received and of slots freed, the next XSEQ, one above the highest XSEQ accepted, the
frames accepted since the last acknowledgement, the port after the one last used; the times of first transmissions whose
credit is outstanding; reports by port; the ports with a probe unanswered (R333); what was sent and received in the present window; the command an audit ends, and
the staged values it was given with (R344). -/
structure Partner where
  key : Option LinkKey
  sent : Tab Nat
  credit : Tab Nat
  freed : Tab Nat
  xseq : Tab Nat
  xhi : Tab Nat
  since : Tab Nat
  next : Tab Nat
  credTimes : List (Nat × Nat)
  unacked : List TxFrame
  held : List RxSlot
  reports : Tab Nat
  probes : List Nat
  winSent : Bool
  winSeen : Bool
  auditOp : Nat
  staged : Word × Word
  deriving DecidableEq, Repr

/-- A leg of a root group (R336): its partner entry, ACK_SEQ, whether it is attached, one above the highest XSEQ accepted from
it, and the next group SEQ it has not been sent. -/
structure LegSt where
  entry : Nat
  ack : Nat
  attached : Bool
  xhi : Nat
  sent : Nat
  deriving DecidableEq, Repr

/-- A retained group frame (R337): the frame and the group transmission, and the legs (by index) that have not acknowledged it, each
with the last transmission meant for it, and its slot of the replay region. -/
structure GTx where
  f : WFrame
  port : Nat
  sentAt : Nat
  slot : Nat
  legs : List (Nat × TxFrame)
  deriving DecidableEq, Repr

/-- A group entry beside its registers: the group key, the legs and retained frames of a root, the held frames and acknowledgement count
of a member. -/
structure GroupSt where
  key : Option LinkKey
  legs : List LegSt
  retained : List GTx
  held : List RxSlot
  since : Nat
  deriving DecidableEq, Repr

/-- A frame handed to an engine (R322): the engine's master ID, the stream and SEQ whose slot it holds, the frame, and whether the engine has
taken it in and counted it. -/
structure EngIn where
  mid : Nat
  src : RxStream
  f : WFrame
  seen : Bool
  deriving DecidableEq, Repr

/-! ## Collective engines, the optimizer and recovery (13_collectives_optimizer.md, 14_recovery.md) -/

/-- A collective command taken (R351): its number of taking, descriptor, source and destination tile descriptors, whether it has started, the
elements still to be written in each destination tile, the chunk frames folded, the step word it started with, the draw inputs latched then
(04_numerics.md R99), the words
received (0: a contribution's, 1: a result's; position; word), and whether the owner's result word has been sent. -/
structure CollCmd where
  num : Nat
  d : Desc
  srcD : Desc
  dstD : List Desc
  started : Bool
  left : List Nat
  folded : List Nat
  stepWord : Word
  key : DrawKey
  words : List (Nat × Nat × Word)
  sentRes : Bool
  deriving DecidableEq, Repr

/-- The closing phase (R370): stage 0 none, 1 waiting (step 1), 2 CLOSE1 sent, 3 CLOSE2 sent; the commands it waits for
(from step 2 on: the commands taken before it, which are not held), its word, and the words received (stage, partner entry, word) in order. -/
structure ClosingSt where
  stage : Nat
  waits : List Nat
  word : Word
  got : List (Nat × Nat × Word)
  deriving DecidableEq, Repr

/-- A recovery command under way (R392): its OP (0 none), OUTCOME, the RESULT it will end with once decided, the replies of sources it
still waits for, the step word (LS_EXP and GOOD_STEPS) a source gave, and whether a restore has completed. -/
structure RecSt where
  op : Nat
  outcome : Bool
  result : Option Nat
  asked : Nat
  loss : Nat
  restored : Bool
  deriving DecidableEq, Repr


/-! ## Power, voltage and pins (16_bringup_service.md R429 to R442, 18_module_hardware.md R497 to R504) -/

/-- A Panel's rails beside PWR_STATUS (R437 to R442): the setting of VCORE under R438, whether an override runs, the stacks at
CRIT, the time of the last raise. -/
structure RailSt where
  want : Nat
  forced : Bool
  crit : List Nat
  raised : Nat
  deriving DecidableEq, Repr

/-- Power-up and the low-speed header. `phase`: 0 before standby power, 1 no Mantle image verifies, 3 waits for main power, 4 to 6 the steps
of Table: Power-up sequence, 7 REDUCED_SERVICE has cleared. The last 100 input-power readings, whether the last reading calls for
an override, the causes of STATUS, ALERT_N and whether STATUS has been read since a cause was set, PWR_GOOD, what SMBus and the TAP hold. -/
structure PwrSt where
  phase : Nat
  mainGood : Bool
  resetHeld : Bool
  tripped : Bool
  inputLow : Bool
  imgFail : Bool
  alert : Bool
  seen : Bool
  pwrGood : Bool
  watts : List Nat
  overPower : Bool
  regAddr : Word
  smbAns : Option (List Byte)
  imgOff : Nat
  imgBuf : List Host.Cell
  tap : Nat
  tdo : Word
  cells : List Bool
  deriving DecidableEq, Repr

/-! ## The Mantle (15_mantle_cloak.md, 16_bringup_service.md R447, R455, R464) -/

/-- A firmware image in a flash slot: whether it verifies, its SHA-512, its version. -/
structure FwImg where
  ok : Bool
  digest : BitVec 512
  version : Nat
  deriving DecidableEq, Repr

/-- The two slots of a firmware, and whether slot B is the active one. -/
structure FwSlots where
  useB : Bool
  a : FwImg
  b : FwImg
  deriving DecidableEq, Repr

/-- An update that has not activated yet (R455): its target, instance and image, the word Pocket and SEQ of its command. -/
structure UpdSt where
  target : Nat
  inst : Nat
  img : FwImg
  w : Nat
  seq : Nat
  deriving DecidableEq, Repr

/-- The job image measured last (R423 entry 38, R451): its address, digest and version, and its access section where it was accepted. -/
structure JobImg where
  base : Nat
  digest : BitVec 512
  version : Nat
  access : Option (List Byte)
  deriving DecidableEq, Repr

/-- The islands beside their registers: word Pockets with a command, in order of GO; answers that wait for a take; draws of the DRBG; the
session key (its draw) and image key; the SESSION_END that is to be answered; whether a scrub that failed is owed; the
update and the deferred ATTEST (word Pocket, SEQ, nonce); the job image and whether it is armed; the measurement entries
2 to 37 that are loaded and measured; flash records; firmware slots (0 Mantle, 1 + p service, 8 + c microcode); fuse repairs and
the spares named since a block's reset (block, 8 * bank + segment, spare). -/
structure MntSt where
  order : List Nat
  out : List (Nat × Word)
  draws : Nat
  sessionKey : Option Nat
  imageKey : Option Nat
  endCmd : Option (Nat × Nat)
  scrubOwed : Bool
  upd : Option UpdSt
  att : Option (Nat × Nat × List Byte)
  job : Option JobImg
  armed : Bool
  loaded : List Nat
  flash : List (List Word)
  fw : Tab FwSlots
  fuses : List (Nat × Word)
  spares : List (Nat × Nat × Nat)
  deriving DecidableEq, Repr

/-! ## Control port, service firmware, self-test (16_bringup_service.md R443 to R459) -/

/-- A control-port class (R444): the next SEQ sent, the frames not acknowledged the ACK_SEQ of the
reverse stream, the frames accepted since the last acknowledgement. -/
structure CpStream where
  next : Nat
  unacked : List (Nat × CpFrame)
  ack : Nat
  since : Nat
  deriving DecidableEq, Repr

/-- The control port beside its registers: its streams by class, whether its next HELLO is the first after its reset, whether the last one carried
RESTART and no HELLO of the node has been taken since, the Pockets (512 + w: word Pocket w) sent and not yet acknowledged, those acknowledged
whose take is still to be written, the ring offset sent up to, the frames sent, those held while the port's Hem is stopped (02_handshake_time.md R52). -/
structure CpSt where
  streams : Tab CpStream
  restart : Bool
  helloed : Bool
  sending : List Nat
  owed : List Nat
  teleSent : Nat
  wire : List CpFrame
  held : List CpFrame
  deriving DecidableEq, Repr

/-- The service firmware of processor 0 (R448, R452): the rank section chosen, a spare, the image accepted, whether it has been applied and the
contexts (8 * core + context) it names, the report period, answers that wait for Pocket 1, the REC command to be answered,
whether step-starts are stopped; the reason for which the module is judged failed, until the firmware has acted, and whether it has
(14_recovery.md R385); a duplicate contribution of the present step, and the code for which the firmware is to stop the job (05_forward_backward.md R144); whether
the ingest cursor is still to be advanced for the last commit (13_collectives_optimizer.md R373); the reports made (kind, value), and those still to be
written into the telemetry ring (log entry 111). -/
structure SvcSt where
  rank : Option Nat
  spare : Bool
  image : Option (List Byte)
  loaded : Bool
  starts : List Nat
  period : Nat
  out : List (List Word)
  recCmd : Option Word
  stopped : Bool
  failing : Option Nat
  failed : Bool
  dup : Bool
  stopFor : Option Nat
  advance : Bool
  reported : List (Nat × Nat)
  unsent : List (Nat × Nat)
  deriving DecidableEq, Repr

/-- A BIST request that runs (R457 to R459): requester, record, granules tested, failing words, the first failing word and bit, and the result
once it is decided. -/
structure BistRun where
  mid : Nat
  base : Nat
  len : Nat
  test : Nat
  ring : Option Nat
  resAddr : Nat
  tested : Nat
  fails : Nat
  first : Option (Nat × Nat)
  result : Option Nat
  deriving DecidableEq, Repr

/-- A BIST engine: the requests queued (requester, address of the record), the one that runs. -/
structure BistSt where
  queue : List (Nat × Nat)
  run : Option BistRun
  deriving DecidableEq, Repr


/-! ## Defaults -/

def FbEntry.rst : FbEntry := ⟨.empty, 0, false, none, none, false, false⟩
def Ctx.rst : Ctx := ⟨.idle, false, false, false, false, none, false, false, .none, 0, 0, none, false, 0, 0, none, none, 0, false⟩
def CoreSt.rst : CoreSt := ⟨7, 0, 0, [], [], [], [], [], [], [], [], none, false, false, 0, false, false, [], [], [], [], [], [], [], [], 0, [], 0, false, .fused, 0, false⟩
def SyncFlags.rst : SyncFlags := ⟨false, false⟩
def SlotSt.rst : SlotSt := ⟨false, false, 0, 0, 0, 0⟩
def StrEst.rst : StrEst := ⟨4608 * 256, 0, 0, true⟩
def LatchCell.rst : LatchCell := ⟨0, false, false⟩
def MemSt.rst : MemSt := ⟨[], [], [], [], [], [], [], [], [], [], [], [], [], 0⟩
def ArbSt.rst : ArbSt := ⟨none, none, [], 0⟩
def DrrSt.rst : DrrSt := ⟨0, []⟩
def Partner.rst : Partner := ⟨none, [], [], [], [], [], [], [], [], [], [], [], [], false, false, 0, (0, 0)⟩
def GroupSt.rst : GroupSt := ⟨none, [], [], [], 0⟩
def ClosingSt.rst : ClosingSt := ⟨0, [], 0, []⟩
def RecSt.rst : RecSt := ⟨0, false, none, 0, 0, false⟩
def FwImg.rst : FwImg := ⟨true, 0, 1⟩
def FwSlots.rst : FwSlots := ⟨false, .rst, .rst⟩
def RailSt.rst : RailSt := ⟨600, false, [], 0⟩
def PwrSt.rst : PwrSt := ⟨0, false, false, false, false, false, false, false, false, [], false, 0, none, 0, [], 0, 0, []⟩
def MntSt.rst : MntSt := ⟨[], [], 0, none, none, none, false, none, none, none, false, [], [], [], [], []⟩
def CpStream.rst : CpStream := ⟨0, [], 0, 0⟩
def CpSt.rst : CpSt := ⟨[], true, false, [], [], 0, [], []⟩
def SvcSt.rst : SvcSt := ⟨none, false, none, false, [], 0, [], none, false, none, false, false, none, false, [], []⟩
def BistSt.rst : BistSt := ⟨[], none⟩
def LlcLine.rst : LlcLine := ⟨0, false, false, false, [], .clean, .clean⟩

/-- The module. `regs` holds every register by its byte offset in the MMIO region (unlisted: its reset value); `ctxs` by 8 *
core + context; `fb` by 4096 * core + entry; `sync` by 131072 * core + word; `est` by 256 * core + stream; `arbs` by Panel + 4 * (column + 4 * (row + 4 * output)); `fab` holds the messages of the fabric, those of one place in the order they came to it;
`srSick` holds the sources (page, number in it) whose two copies will disagree at the next draw (04_numerics.md R115, log entry 102); `banks` holds the accesses to banks of core stores not yet served (08_core_store_streaming.md R212, log entry 119); `seamRejects` holds a lane group's (16 * Seam + 8 * direction + group) rejects with HEM_REFCNT, `seamTests` the groups under test. `resp`, `trace`, `ticks` and
`free` are the model's own fields: the answer of the last access, the records of MARK, the idle steps taken, and the count of free values. -/
structure State where
  pending : List Instr
  regs : Tab Word
  mem : MemSt
  ctxs : Tab Ctx
  cores : Tab CoreSt
  fb : Tab FbEntry
  sync : Tab SyncFlags
  slots : Tab SlotSt
  toYoke : List YokeMsg
  yokeWaits : List Nat
  wakes : List Wake
  releases : List Release
  orphans : List (Nat × SyncReq)
  est : Tab StrEst
  asleep : List Nat
  hemStopped : List Nat
  resync : List (Nat × Bool)
  breached : List Nat
  katPages : List Nat
  srFailed : List Nat
  srSick : List (Nat × Nat)
  banks : List BankAsk
  arbs : Tab ArbSt
  fab : List FabMsg
  seamRejects : List (Nat × Nat)
  seamTests : List Nat
  partners : Tab Partner
  groups : Tab GroupSt
  linkSecret : Nat
  toEngine : List EngIn
  outbox : List (Bool × Nat × WFrame)
  wire : List WirePkt
  wireHeld : List WirePkt
  drr : Tab DrrSt
  hellos : List (Nat × Nat)
  portCoef : List Nat
  trainFails : Tab Nat
  portDisabled : List Nat
  coll : Tab (List CollCmd)
  collNext : Nat
  closing : ClosingSt
  optWritten : List Nat
  optDue : List Nat
  optWaited : List Nat
  mirHeader : Option (Nat × Nat)
  sealDue : List Nat
  recov : RecSt
  stepMsgs : List Word
  rails : Tab RailSt
  pwr : PwrSt
  mnt : MntSt
  cp : CpSt
  svc : SvcSt
  bist : Tab BistSt
  ticks : Nat
  trace : List (Nat × Nat × Nat × Nat)
  resp : Resp
  free : Nat
  deriving DecidableEq, Repr

/-- No command ends in a fault: every error the spec names is a next state (refusal codes, bus errors, violations, freezes). -/
inductive Fault
  /-- Never raised by a meaning; safe. -/
  | unreachable
  deriving DecidableEq, Repr

/-- Why a command has no next state. -/
inductive Refusal
  /-- Raised by an arm of `exec` whose command has no meaning yet; safe. -/
  | notModelled (mnemonic : String)
  deriving DecidableEq, Repr

/-- The module with PD_49 just out of reset and nothing else powered: every register at its Reset column, memory with
nothing listed, no command waiting. -/
def State.reset : State :=
  { pending := [], regs := [], mem := .rst, ctxs := [], cores := [], fb := [], sync := [], slots := [], toYoke := [],
    yokeWaits := [], wakes := [], releases := [], orphans := [], est := [], asleep := [], hemStopped := [], resync := [], breached := [], katPages := [], srFailed := [], srSick := [], banks := [], arbs := [], fab := [], seamRejects := [], seamTests := [], partners := [], groups := [], linkSecret := 0, toEngine := [], outbox := [], wire := [], wireHeld := [], drr := [], hellos := [],
    portCoef := [], trainFails := [], portDisabled := [], coll := [], collNext := 0, closing := .rst, optWritten := [], optDue := [],
    optWaited := [], mirHeader := none, sealDue := [], recov := .rst, stepMsgs := [], rails := [], pwr := .rst, mnt := .rst, cp := .rst, svc := .rst, bist := [],
    ticks := 0, trace := [], resp := .none, free := 0 }

end Sys2Proof.Machine
end

