-- ==== Sys2Proof/Machine/Ops.lean ====
section
/-! DEFINITION. The named operations over registers, events, counters, Buttons, power and freezing that every family uses. -/
namespace Sys2Proof.Machine

/-! ## Registers -/

/-- The register at key `k` as stored. -/
def rd (s : State) (k : Nat) : Word := tabGet regReset s.regs k

/-- Store a register. -/
def wr (s : State) (k : Nat) (v : Word) : State := { s with regs := tabSet regReset s.regs k v }

/-- Bits `[hi:lo]` of a register. -/
def rdF (s : State) (k hi lo : Nat) : Nat := bits (rd s k) hi lo

/-- Bit `b` of a register. -/
def rdB (s : State) (k b : Nat) : Bool := bitAt (rd s k) b

/-- Write bits `[hi:lo]` of a register. -/
def wrF (s : State) (k hi lo n : Nat) : State := wr s k (setBits (rd s k) hi lo n)

/-- Write bit `b` of a register. -/
def wrB (s : State) (k b : Nat) (v : Bool) : State := wr s k (setBit (rd s k) b v)

/-- Write the bits of a register that are one in `m`. -/
def wrOr (s : State) (k : Nat) (m : Word) : State := wr s k (rd s k ||| m)

/-! ## Typed parts -/

def ctxOf (s : State) (c x : Nat) : Ctx := tabGet (fun _ => Ctx.rst) s.ctxs (8 * c + x)
def setCtx (s : State) (c x : Nat) (v : Ctx) : State :=
  { s with ctxs := tabSet (fun _ => Ctx.rst) s.ctxs (8 * c + x) v }
def coreOf (s : State) (c : Nat) : CoreSt := tabGet (fun _ => CoreSt.rst) s.cores c
def setCore (s : State) (c : Nat) (v : CoreSt) : State :=
  { s with cores := tabSet (fun _ => CoreSt.rst) s.cores c v }
def fbOf (s : State) (c e : Nat) : FbEntry := tabGet (fun _ => FbEntry.rst) s.fb (4096 * c + e)
def setFb (s : State) (c e : Nat) (v : FbEntry) : State :=
  { s with fb := tabSet (fun _ => FbEntry.rst) s.fb (4096 * c + e) v }
def syncOf (s : State) (w : Nat) : SyncFlags := tabGet (fun _ => SyncFlags.rst) s.sync w
def setSync (s : State) (w : Nat) (v : SyncFlags) : State :=
  { s with sync := tabSet (fun _ => SyncFlags.rst) s.sync w v }
def slotOf (s : State) (k : Nat) : SlotSt := tabGet (fun _ => SlotSt.rst) s.slots k
def setSlot (s : State) (k : Nat) (v : SlotSt) : State :=
  { s with slots := tabSet (fun _ => SlotSt.rst) s.slots k v }
def estOf (s : State) (c sid : Nat) : StrEst := tabGet (fun _ => StrEst.rst) s.est (256 * c + sid)
def setEst (s : State) (c sid : Nat) (v : StrEst) : State :=
  { s with est := tabSet (fun _ => StrEst.rst) s.est (256 * c + sid) v }

/-- Context page register of context `x` of core `c`. -/
abbrev kCtx (c x off : Nat) : Nat := reg (pgCtx c x) off
/-- Core page register. -/
abbrev kCore (c off : Nat) : Nat := reg (pgCore c) off

/-! ## Power domains (16_bringup_service.md R434, R466) -/

/-- The Panel of PD_d: PD_48 and PD_49 belong to Panel 0 (R466). -/
def domPanel (d : Nat) : Nat := if d < 32 then d / 8 else if d < 48 then (d - 32) % 4 else 0

/-- The key of PWR_DOMAIN of PD_d. -/
def kDom (d : Nat) : Nat := reg (pgPwr (domPanel d)) (R_PWR_DOMAIN + 8 * d)

/-- PWR_DOMAIN.STATE of PD_d: 0 OFF, 1 RETENTION, 2 ON, 3 RESET; PD_49 is always ON (R434, R466). -/
def domState (s : State) (d : Nat) : Nat := if d = 49 then 2 else rdF s (kDom d) 5 4

def domOn (s : State) (d : Nat) : Bool := domState s d == 2

/-- Is the block of a page running? -/
def pageOn (s : State) (page : Nat) : Bool := domOn s (pageDomain page)

/-- The power domain of a master (17_register_pages.md R482). -/
def midDomain (mid : Nat) : Nat :=
  if mid < 0x20 then mid else if mid < 0x40 then mid - 0x20 else if mid = 0x44 then 48
  else if 0xF0 ≤ mid then 49 else 44 + mid % 4

/-- REDUCED_SERVICE as set in the Mantle island pages (R431). -/
def reducedService (s : State) : Bool := rdB s (reg (pgMnt 0) R_BLK_STAT) 9

/-- A Cloak session is active (15_mantle_cloak.md R414). -/
def cloaked (s : State) : Bool := rdB s (reg (pgMnt 0) R_MNT_STATUS) 0

/-- What Cloak answers with a bus error: every access of the debug master, and the control port's reads of memory (R414). -/
def cloakDenies (s : State) (mid : Nat) (memRead : Bool) : Bool := cloaked s && (mid == 0x45 || (mid == 0x44 && memRead))

/-- The key of HEM_XING_STAT. -/
abbrev kXing (h : Nat) : Nat := reg (pgHem h) R_HEM_XING_STAT

/-- Do transfers into a Hem wait: its clock is stopped (02_handshake_time.md R52), or its pointers are resynchronised (R56)? A Hem that has not
locked yet since its domain came ON holds nothing (log entry 104). -/
def hemHeld (s : State) (h : Nat) : Bool := s.hemStopped.contains h || rdB s (kXing h) 3

/-- A frame of the control port goes onto the fibre; while the clock of its Hem is stopped, or its crossing resynchronises, it waits before the Hem (02_handshake_time.md
R52). -/
def cpPut (s : State) (f : CpFrame) : State :=
  if hemHeld s 24 then { s with cp := { s.cp with held := s.cp.held ++ [f] } } else { s with cp := { s.cp with wire := s.cp.wire ++ [f] } }

/-- Has a block frozen itself under R24? It starts no work and holds its handshakes until a reset of its domain (DEDUCED,
log entry 129). -/
def blockHeld (s : State) (page : Nat) : Bool := s.breached.contains page

/-- HEM_REFCNT of a Hem (02_handshake_time.md R45). -/
def refcnt (s : State) (h : Nat) : Nat := (rd s (reg (pgHem h) R_HEM_REFCNT)).toNat

/-! ## Counters, events and Buttons (R26, R477, R481, 09_yoke_pockets.md R258) -/

/-- The largest 64-bit value. -/
def maxWord : Nat := 0xFFFFFFFFFFFFFFFF

/-- Add `n` events to a saturating counter, without its SAT event. -/
def bumpReg (s : State) (k n : Nat) : State := wr s k (w64 (min ((rd s k).toNat + n) maxWord))

/-- Do `n` events bring a counter to its maximum? -/
def saturates (s : State) (k n : Nat) : Bool := n != 0 && decide (maxWord ≤ (rd s k).toNat + n)

/-- SAT set in BLK_STAT and BLK_EVT of a header page that rings nothing (Button pages, R477). -/
def markSat (s : State) (page : Nat) : State :=
  wrB (wrB s (reg page R_BLK_STAT) 0 true) (reg page R_BLK_EVT) 0 true

/-- Count an event of a Button page. -/
def bumpBtn (s : State) (mid off : Nat) : State :=
  let k := reg (pgBtn mid) off
  let t := bumpReg s k 1
  if saturates s k 1 then markSat t (pgBtn mid) else t

/-- A pending Button that BTN_MASK enables wakes an asleep receiver: a core in RETENTION through the Mantle, which switches it ON; a service processor from
its sleep instruction (R255, R259). A core whose transition runs is not asleep (DEDUCED, log entry 130). -/
def btnWake (s : State) (mid : Nat) : State :=
  if rd s (reg (pgBtn mid) R_BTN_PEND) &&& rd s (reg (pgBtn mid) R_BTN_MASK) = 0 then s
  else
    let t := { s with asleep := s.asleep.filter (fun m => m != mid) }
    if domState t (midDomain mid) = 1 ∧ !rdB t (kDom (midDomain mid)) 7 then wrF (wrF t (kDom (midDomain mid)) 1 0 2) (kDom (midDomain mid)) 7 7 1 else t

/-- A ring of Button `b` of master `mid` that sets or merges it (R258), the BTN event and the wakes (R259, R260). -/
def ringSet (s : State) (mid b : Nat) : State :=
  let k := reg (pgBtn mid) R_BTN_PEND
  if rdB s k b then btnWake (bumpBtn s mid R_BTN_MERGE_CNT) mid
  else
    let t := bumpBtn (wrB s k b true) mid R_BTN_RING_CNT
    let masked := rdB t (reg (pgBtn mid) R_BTN_MASK) b
    let t := if masked then wrB t (reg (pgBtn mid) R_BLK_EVT) 5 true else t
    btnWake (if mid < 32 then { t with wakes := t.wakes ++ [.button mid (2 ^ b)] } else t) mid

/-- A ring of Button `b` of master `mid`; `byMantle` is false for a hardware notice of any other block (R258). -/
def ringBtn (s : State) (mid b : Nat) (byMantle : Bool) : State :=
  if !hasButtons mid then s
  else if 28 ≤ b && !byMantle then bumpBtn s mid R_BTN_DROP_CNT
  else if domState s (midDomain mid) = 0 ∨ domState s (midDomain mid) = 3 then bumpBtn s mid R_BTN_DROP_CNT
  else ringSet s mid b

/-- Set bit `b` of a page's BLK_EVT and ring EVT_BTN of its owner where masked (R477). -/
def raiseEvt (s : State) (page b : Nat) : State :=
  let h := mainPage page
  let t := wrB s (reg h R_BLK_EVT) b true
  if h / 1024 = 6 then t
  else if rdB t (reg h R_BLK_EVT_MASK) b && rdB t (reg h R_BLK_CTL) 0 then
    ringBtn t (bits (rd t (reg (ownerPage h) R_BLK_OWNER)) 7 0) (bits (rd t (reg h R_BLK_CTL)) 12 8) false
  else t

/-- Count `n` events in the counter at offset `off` of a page (R26). -/
def bumpN (s : State) (page off n : Nat) : State :=
  let k := reg page off
  let t := bumpReg s k n
  if saturates s k n then raiseEvt (wrB t (reg (mainPage page) R_BLK_STAT) 0 true) page 0 else t

def bump (s : State) (page off : Nat) : State := bumpN s page off 1

/-- A header counter of a page's block. -/
def bumpHdr (s : State) (page off : Nat) : State := bump s (mainPage page) off

/-- Report an error (R478). -/
def reportErr (s : State) (page code : Nat) (addr : Word) : State :=
  let h := mainPage page
  let kl := reg h R_BLK_ERR_LOG
  let s := bumpHdr s h R_BLK_ERR_CNT
  let s :=
    if !rdB s kl 63 then wr (wr s kl (setBit (setBits (setBits 0 15 0 code) 62 62 0) 63 true)) (reg h R_BLK_ERR_ADDR) addr
    else if 0x8000 ≤ code && decide (rdF s kl 15 0 < 0x8000) then
      wr (wr s kl (setBit (setBit (setBits 0 15 0 code) 62 true) 63 true)) (reg h R_BLK_ERR_ADDR) addr
    else wrB s kl 62 true
  raiseEvt s h 1

/-- Set a degraded flag, bit 3 to 9 of BLK_STAT (R30, R481): its entry is counted and raises DEGRADED. -/
def setDegraded (s : State) (page b : Nat) : State :=
  if rdB s (reg page R_BLK_STAT) b then s
  else raiseEvt (bumpHdr (wrB s (reg page R_BLK_STAT) b true) page R_BLK_DEGRADE_CNT) page 4

def clearFlag (s : State) (page b : Nat) : State := wrB s (reg page R_BLK_STAT) b false

/-- A safety loop overrides a software target (R31). -/
def clipOn (s : State) (page : Nat) : State :=
  if rdB s (reg page R_BLK_STAT) 2 then s
  else raiseEvt (bumpHdr (wrB s (reg page R_BLK_STAT) 2 true) page R_BLK_CLIP_CNT) page 3

def clipOff (s : State) (page : Nat) : State := clearFlag s page 2

/-- A page's block is frozen: FROZEN in BLK_STAT, the freeze counted, the FROZEN event (R402, R24). -/
def freezePage (s : State) (page : Nat) : State :=
  raiseEvt (bumpHdr (wrB s (reg page R_BLK_STAT) 1 true) page R_BLK_FREEZE_CNT) page 2

/-- A register that no event, Button or wake writes: no BLK_STAT or BLK_EVT, no register of a Button page behind its header, no PWR_DOMAIN. -/
def plainKey (k : Nat) : Prop :=
  k % 4096 ≠ R_BLK_STAT ∧ k % 4096 ≠ R_BLK_EVT ∧ (k / 4096 / 1024 = 6 → k % 4096 < 0x100) ∧ (k / 4096 / 1024 = 0x15 → k % 4096 < R_PWR_DOMAIN)

/-! ## Numerics counts (04_numerics.md R113, R114) -/

/-- Count the events of a rounding in a block's page. -/
def countNum (s : State) (page : Nat) (e : NumEv) (retries : Nat) : State :=
  let s := wr s (reg page R_NUM_WORD_LOCAL) (nwMerge (rd s (reg page R_NUM_WORD_LOCAL)) (nwOf e retries))
  let s := bumpN s page R_NUM_OVF_CNT e.ovf
  let s := bumpN s page R_NUM_NONFINITE_CNT e.nonfin
  let s := bumpN s page R_NUM_UFLOW_CNT e.uflow
  bumpN s page R_NUM_RETRY_CNT retries

/-! ## Freezing (15_mantle_cloak.md R402, R403; 00, 01 R24) -/

/-- Is the MNT_FROZEN bit of a master set? -/
def frozen (s : State) (mid : Nat) : Bool := rdB s (reg (pgMnt 0) (R_MNT_FROZEN + 8 * (mid / 64))) (mid % 64)

/-- The Panel of a master (Table: Pages and Panels of masters). -/
def midPanel (mid : Nat) : Nat :=
  if mid < 0x20 then mid / 8 else if mid < 0x40 then (mid - 0x20) / 8 else if mid = 0x44 ∨ mid = 0x45 then 0
  else if 0x60 ≤ mid ∧ mid < 0x70 then (mid - 0x60) / 4 else mid % 4

/-- The page whose BLK_STAT shows a master frozen; none for the debug master and the port ingresses (R402). -/
def midPage (mid : Nat) : Option Nat :=
  if mid < 0x20 then some (pgCore mid) else if mid < 0x40 then some (pgCore (mid - 0x20))
  else if mid < 0x44 then some (pgSvc (mid - 0x40)) else if mid = 0x44 then some pgCp
  else if 0x48 ≤ mid ∧ mid < 0x4C then some (pgColl (mid - 0x48))
  else if 0x4C ≤ mid ∧ mid < 0x50 then some (pgOpt (mid - 0x4C))
  else if 0x50 ≤ mid ∧ mid < 0x54 then some (pgRec (mid - 0x50))
  else if 0x54 ≤ mid ∧ mid < 0x58 then some (pgBist (mid - 0x54))
  else none

/-- Set or clear the MNT_FROZEN bit of a master. -/
def setFrozenBit (s : State) (mid : Nat) (b : Bool) : State :=
  wrB s (reg (pgMnt 0) (R_MNT_FROZEN + 8 * (mid / 64))) (mid % 64) b

/-- A log entry of a violation (R402 step 4): the ring of 16 entries in island 0's page. -/
def violLog (s : State) (mid cause : Nat) (addr : Word) : State :=
  let n := rdF s (reg (pgMnt 0) R_MNT_VIOL_NEXT) 3 0
  let k := reg (pgMnt 0) (R_MNT_VIOL_LOG_word_0 + 16 * n)
  let s := if rdB s k 63 then bump s (pgMnt 0) R_MNT_VIOL_OVF_CNT else s
  let s := wr s k (w64 (2 ^ 63 + cause * 2 ^ 48 + mid * 2 ^ 40 + refcnt s 29 % 2 ^ 40))
  let s := wr s (k + 8) addr
  wrF s (reg (pgMnt 0) R_MNT_VIOL_NEXT) 3 0 (n + 1)

/-- A violation by a master (R401, R402). A further violation of a master already frozen is dropped and logged, and rings
nothing. A port's ingress has no bit: the partner's entry is frozen in its place (12_wyist_links.md R347). The Mantle is never frozen (R397). -/
def violation (s : State) (mid cause : Nat) (addr : Word) : State :=
  if 0xF0 ≤ mid then s
  else
    let was := frozen s mid
    let s := if was then s else
      let s := match midPage mid with
        | some p => freezePage s p
        | none => s
      if 0x60 ≤ mid ∧ mid < 0x70 then s else setFrozenBit s mid true
    let s := bump s (pgMnt (midPanel mid)) R_MNT_VIOL_CNT
    let s := violLog s mid cause addr
    if was then s
    else ringBtn (ringBtn s (0x40 + midPanel mid) 31 true) 0x44 31 true

/-- The service firmware judges the module failed, for the reason whose code of Table: Error codes is given (01_module_at_work.md R25; 10_hbm_llc.md R288;
11_onchip_fabric.md R300; 14_recovery.md R385). It acts on it when it runs next. -/
def judgeFailed (s : State) (code : Nat) : State :=
  { s with svc := { s.svc with failing := s.svc.failing <|> some code } }

/-- The service firmware is to stop the job and report `code` to the control node (05_forward_backward.md R144; 13_collectives_optimizer.md R352). -/
def stopOwed (s : State) (code : Nat) : State :=
  { s with svc := { s.svc with stopFor := s.svc.stopFor <|> some code } }

/-- The service firmware makes a report to the control node. The spec names reports without codes; the kinds are the model's: 0 the module failed, 1 the job
was stopped, 2 a partner entry DEAD, 3 a segment or region retired, 4 no source is left, 5 LLDP identifiers, 6 KEYLESS at a JOB_ARM, 9 telemetry (log entry 111). -/
def report (s : State) (kind value : Nat) : State :=
  { s with svc := { s.svc with reported := s.svc.reported ++ [(kind, value)], unsent := s.svc.unsent ++ [(kind, value)] } }

/-! ## Accesses -/

def setResp (s : State) (r : Resp) : State := { s with resp := r }

/-- The step-time reading of a core's speed ring (02_handshake_time.md R47). -/
def ringNow (s : State) (c : Nat) : Nat := (rd s (kCore c R_DL_RING_CNT)).toNat

/-- Change a context. -/
def modCtx (s : State) (c x : Nat) (f : Ctx → Ctx) : State := setCtx s c x (f (ctxOf s c x))
/-- Change a core's engines. -/
def modCore (s : State) (c : Nat) (f : CoreSt → CoreSt) : State := setCore s c (f (coreOf s c))

/-- A next state. -/
abbrev Out := Host.Outcome State Fault Refusal

end Sys2Proof.Machine
end

