-- ==== Sys2Proof/Machine/Xts.lean ====
section
/-! DEFINITION. AES-256-XTS, under which every HBM granule is stored (10_hbm_llc.md R275): AES with a 256-bit key, and the XTS data unit of one
64-byte granule. -/
namespace Sys2Proof.Machine

/-! ## The field of AES, and its substitution -/

/-- The product by x modulo x^8 + x^4 + x^3 + x + 1. -/
def xtime (b : Byte) : Byte := (b <<< 1) ^^^ (if b.msb then 0x1B else 0)

/-- The product of two bytes in the field. -/
def gfMul (a b : Byte) : Byte :=
  ((List.range 8).foldl (fun (p : Byte × Byte) i => (if b.getLsbD i then p.1 ^^^ p.2 else p.1, xtime p.2)) (0, a)).1

/-- The inverse in the field, 0 for 0: the power 254. -/
def gfInv (a : Byte) : Byte :=
  let sq := fun b : Byte => gfMul b b
  sq ((List.range 6).foldl (fun b _ => gfMul (sq b) a) a)

def subByte (a : Byte) : Byte :=
  let b := gfInv a
  b ^^^ b.rotateLeft 1 ^^^ b.rotateLeft 2 ^^^ b.rotateLeft 3 ^^^ b.rotateLeft 4 ^^^ 0x63

def subByteInv (a : Byte) : Byte := gfInv (a.rotateLeft 1 ^^^ a.rotateLeft 3 ^^^ a.rotateLeft 6 ^^^ 0x05)

/-! ## Rounds on a block of 16 bytes, column after column -/

def xorBytes (a b : List Byte) : List Byte := List.zipWith (· ^^^ ·) a b

/-- Row `r` moves `r` places left, or right in the inverse. -/
def shiftRows (inverse : Bool) (b : List Byte) : List Byte :=
  (List.range 16).map (fun i => nth 0 b ((i + (if inverse then 12 else 4) * (i % 4)) % 16))

/-- Each column is multiplied by the circulant of `m`. -/
def mixColumns (m : List Byte) (b : List Byte) : List Byte :=
  (List.range 16).map (fun i => (List.range 4).foldl (fun t k => t ^^^ gfMul (nth 0 m ((k + 4 - i % 4) % 4)) (nth 0 b (i / 4 * 4 + k))) 0)

/-- The 60 words of the key schedule of a 32-byte key. -/
def aesWords (key : List Byte) : List (List Byte) :=
  (List.range 52).foldl (fun w i =>
    let last := nth [] w (i + 7)
    let t := if i % 8 = 0 then
        xorBytes ((last.drop 1 ++ last.take 1).map subByte) [(List.range (i / 8)).foldl (fun b _ => xtime b) 1, 0, 0, 0]
      else if i % 8 = 4 then last.map subByte else last
    w ++ [xorBytes (nth [] w i) t]) ((List.range 8).map (fun i => (key.drop (4 * i)).take 4))

/-- The key of round `r`. -/
def aesRoundKey (w : List (List Byte)) (r : Nat) : List Byte := ((w.drop (4 * r)).take 4).flatten

/-- AES-256 of a block. -/
def aesEnc (key : List Byte) (b : List Byte) : List Byte :=
  let w := aesWords key
  let b := (List.range 13).foldl (fun b r =>
    xorBytes (mixColumns [2, 3, 1, 1] (shiftRows false (b.map subByte))) (aesRoundKey w (r + 1))) (xorBytes b (aesRoundKey w 0))
  xorBytes (shiftRows false (b.map subByte)) (aesRoundKey w 14)

/-- The inverse of AES-256. -/
def aesDec (key : List Byte) (b : List Byte) : List Byte :=
  let w := aesWords key
  let b := (List.range 13).foldl (fun b r =>
    mixColumns [14, 11, 13, 9] (xorBytes ((shiftRows true b).map subByteInv) (aesRoundKey w (13 - r)))) (xorBytes b (aesRoundKey w 14))
  xorBytes ((shiftRows true b).map subByteInv) (aesRoundKey w 0)

/-! ## XTS (R275) -/

/-- The product of a tweak by α, as a little-endian number of 128 bits. -/
def tweakStep (t : BitVec 128) : BitVec 128 := (t <<< 1) ^^^ (if t.msb then 0x87 else 0)

/-- The first `n` bytes of a number, lowest first. -/
def leBytes {w : Nat} (n : Nat) (v : BitVec w) : List Byte := (List.range n).map (fun i => (v >>> (8 * i)).setWidth 8)

/-- The tweak of block `j` of the granule at address `addr`: `addr >> 6` under the tweak key, times α^j. -/
def xtsTweak (key : BitVec 512) (addr j : Nat) : List Byte :=
  let t := aesEnc (leBytes 32 (key >>> 256)) (leBytes 16 (BitVec.ofNat 128 (addr / 64)))
  leBytes 16 ((List.range j).foldl (fun t _ => tweakStep t) (BitVec.ofNat 128 (bytesVal t)))

/-- A memory key is 512 bits: the data key, then the tweak key (log entry 103). -/
def xtsEnc (key : BitVec 512) (addr j : Nat) (b : List Byte) : List Byte :=
  let t := xtsTweak key addr j
  xorBytes (aesEnc (leBytes 32 key) (xorBytes b t)) t

def xtsDec (key : BitVec 512) (addr j : Nat) (b : List Byte) : List Byte :=
  let t := xtsTweak key addr j
  xorBytes (aesDec (leBytes 32 key) (xorBytes b t)) t

end Sys2Proof.Machine
end

