-- ==== Sys2Proof/Machine/Mem.lean ====
section
/-! DEFINITION. The address map and every access to memory: HBM through the LLC, core stores, scratchpad windows
(17_register_pages.md R468, R469; 10_hbm_llc.md R265 to R288; 08_core_store_streaming.md R210 to R214). -/
namespace Sys2Proof.Machine

/-- A region of the physical map (R468, R210). -/
inductive Region
  | hbm | sync (c : Nat) | data (c : Nat) | hole (c : Nat) | llcWin (p : Nat) | mmio (page : Nat) | none
  deriving DecidableEq, Repr

def csBase (c : Nat) : Nat := 0x8000000000 + c * 0x4000000
def llcBase (p : Nat) : Nat := 0x8100000000 + p * 0x4000000
def mmioBase : Nat := 0xF000000000

/-- The region an address lies in. -/
def regionOf (a : Nat) : Region :=
  if a < 0x8000000000 then .hbm
  else if a < 0x8080000000 then
    let o := (a - 0x8000000000) % 0x4000000
    let c := (a - 0x8000000000) / 0x4000000
    if o < 0x100000 then .sync c else if o < 0x2800000 then .data c else .hole c
  else if 0x8100000000 ≤ a ∧ a < 0x8110000000 then .llcWin ((a - 0x8100000000) / 0x4000000)
  else if 0xF000000000 ≤ a ∧ a < 0xF010000000 then .mmio ((a - 0xF000000000) / 4096)
  else .none

/-- Do all `n` bytes from `a` lie in one region (R469)? -/
def oneRegion (a n : Nat) : Bool := 0 < n && regionOf a == regionOf (a + n - 1)

/-- The data bank of the line at `a` (R211). -/
def dataBank (c a : Nat) : Nat :=
  let line := ((a - csBase c) - 0x100000) / 128
  Nat.xor (Nat.xor (line % 64) (line / 64 % 64)) (line / 4096 % 64)

/-- Is the core-store line at `a` in a retired segment (16_bringup_service.md R462, R465; bank and entry as R211)? -/
def csRetired (s : State) (c a : Nat) : Bool :=
  let line := ((a - csBase c) - 0x100000) / 128
  let bank := dataBank c a
  rdB s (kCore c (R_SEG_RETIRED + 8 * (bank / 8))) (8 * (bank % 8) + line / 64 / 624)

/-- The lines that `n` bytes from `a` touch. -/
def linesOf (a n : Nat) : List Nat := (List.range ((a + n + 127) / 128 - a / 128)).map (fun i => 128 * (a / 128 + i))

/-- The sync bank of the word at window offset `o` (R211). -/
def syncBank (o : Nat) : Nat := o / 8 % 8

/-- Is the sync word at `a` in a retired segment: 8 segments of 128 rows of 128 bytes in each sync bank (16_bringup_service.md R460, R465)? -/
def syncRetired (s : State) (c a : Nat) : Bool :=
  let o := a - csBase c
  rdB s (kCore c (R_SEG_RETIRED + 64)) (8 * syncBank o + o / 131072)

/-- Does a data region answer an access to `n` bytes at `a` (R214, R462)? -/
def csAnswers (s : State) (c a n : Nat) : Bool := domOn s c && !(linesOf a n).any (csRetired s c)

/-! ## HBM geometry (10_hbm_llc.md R266) -/

def hbmPanel (a : Nat) : Nat := a / 2 ^ 37 % 4
def hbmX (a : Nat) : Nat :=
  let b := a % 2 ^ 37 / 512
  Nat.xor (Nat.xor b (b / 64)) (b / 4096) % 64
def hbmStack (a : Nat) : Nat := 2 * hbmPanel a + hbmX a / 32
/-- Pseudo-channel within the stack. -/
def hbmPc (a : Nat) : Nat := hbmX a % 32
/-- Pseudo-channel of the module: 64 per Panel. -/
def hbmPcAll (a : Nat) : Nat := 64 * hbmPanel a + hbmX a
/-- Block within the pseudo-channel. -/
def hbmQ (a : Nat) : Nat := a % 2 ^ 37 / 512 / 64

/-- The row of an address (R266). -/
def hbmRow (a : Nat) : Nat := (Config.hbmRow (hbmQ a)).toNat

/-- The bank of an address, stack ID included: any mapping of the blocks `q` under which consecutive blocks go to different banks (R266): even blocks
freely, an odd block to a bank that neither neighbour has. -/
def hbmBank (a : Nat) : Nat :=
  let q := hbmQ a
  let free := fun q => (Config.hbmBankChoice q).toNat
  if q % 2 = 0 then free q
  else
    let ok := (List.range 64).filter (fun b => b != free (q - 1) && b != free (q + 1))
    nth 0 ok (free q % ok.length)

/-- 2 MiB region of the module. -/
def hbmRegion (a : Nat) : Nat := a / 2 ^ 21

/-- Is the region of an HBM address retired (R281)? The list is held in the page of the Panel's first stack. -/
def retired (s : State) (a : Nat) : Bool :=
  (List.range 256).any (fun e =>
    let k := reg (pgHbm (2 * hbmPanel a)) (R_HBM_RETIRE + 8 * e)
    rdB s k 63 && rdF s k 15 0 == hbmRegion a % 65536)

/-- Does the Panel's HBM answer accesses: its domain ON and the stack trained (R269, 16_bringup_service.md R436)? -/
def hbmUp (s : State) (a : Nat) : Bool :=
  domOn s (36 + hbmPanel a) && rdF s (reg (pgHbm (hbmStack a)) R_HBM_STATUS) 1 0 != 0

/-- An access to a stack that is ON and still untrained for the first time waits (R269). -/
def hbmWaits (s : State) (a : Nat) : Bool :=
  domOn s (36 + hbmPanel a) && !hbmUp s a && !s.mem.wasOff.contains (hbmPanel a)

/-! ## Bytes -/

def getCell (m : MemSt) (a : Nat) : Byte := tabGet (fun _ => 0) m.cells a
def putCell (m : MemSt) (a : Nat) (b : Byte) : MemSt := { m with cells := tabSet (fun _ => 0) m.cells a b }
def putCells (m : MemSt) (a : Nat) : List Byte → MemSt
  | [] => m
  | b :: bs => putCells (putCell m a b) (a + 1) bs

def isBad (m : MemSt) (a : Nat) : Bool := tabGet (fun _ => false) m.bad (a / 8)
def setBad (m : MemSt) (a : Nat) (b : Bool) : MemSt := { m with bad := tabSet (fun _ => false) m.bad (a / 8) b }
def isPoison (m : MemSt) (a : Nat) : Bool := tabGet (fun _ => false) m.poison (a / 64)
def setPoison (m : MemSt) (a : Nat) (b : Bool) : MemSt := { m with poison := tabSet (fun _ => false) m.poison (a / 64) b }

/-- A correctable error stands in the word at `a` (log entry 102). -/
def isWeak (m : MemSt) (a : Nat) : Bool := tabGet (fun _ => false) m.weak (a / 8)
def setWeak (m : MemSt) (a : Nat) (b : Bool) : MemSt := { m with weak := tabSet (fun _ => false) m.weak (a / 8) b }

/-- Clear the error marks of the words that `n` bytes from `a` rewrite whole. -/
def clearBad (m : MemSt) (a n : Nat) : MemSt :=
  (List.range (n / 8)).foldl (fun m i => setWeak (setBad m (a + 8 * i) false) (a + 8 * i) false) m

/-- The canonical form of memory: every table lists rising keys and no default. -/
def Memory.wf (m : MemSt) : Bool :=
  tabWf (fun _ => (0 : Byte)) m.cells && tabWf (fun _ => false) m.bad && tabWf (fun _ => false) m.weak && tabWf (fun _ => false) m.poison && tabWf (fun _ => 0) m.keyOf
    && tabWf (fun _ => 0) m.slotKey && tabWf (fun _ => false) m.epoch && tabWf (fun _ => LlcLine.rst) m.llc

/-- The memory key an HBM access at `a` selects (15_mantle_cloak.md R417): the region's epoch bit, or under sweep the new
slot below the cursor and the old slot above it. -/
def keyAt (s : State) (a : Nat) : Nat :=
  let p := hbmPanel a
  let st := reg (pgCry p) R_CRY_STATUS
  let pos := reg (pgCry p) R_CRY_SWEEP_POS
  let newSlot := rdF s st 1 1
  let slot :=
    if rdB s st 0 && rdF s pos 31 16 == hbmRegion a % 65536 then
      (if a % 2 ^ 21 / 64 < rdF s pos 14 0 then newSlot else 1 - newSlot)
    else if tabGet (fun _ => false) s.mem.epoch (hbmRegion a) then 1 else 0
  tabGet (fun _ => 0) s.mem.slotKey (2 * p + slot)

/-- The 512 bits of memory key `n`; a zeroised slot holds zeros. -/
def memKey (n : Nat) : BitVec 512 := if n = 0 then 0 else Config.drbg n

/-- The plaintext byte a controller and crypto engine return. Memory holds the plaintext beside the key each granule was encrypted under, for decryption
under the same key gives it back (R275); under another key a block of 16 bytes reads as the decryption of its old ciphertext (R411). A granule nothing has
written (key 0) reads as its cells stand. -/
def hbmByte (s : State) (a : Nat) : Byte :=
  let ko := tabGet (fun _ => 0) s.mem.keyOf (a / 64)
  let kn := keyAt s a
  if ko = 0 ∨ ko = kn then getCell s.mem a
  else
    let g := a / 64 * 64
    let j := a % 64 / 16
    let old := (List.range 16).map (fun i => getCell s.mem (g + 16 * j + i))
    nth 0 (xtsDec (memKey kn) g j (xtsEnc (memKey ko) g j old)) (a % 16)

def hbmGranBytes (s : State) (g : Nat) : List Byte := (List.range 64).map (fun i => hbmByte s (g + i))

/-- Report a failing granule (R273): code, source, address, location. -/
def hbmErr (s : State) (g code source : Nat) : State :=
  let pg := pgHbm (hbmStack g)
  let s := bump s pg R_HBM_UE_CNT
  let s := wr s (reg pg R_HBM_ERR_INFO)
    (w64 (2 ^ 63 + hbmRow g * 2 ^ 16 + hbmBank g * 2 ^ 10 + hbmPc g * 2 ^ 5 + source * 4))
  reportErr s pg code (w64 g)

/-- Does a granule hold an uncorrectable word? -/
def granBad (m : MemSt) (g : Nat) : Bool := (List.range 8).any (fun i => isBad m (g + 8 * i))

/-- Does a correctable error stand in a granule? -/
def granWeak (m : MemSt) (g : Nat) : Bool := (List.range 8).any (fun i => isWeak m (g + 8 * i))

/-- A corrected error is counted and written back corrected (R272). -/
def granFix (s : State) (g : Nat) : State :=
  { bump s (pgHbm (hbmStack g)) R_HBM_CE_CNT with mem := (List.range 8).foldl (fun m i => setWeak m (g + 8 * i) false) s.mem }

/-- An access to HBM whose domain is not ON, answered by the fabric's local ports (16_bringup_service.md R436). -/
def hbmOffline (s : State) (a : Nat) : State :=
  reportErr (bump s (pgFab (hbmPanel a)) R_FAB_HBM_OFF_CNT) (pgFab (hbmPanel a)) 0x209 (w64 a)

/-- A controller's read of granule `g`: state, bytes, poisoned (R273, R281, R436). -/
def granRead (s : State) (g : Nat) : State × List Byte × Bool :=
  let pg := pgHbm (hbmStack g)
  if !hbmUp s g then (hbmOffline s g, hbmGranBytes s g, true)
  else if retired s g then (bump s pg R_HBM_RETIRED_HIT_CNT, hbmGranBytes s g, true)
  else
    let s' := bumpN s pg R_HBM_RD_BYTES_CNT 64
    if isPoison s.mem g then (hbmErr s' g 0x207 2, hbmGranBytes s g, true)
    else if granBad s.mem g then (hbmErr s' g 0x206 0, hbmGranBytes s g, true)
    else (if granWeak s.mem g then granFix s' g else s', hbmGranBytes s g, false)

/-- Store a granule's plaintext under the key R417 selects. -/
def granStore (s : State) (g : Nat) (bytes : List Byte) (pois : Bool) : State :=
  let m := putCells s.mem g bytes
  let m := { m with keyOf := tabSet (fun _ => 0) m.keyOf (g / 64) (keyAt s g) }
  { s with mem := setPoison (clearBad m g 64) g pois }

/-- A controller's write of granule `g` (R273, R281, R436). -/
def granWrite (s : State) (g : Nat) (bytes : List Byte) (pois : Bool) : State :=
  let pg := pgHbm (hbmStack g)
  if !hbmUp s g then hbmOffline s g
  else if retired s g then bump s pg R_HBM_RETIRED_HIT_CNT
  else granStore (bumpN s pg R_HBM_WR_BYTES_CNT 64) g bytes pois

/-- A controller's write of the bytes `new` at offset `o` of granule `g`. A part of a granule is merged with a read of it, which meets its error or
poison and leaves the granule poisoned (R273, log entry 106). -/
def granMerge (s : State) (g o : Nat) (new : List Byte) (pois : Bool) : State :=
  if new.length = 64 then granWrite s g new pois
  else
    let old := hbmGranBytes s g
    let s := if !hbmUp s g || retired s g then s
      else if isPoison s.mem g then hbmErr s g 0x207 2
      else if granBad s.mem g then hbmErr s g 0x206 0
      else if granWeak s.mem g then granFix s g else s
    granWrite s g (old.take o ++ new ++ old.drop (o + new.length)) (pois || isPoison s.mem g || granBad s.mem g)

/-! ## When a controller takes no access -/

/-- Does the controller that serves `a` take no access now: before the stack's first training (R269), with the clock of its PHY Hem stopped or resynchronising
(02_handshake_time.md R52, R56), frozen under R24, during an IEEE 1500 operation on the channel (R270), or a soft repair in the bank (R279)? -/
def hbmBusy (s : State) (a : Nat) : Bool :=
  hbmWaits s a || hemHeld s (hbmStack a) || blockHeld s (pgHbm (hbmStack a)) || blockHeld s (pgCry (hbmPanel a))
    || s.mem.run1500.any (fun r => r.stack == hbmStack a && r.chan == hbmPc a / 2)
    || s.mem.repairing.any (fun r => r.1 == hbmStack a && hbmPc r.2 == hbmPc a && hbmBank r.2 == hbmBank a)

/-! ## The LLC (10_hbm_llc.md R284 to R288) -/

def llcSet (a : Nat) : Nat := a % 2 ^ 22 / 128
def lineOf (a : Nat) : Nat := a / 128 * 128
def llcGet (s : State) (line : Nat) : Option LlcLine :=
  let l := tabGet (fun _ => LlcLine.rst) s.mem.llc line
  if l = LlcLine.rst then none else some l
def llcPut (s : State) (line : Nat) (l : LlcLine) : State :=
  { s with mem := { s.mem with llc := tabSet (fun _ => LlcLine.rst) s.mem.llc line l } }
def llcDrop (s : State) (line : Nat) : State := llcPut s line .rst

/-- The checks of a line that is read: an error that stands in its tag or its data is counted or reported, and an uncorrectable data word marks the
line poisoned (R288). -/
def llcScan (s : State) (line : Nat) : State :=
  match llcGet s line with
  | none => s
  | some l =>
    let pg := pgLlc (hbmPanel line)
    if l.err = .clean ∧ l.tag = .clean then s
    else
      let s := match l.tag with
        | .clean => s
        | .corrected => bump s pg R_LLC_CE_CNT
        | .uncorrectable => judgeFailed (reportErr s pg 0x8002 (w64 (llcSet line * 128))) 0x8002
      let s := match l.err with
        | .clean => s
        | .corrected => bump s pg R_LLC_CE_CNT
        | .uncorrectable => bump s pg R_LLC_UE_CNT
      let ue := l.err == .uncorrectable
      llcPut s line { l with err := .clean, tag := .clean, p0 := l.p0 || ue, p1 := l.p1 || ue }

/-- The line that serves an access: a slice whose HBM is not ON passes every access on (16_bringup_service.md R436). -/
def llcServe (s : State) (line : Nat) : Option LlcLine := if hbmUp s line then llcGet s line else none

/-- Write a line back to its controller (R287). -/
def llcWriteBack (s : State) (line : Nat) (l0 : LlcLine) : State :=
  let s := llcScan s line
  let l := (llcGet s line).getD l0
  let s := granWrite s line (l.data.take 64) l.p0
  let s := granWrite s (line + 64) (l.data.drop 64) l.p1
  bump s (pgLlc (hbmPanel line)) R_LLC_WB_CNT

/-- Is the segment of way `w` in the LLC bank of a line retired (16_bringup_service.md R460, R462)? -/
def llcRetired (s : State) (p w a : Nat) : Bool :=
  let i := 8 * (a % 4096 / 128) + w / 2
  rdB s (reg (pgLlc p) (R_LLC_SEG_RETIRED + 8 * (i / 64))) (i % 64)

/-- Is way `w` of slice `p` a cache way that may allocate line `a` (R285, R286)? -/
def cacheWay (s : State) (p a w : Nat) : Bool :=
  !rdB s (reg (pgLlc p) R_LLC_WAY_MODE) w && !rdB s (reg (pgLlc p) R_LLC_STATUS) w && !llcRetired s p w a

/-- The lines held in the set of a line of its slice. -/
def setLines (s : State) (line : Nat) : List (Nat × LlcLine) :=
  s.mem.llc.filter (fun p => llcSet p.1 == llcSet line && hbmPanel p.1 == hbmPanel line)

/-- Can the line in way `w` be evicted now: it is clean, or its controller takes the write-back? -/
def evictable (s : State) (line w : Nat) : Bool :=
  (setLines s line).all (fun q => q.2.way != w || !q.2.dirty || !hbmBusy s q.1)

/-- The way a missing line takes: a free cache way, else the pseudo-LRU victim among those that can go (log entry 10). -/
def llcChoose (s : State) (line : Nat) : Option Nat :=
  let p := hbmPanel line
  let ways := (List.range 16).filter (cacheWay s p line)
  let used := (setLines s line).map (fun q => q.2.way)
  match ways.filter (fun w => !used.contains w) with
  | w :: _ => some w
  | [] =>
    let ways := ways.filter (evictable s line)
    if ways = [] then none else some (nth 0 ways (Config.plruWay s.mem.choices % ways.length))

/-- Does a miss wait for a way of its set, since every cache way holds a dirty line whose controller takes no write-back? -/
def llcStuck (s : State) (line : Nat) : Bool :=
  domOn s (32 + hbmPanel line) && hbmUp s line && (llcServe s line).isNone && (List.range 16).any (cacheWay s (hbmPanel line) line)
    && (llcChoose s line).isNone

/-- Make an HBM access's line present where a cache way can hold it, counting the hit or miss (R287). A slice with no cache
way, and one whose HBM does not answer (R436), passes the access on. -/
def llcEnsure (s : State) (line : Nat) : State :=
  let p := hbmPanel line
  match llcServe s line with
  | some _ => llcScan (bump s (pgLlc p) R_LLC_HIT_CNT) line
  | none =>
    let s := bump s (pgLlc p) R_LLC_MISS_CNT
    if !domOn s (32 + p) || !hbmUp s line then s
    else match llcChoose s line with
      | none => s
      | some w =>
        let s := { s with mem := { s.mem with choices := s.mem.choices + 1 } }
        let s := (setLines s line).foldl (fun s q =>
          if q.2.way = w then llcDrop (if q.2.dirty then llcWriteBack s q.1 q.2 else s) q.1 else s) s
        let r0 := granRead s line
        let r1 := granRead r0.1 (line + 64)
        llcPut r1.1 line ⟨w, false, r0.2.2, r1.2.2, r0.2.1 ++ r1.2.1, .clean, .clean⟩

/-! ## Reads -/

/-- A read: state, whether it was answered (false: bus error), and each byte with its poison or uncorrectable mark. -/
structure RdOut where
  st : State
  ok : Bool
  cells : List (Byte × Bool)

def RdOut.bytes (r : RdOut) : List Byte := r.cells.map (fun p => p.1)
def RdOut.anyBad (r : RdOut) : Bool := r.cells.any (fun p => p.2)
def RdOut.val (r : RdOut) : Nat := bytesVal r.bytes

/-- Read `n` bytes of one line from `a`. -/
def hbmChunk (s : State) (a n : Nat) : State × List (Byte × Bool) :=
  let s := llcEnsure s (lineOf a)
  match llcServe s (lineOf a) with
  | some l => (s, (List.range n).map (fun i =>
      let o := a % 128 + i
      (nth 0 l.data o, if o < 64 then l.p0 else l.p1)))
  | none =>
    let lo := if a % 128 < 64 then some (granRead s (lineOf a)) else none
    let s1 := match lo with | some r => r.1 | none => s
    let hi := if 64 < a % 128 + n then some (granRead s1 (lineOf a + 64)) else none
    let s2 := match hi with | some r => r.1 | none => s1
    (s2, (List.range n).map (fun i =>
      let o := a % 128 + i
      let r := if o < 64 then lo else hi
      match r with
      | some r => (nth 0 r.2.1 (o % 64), r.2.2)
      | none => (0, true)))

/-- Read `n` bytes of HBM line by line; `fuel` bounds the lines. -/
def hbmRead : Nat → State → Nat → Nat → State × List (Byte × Bool)
  | 0, s, _, _ => (s, [])
  | f + 1, s, a, n =>
    if n = 0 then (s, [])
    else
      let k := min n (128 - a % 128)
      let r := hbmChunk s a k
      let t := hbmRead f r.1 (a + k) (n - k)
      (t.1, r.2 ++ t.2)

/-- Report an uncorrectable core-store word (08_core_store_streaming.md R213); `feeds` counts a non-finite value. -/
def csUe (s : State) (c a : Nat) (feeds : Bool) : State :=
  let s := bump s (pgCore c) R_CS_UE_CNT
  let s := wrB s (kCore c R_CS_STATUS) 2 true
  let s := reportErr s (pgCore c) 0x202 (w64 (a / 8 * 8))
  if feeds then countNum s (pgCore c) ⟨0, 1, 0⟩ 0 else s

/-- The 8-byte words that `n` bytes from `a` touch. -/
def wordsOf (a n : Nat) : List Nat := (List.range ((a + n + 7) / 8 - a / 8)).map (fun i => 8 * (a / 8 + i))

/-- A core-store read of a word in which a correctable error stands corrects and counts it (R213). -/
def csFix (s : State) (c w : Nat) : State := { bump s (pgCore c) R_CS_CE_CNT with mem := setWeak s.mem w false }

/-- The check of one word read: an uncorrectable word is reported, a corrected one counted (R213). -/
def csWord (s : State) (c w : Nat) (feeds : Bool) : State :=
  if isBad s.mem w then csUe s c w feeds else if isWeak s.mem w then csFix s c w else s

/-- Report each uncorrectable word of a core-store read, and count each corrected one. -/
def csCheck (s : State) (c a n : Nat) (feeds : Bool) : State := (wordsOf a n).foldl (fun s w => csWord s c w feeds) s

/-- The outcome of the check bits of the word at `a`: a corrected error is counted, an uncorrectable one marks the word (R213). -/
def csEcc (s : State) (c a : Nat) (e : Ecc) : State :=
  match e with
  | .clean => s
  | .corrected => bump s (pgCore c) R_CS_CE_CNT
  | .uncorrectable => { s with mem := setBad s.mem a true }

/-- Is the scratchpad line at a window address a scratch way that answers (10_hbm_llc.md R285, R286)? -/
def scratchOk (s : State) (a : Nat) : Bool :=
  let p := (a - 0x8100000000) / 0x4000000
  let w := (a - 0x8100000000) % 0x4000000 / 0x400000
  domOn s (32 + p) && rdB s (reg (pgLlc p) R_LLC_WAY_MODE) w && !rdB s (reg (pgLlc p) R_LLC_STATUS) w && !llcRetired s p w a

/-- The checks of a read of scratchpad lines of slice `p` (10_hbm_llc.md R288): an uncorrectable word marks its line poisoned. -/
def winCheck (s : State) (p a n : Nat) : State :=
  (wordsOf a n).foldl (fun s w =>
    if isBad s.mem w then
      { bump s (pgLlc p) R_LLC_UE_CNT with mem := setPoison (setPoison (setBad s.mem w false) (lineOf w) true) (lineOf w + 64) true }
    else if isWeak s.mem w then { bump s (pgLlc p) R_LLC_CE_CNT with mem := setWeak s.mem w false }
    else s) s

/-- A read of `n` bytes at `a`. `cc`: the reader is a control core, which alone reads a sync region (R243). `feeds`: data
that feeds a step (R213). A core store whose domain is not ON answers with a bus error (log entry 13). -/
def readMem (s : State) (a n : Nat) (cc feeds : Bool) : RdOut :=
  if !oneRegion a n then ⟨s, false, []⟩
  else match regionOf a with
    | .hbm =>
      if hbmUp s a then let r := hbmRead (n / 128 + 2) s a n; ⟨r.1, true, r.2⟩
      else ⟨hbmOffline s a, true, (List.range n).map (fun i => (hbmByte s (a + i), true))⟩
    | .data c =>
      if csAnswers s c a n then
        ⟨csCheck s c a n feeds, true, (List.range n).map (fun i => (getCell s.mem (a + i), isBad s.mem (a + i)))⟩
      else ⟨s, false, []⟩
    | .sync c =>
      if cc && domOn s c then
        ⟨csCheck s c a n false, true, (List.range n).map (fun i => (getCell s.mem (a + i), isBad s.mem (a + i)))⟩
      else ⟨s, false, []⟩
    | .llcWin p =>
      if (linesOf a n).all (scratchOk s) then
        let s := winCheck s p a n
        ⟨s, true, (List.range n).map (fun i => (getCell s.mem (a + i), isPoison s.mem (a + i)))⟩
      else ⟨s, false, []⟩
    | _ => ⟨s, false, []⟩

/-! ## Writes -/

/-- The write class of a master, as a bit of a window's CLASSES (15_mantle_cloak.md R400). -/
def writeClass (mid : Nat) : Nat :=
  if mid < 0x20 then 0 else if mid < 0x40 then 1 else if mid < 0x44 then 2 else if mid = 0x44 then 3
  else if mid = 0x45 then 4 else if 0x48 ≤ mid ∧ mid < 0x4C then 5 else if 0x4C ≤ mid ∧ mid < 0x50 then 6
  else if 0x50 ≤ mid ∧ mid < 0x54 then 7 else if 0x54 ≤ mid ∧ mid < 0x58 then 8
  else if 0x60 ≤ mid ∧ mid < 0x70 then 9 else 10

/-- Does window `w` admit a write of `n` bytes at `a` by `mid`? -/
def winAdmits (s : State) (w mid a n : Nat) : Bool :=
  let k := reg (pgMnt 0) (R_MNT_WIN_word_0 + 16 * w)
  rdB s (k + 8) 0 && decide (rdF s k 63 12 * 4096 ≤ a) && decide (a + n ≤ (rdF s (k + 8) 63 12 + 1) * 4096)
    && (writeClass mid < 10) && rdB s k (writeClass mid)

/-- Is a write exempt from the window check: the Mantle's, and a core's own writes into its own store (R400)? -/
def winExempt (mid a : Nat) : Bool :=
  decide (0xF0 ≤ mid) || (decide (mid < 0x40) && (regionOf a == .data (mid % 32) || regionOf a == .sync (mid % 32)))

/-- May `mid` write `n` bytes at `a` (R400)? A write is allowed when one enabled window that includes the writer's class
covers every byte of it. -/
def mayWrite (s : State) (mid a n : Nat) : Bool :=
  winExempt mid a || (List.range 32).any (fun w => winAdmits s w mid a n)

/-- The WATCH_VER increments of an accepted write (08_core_store_streaming.md R228): the 16 entries of the Panel that holds
the memory. -/
def watchBump (s : State) (a n : Nat) : State :=
  let p := match regionOf a with
    | .hbm => hbmPanel a | .sync c => c / 8 | .data c => c / 8 | .llcWin p => p | _ => 4
  (List.range 16).foldl (fun s w =>
    let k := reg (pgPool p) (R_WATCH_BASE + 0x18 * w)
    if p < 4 && rdB s k 0 && decide (rdF s k 63 6 ≤ (a + n - 1) / 64) && decide (a / 64 ≤ rdF s (k + 8) 63 6) then
      wr s (k + 16) (rd s (k + 16) + 1)
    else s) s

/-- Write bytes of one line at `a`. -/
def hbmWriteChunk (s : State) (a : Nat) (bytes : List Byte) (pois : Bool) : State :=
  let line := lineOf a
  let s := llcEnsure s line
  let o := a % 128
  let merge := fun (old : List Byte) (o : Nat) (new : List Byte) => old.take o ++ new ++ old.drop (o + new.length)
  match llcServe s line with
  | some l =>
    let n := bytes.length
    let t0 := o < 64
    let t1 := 64 < o + n
    let w0 := o = 0 ∧ 64 ≤ n
    let w1 := o ≤ 64 ∧ 128 ≤ o + n
    llcPut s line { l with dirty := true, data := merge l.data o bytes,
                           p0 := if t0 then pois || (l.p0 && !decide w0) else l.p0,
                           p1 := if t1 then pois || (l.p1 && !decide w1) else l.p1 }
  | none =>
    let g0 := bytes.take (64 - o)
    let s := if o < 64 then
        granMerge s line o g0 pois
      else s
    let g1 := if o < 64 then bytes.drop (64 - o) else bytes
    if g1 = [] then s
    else granMerge s (line + 64) (o - 64) g1 pois

def hbmWrite : Nat → State → Nat → List Byte → Bool → State
  | 0, s, _, _, _ => s
  | f + 1, s, a, bytes, pois =>
    if bytes = [] then s
    else
      let k := 128 - a % 128
      hbmWrite f (hbmWriteChunk s a (bytes.take k) pois) (a + (bytes.take k).length) (bytes.drop k) pois

/-- A write that memory accepts, of bytes at `a` in one region. -/
def storeMem (s : State) (a : Nat) (bytes : List Byte) (pois : Bool) : State :=
  let s := match regionOf a with
    | .hbm =>
      if hbmUp s a then hbmWrite (bytes.length / 128 + 2) s a (bytes.take (0x8000000000 - a)) pois else hbmOffline s a
    | .llcWin _ =>
      let m := clearBad (putCells s.mem a bytes) ((a + 7) / 8 * 8) (a + bytes.length - (a + 7) / 8 * 8)
      { s with mem := (List.range ((a + bytes.length + 63) / 64 - a / 64)).foldl (fun m i =>
          let g := 64 * (a / 64 + i)
          let whole := decide (a ≤ g) && decide (g + 64 ≤ a + bytes.length)
          setPoison m g (pois || (isPoison m g && !whole))) m }
    | _ => { s with mem := clearBad (putCells s.mem a bytes) ((a + 7) / 8 * 8) (a + bytes.length - (a + 7) / 8 * 8) }
  watchBump s a bytes.length

/-! ## Bank arbitration (R212) -/

/-- The accesses of `n` bytes from `a` to the banks of a core store: a line of a data bank, or a word of a sync bank. -/
def bankParts (a n : Nat) : List (Nat × Nat × Nat) :=
  match regionOf a with
  | .data c => (linesOf a n).map (fun l => (c, dataBank c l, l))
  | .sync c => ((List.range ((a + n + 7) / 8 - a / 8)).map (fun i => 8 * (a / 8 + i))).map (fun w => (c, 64 + syncBank (w - csBase c), w))
  | _ => []

/-- A requester of class `cls` accesses byte ranges (first, one past the last), each line once, `per` lines in each step time (0: all in one). What the
access does it does at once: the model has the banks' order decide how long an access waits, and CS_BANK_WAIT_CNT counts it (DESIGN CHOICE, log entry 119). -/
def askBanks (s : State) (cls per : Nat) (rs : List (Nat × Nat)) : State :=
  let ls := (rs.flatMap (fun r => bankParts r.1 (r.2 - r.1))).eraseDups
  { s with banks := s.banks ++ (List.zip (List.range ls.length) ls).map (fun l =>
      (⟨l.2.1, if per = 0 then 0 else l.1 / per, l.2.2.1, cls⟩ : BankAsk)) }

/-- The class of a write by master `mid` to the store of core `c`: of its control core, of its stream engine, else of the Panel fabric. -/
def bankClass (mid c : Nat) : Nat := if mid = c then 7 else if mid = 0x20 + c then 6 else 1

/-- A step time at the banks of a core: what is still to be served, and how many accesses waited. Each bank serves one access, the first of R212's order, the
older of one class first; at most 4 accesses from the Panel fabric come to the banks in a step time. -/
def bankStep (q : List BankAsk) : List BankAsk × Nat :=
  let es := List.zip (List.range q.length) q
  let here := es.filter (fun e => e.2.delay == 0 && (e.2.cls != 1 || decide ((q.take e.1).countP (fun o => o.delay == 0 && o.cls == 1) < 4)))
  let go := here.filter (fun e => !here.any (fun o =>
    o.2.bank == e.2.bank && (decide (o.2.cls < e.2.cls) || (o.2.cls == e.2.cls && decide (o.1 < e.1)))))
  ((es.filter (fun e => !go.contains e)).map (fun e => { e.2 with delay := e.2.delay - 1 }), here.length - go.length)

/-- `n` step times at the banks of a core. -/
def bankSteps : Nat → List BankAsk → List BankAsk × Nat
  | 0, q => (q, 0)
  | n + 1, q =>
    let r := bankStep q
    let t := bankSteps n r.1
    (t.1, r.2 + t.2)

/-- `n` step times pass at the banks of core `c`: no more are looked at than the accesses need. -/
def tickBanks (s : State) (c n : Nat) : State :=
  let q := s.banks.filter (fun b => b.core == c)
  if q = [] then s
  else
    let r := bankSteps (min n (q.length + q.foldl (fun m b => max m b.delay) 0)) q
    bumpN { s with banks := s.banks.filter (fun b => b.core != c) ++ r.1 } (pgCore c) R_CS_BANK_WAIT_CNT r.2

/-- A write: what it answers. -/
structure WrOut where
  st : State
  resp : Resp

/-- A write of bytes at `a` by master `mid`: bus errors (R214, R243, R285, R469), the window check (R400, R401), the store. -/
def writeMem (s : State) (mid a : Nat) (bytes : List Byte) (pois : Bool) : WrOut :=
  if !oneRegion a bytes.length || cloakDenies s mid false then ⟨s, .busError⟩
  else
    let served := match regionOf a with
      | .hbm => true
      | .data c => csAnswers s c a bytes.length
      | .sync c => decide (mid < 0x20) && domOn s c
      | .llcWin _ => (linesOf a bytes.length).all (scratchOk s)
      | _ => false
    if !served then ⟨s, .busError⟩
    else if mayWrite s mid a bytes.length then
      ⟨askBanks (storeMem s a bytes pois) (bankClass mid ((a - 0x8000000000) / 0x4000000)) 0 [(a, a + bytes.length)], .ok⟩
    else ⟨violation s mid 5 (w64 a), .violation⟩

/-- Must an access at `a` wait: for the controller, whether the line is in the LLC or not (log entry 30); for a slice frozen under R24; for a way of
its set? -/
def memWaits (s : State) (a : Nat) : Bool :=
  match regionOf a with
  | .hbm => hbmBusy s a || blockHeld s (pgLlc (hbmPanel a)) || llcStuck s (lineOf a)
  | .llcWin p => blockHeld s (pgLlc p)
  | _ => false

end Sys2Proof.Machine
end

