-- ==== Sys2Proof/Machine/Operands.lean ====
section
/-! DEFINITION. Records, operand fields and descriptors: their layouts, the DECODE check, addressing of tile elements and
index tensors (07_command_encoding.md R185 to R208, 06_control_core.md R178). -/
namespace Sys2Proof.Machine

/-! ## Record fields -/

def recOp (r : Rec) : Nat := bits r 7 0
def recTag (r : Rec) : Nat := bits r 31 16

/-- Kinds of record field: plain bits, a scalar source (R189), a scalar destination (R189), a descriptor operand (R188). -/
inductive FldKind | plain | src | dst | opnd
  deriving DecidableEq, Repr

/-- The fields of a record layout: high bit, low bit, kind. -/
abbrev RecLay := List (Nat × Nat × FldKind)

/-- Table: OPE.PRODUCT (R196). -/
def layProduct : RecLay :=
  [(39, 32, .opnd), (47, 40, .opnd), (55, 48, .opnd), (63, 56, .opnd), (71, 64, .opnd), (79, 72, .opnd), (87, 80, .src),
   (102, 88, .plain), (159, 128, .plain)]

/-- Table: Stream record (R205). -/
def layStream : RecLay :=
  [(39, 32, .opnd), (47, 40, .opnd), (55, 48, .opnd), (71, 64, .plain), (73, 72, .plain), (74, 74, .plain), (76, 76, .plain)]

/-- The fields a vector operation may use besides APPLY_SHIFT, OUT_RND and REL (R200, R201). -/
def layVector (op : Nat) : RecLay :=
  let s0 := (39, 32, FldKind.opnd)
  let s1 := (47, 40, FldKind.opnd)
  let s2 := (55, 48, FldKind.opnd)
  let d := (63, 56, FldKind.opnd)
  let st := (71, 64, FldKind.opnd)
  let ax := (79, 72, FldKind.opnd)
  let fn := (83, 80, FldKind.plain)
  let opn := (86, 86, FldKind.plain)
  let acu := (87, 87, FldKind.plain)
  let i0 := (127, 96, FldKind.plain)
  let i1 := (159, 128, FldKind.plain)
  let gen := [(85, 84, FldKind.plain), (90, 88, FldKind.plain)]
  gen ++ match op with
    | 0x50 => [s0, s1, s2, d, fn, i0, i1]
    | 0x51 => [s0, d, fn]
    | 0x52 => [s0, s1, d, fn]
    | 0x53 => [s0, d, fn]
    | 0x54 => [s0, ax, fn, acu]
    | 0x55 => [s0, st, fn, i0]
    | 0x56 => [s0, s1, s2, d, st]
    | 0x57 => [s0, s1, s2, d, st, ax, acu]
    | 0x58 => [s0, s1, s2, st, opn]
    | 0x59 => [s0, s1, d, st]
    | 0x5A => [s0, s1, st, opn]
    | 0x5B => [s0, s1, s2, d, st, ax]
    | 0x5C => [s0, d, i0, (175, 160, .plain)]
    | 0x5D => [d, (95, 91, .plain)]
    | _ => [s0, d, ax]

/-- The layout of an operation, `none` where OP is not in Table: Operations (R185, R207, R208). -/
def recLay (op : Nat) : Option RecLay :=
  match op with
  | 0x00 | 0x02 | 0x1A | 0x1B | 0x1D | 0x1E => some []
  | 0x01 => some [(63, 32, .plain)]
  | 0x03 => some [(34, 32, .plain)]
  | 0x04 => some [(39, 32, .src), (40, 40, .plain), (60, 48, .plain)]
  | 0x08 => some [(39, 32, .dst), (47, 40, .src), (55, 48, .src), (56, 56, .plain), (61, 57, .plain), (95, 64, .plain)]
  | 0x09 => some [(39, 32, .dst), (127, 64, .plain)]
  | 0x0A => some [(39, 32, .dst), (47, 40, .src), (95, 64, .plain)]
  | 0x0B => some [(39, 32, .src), (47, 40, .src), (95, 64, .plain)]
  | 0x0C => some [(35, 32, .plain), (47, 40, .src), (49, 48, .plain), (95, 64, .plain), (191, 128, .plain)]
  | 0x10 => some [(34, 32, .plain), (47, 40, .src), (55, 48, .src), (60, 56, .plain), (95, 64, .plain)]
  | 0x11 => some [(34, 32, .plain), (38, 36, .plain), (42, 40, .plain), (45, 44, .plain)]
  | 0x12 => some [(34, 32, .plain), (47, 40, .opnd)]
  | 0x13 => some [(34, 32, .plain)]
  | 0x18 => some [(55, 32, .plain)]
  | 0x19 => some [(39, 32, .src), (40, 40, .plain), (84, 64, .plain), (127, 96, .plain)]
  | 0x1C => some [(84, 64, .plain)]
  | 0x20 => some [(39, 32, .plain), (40, 40, .plain)]
  | 0x21 | 0x22 => some [(39, 32, .dst), (47, 40, .src), (95, 64, .plain)]
  | 0x23 | 0x24 => some [(39, 32, .src), (47, 40, .src), (95, 64, .plain)]
  | 0x25 => some [(47, 40, .src), (95, 64, .plain)]
  | 0x28 | 0x29 => some [(40, 32, .plain), (53, 48, .plain), (58, 54, .plain), (62, 60, .plain)]
  | 0x2A => some [(39, 32, .plain), (44, 40, .plain)]
  | 0x2B => some [(39, 32, .dst), (95, 64, .plain)]
  | 0x40 => some layProduct
  | 0x80 | 0x81 | 0x82 | 0x83 | 0x84 => some layStream
  | _ => if 0x50 ≤ op ∧ op ≤ 0x5E then some (layVector op) else none

/-- The bits of a record that its layout covers, the header of R185 included. -/
def layMask (l : RecLay) : Nat :=
  l.foldl (fun m f => Nat.lor m ((2 ^ (f.1 + 1 - f.2.1) - 1) * 2 ^ f.2.1)) 0xFFFF0FFF

/-- Does a field hold a permitted code (R188, R189)? -/
def fldOk (r : Rec) (f : Nat × Nat × FldKind) : Bool :=
  let v := bits r f.1 f.2.1
  match f.2.2 with
  | .plain => true
  | .src => decide (v ≤ 0x46)
  | .dst => decide (v < 64)
  | .opnd => if v < 0x80 then v == 0 else v / 16 % 4 == 0

/-- Is the operand at bit `lo` present (R188)? -/
def present (r : Rec) (lo : Nat) : Bool := bitAt r (lo + 7)

/-- Codes and conditions beyond the layout (R186, R199, R200, R202, R207, R208). -/
def codesOk (r : Rec) : Bool :=
  let op := recOp r
  if op = 0x08 then decide (bits r 61 57 ≤ 13)
  else if op = 0x10 then decide (bits r 59 57 ≤ 5)
  else if op = 0x12 then present r 40
  else if op = 0x28 ∨ op = 0x29 then
    let n := bits r 58 54
    decide (0 < n ∧ n ≤ 16 ∧ bits r 53 48 + n ≤ 64)
  else if op = 0x40 then
    (bitAt r 88 || bits r 87 80 == 0) && (bitAt r 95 || bits r 99 96 == 0)
      && (!bitAt r 100 || present r 32) && (!bitAt r 101 || present r 40) && (!bitAt r 102 || present r 48)
  else if 0x50 ≤ op ∧ op ≤ 0x5E then
    (!bitAt r 88 || present r 32) && (!bitAt r 89 || present r 40) && (!bitAt r 90 || present r 48)
      && (let f := bits r 83 80
          match op with
          | 0x50 => decide (f ≤ 11)
          | 0x51 => decide (f ≤ 8)
          | 0x52 => decide (5 ≤ f ∧ f ≤ 8)
          | 0x53 => decide (f ≤ 2)
          | 0x54 => f == 0
          | 0x55 => f == 1 || f == 2
          | 0x58 => present r 48 == bitAt r 86
          | _ => true)
  else if 0x80 ≤ op ∧ op ≤ 0x84 then (!bitAt r 76 || present r 32) && (!(op == 0x82 || op == 0x83) || present r 48)
  else true

/-- The DECODE check the control core makes when it takes a record (R186). -/
def decodeOk (r : Rec) : Bool :=
  match recLay (recOp r) with
  | none => false
  | some l => Nat.land r.toNat (2 ^ 256 - 1 - layMask l) == 0 && l.all (fldOk r) && codesOk r

/-- The descriptor operand fields of a record, as the low bit of each (R188). -/
def opndSlots (op : Nat) : List Nat :=
  match recLay op with
  | none => []
  | some l => (l.filter (fun f => f.2.2 == .opnd)).map (fun f => f.2.1)

/-! ## Scalar sources (R189) -/

def scalarReg (s : State) (c x n : Nat) : Word := rd s (kCtx c x (R_S + 8 * n))

/-- The value of a scalar source field. A loop level at or above the present depth reads 0 (06_control_core.md R164). -/
def scalarSrc (s : State) (c x code : Nat) : Word :=
  if code < 0x40 then scalarReg s c x code
  else if code < 0x44 then
    if code - 0x40 < (ctxOf s c x).depth then rd s (kCtx c x (R_LOOP_ITER + 0x18 * (code - 0x40))) else 0
  else if code = 0x44 then rd s (kCtx c x R_CTX_SEQ)
  else if code = 0x45 then rd s (kCtx c x R_CTX_CMD_CNT)
  else 0

/-- A predicate; P0 reads 1 (06_control_core.md R146). -/
def predOf (s : State) (c x p : Nat) : Bool := p == 0 || rdB s (kCtx c x R_CTX_PRED) p

/-- Set a predicate; a write to P0 is ignored (R146). -/
def setPred (s : State) (c x p : Nat) (b : Bool) : State := if p = 0 then s else wrB s (kCtx c x R_CTX_PRED) p b

/-- BASE of the A register an operand field names. -/
def aBase (s : State) (c x areg : Nat) : Nat := (rd s (kCtx c x (R_A_BASE + 16 * areg))).toNat

/-- Post-increment of an operand field after its record (R188). -/
def postInc (s : State) (c x : Nat) (r : Rec) (lo : Nat) : State :=
  if present r lo && bitAt r (lo + 6) then
    let a := bits r (lo + 3) lo
    let k := kCtx c x (R_A_BASE + 16 * a)
    wr s k (w64 (addOff (rd s k).toNat (sext 32 (rdF s (k + 8) 31 0))))
  else s

def postIncs (s : State) (c x : Nat) (r : Rec) : State :=
  (opndSlots (recOp r)).foldl (fun s lo => postInc s c x r lo) s

/-- The BASE of each operand of a record at issue, 0 where absent. -/
def opndBases (s : State) (c x : Nat) (r : Rec) : List Nat :=
  (opndSlots (recOp r)).map (fun lo => if present r lo then aBase s c x (bits r (lo + 3) lo) else 0)

/-- The BASE rule of R188: a multiple of 64 in the core's own store outside the sync region. -/
def baseOk (c base : Nat) : Bool := base % 64 == 0 && regionOf base == .data c && regionOf (base + 63) == .data c

/-! ## Tile descriptors (R190 to R194) -/

/-- A decoded tile descriptor. -/
structure Tile where
  fullbit : Nat
  fbValid : Bool
  shift : Nat
  order : Nat
  fmtCode : Nat
  pitch1 : Nat
  pitch0 : Nat
  cols : Nat
  rows : Nat
  sbase1 : Nat
  sbase0 : Nat
  base1 : Nat
  base0 : Nat
  deriving DecidableEq, Repr

def tileOf (d : Desc) : Tile :=
  ⟨bits d 415 404, bitAt d 400, bits d 396 392, bits d 389 388, bits d 387 384, bits d 383 352, bits d 351 320,
   bits d 308 288, bits d 276 256, bits d 255 192, bits d 191 128, bits d 127 64, bits d 63 0⟩

def Tile.fmt (t : Tile) : Fmt := (fmtOf t.fmtCode).getD .fp32
def Tile.p0 (t : Tile) : Nat := if t.pitch0 = 0 then t.cols else t.pitch0
def Tile.p1 (t : Tile) : Nat := if t.pitch1 = 0 then t.rows else t.pitch1
def Tile.hasRow (t : Tile) : Bool := t.order % 2 == 1
def Tile.hasCol (t : Tile) : Bool := t.order / 2 == 1

/-- The copies present: 0 the row copy, 1 the column copy. -/
def Tile.copies (t : Tile) : List Nat := (if t.hasRow then [0] else []) ++ (if t.hasCol then [1] else [])

/-- Element number of (r, c) in a copy (R192). -/
def Tile.elemNo (t : Tile) (copy r c : Nat) : Nat := if copy = 0 then r * t.p0 + c else c * t.p1 + r
def Tile.base (t : Tile) (copy : Nat) : Nat := if copy = 0 then t.base0 else t.base1
def Tile.sbase (t : Tile) (copy : Nat) : Nat := if copy = 0 then t.sbase0 else t.sbase1

/-- Byte address of element number `n` of a copy. -/
def Tile.addr (t : Tile) (copy n : Nat) : Nat := t.base copy + n * t.fmt.nibbles / 2

/-- The byte range of a copy, first and one past the last (R192). -/
def Tile.range (t : Tile) (copy : Nat) : Nat × Nat :=
  let n := t.elemNo copy (t.rows - 1) (t.cols - 1)
  (t.base copy, t.addr copy n + (t.fmt.nibbles + 1) / 2)

/-- The range of a KB4 copy's scale bytes. -/
def Tile.scaleRange (t : Tile) (copy : Nat) : Nat × Nat :=
  (t.sbase copy, t.sbase copy + t.elemNo copy (t.rows - 1) (t.cols - 1) / 16 + 1)

/-- The byte ranges of a tile: its present copies and their scales (R192). -/
def Tile.ranges (t : Tile) : List (Nat × Nat) :=
  t.copies.map t.range ++ (if t.fmt = .kb4 then t.copies.map t.scaleRange else [])

def rangesMeet (a b : List (Nat × Nat)) : Bool :=
  a.any (fun x => b.any (fun y => decide (x.1 < y.2) && decide (y.1 < x.2)))

/-- The core store that holds a tile's full bit: that of BASE0, or of BASE1 where the row copy is absent (R190). -/
def Tile.fbCore (t : Tile) : Option Nat :=
  match regionOf (if t.hasRow then t.base0 else t.base1) with
  | .data c => some c
  | .sync c => some c
  | .hole c => some c
  | _ => none

/-- The full bit of a tile: core and entry, none where FB_VALID is 0 (R194). -/
def Tile.fb (t : Tile) : Option (Nat × Nat) :=
  if t.fbValid then t.fbCore.map (fun c => (c, t.fullbit)) else none

/-- Is a byte range inside the data region of core `c`? -/
def inData (c : Nat) (r : Nat × Nat) : Bool :=
  decide (csBase c + 0x100000 ≤ r.1) && decide (r.2 ≤ csBase c + 0x2800000)

/-- The DESC check of R192. -/
def Tile.descOk (t : Tile) : Bool :=
  (t.rows != 0) && (t.cols != 0) && (t.order != 0) && decide (t.shift ≤ 30)
    && (t.pitch0 == 0 || decide (t.cols ≤ t.pitch0)) && (t.pitch1 == 0 || decide (t.rows ≤ t.pitch1))
    && (t.fmt != .kb4 ||
        ((!t.hasRow || (t.p0 % 16 == 0 && t.cols % 16 == 0)) && (!t.hasCol || (t.p1 % 16 == 0 && t.rows % 16 == 0))))
    && (!t.fbValid || (match t.fbCore with
        | some c => t.ranges.all (inData c)
        | none => false))

/-- Tile bytes: ROWS x COLS x element size x copies (08_core_store_streaming.md R225). -/
def Tile.bytes (t : Tile) : Nat := t.rows * t.cols * t.fmt.nibbles * t.copies.length / 2

/-! ## Element values -/

/-- A code read from `n` little-endian bytes at `a` of a byte reader. -/
def codeAt (get : Nat → Byte) (a n : Nat) : Nat := bytesVal ((List.range n).map (fun i => get (a + i)))

/-- The code of element number `n` of a copy, from a byte reader. -/
def Tile.codeOf (t : Tile) (get : Nat → Byte) (copy n : Nat) : Nat :=
  if t.fmt = .kb4 then (get (t.base copy + n / 2)).toNat / 16 ^ (n % 2) % 16
  else codeAt get (t.addr copy n) (t.fmt.nibbles / 2)

/-- The value of element number `n` of a copy: NaN where a byte it needs is marked (08_core_store_streaming.md R213). -/
def Tile.elemAt (t : Tile) (get : Nat → Byte) (bad : Nat → Bool) (copy n : Nat) : FVal :=
  let a := t.addr copy n
  if bad a || bad (a + (t.fmt.nibbles + 1) / 2 - 1) || (t.fmt == .kb4 && bad (t.sbase copy + n / 16)) then .nan
  else if t.fmt = .kb4 then kb4Decode (get (t.sbase copy + n / 16)).toNat (t.codeOf get copy n)
  else match t.fmt.lay with
    | some l => fDecode l (t.codeOf get copy n % 2 ^ (1 + l.ebits + l.fbits))
    | none => FVal.ofNat (t.codeOf get copy n)

/-- Element (r, c) of a tile in a core store, in whichever copy it holds, the row copy first (R203). -/
def Tile.elem (t : Tile) (s : State) (r c : Nat) : FVal :=
  let copy := if t.hasRow then 0 else 1
  t.elemAt (getCell s.mem) (isBad s.mem) copy (t.elemNo copy r c)

/-! ## Index tensors (06_control_core.md R178, 07_command_encoding.md R195) -/

/-- A decoded index-tensor descriptor. -/
structure Idx where
  fullbit : Nat
  fbValid : Bool
  pageShift : Nat
  twoLevel : Bool
  wide : Bool
  pageCount : Nat
  rowBytes : Nat
  colOffset : Nat
  rowStride : Nat
  rowLimit : Nat
  count : Nat
  pageBase : Nat
  dataBase : Nat
  idxBase : Nat
  deriving DecidableEq, Repr

def idxOf (d : Desc) : Idx :=
  ⟨bits d 415 404, bitAt d 400, bits d 396 392, bitAt d 385, bitAt d 384, bits d 383 352, bits d 351 320, bits d 319 288,
   bits d 287 256, bits d 255 224, bits d 223 192, bits d 191 128, bits d 127 64, bits d 63 0⟩

def Idx.width (t : Idx) : Nat := if t.wide then 4 else 2

/-- The full bit of an index tensor, in the core store that holds its elements. -/
def Idx.fb (t : Idx) : Option (Nat × Nat) :=
  if t.fbValid then (match regionOf t.idxBase with | .data c => some (c, t.fullbit) | _ => none) else none

/-- IDX_LEVEL check (R195). -/
def Idx.levelOk (t : Idx) : Bool := !t.twoLevel || decide (t.pageShift ≤ 20)
/-- IDX_DESC check of the descriptor alone (R195). -/
def Idx.descOk (t : Idx) : Bool := t.rowBytes != 0 && decide (t.rowBytes ≤ 65536) && t.rowBytes % 2 == 0

/-- What row `i` of an index tensor resolves to. -/
inductive RowAddr | skip | outOfRange | at (a : Nat)
  deriving DecidableEq, Repr

/-- row_addr of R178; an index or page element in an uncorrectable word is OUT_OF_RANGE (08_core_store_streaming.md R213). -/
def Idx.rowAddr (t : Idx) (s : State) (i : Nat) : RowAddr :=
  let ia := t.idxBase + i * t.width
  let x := codeAt (getCell s.mem) ia t.width
  if isBad s.mem ia then .outOfRange
  else if x = 256 ^ t.width - 1 then .skip
  else
    let lim := fun y => if t.rowLimit ≤ y then RowAddr.outOfRange else .at (t.dataBase + y * t.rowStride + t.colOffset)
    if t.twoLevel then
      let p := x / 2 ^ t.pageShift
      if t.pageCount ≤ p then .outOfRange
      else if isBad s.mem (t.pageBase + 4 * p) then .outOfRange
      else lim (Nat.lor (codeAt (getCell s.mem) (t.pageBase + 4 * p) 4 * 2 ^ t.pageShift) (x % 2 ^ t.pageShift))
    else lim x

/-- The byte ranges of an index tensor (06_control_core.md R157). -/
def Idx.ranges (t : Idx) : List (Nat × Nat) :=
  [(t.idxBase, t.idxBase + t.count * t.width), (t.dataBase, t.dataBase + t.rowLimit * t.rowStride)]
    ++ (if t.twoLevel then [(t.pageBase, t.pageBase + 4 * t.pageCount)] else [])

/-! ## Descriptors in memory -/

/-- 64 bytes of a core store as a descriptor. -/
def descAt (s : State) (a : Nat) : Desc := BitVec.ofNat 512 (codeAt (getCell s.mem) a 64)

/-- 32 bytes of a core store as a record. -/
def recAt (s : State) (a : Nat) : Rec := BitVec.ofNat 256 (codeAt (getCell s.mem) a 32)

/-- The lowest code among the causes that hold (R209). -/
def firstCode (l : List (Bool × Nat)) : Option Nat :=
  l.foldl (fun acc p => if p.1 then (match acc with | none => some p.2 | some c => some (min c p.2)) else acc) none

/-! Vector record fields (R200). -/
def vFunc (r : Rec) : Nat := bits r 83 80
def vApply (r : Rec) : Bool := bitAt r 84
def vOutRne (r : Rec) : Bool := bitAt r 85
def vOpen (r : Rec) : Bool := bitAt r 86
def vAccum (r : Rec) : Bool := bitAt r 87
def vImm0 (r : Rec) : FVal := fDecode layFp32 (bits r 127 96)
def vImm1 (r : Rec) : FVal := fDecode layFp32 (bits r 159 128)

/-- The descriptor an entry read for the operand at bit `lo`, if present: `desc` holds one per operand slot. -/
def QEntry.descOf (e : QEntry) (lo : Nat) : Option Desc :=
  if present e.word lo then
    ((List.zip (opndSlots (recOp e.word)) e.desc).find? (fun p => p.1 == lo)).map (fun p => p.2)
  else none

def QEntry.tile (e : QEntry) (lo : Nat) : Option Tile := (e.descOf lo).map tileOf
def QEntry.idx (e : QEntry) (lo : Nat) : Option Idx := (e.descOf lo).map idxOf

end Sys2Proof.Machine
end

