-- ==== Sys2Proof/Machine/Access.lean ====
section
/-! DEFINITION. Who may write a register, and what a write that may not becomes (00_scope.md R9 to R11; 15_mantle_cloak.md
R397 to R402; 17_register_pages.md R469 to R475, R480; 09_yoke_pockets.md R250 to R252, R256, R258, R263, R264). -/
namespace Sys2Proof.Machine

/-- Is a master ID one of Table: Master IDs (R482)? Reserved values are never carried. -/
def isMaster (mid : Nat) : Bool :=
  mid < 0x46 || (0x48 ≤ mid && mid < 0x58) || (0x60 ≤ mid && mid < 0x70) || (0xF0 ≤ mid && mid < 0xF4)

/-- Is a master one of the Mantle's islands (R397)? -/
def isMantle (mid : Nat) : Bool := 0xF0 ≤ mid && mid < 0xF4

/-- The binding table entry of Pocket `k` (R249). -/
def pktBind (s : State) (k : Nat) : Word := rd s (reg (pgBind (k / 256)) (R_PKT_BIND + 8 * (k % 256)))
def pktValid (s : State) (k : Nat) : Bool := bitAt (pktBind s k) 63
def pktSender (s : State) (k : Nat) : Nat := bits (pktBind s k) 7 0
def pktReceiver (s : State) (k : Nat) : Nat := bits (pktBind s k) 15 8

/-- Sender and receiver of word Pocket `w` (R256). -/
def wpSender (w : Nat) : Nat := if w < 8 then 0x44 else 0xF0
def wpReceiver (w : Nat) : Nat := if w < 8 then 0xF0 else 0x44

/-- The master a page's BLK_OWNER names (R475, R480). -/
def ownerOf (s : State) (page : Nat) : Nat :=
  match pageKind page with
  | some (.pocket k) => pktReceiver s k
  | some (.wordPocket w) => wpReceiver w
  | _ => bits (rd s (reg (ownerPage page) R_BLK_OWNER)) 7 0

/-- Would writing `v` change an MW field of the register (R9)? A sub-page's or Hem page's BLK_OWNER is that of its main or block page (R475). -/
def changesMw (s : State) (page off : Nat) (v : Word) : Bool :=
  ((v ^^^ rd s (reg (if off = R_BLK_OWNER then ownerPage page else page) off)) &&& fldsMask .mw (regFlds page off)) != 0

/-- Is an offset of a binding page a PKT_BIND? Behind the 256 of a page no register stands (R472). -/
def isBind (off : Nat) : Bool := decide (R_PKT_BIND ≤ off) && decide (off < R_PKT_BIND + 2048)

/-- The cause of R401 that a write falls under, if it is a violation. -/
def writeCause (s : State) (mid page off : Nat) (v : Word) : Option Nat :=
  match pageKind page with
  | some (.button m) =>
    if off = R_BTN_RING then (if !isMantle mid && bits v 31 28 != 0 then some 4 else none)
    else if off = R_BLK_OWNER then
      (if isMantle mid then none else if ownerOf s page ≠ mid then some 1 else if changesMw s page off v then some 2 else none)
    else if mid = m ∨ (isMantle m ∧ isMantle mid) then none else some 1
  | some (.pocket k) =>
    if off = R_BLK_OWNER then none
    else if R_PKT_MSG ≤ off ∧ off ≤ R_PKT_GO then (if pktValid s k && pktSender s k == mid then none else some 3)
    else if off = R_PKT_TAKE then (if pktValid s k && pktReceiver s k == mid then none else some 3)
    else some 3
  | some (.wordPocket w) =>
    if off = R_BLK_OWNER then none
    else if off = R_WP_WORD ∨ off = R_WP_GO then (if wpSender w = mid then none else some 3)
    else if off = R_WP_TAKE then (if wpReceiver w = mid then none else some 3)
    else some 3
  | some (.mantle _) | some .mantleCert => if isMantle mid then none else some 2
  | some (.bist _) =>
    if off = R_BIST_REQ then none
    else if isMantle mid && off == R_BLK_OWNER then none
    else if ownerOf s page ≠ mid then some 1 else if changesMw s page off v then some 2 else none
  | some k =>
    if isMantle mid then
      (if ownerOf s page = mid ∨ off = R_BLK_OWNER ∨ fldsMask .mw (regFlds page off) ≠ 0 then none
       else match k with
        | .binding _ => if isBind off then none else some 1
        | .hem h => if 29 ≤ h then none else some 1
        | _ => some 1)
    else if ownerOf s page ≠ mid then some 1
    else match k with
      | .binding _ =>
        if isBind off ∧ rdB s (reg (pgBind 0) R_PKT_LOCK) 0 then some 3
        else if changesMw s page off v then some 2 else none
      | _ => if changesMw s page off v then some 2 else none
  | none => none

/-- GO of a Pocket or word Pocket (PKT_STATUS, WP_STATUS bit 0). -/
def pktGo (s : State) (k : Nat) : Bool := rdB s (reg (pgPocket k) R_PKT_STATUS) 0
def wpGo (s : State) (w : Nat) : Bool := rdB s (reg (pgWord w) R_WP_STATUS) 0

/-- Does a send meet a Pocket with GO set (R252)? -/
def sendBlocked (s : State) (page off : Nat) : Bool :=
  match pageKind page with
  | some (.pocket k) => decide (R_PKT_MSG ≤ off ∧ off ≤ R_PKT_GO) && pktGo s k
  | some (.wordPocket w) => decide (off = R_WP_WORD ∨ off = R_WP_GO) && wpGo s w
  | _ => false

def bistOf (s : State) (p : Nat) : BistSt := tabGet (fun _ => BistSt.rst) s.bist p

/-- Is this a write of BIST_REQ that finds 16 requests queued (16_bringup_service.md R457)? -/
def bistFull (s : State) (page off : Nat) : Bool :=
  match pageKind page with
  | some (.bist p) => off == R_BIST_REQ && decide (16 ≤ (bistOf s p).queue.length)
  | _ => false

/-- What becomes of a write. -/
inductive Verdict | busError | violation (cause : Nat) | ignored | perform
  deriving DecidableEq, Repr

/-- The verdict on a write of `v` at offset `off` of a page (R414, R471, R472, R473). -/
def verdict (s : State) (mid page off : Nat) (v : Word) : Verdict :=
  if off % 8 ≠ 0 ∨ pageKind page = none ∨ cloakDenies s mid false then .busError
  else match writeCause s mid page off v with
    | some c => .violation c
    | none => if !pageOn s page then .ignored else if sendBlocked s page off || bistFull s page off then .busError else .perform

/-- The address of a register. -/
def mmioAddr (page off : Nat) : Word := w64 (mmioBase + page * 4096 + off)

/-- A violating write aimed at a page (R401, R402, R481). -/
def pageViolation (s : State) (mid page off cause : Nat) : State :=
  let s := if pageOn s page then bumpHdr s page R_BLK_VIOL_CNT else s
  setResp (violation s mid cause (mmioAddr page off)) .violation

/-- A write by `mid`; `act` is its effect where it is performed. -/
def guardWrite (s : State) (mid page off : Nat) (v : Word) (act : State → State) : State :=
  if !isMaster mid then s
  else match verdict s mid page off v with
    | .busError => setResp s .busError
    | .violation c => pageViolation s mid page off c
    | .ignored => setResp s .ok
    | .perform => act (setResp (bumpHdr s page R_BLK_WR_CNT) .ok)

/-- The effect of a write on each field by its access code (R9, R10): RW fields take the value, W1C bits written 1 clear, MW
fields take the value of a write by the Mantle. `own`: the writer owns the page, so that its RW and W1C fields act. -/
def fieldWrite (s : State) (page off : Nat) (v : Word) (own mantle : Bool) : State :=
  let fs := regFlds page off
  let k := reg page off
  let old := rd s k
  let rw := if own then fldsMask .rw fs else 0
  let mw := if mantle then fldsMask .mw fs else 0
  let w1c := if own then fldsMask .w1c fs else 0
  let set := rw ||| mw
  wr s k (((old &&& ~~~ set) ||| (v &&& set)) &&& ~~~ (v &&& w1c))

/-- An uncorrectable error in a block's accounting state (01_module_at_work.md R24): the block freezes itself. `mids` are the
master IDs of the block. -/
def breach (s : State) (page : Nat) (mids : List Nat) (addr : Word) : State :=
  let s := freezePage s page
  let s := mids.foldl (fun s m => setFrozenBit s m true) s
  let s := { s with breached := if s.breached.contains page then s.breached else s.breached ++ [page] }
  judgeFailed (reportErr s page 0x8001 addr) 0x8001

/-- The master IDs of the block of a page (R482). -/
def pageMids (page : Nat) : List Nat :=
  match pageKind (mainPage page) with
  | some (.core c) => [c, 0x20 + c]
  | some (.service p) => [0x40 + p]
  | some .ctlport => [0x44]
  | some (.coll p) => [0x48 + p]
  | some (.opt p) => [0x4C + p]
  | some (.recov p) => [0x50 + p]
  | some (.bist p) => [0x54 + p]
  | _ => []

end Sys2Proof.Machine
end

