-- ==== Sys2Proof/Machine/Mesh.lean ====
section
/-! DEFINITION. The mesh of a Panel and the ring: drain classes, places of blocks, routes, buffers and room (11_onchip_fabric.md R290, R293 to R296, R299, R308,
R309). -/
namespace Sys2Proof.Machine

/-! ## Messages (R293, R308) -/

/-- The drain class of a kind of message (Table: Drain classes): 0 REQ, 1 RSP, 2 WB, 3 SINK. -/
def fabClass : FabKind → Nat
  | .readRequest | .scalarLoad | .scalarStore | .mmioRead | .mmioWrite | .fullEmpty | .barrierArrival | .pocketWrite => 0
  | .readData | .acknowledgement | .aborted => 1
  | .hbmWrite | .toPort => 2
  | .memoryWrite | .writeAcceptance | .registration | .changeNotice | .release | .wake | .ring => 3

/-- Does a kind carry data in flits of its own? -/
def fabData : FabKind → Bool
  | .readData | .hbmWrite | .toPort | .memoryWrite => true
  | _ => false

/-- The flits of a message: 128 bytes of data each; a message without data rides in the sideband of one (R293). -/
def fabFlits (r : FabReq) : Nat := if fabData r.kind then max 1 ((r.bytes + 127) / 128) else 1

/-- Is a message one the fabric carries: 1 to 4 flits? -/
def fabFits (r : FabReq) : Bool := decide (fabFlits r ≤ 4)

/-- Is a kind a SINK notice, to a sink that always accepts? -/
def fabNotice : FabKind → Bool
  | .writeAcceptance | .registration | .changeNotice | .release | .wake | .ring => true
  | _ => false

/-- What the handling of a message of class `c` at its sink may produce (Table: Drain classes, last column). -/
def fabMayProduce (c : Nat) (k : FabKind) : Bool := if c = 3 then fabNotice k else decide (c < fabClass k)

/-! ## Places (R290, Table: Mesh attachment) -/

/-- A router and the local port of a block there. -/
structure FabPlace where
  p : Nat
  x : Nat
  y : Nat
  unit : Nat
  deriving DecidableEq, Repr

/-- The place of a Button page: the router of its receiving master. -/
def buttonPlace (m : Nat) : FabPlace :=
  if m < 0x20 then ⟨m / 8, m % 4, if m % 8 < 4 then 0 else 3, 1⟩
  else if m < 0x44 then ⟨m % 4, 0, 2, 3⟩
  else if m = 0x44 then ⟨0, 0, 2, 4⟩
  else if 0xF0 ≤ m then ⟨0, 0, 2, 5⟩
  else ⟨m % 4, 3, 2, 3⟩

/-- The place of a block. A page that Table: Mesh attachment does not list has no place in the spec; it stands with the service processor of its Panel (DESIGN CHOICE,
log entry 64). -/
def fabPlace : FabBlock → FabPlace
  | .core c => ⟨c.val / 8, c.val % 4, if c.val % 8 < 4 then 0 else 3, 0⟩
  | .port i => ⟨i.val / 4, if i.val % 4 < 2 then 0 else 3, 1, i.val % 2⟩
  | .hbm k => ⟨k.val / 2, 1 + k.val % 2, 1, 0⟩
  | .crypto p => ⟨p.val, 1, 1, 1⟩
  | .llc p b => ⟨p.val, 1 + b.val / 8 % 2, 1 + b.val / 16, 2 + b.val % 8⟩
  | .yoke => ⟨0, 1, 2, 10⟩
  | .pockets => ⟨0, 1, 2, 11⟩
  | .wordPockets => ⟨0, 1, 2, 12⟩
  | .bindings => ⟨0, 1, 2, 13⟩
  | .bist p => ⟨p.val, 2, 2, 10⟩
  | .service p => ⟨p.val, 0, 2, 0⟩
  | .mantle p => ⟨p.val, 0, 2, 1⟩
  | .control => ⟨0, 0, 2, 2⟩
  | .coll p => ⟨p.val, 3, 2, 0⟩
  | .opt p => ⟨p.val, 3, 2, 1⟩
  | .recovery p => ⟨p.val, 3, 2, 2⟩
  | .button m => buttonPlace m.toNat
  | .page p => ⟨p.val, 0, 2, 6⟩

/-- The number of a block's final sink among the fabric's buffers. -/
def sinkNo (b : FabBlock) : Nat := 64 + (fabPlace b).unit + 32 * (16 * (fabPlace b).p + 4 * (fabPlace b).y + (fabPlace b).x)

/-- The master ID a block sends under, if it has one (17_register_pages.md R482). -/
def fabMid : FabBlock → Option Nat
  | .core c => some c.val
  | .port i => some (0x60 + i.val)
  | .service p => some (0x40 + p.val)
  | .control => some 0x44
  | .coll p => some (0x48 + p.val)
  | .opt p => some (0x4C + p.val)
  | .recovery p => some (0x50 + p.val)
  | .bist p => some (0x54 + p.val)
  | .mantle p => some (0xF0 + p.val)
  | _ => none

/-- The source group of a message at an arbiter of Panel `p` (R301). The spec names no group for memory controllers, LLC banks, the Yoke, the Pockets, pages and the
Mantle: they are of group 1 with the engines of the Panel (DESIGN CHOICE, log entry 64). -/
def fabGroup (p : Nat) (m : FabMsg) : Nat :=
  if (fabPlace m.req.src).p ≠ p then 3
  else match m.req.src with
    | .core _ => 0
    | .port _ | .control => 2
    | _ => 1

/-! ## Routes (R293, R295, R299) -/

/-- Is a Seam down? -/
def seamDown (s : State) (n : Nat) : Bool := rdB s (reg (pgSeam n) R_SEAM_STATUS) 3

/-- The Seams on the way from Panel `q` to Panel `d`, in direction A or B of the ring. -/
def ringPath (q d : Nat) (dirB : Bool) : List Nat :=
  if dirB then (List.range ((q + 4 - d) % 4)).map (fun i => (q + 3 - i) % 4) else (List.range ((d + 4 - q) % 4)).map (fun i => (q + i) % 4)

/-- The bit that chooses between the two ways to a Panel two apart (R295). -/
def fabBit (r : FabReq) : Bool := match r.addr with
  | some a => a / 512 % 2 == 1
  | none => match fabMid r.src with
    | some m => m % 2 == 1
    | none => (fabPlace r.src).p % 2 == 1

/-- The way from Panel `q` to Panel `d` while every Seam is up: direction B of the ring? -/
def ringWay (r : FabReq) (q d : Nat) : Bool := if (d + 4 - q) % 4 = 2 then fabBit r else (d + 4 - q) % 4 == 3

/-- The way with Seams down: the other one where this crosses a Seam that is down; none where both do (R299, R300). -/
def ringRoute (s : State) (r : FabReq) (q d : Nat) : Option Bool :=
  let b := ringWay r q d
  if !(ringPath q d b).any (seamDown s) then some b else if !(ringPath q d !b).any (seamDown s) then some !b else none

/-- The output a message takes at router (x, y) of Panel `p`: 0 to x - 1, 1 to x + 1, 2 to y - 1, 3 to y + 1, 4 a Seam, 5 + unit a local port; along x first,
then along y (R293). -/
def fabOut (s : State) (r : FabReq) (p x y : Nat) : Option Nat :=
  let d := fabPlace r.dst
  let goal := if d.p = p then some (d.x, d.y, 5 + d.unit) else (ringRoute s r p d.p).map (fun b => if b then (0, 2, 4) else (3, 2, 4))
  goal.map (fun g => if x < g.1 then 1 else if g.1 < x then 0 else if y < g.2.1 then 3 else if g.2.1 < y then 2 else g.2.2)

/-- The Seam and direction that output 4 of a router enters: Seam p in direction A at (3, 2), Seam (p + 3) mod 4 in direction B at (0, 2). -/
def seamAt (p x y : Nat) : Option (Nat × Bool) :=
  if y ≠ 2 then none else if x = 3 then some (p, false) else if x = 0 then some ((p + 3) % 4, true) else none

/-- The buffer of the sending end, and of the receiving end, of a Seam in a direction. -/
def seamNear (n : Nat) (dirB : Bool) : FabAt := if dirB then .buf ((n + 1) % 4) 0 2 4 else .buf n 3 2 4
def seamFar (n : Nat) (dirB : Bool) : FabAt := if dirB then .buf n 3 2 4 else .buf ((n + 1) % 4) 0 2 4

/-- The next stage behind an output. -/
def fabNext (p x y out : Nat) : FabAt :=
  match out with
  | 0 => .buf p (x - 1) y 1
  | 1 => .buf p (x + 1) y 0
  | 2 => .buf p x (y - 1) 3
  | 3 => .buf p x (y + 1) 2
  | 4 => match seamAt p x y with
    | some (n, b) => .seam n b
    | none => .source
  | _ => .sink

/-! ## Room (R305, R309, R310) -/

/-- The buffer whose space a message takes: a router's port, or its final sink. -/
def fabHolds (m : FabMsg) : FabAt := match m.loc with
  | .seam n b => seamFar n b
  | l => l

/-- Do two messages take space of one shared pool: that of a router, which its ports share (R305: another arbiter's grant can take it; DEDUCED, log entry 122), or of
one final sink? -/
def samePool (m n : FabMsg) : Bool := match fabHolds m, fabHolds n with
  | .buf p x y _, .buf p' x' y' _ => p == p' && x == x' && y == y'
  | .sink, .sink => sinkNo m.req.dst == sinkNo n.req.dst
  | _, _ => false

/-- Do they take space of one buffer's reserves? -/
def sameBuf (m n : FabMsg) : Bool := samePool m n && match fabHolds m, fabHolds n with
  | .buf _ _ _ i, .buf _ _ _ j => i == j
  | _, _ => true

/-- The number of a message's shared pool. -/
def poolNo (m : FabMsg) : Nat := match fabHolds m with
  | .buf p x y _ => 16 * p + 4 * y + x
  | _ => sinkNo m.req.dst

/-- The flits that messages of a selection hold. -/
def flitsOf (l : List FabMsg) : Nat := l.foldl (fun n m => n + fabFlits m.req) 0

/-- The crossing index whose reserves a message uses: that of its crossing at a Seam end, 0 elsewhere. A route past a Seam that went down behind the message can cross a
fourth: it uses index 3 (DESIGN CHOICE, log entry 122). -/
def crossIndex (m : FabMsg) : Nat := match fabHolds m with
  | .buf _ _ _ 4 => min 3 m.cross
  | _ => 0

/-- The space that message `m` would take where its `loc` puts it, if there is any: the shared pool; else its class's reserve, else that of a lower class. Sinks of RSP and
SINK messages always have room (R308, R310). -/
def fabSpace (s : State) (m : FabMsg) : Option FabSlot :=
  let c := fabClass m.req.kind
  let used := fun (sl : FabSlot) (same : FabMsg → FabMsg → Bool) => flitsOf (s.fab.filter (fun n => n.slot == sl && same m n))
  if m.loc = .sink ∧ (c = 1 ∨ c = 3) then some .own
  else if used .pool samePool + fabFlits m.req ≤ Config.fabPool (poolNo m) then some .pool
  else ((List.range (c + 1)).reverse.find? (fun k => decide (used (.reserve (crossIndex m) k) sameBuf + fabFlits m.req ≤ 4))).map (.reserve (crossIndex m))

end Sys2Proof.Machine
end

