-- ==== Sys2Proof/Machine/Fabric.lean ====
section
/-! DEFINITION. Arbiters, priority commits and Seams of the Panel fabric (11_onchip_fabric.md R294 to R306, R308 to R313). -/
namespace Sys2Proof.Machine

/-! ## Seams: ends, groups and flits (R296, R313) -/

/-- The key of a lane group: Seam, direction, group. -/
def seamKey (n : Nat) (dirB : Bool) (g : Nat) : Nat := 16 * n + (if dirB then 8 else 0) + g

/-- The sending Panel of a direction. -/
def seamSender (n : Nat) (dirB : Bool) : Nat := if dirB then (n + 1) % 4 else n

/-- Is a group active in its direction? -/
def seamActive (s : State) (n : Nat) (dirB : Bool) (g : Nat) : Bool :=
  rdB s (reg (pgSeam n) R_SEAM_GROUPS) ((if dirB then 8 else 0) + g)

/-- Do both ends of a Seam run? -/
def seamOn (s : State) (n : Nat) : Bool := domOn s (44 + n) && domOn s (44 + (n + 1) % 4)

/-- The groups of a direction that carry flits: active and not under test. -/
def seamLanes (s : State) (n : Nat) (dirB : Bool) : List Nat :=
  (List.range 8).filter (fun g => seamActive s n dirB g && !s.seamTests.contains (seamKey n dirB g))

/-- The messages on their way over a Seam in a direction, and their flits. -/
def seamMsgs (s : State) (n : Nat) (dirB : Bool) : List FabMsg := s.fab.filter (fun m => m.loc == .seam n dirB)
def seamFlits (s : State) (n : Nat) (dirB : Bool) : List FabFlit := (seamMsgs s n dirB).flatMap (fun m => m.fly)

/-- The flits of a message that enters a Seam, spread over the groups that carry flits from sequence number `seq` on. -/
def spread (lanes : List Nat) (seq n : Nat) : List FabFlit := (List.range n).map (fun i => ⟨seq + i, nth 0 lanes ((seq + i) % lanes.length), false⟩)

/-- Is there room in the replay buffers of 64 flits per group? -/
def replayRoom (s : State) (n : Nat) (dirB : Bool) (new : List FabFlit) : Bool :=
  new.all (fun f => decide (((seamFlits s n dirB).filter (fun e => e.group == f.group)).length + (new.filter (fun e => e.group == f.group)).length ≤ 64))

/-! ## Arbiters (R301 to R305) -/

def arbKey (p x y out : Nat) : Nat := p + 4 * (x + 4 * (y + 4 * out))
def arbOf (s : State) (p x y out : Nat) : ArbSt := tabGet (fun _ => ArbSt.rst) s.arbs (arbKey p x y out)
def setArb (s : State) (p x y out : Nat) (v : ArbSt) : State := { s with arbs := tabSet (fun _ => ArbSt.rst) s.arbs (arbKey p x y out) v }

/-- The input of a message: incoming port and class. -/
def arbInput (m : FabMsg) : Nat := 4 * (match m.loc with
  | .buf _ _ _ i => i
  | _ => 0) + fabClass m.req.kind

/-- Is a message in a buffer of a router? -/
def atRouter (p x y : Nat) (m : FabMsg) : Bool := match m.loc with
  | .buf p' x' y' _ => p == p' && x == x' && y == y'
  | _ => false

/-- Is a message on a Panel, in a buffer of its routers or at a source there? -/
def onPanel (p : Nat) (m : FabMsg) : Bool := match m.loc with
  | .buf p' _ _ _ => p == p'
  | .source => p == (fabPlace m.req.src).p
  | _ => false

/-- The Panels on which a message stands; both ends of the Seam it crosses. -/
def fabPanels (m : FabMsg) : List Nat := match m.loc with
  | .source => [(fabPlace m.req.src).p]
  | .buf p _ _ _ => [p]
  | .seam n _ => [n, (n + 1) % 4]
  | .sink => [(fabPlace m.req.dst).p]

/-- Does a message at Panel `p` take another way than it would with every Seam up? -/
def rerouted (s : State) (p : Nat) (r : FabReq) : Bool :=
  let d := (fabPlace r.dst).p
  d != p && ringRoute s r p d != some (ringWay r p d)

/-- A newer message for a route that goes the other way around the ring is held until the re-sent messages of its way have left the Panel, so that the order of R294 holds
(R299). -/
def rerouteHeld (s : State) (p : Nat) (m : FabMsg) : Bool :=
  !m.resent && rerouted s p m.req && s.fab.any (fun n => n.resent && onPanel p n && ringWay n.req p (fabPlace n.req.dst).p == ringWay m.req p (fabPlace m.req.dst).p)

/-- The oldest message of each input of a router: the messages of an input leave in the order they came (R294). -/
def arbHeads (s : State) (p x y : Nat) : List FabMsg :=
  (s.fab.filter (fun m => atRouter p x y m && !rerouteHeld s p m)).foldl (fun l m => if l.any (fun n => arbInput n == arbInput m) then l else l ++ [m]) []

/-- A message as it would stand behind an output. -/
def fabMoved (s : State) (p x y out : Nat) (m : FabMsg) : FabMsg :=
  match fabNext p x y out with
  | .seam n b => { m with loc := .seam n b, cross := m.cross + 1, fly := spread (seamLanes s n b) (arbOf s p x y out).seq (fabFlits m.req), resent := false }
  | l => { m with loc := l }

/-- The space that a message takes behind an output, if the next stage has room for it: behind a Seam entry the far end's buffer and the replay buffers of the groups. -/
def fabRoom (s : State) (p x y out : Nat) (m : FabMsg) : Option FabSlot :=
  let t := fabMoved s p x y out m
  match t.loc with
  | .source => none
  | .seam n b => if seamLanes s n b ≠ [] ∧ replayRoom s n b t.fly then fabSpace s t else none
  | _ => fabSpace s t

/-- Does the arbiter pass flits: its fabric runs and is not frozen under R24, and the Seam it enters, if any, is up? -/
def arbUp (s : State) (p x y out : Nat) : Bool :=
  domOn s (44 + p) && !blockHeld s (pgFab p) && match fabNext p x y out with
    | .seam n _ => seamOn s n && rdB s (reg (pgSeam n) R_SEAM_STATUS) 0 && !seamDown s n
    | _ => true

/-- The eligible messages at an arbiter, one of an input (R301). -/
def arbElig (s : State) (p x y out : Nat) : List FabMsg :=
  (arbHeads s p x y).filter (fun m => fabOut s m.req p x y == some out && (fabRoom s p x y out m).isSome)

/-- The priority of a message in the table in force: SINK, WB, RSP and REQ by source group. -/
def arbPrio (s : State) (p : Nat) (m : FabMsg) : Nat :=
  let lo := 16 * fabClass m.req.kind + 4 * fabGroup p m
  rdF s (reg (pgFab p) R_ARB_PRIO_ACTIVE) (lo + 3) lo

/-- Does `m` come before `n`: higher priority, or equal and nearer in the round-robin order after the last grant. -/
def arbBefore (s : State) (p : Nat) (last : Option Nat) (m n : FabMsg) : Bool :=
  let after := fun (x : FabMsg) => match last with
    | none => true
    | some l => decide (l < arbInput x)
  let pm := arbPrio s p m
  let pn := arbPrio s p n
  decide (pn < pm) || (pm == pn && ((after m && !after n) || (after m == after n && decide (arbInput m < arbInput n))))

/-- The winner among eligible messages. -/
def arbWinner (s : State) (p : Nat) (last : Option Nat) : List FabMsg → Option FabMsg
  | [] => none
  | m :: l => match arbWinner s p last l with
    | none => some m
    | some n => if arbBefore s p last n m then some n else some m

/-- A message enters a class reserve because the shared pool is full. -/
def noteReserve (s : State) (p : Nat) : FabSlot → State
  | .reserve _ _ => bump s (pgFab p) R_FAB_RESERVE_CNT
  | _ => s

/-- The burst of a message passes whole (R302): its flits are counted, in the Seam's page as well where it enters a Seam, and the grant parks on its input. -/
def arbPass (s : State) (p x y out : Nat) (m : FabMsg) (slot : FabSlot) : State :=
  let t := { fabMoved s p x y out m with slot := slot }
  let st := arbOf s p x y out
  let s := noteReserve (bumpN s (pgFab p) R_FAB_FLIT_CNT (fabFlits m.req)) p slot
  let s := match t.loc with
    | .seam n b => bumpN s (pgSeam n) (if b then R_SEAM_FLIT_B_CNT else R_SEAM_FLIT_A_CNT) (fabFlits m.req)
    | _ => s
  setArb { s with fab := s.fab.erase m ++ [t] } p x y out ⟨some (arbInput m), none, [], st.seq + t.fly.length⟩

/-! ## Sources and sinks (R294, R308, R309) -/

/-- A message enters the fabric at its source's local port, where there is room. -/
def fabEnter (s : State) (m : FabMsg) : Option State :=
  let d := fabPlace m.req.src
  let t := { m with loc := .buf d.p d.x d.y (5 + d.unit) }
  if !domOn s (44 + d.p) || blockHeld s (pgFab d.p) then none
  else (fabSpace s t).map (fun sl => noteReserve { s with fab := s.fab.erase m ++ [{ t with slot := sl }] } d.p sl)

/-- The messages that wait at their sources enter in the order sent; none passes an older one of its source and class. -/
def fabEnterAll (s : State) : State :=
  (s.fab.filter (fun m => m.loc == .source)).foldl (fun s m =>
    let older := (s.fab.takeWhile (fun n => n != m)).any (fun n => n.loc == .source && n.req.src == m.req.src && fabClass n.req.kind == fabClass m.req.kind)
    if older then s else (fabEnter s m).getD s) s

/-- A message as its source sends it. -/
def fabSent (r : FabReq) : FabMsg := ⟨r, 0, .source, .own, [], false⟩

/-- A block handles the oldest message of a class at its sink: the entry is free when every message that the handling produces, of the classes Table: Drain classes allows, has
entered the fabric; without room for them nothing changes. -/
def fabServe (s : State) (b : FabBlock) (c : Nat) (out : List FabReq) : State :=
  match s.fab.find? (fun m => m.loc == .sink && sinkNo m.req.dst == sinkNo b && fabClass m.req.kind == c) with
  | none => s
  | some m =>
    if !out.all (fun r => fabFits r && fabMayProduce c r.kind && r.src == b) then s
    else
      let s' := out.foldl (fun o r => o.bind (fun s => fabEnter { s with fab := s.fab ++ [fabSent r] } (fabSent r))) (some { s with fab := s.fab.erase m })
      s'.getD s

/-- What blocks do while an arbiter decides. -/
def fabDo (s : State) : FabIn → State
  | .send r => if fabFits r ∧ domOn s (44 + (fabPlace r.src).p) then { s with fab := s.fab ++ [fabSent r] } else s
  | .serve b c out => fabServe s b c.val out
def fabDuring (s : State) (l : List FabIn) : State := fabEnterAll (l.foldl fabDo s)

/-! ## A round of an arbiter (R303 to R305) -/

/-- The decision that stands takes effect: the burst passes, a stale grant where an input of higher priority became eligible in the deciding round; where the winner
has lost eligibility the round is dead, and it keeps its place in the order. -/
def arbStart (s : State) (p x y out : Nat) : State :=
  let st := arbOf s p x y out
  match st.decided with
  | none => s
  | some i => match (arbElig s p x y out).find? (fun m => arbInput m == i) with
    | none => bump (setArb s p x y out { st with decided := none, seen := [] }) (pgFab p) R_ARB_DEAD_ROUND_CNT
    | some m =>
      let stale := (arbElig s p x y out).any (fun n => decide (arbPrio s p m < arbPrio s p n) && !st.seen.contains (arbInput n))
      let sl := (fabRoom s p x y out m).getD .own
      let s := bump s (pgFab p) R_ARB_GRANT_CNT
      arbPass (if stale then bump s (pgFab p) R_ARB_STALE_CNT else s) p x y out m sl

/-- The next grant is decided among the inputs `from'` that were eligible when the round began; where none was, a request from the parked owner passes at once, and another
waits for its decision round. -/
def arbDecide (s : State) (p x y out : Nat) (from' : List FabMsg) : State :=
  let st := arbOf s p x y out
  match arbWinner s p st.last from' with
  | some m => setArb s p x y out { st with decided := some (arbInput m), seen := from'.map arbInput }
  | none => match (arbElig s p x y out).find? (fun m => some (arbInput m) == st.last) with
    | some m => arbPass (bump s (pgFab p) R_ARB_PARKED_CNT) p x y out m ((fabRoom s p x y out m).getD .own)
    | none => s

/-- ARBITER_GRANT: the burst decided on starts, and while it passes the next grant is decided among the inputs eligible at the round's start; `during` is what blocks do in
that round. -/
def arbGrant (s : State) (p x y out : Nat) (during : List FabIn) : State :=
  if !arbUp s p x y out then fabDuring s during
  else
    let s := arbStart s p x y out
    arbDecide (fabDuring s during) p x y out (arbElig s p x y out)

def execArbiterGrant (p : Panel) (x y : Fin 4) (out : Nat) (during : List FabIn) (s : State) : Out :=
  .next (arbGrant s p x y out during)

/-! ## Commits (R306) -/

/-- A write of ARB_COMMIT. -/
def arbCommitWrite (s : State) (p : Nat) (v : Word) : State :=
  let k := reg (pgFab p) R_ARB_COMMIT
  if !bitAt v 0 then s
  else if rdB s k 1 then wrB s (reg (pgFab p) R_FAB_STATUS) 0 true
  else wrB (wr s (reg (pgFab p) R_ARB_PRIO_ACTIVE) (rd s (reg (pgFab p) R_ARB_PRIO_SHADOW))) k 1 true

def execArbCommit (mid : Mid) (p : Panel) (s : State) : Out :=
  .next (guardWrite s mid.toNat (pgFab p) R_ARB_COMMIT 1 (fun s => arbCommitWrite s p 1))

/-- ARB_COMMIT_DONE: every arbiter has taken the table. -/
def execArbCommitDone (p : Panel) (s : State) : Out :=
  .next (if domOn s (44 + p.val) then wrB s (reg (pgFab p) R_ARB_COMMIT) 1 false else s)

/-! ## Replay, lane tests and narrowing (R297 to R300) -/

/-- The flits of a Seam in a direction change. -/
def seamMap (s : State) (n : Nat) (dirB : Bool) (f : FabFlit → FabFlit) : State :=
  { s with fab := s.fab.map (fun m => if m.loc = .seam n dirB then { m with fly := m.fly.map f } else m) }

/-- Messages arrive at the far end in the order of their sequence numbers: one whose flits have all arrived, with none before it being replayed. What was being replayed
arrives with the next tick. -/
def seamArrive (s : State) (n : Nat) (dirB : Bool) : State :=
  if !(seamOn s n && !seamDown s n) then s
  else
    let bad := (seamFlits s n dirB).filter (fun f => f.again)
    let done := fun (m : FabMsg) => m.fly.all (fun f => bad.all (fun b => decide (f.seq < b.seq)))
    let s := { s with fab := s.fab.map (fun m => if m.loc = .seam n dirB ∧ done m then { m with loc := seamFar n dirB, fly := [] } else m) }
    seamMap s n dirB (fun f => { f with again := false })

/-- What crosses the Seams of the module in a nanosecond. -/
def tickSeams (s : State) : State := (List.range 4).foldl (fun s n => seamArrive (seamArrive s n false) n true) s

/-- LANE_TEST shows a test of any group of the Seam. -/
def seamTestBit (s : State) (n : Nat) : State :=
  wrB s (reg (pgSeam n) R_SEAM_STATUS) 1 (s.seamTests.any (fun k => k / 16 == n))

/-- The flits of a group that carries none are replayed on the other groups. -/
def seamMove (s : State) (n : Nat) (dirB : Bool) (g : Nat) : State :=
  let lanes := seamLanes s n dirB
  if lanes = [] then s
  else
    let moved := ((seamFlits s n dirB).filter (fun f => f.group == g)).length
    bumpN (seamMap s n dirB (fun f => if f.group = g then ⟨f.seq, nth 0 lanes (f.seq % lanes.length), true⟩ else f)) (pgSeam n) R_SEAM_REPLAY_CNT moved

/-- The flits of a group from its `i`-th in flight on: those replayed when that one is rejected. -/
def seamLater (s : State) (n : Nat) (dirB : Bool) (g i : Nat) : List Nat :=
  (((seamFlits s n dirB).filter (fun f => f.group == g)).map (fun f => f.seq)).drop i

/-- SEAM_CRC_REJECT: the `i`-th flit in flight of a group is rejected and it and every later flit of the group are replayed; a flit of an access that the model carries
out at once stands for itself (log entry 65). The sixteenth reject within 1 ms (10^6 counts of HEM_REFCNT of the sending Panel's service processor Hem) starts a lane test. -/
def seamReject (s : State) (n : Nat) (dirB : Bool) (g i : Nat) : State :=
  let k := seamKey n dirB g
  if !seamOn s n ∨ !seamActive s n dirB g ∨ s.seamTests.contains k then s
  else
    let again := seamLater s n dirB g i
    let s := bumpN (bump s (pgSeam n) R_SEAM_CRC_CNT) (pgSeam n) R_SEAM_REPLAY_CNT (max 1 again.length)
    let s := seamMap s n dirB (fun f => if f.group = g ∧ again.contains f.seq then { f with again := true } else f)
    let now := refcnt s (25 + seamSender n dirB)
    let recent := (s.seamRejects.filter (fun r => r.1 != k || decide (now - r.2 ≤ 1000000))) ++ [(k, now)]
    if (recent.filter (fun r => r.1 == k)).length < 16 then { s with seamRejects := recent }
    else
      let s := { s with seamRejects := recent.filter (fun r => r.1 != k), seamTests := s.seamTests ++ [k] }
      seamMove (seamTestBit (bump s (pgSeam n) R_SEAM_LANE_TEST_CNT) n) n dirB g

def execSeamCrcReject (n : Panel) (dirB : Bool) (g : Fin 8) (i : Fin 64) (s : State) : Out :=
  .next (seamReject s n dirB g i)

/-- The messages in flight over a Seam go back to the sending ends, to be re-sent along the new route before any other. -/
def seamReturn (s : State) (n : Nat) : State :=
  let back : Bool → List FabMsg := fun b => (seamMsgs s n b).map (fun (m : FabMsg) => { m with loc := seamNear n b, slot := .own, cross := m.cross - 1, fly := [], resent := true })
  { s with fab := back false ++ back true ++ s.fab.filter (fun m => m.loc != .seam n false && m.loc != .seam n true) }

/-- A direction lost its last group: the Seam is down and carries no traffic (R299); with a second Seam down the module has failed (R300). -/
def seamFail (s : State) (n : Nat) : State :=
  let s := wrB (wrB s (reg (pgSeam n) R_SEAM_STATUS) 0 false) (reg (pgSeam n) R_SEAM_STATUS) 3 true
  let s := wrB s (reg (pgFab n) R_FAB_STATUS) 1 true
  let s := seamReturn (wrB s (reg (pgFab ((n + 1) % 4)) R_FAB_STATUS) 1 true) n
  let others := (List.range 4).filter (fun m => m != n && seamDown s m)
  match others with
  | [m] => judgeFailed (reportErr (reportErr s (pgSeam m) 0x8003 0) (pgSeam n) 0x8003 0) 0x8003
  | _ => s

/-- A group is retired in a direction until the next bring-up (R297 to R299). -/
def seamRetire (s : State) (n : Nat) (dirB : Bool) (g : Nat) : State :=
  let kg := reg (pgSeam n) R_SEAM_GROUPS
  let s := bump (wrB s kg ((if dirB then 8 else 0) + g) false) (pgSeam n) R_SEAM_GROUP_RETIRE_CNT
  let s := seamMove (setDegraded (wrB s (reg (pgSeam n) R_SEAM_STATUS) 2 true) (pgSeam n) 5) n dirB g
  if rdF s kg 7 0 = 0 ∨ rdF s kg 15 8 = 0 then (if seamDown s n then s else seamFail s n) else s

/-- SEAM_LANE_TEST_END: spares replace the failing lanes, or the group is retired. -/
def seamTestEnd (s : State) (n : Nat) (dirB : Bool) (g failing : Nat) : State :=
  let k := seamKey n dirB g
  if !seamOn s n ∨ !s.seamTests.contains k then s
  else
    let s := seamTestBit { s with seamTests := s.seamTests.filter (fun x => x != k) } n
    let kg := reg (pgSeam n) R_SEAM_GROUPS
    let lo := (if dirB then 48 else 32) + 2 * g
    let used := rdF s kg (lo + 1) lo
    if failing ≤ 2 - used then wrF s kg (lo + 1) lo (used + failing) else seamRetire s n dirB g

def execSeamLaneTestEnd (n : Panel) (dirB : Bool) (g : Fin 8) (failing : Nat) (s : State) : Out :=
  .next (seamTestEnd s n dirB g failing)

/-- FAB_STATUS.REROUTE of a Panel shows whether one of its Seams is down (R312). -/
def rerouteBit (s : State) (p : Nat) : State := wrB s (reg (pgFab p) R_FAB_STATUS) 1 (seamDown s p || seamDown s ((p + 3) % 4))

/-- The Seam of a Panel trains at bring-up (16_bringup_service.md R429): all groups active, no spare in use; SEAM_NARROW and REROUTE end with their cause (R298, R312). -/
def seamTrain (s : State) (n : Nat) : State :=
  if seamOn s n ∧ !rdB s (reg (pgSeam n) R_SEAM_STATUS) 0 then
    let s := wr (wr s (reg (pgSeam n) R_SEAM_STATUS) 1) (reg (pgSeam n) R_SEAM_GROUPS) 0xFFFF
    rerouteBit (rerouteBit (clearFlag s (pgSeam n) 5) n) ((n + 1) % 4)
  else s

end Sys2Proof.Machine
end

