-- ==== Sys2Proof/Machine/Rails.lean ====
section
/-! DEFINITION. The rails of a Panel: settings, overrides and what an override shows (16_bringup_service.md R437 to R442). -/
namespace Sys2Proof.Machine

def railOf (s : State) (p : Nat) : RailSt := tabGet (fun _ => RailSt.rst) s.rails p
def setRail (s : State) (p : Nat) (v : RailSt) : State := { s with rails := tabSet (fun _ => RailSt.rst) s.rails p v }

/-- VCORE p and VFAB p in millivolts (PWR_STATUS). -/
def vcore (s : State) (p : Nat) : Nat := rdF s (reg (pgPwr p) R_PWR_STATUS) 11 0
def vfab (s : State) (p : Nat) : Nat := rdF s (reg (pgPwr p) R_PWR_STATUS) 27 16
def setVcore (s : State) (p v : Nat) : State := wrF s (reg (pgPwr p) R_PWR_STATUS) 11 0 v
def setVfab (s : State) (p v : Nat) : State := wrF s (reg (pgPwr p) R_PWR_STATUS) 27 16 v
def setCause (s : State) (p n : Nat) : State := wrF s (reg (pgPwr p) R_PWR_STATUS) 29 28 n

/-- Is a rail of Panel `p` below its setting (R442)? -/
def railLow (s : State) (p : Nat) : Bool := decide (vcore s p < (railOf s p).want) || decide (vfab s p < 750)

/-- The flags of an override in one page. -/
def limitPage (on : Bool) (s : State) (page : Nat) : State :=
  if on then clipOn (setDegraded s page 3) page else clipOff (clearFlag s page 3) page

/-- The core pages of a Panel whose core is running or kept. -/
def livePages (s : State) (p : Nat) : List Nat :=
  ((List.range 8).filter (fun i => domState s (8 * p + i) == 1 || domState s (8 * p + i) == 2)).map (fun i => pgCore (8 * p + i))

/-- An override of Panel `p` starts or ends (R442). -/
def railSettle (s : State) (p : Nat) : State :=
  let r := railOf s p
  let low := railLow s p
  if low = r.forced then s
  else
    let s := setRail s p { r with forced := low }
    let s := (livePages s p).foldl (limitPage low) (limitPage low s (pgPwr p))
    let s := if low then bump s (pgPwr p) R_PWR_CLIP_CNT else setCause s p 0
    ringBtn s (0x40 + p) 30 true

/-- Lower VCORE p by `mv`, not below 600 mV; `cause` is LIMIT_CAUSE. -/
def lowerVcore (s : State) (p mv cause : Nat) : State :=
  railSettle (setCause (setVcore s p (max 600 (vcore s p - mv))) p cause) p

/-- Lower VFAB p by `mv`, not below 600 mV. -/
def lowerVfab (s : State) (p mv cause : Nat) : State :=
  railSettle (setCause (setVfab s p (max 600 (vfab s p - mv))) p cause) p

/-- One raise of at most 5 mV: VFAB p first, then VCORE p up to its setting, unless a stack at CRIT or the input power holds
VCORE down (R439 to R441). -/
def raiseRails (s : State) (p now : Nat) : State :=
  let r := railOf s p
  if vfab s p < 750 then
    railSettle (setRail (setVfab s p (min 750 (vfab s p + 5))) p { r with raised := now }) p
  else if vcore s p < r.want ∧ r.crit = [] ∧ !s.pwr.overPower then
    railSettle (setRail (setVcore s p (min r.want (vcore s p + 5))) p { r with raised := now }) p
  else s

/-- A stack's reading against CRIT and START: at CRIT VCORE of its Panel goes to 600 mV until the stack reads below START (R441). -/
def critReading (s : State) (st : Nat) (crit below : Bool) : State :=
  let p := st / 2
  let r := railOf s p
  if crit then
    let s := setRail s p { r with crit := if r.crit.contains st then r.crit else r.crit ++ [st] }
    if 600 < vcore s p then lowerVcore s p (vcore s p - 600) 3 else s
  else if below then setRail s p { r with crit := r.crit.filter (fun x => x != st) }
  else s

end Sys2Proof.Machine
end

