-- ==== Sys2Proof/Machine/Memory.lean ====
section
/-! DEFINITION. HBM controllers and LLC slices: accesses, training, the IEEE 1500 port, scrub, throttling, repair, retirement, way
modes and flush (10_hbm_llc.md R265 to R289). -/
namespace Sys2Proof.Machine

/-! ## Accesses to a granule (R267, R272, R273) -/

/-- The answer of a read: its bytes, marked where the data is poisoned. -/
def readResp (bad : Bool) (b : List Byte) : Resp := if bad then .poison b else .bytes b

/-- The outcome of the code over a granule's bursts: corrections are counted, an uncorrectable burst marks its word. -/
def hbmEcc (s : State) (g : Nat) (e : Ecc) : State :=
  match e with
  | .clean => s
  | .corrected => granFix s g
  | .uncorrectable => { s with mem := setBad s.mem g true }

/-- HBM_ACCESS: a controller reads or writes the granule that holds `addr`. -/
def hbmAccess (s : State) (a : Nat) (op : MemOp) (e : Ecc) : State :=
  let g := a / 64 * 64
  if regionOf a ≠ .hbm ∨ memWaits s a then s
  else match op with
    | .read _ =>
      let r := granRead (if hbmUp s g && !retired s g then hbmEcc s g e else s) g
      setResp r.1 (readResp r.2.2 r.2.1)
    | .write b =>
      let o := a % 64
      let new := b.take (64 - o)
      setResp (watchBump (granMerge s g o new false) a new.length) .ok

def execHbmAccess (addr : Word) (op : MemOp) (ecc : Ecc) (s : State) : Out := .next (hbmAccess s addr.toNat op ecc)

/-! ## Training (R269) -/

/-- HBM_TRAIN_DONE: the first training at 6.4 Gb/s, or (`full`) the training to 9.6 Gb/s, which may fail. -/
def trainDone (s : State) (st : Nat) (full ok : Bool) : State :=
  let k := reg (pgHbm st) R_HBM_STATUS
  let p := st / 2
  if !domOn s (36 + p) then s
  else if !full then
    if rdF s k 1 0 = 0 then
      let s := wrF s k 1 0 1
      if rdF s (reg (pgHbm (2 * p)) R_HBM_STATUS) 1 0 ≠ 0 ∧ rdF s (reg (pgHbm (2 * p + 1)) R_HBM_STATUS) 1 0 ≠ 0 then
        { s with mem := { s.mem with wasOff := s.mem.wasOff.filter (fun q => q != p) } }
      else s
    else s
  else if rdF s k 1 0 = 1 then (if ok then wrF s k 1 0 2 else reportErr s (pgHbm st) 0x205 0)
  else s

def execHbmTrainDone (st : Stack) (full ok : Bool) (s : State) : Out := .next (trainDone s st full ok)

/-! ## The IEEE 1500 port (R270) -/

/-- A write of HBM_1500_CTL sets its RW fields (00_scope.md R10); GO during an operation is ignored (log entry 58). The operation keeps the channel and
length it was started with. -/
def ieeeWrite (s : State) (st : Nat) (v : Word) (own : Bool) : State :=
  let k := reg (pgHbm st) R_HBM_1500_CTL
  let s := fieldWrite s (pgHbm st) R_HBM_1500_CTL v own false
  if !bitAt v 63 || s.mem.run1500.any (fun r => r.stack == st) then s
  else
    if !reducedService s && rdF s k 7 0 != Config.tempInstr.toNat then wrB (wrB s k 62 true) k 61 true
    else wrB (wrB { s with mem := { s.mem with run1500 := s.mem.run1500 ++ [⟨st, rdF s k 15 8, rdF s k 22 16⟩] } } k 62 false) k 61 false

def execHbm1500Go (mid : Mid) (st : Stack) (ctl : Word) (s : State) : Out :=
  .next (guardWrite s mid.toNat (pgHbm st) R_HBM_1500_CTL (setBit ctl 63 true) (fun s => ieeeWrite s st (setBit ctl 63 true) true))

/-- HBM_1500_DONE: the operation completes with the LENGTH bits shifted out, 0 acting as 64; the spec states no value for the bits of HBM_1500_DATA above
them (log entry 12). -/
def ieeeDone (s : State) (st : Nat) (out : Word) : State :=
  match s.mem.run1500.find? (fun r => r.stack == st) with
  | none => s
  | some op =>
    let n := if op.len = 0 then 64 else min op.len 64
    let low := maskHL (n - 1) 0
    let v := (out &&& low) ||| (Config.freeValue 64 s.free &&& ~~~ low)
    let s := { s with mem := { s.mem with run1500 := s.mem.run1500.filter (fun r => r.stack != st) }, free := s.free + 1 }
    wrB (wr s (reg (pgHbm st) R_HBM_1500_DATA) v) (reg (pgHbm st) R_HBM_1500_CTL) 62 true

def execHbm1500Done (st : Stack) (out : Word) (s : State) : Out := .next (ieeeDone s st out)

/-! ## Scrub (R274) -/

/-- HBM_SCRUB_GRANULE: one granule of the patrol; `last` ends a pass. -/
def scrubGranule (s : State) (st a : Nat) (e : Ecc) (last : Bool) : State :=
  let g := a / 64 * 64
  if regionOf a ≠ .hbm ∨ hbmStack g ≠ st ∨ !rdB s (reg (pgHbm st) R_HBM_CTL) 0 ∨ !hbmUp s g ∨ hbmBusy s g then s
  else
    let s := hbmEcc s g e
    let s := if isPoison s.mem g then hbmErr s g 0x207 2 else if granBad s.mem g then hbmErr s g 0x206 1
      else if granWeak s.mem g then granFix s g else s
    if last then wrB s (reg (pgHbm st) R_HBM_STATUS) 5 true else s

def execHbmScrubGranule (st : Stack) (addr : Word) (ecc : Ecc) (last : Bool) (s : State) : Out :=
  .next (scrubGranule s st addr.toNat ecc last)

/-! ## Temperature and throttling (R276 to R278) -/

/-- POLICY_CLIPPED follows the comparison of the limit with BW_TARGET (R277). -/
def hbmClip (s : State) (st : Nat) : State :=
  let pg := pgHbm st
  if 32 * rdF s (reg pg R_HBM_STATUS) 11 8 < rdF s (reg pg R_HBM_CTL) 15 8 + 1 then
    if rdB s (reg pg R_BLK_STAT) 2 then s else bump (clipOn s pg) pg R_HBM_CLIP_CNT
  else clipOff s pg

/-- The bandwidth limit after a reading: it falls at once, and rises by one step where 10 ms have passed (R276). -/
def nextLimit (temp start limit : Nat) (rise : Bool) : Nat :=
  let lvl := if temp < start then 0 else min (temp - start + 1) 7
  let want := 8 - lvl
  if want < limit then want else if rise then min want (limit + 1) else limit

/-- A thermal notice to the Mantle (R278, 09_yoke_pockets.md R258): its Button 30. -/
def thermalNotice (s : State) : State := ringBtn s 0xF0 30 true

/-- HBM_TEMP_READING. -/
def tempReading (s : State) (st temp : Nat) (rise : Bool) : State :=
  let pg := pgHbm st
  let k := reg pg R_HBM_STATUS
  if !domOn s (36 + st / 2) then s
  else
    let s := wr s (reg pg R_HBM_TEMP) (w64 (256 + temp))
    let s := wrF s k 11 8 (nextLimit temp (rdF s (reg pg R_HBM_THR_CFG) 7 0) (rdF s k 11 8) rise)
    let s := if rdF s k 11 8 < 8 then setDegraded s pg 4 else clearFlag s pg 4
    let s := hbmClip s st
    let crit := decide (rdF s (reg pg R_HBM_THR_CFG) 15 8 ≤ temp)
    let s := critReading (wrB s k 6 crit) st crit (decide (temp < rdF s (reg pg R_HBM_THR_CFG) 7 0))
    if crit then thermalNotice s else s

def execHbmTempReading (st : Stack) (temp : Byte) (riseAllowed : Bool) (s : State) : Out :=
  .next (tempReading s st temp.toNat riseAllowed)

/-- THROTTLE_WINDOW: a 1 us window in which the limit stopped a request. -/
def execThrottleWindow (st : Stack) (s : State) : Out :=
  .next (if domOn s (36 + st.val / 2) ∧ rdF s (reg (pgHbm st) R_HBM_STATUS) 11 8 < 8 then
    bump s (pgHbm st) R_HBM_THROTTLE_CNT else s)

/-! ## Repair (R279 to R281) -/

def repairResult (s : State) (st n : Nat) : State := wrF s (reg (pgHbm st) R_HBM_REPAIR_STAT) 7 4 n

/-- A sparing entry for granule `g` (R280): its ciphertext, corrected or poisoned, moves to the spare store. -/
def spareGranule (s : State) (st g : Nat) (e : Ecc) : State :=
  let k := reg (pgHbm st) (R_HBM_SPARE_USED + 8 * (hbmPc g / 2))
  if 256 ≤ (rd s k).toNat then repairResult s st 3
  else
    let bad := granBad s.mem g || decide (e = .uncorrectable)
    let old : Spare := ⟨g, (List.range 64).map (fun i => getCell s.mem (g + i)), tabGet (fun _ => 0) s.mem.keyOf (g / 64),
      (List.range 8).map (fun i => isBad s.mem (g + 8 * i)), isPoison s.mem g⟩
    let s := if e = .corrected ∨ granWeak s.mem g then granFix s g else s
    let m := if bad then setPoison (clearBad s.mem g 64) g true else s.mem
    let s := { s with mem := { m with spared := if m.spared.any (fun e => e.gran == g) then m.spared else m.spared ++ [old] } }
    repairResult (bump (wr s k (rd s k + 1)) (pgHbm st) R_HBM_SPARE_CNT) st 0

/-- A write of HBM_REPAIR_CMD. -/
def repairWrite (s : State) (st : Nat) (v : Word) (e : Ecc) : State :=
  let g := bits v 38 6 * 64
  let op := bits v 63 62
  if op = 0 ∨ op = 3 then s
  else if rdB s (reg (pgHbm st) R_HBM_REPAIR_STAT) 0 then repairResult s st 1
  else if hbmStack g ≠ st then repairResult s st 4
  else if op = 1 then
    let s := { s with mem := { s.mem with repairing := s.mem.repairing ++ [(st, g)] } }
    wrB (wrB s (reg (pgHbm st) R_HBM_REPAIR_STAT) 0 true) (reg (pgHbm st) R_HBM_STATUS) 4 true
  else spareGranule s st g e

/-- HBM_REPAIR_CMD of an operation and an address. -/
def repairCmd (op : Nat) (a : Word) : Word := w64 (op * 2 ^ 62 + bits a 38 6 * 2 ^ 6)

def execSoftRepair (mid : Mid) (st : Stack) (addr : Word) (s : State) : Out :=
  .next (guardWrite s mid.toNat (pgHbm st) R_HBM_REPAIR_CMD (repairCmd 1 addr) (fun s => repairWrite s st (repairCmd 1 addr) .clean))

/-- SOFT_REPAIR_DONE: the bank is released; without a repair resource nothing changed (R279). -/
def repairDone (s : State) (st : Nat) (resource : Bool) : State :=
  if !rdB s (reg (pgHbm st) R_HBM_REPAIR_STAT) 0 then s
  else
    let s := { s with mem := { s.mem with repairing := s.mem.repairing.filter (fun r => r.1 != st) } }
    let s := wrB (wrB s (reg (pgHbm st) R_HBM_REPAIR_STAT) 0 false) (reg (pgHbm st) R_HBM_STATUS) 4 false
    if resource then repairResult (bump s (pgHbm st) R_HBM_PPR_CNT) st 0 else repairResult s st 2

def execSoftRepairDone (st : Stack) (resource : Bool) (s : State) : Out := .next (repairDone s st resource)

def execSparingEntry (mid : Mid) (st : Stack) (addr : Word) (ecc : Ecc) (s : State) : Out :=
  .next (guardWrite s mid.toNat (pgHbm st) R_HBM_REPAIR_CMD (repairCmd 2 addr) (fun s => repairWrite s st (repairCmd 2 addr) ecc))

/-- A write of retire entry `e` through either page of a Panel: the list is held in the first stack's page (R281). -/
def retireWrite (s : State) (st e : Nat) (v : Word) (own : Bool) : State :=
  fieldWrite s (pgHbm (st / 2 * 2)) (R_HBM_RETIRE + 8 * e) v own false

def execRetireWrite (mid : Mid) (st : Stack) (e : Byte) (value : Word) (s : State) : Out :=
  .next (guardWrite s mid.toNat (pgHbm st) (R_HBM_RETIRE + 8 * e.toNat) value (fun s => retireWrite s st e.toNat value true))

/-! ## The LLC (R284 to R288) -/

/-- The Panel whose slice serves an address. -/
def slicePanel (a : Nat) : Option Nat :=
  match regionOf a with
  | .hbm => some (hbmPanel a)
  | .llcWin p => some p
  | _ => none

/-- Mark the line that holds `a` poisoned (R288). -/
def llcPoison (s : State) (a : Nat) : State :=
  match regionOf a with
  | .llcWin _ => { s with mem := setPoison (setPoison s.mem (lineOf a) true) (lineOf a + 64) true }
  | _ => match llcServe s (lineOf a) with
    | some l => llcPut s (lineOf a) { l with p0 := true, p1 := true }
    | none => s

/-- The outcome of the slice's checks. -/
def llcEcc (s : State) (p a : Nat) (e : LlcEcc) : State :=
  match e with
  | .clean => s
  | .dataCorrected => bump s (pgLlc p) R_LLC_CE_CNT
  | .tagCorrected => bump s (pgLlc p) R_LLC_CE_CNT
  | .dataUncorrectable => llcPoison (bump s (pgLlc p) R_LLC_UE_CNT) a
  | .tagUncorrectable => judgeFailed (reportErr s (pgLlc p) 0x8002 (w64 (llcSet a * 128))) 0x8002

/-- LLC_ACCESS: an access of a master to HBM or a scratchpad window through its slice. -/
def llcAccess (s : State) (mid a : Nat) (op : MemOp) (e : LlcEcc) : State :=
  match slicePanel a with
  | none => s
  | some p =>
    if memWaits s a then s
    else
      let s := llcEcc s p a e
      match op with
      | .read n =>
        if cloakDenies s mid true then setResp s .busError
        else
        let r := readMem s a n false false
        setResp r.st (if r.ok then readResp r.anyBad r.bytes else .busError)
      | .write b =>
        let w := writeMem s mid a b false
        setResp w.st w.resp

def execLlcAccess (mid : Mid) (addr : Word) (op : MemOp) (ecc : LlcEcc) (s : State) : Out :=
  .next (if isMaster mid.toNat then llcAccess s mid.toNat addr.toNat op ecc else s)

/-- A write of LLC_WAY_MODE (R286). -/
def wayModeWrite (s : State) (p : Nat) (v : Word) : State :=
  let st := reg (pgLlc p) R_LLC_STATUS
  let md := reg (pgLlc p) R_LLC_WAY_MODE
  if rdF s st 15 0 ≠ 0 then wrB s st 16 true
  else wr (wrF s st 15 0 (Nat.xor (rdF s md 15 0) (bits v 15 0))) md (w64 (bits v 15 0))

def execLlcWayModeWrite (mid : Mid) (p : Panel) (value : BitVec 16) (s : State) : Out :=
  let v : Word := w64 value.toNat
  .next (guardWrite s mid.toNat (pgLlc p) R_LLC_WAY_MODE v (fun s => wayModeWrite s p v))

/-- Write back the dirty lines of a slice that `p` accepts; they stay valid. -/
def writeBackLines (s : State) (lines : List Nat) : State :=
  lines.foldl (fun s a => match llcGet s a with
    | some l =>
      if l.dirty then
        let t := llcWriteBack s a l
        llcPut t a { (llcGet t a).getD l with dirty := false }
      else s
    | none => s) s

/-- The lines of a slice in way `w`. -/
def wayLines (s : State) (p w : Nat) : List Nat :=
  (s.mem.llc.filter (fun e => hbmPanel e.1 == p && e.2.way == w)).map (fun e => e.1)

/-- Clear a way's window lines to zero. -/
def zeroWay (s : State) (p w : Nat) : State :=
  let lo := llcBase p + w * 0x400000
  { s with mem := { s.mem with
      cells := s.mem.cells.filter (fun c => !(decide (lo ≤ c.1) && decide (c.1 < lo + 0x400000))),
      bad := s.mem.bad.filter (fun c => !(decide (lo ≤ 8 * c.1) && decide (8 * c.1 < lo + 0x400000))),
      weak := s.mem.weak.filter (fun c => !(decide (lo ≤ 8 * c.1) && decide (8 * c.1 < lo + 0x400000))),
      poison := s.mem.poison.filter (fun c => !(decide (lo ≤ 64 * c.1) && decide (64 * c.1 < lo + 0x400000))) } }

/-- Is a dirty line among these still waiting for its controller? -/
def linesHeld (s : State) (lines : List Nat) : Bool :=
  lines.any (fun a => (llcGet s a).any (fun l => l.dirty) && hbmBusy s a)

/-- WAY_CHANGE_DONE: every changing way of a slice ends its change, once its dirty lines can be written back. -/
def wayChangeDone (s : State) (p : Nat) : State :=
  let st := reg (pgLlc p) R_LLC_STATUS
  let busy := (List.range 16).filter (fun w => rdB s st w)
  let one := fun (s : State) (w : Nat) =>
    let ls := wayLines s p w
    zeroWay (ls.foldl llcDrop (writeBackLines s ls)) p w
  if busy = [] ∨ busy.any (fun w => linesHeld s (wayLines s p w)) then s else wrF (busy.foldl one s) st 15 0 0

def execWayChangeDone (p : Panel) (s : State) : Out := .next (if domOn s (32 + p.val) then wayChangeDone s p else s)

/-- The flush of a slice starts: every line dirty now is to be written back (R287). -/
def flushStart (s : State) (p : Nat) : State :=
  let ls := (s.mem.llc.filter (fun e => hbmPanel e.1 == p && e.2.dirty && !s.mem.flushing.contains e.1)).map (fun e => e.1)
  wrB { s with mem := { s.mem with flushing := s.mem.flushing ++ ls } } (reg (pgLlc p) R_LLC_STATUS) 17 true

def execFlush (mid : Mid) (p : Panel) (s : State) : Out :=
  .next (guardWrite s mid.toNat (pgLlc p) R_LLC_CTL 1 (fun s => flushStart s p))

/-- FLUSH_DONE: the last of those lines is accepted by its controller. -/
def flushDone (s : State) (p : Nat) : State :=
  if !rdB s (reg (pgLlc p) R_LLC_STATUS) 17 ∨ linesHeld s (s.mem.flushing.filter (fun a => hbmPanel a == p)) then s
  else
    let s := writeBackLines s (s.mem.flushing.filter (fun a => hbmPanel a == p))
    wrB { s with mem := { s.mem with flushing := s.mem.flushing.filter (fun a => hbmPanel a != p) } } (reg (pgLlc p) R_LLC_STATUS) 17 false

def execFlushDone (p : Panel) (s : State) : Out := .next (if domOn s (32 + p.val) then flushDone s p else s)

end Sys2Proof.Machine
end

