-- ==== Sys2Proof/Machine/Elem.lean ====
section
/-! DEFINITION. The elementary functions of the vector unit: exp, log, tanh, sigmoid, GELU, SiLU and the derivatives of the last four
(07_command_encoding.md R202; 06_control_core.md R158; log entry 9). Each is formed to at least 100 bits beyond FP32, so that one rounding to FP32 gives the result
that rounding the exact value would give; special values follow 04_numerics.md R95. -/
namespace Sys2Proof.Machine

/-- Fraction bits of the fixed-point numbers here. -/
def fixP : Nat := 640
/-- One in fixed point. -/
def fixOne : Nat := 2 ^ fixP
def fixMul (a b : Nat) : Nat := a * b / fixOne

/-- `t + t * x2 * 1/3 + ...`: the series of atanh over `n` terms of denominators `d`, `d + 2`, ...; `t` is the present power. -/
def atanhGo : Nat → Nat → Nat → Nat → Nat
  | 0, _, _, _ => 0
  | n + 1, d, t, x2 => t / d + atanhGo n (d + 2) (fixMul t x2) x2

/-- atanh of a fixed-point number up to 1/3. -/
def fixAtanh (x : Nat) : Nat := atanhGo 210 1 x (fixMul x x)

/-- ln 2 = 2 atanh(1/3). -/
def fixLn2 : Nat := 2 * fixAtanh (fixOne / 3)

/-- The alternating series of atan(1/q), `n` terms. -/
def atanGo : Nat → Nat → Nat → Nat → Int
  | 0, _, _, _ => 0
  | n + 1, d, t, q2 => ((t / d : Nat) : Int) - atanGo n (d + 2) (t / q2) q2

/-- pi, by Machin's formula. -/
def fixPi : Nat := (16 * atanGo 150 1 (fixOne / 5) 25 - 4 * atanGo 60 1 (fixOne / 239) 57121).toNat

/-- The series of exp over `n` terms: `t` is the present term, number `k`. -/
def expGo : Nat → Nat → Nat → Nat → Nat
  | 0, _, _, _ => 0
  | n + 1, k, t, r => t + expGo n (k + 1) (fixMul t r / (k + 1)) r

/-- The fixed-point form of a finite value, towards minus infinity. -/
def fixOf (neg : Bool) (m : Nat) (e : Int) : Int :=
  let k := e + (fixP : Int)
  let a : Int := if 0 ≤ k then ((m * 2 ^ k.toNat : Nat) : Int) else ((m / 2 ^ (-k).toNat : Nat) : Int)
  if neg then -a else a

/-- exp of a finite value between -1000 and 1000, as an FVal: 2^k exp(r), r below ln 2. -/
def expSmall (x : Int) : FVal :=
  let k := x / (fixLn2 : Int)
  .fin false (expGo 150 0 fixOne (x % (fixLn2 : Int)).toNat) (k - (fixP : Int))

/-- e^x (R202, EXP). -/
def FVal.exp : FVal → FVal
  | .nan => .nan
  | .inf n => if n then .zero else .inf false
  | .fin n m e =>
    if m = 0 then .one
    else if FVal.lt (.ofNat 1000) (.fin false m e) then (if n then .fin false 1 (-1400) else .fin false 1 1400)
    else expSmall (fixOf n m e)

/-- Natural logarithm (R202, LOG): minus infinity at either zero, NaN below zero. -/
def FVal.log : FVal → FVal
  | .nan => .nan
  | .inf n => if n then .nan else .inf false
  | .fin n m e =>
    if m = 0 then .inf true
    else if n then .nan
    else
      let b := m.log2
      let z := m * fixOne / 2 ^ b
      let v : Int := (e + (b : Int)) * (fixLn2 : Int) + ((2 * fixAtanh ((z - fixOne) * fixOne / (z + fixOne)) : Nat) : Int)
      .fin (decide (v < 0)) v.natAbs (-(fixP : Int))

/-- sigmoid(x) = E / (1 + E), E = e^x. -/
def FVal.sigmoid (x : FVal) : FVal :=
  match x with
  | .inf n => if n then .zero else .one
  | _ => let E := x.exp; E.div (E.add .one)

/-- tanh(x) = (E - 1) / (E + 1), E = e^(2|x|), with the sign of x. -/
def FVal.tanh (x : FVal) : FVal :=
  match x with
  | .nan => .nan
  | .inf n => .fin n 1 0
  | .fin n m e =>
    if m = 0 then x
    else
      let E := FVal.exp (.fin false m (e + 1))
      let t := (E.add (.fin true 1 0)).div (E.add .one)
      if n then t.neg else t

/-- x sigmoid(x). At minus infinity infinity times zero, NaN. -/
def FVal.silu (x : FVal) : FVal :=
  match x with
  | .fin _ _ _ => let E := x.exp; (x.mul E).div (E.add .one)
  | _ => x.mul x.sigmoid

/-- The sum of |x|^(2n+1) / (1 3 5 ... (2n+1)), `n` terms; `t` is the present term, of odd number `d`. -/
def phiGo : Nat → Nat → Nat → Nat → Nat
  | 0, _, _, _ => 0
  | n + 1, d, t, x2 => t + phiGo n (d + 2) (fixMul t x2 / (d + 2)) x2

/-- The normal density e^(-x^2/2) / sqrt(2 pi) of a finite value. -/
def FVal.density (x : FVal) : FVal :=
  ((x.mul x).scale (-1)).neg.exp.mul (.fin false (isqrt (fixOne * fixOne * fixOne / (2 * fixPi))) (-(fixP : Int)))

/-- The normal distribution function: 1/2 plus or minus the density times a series; beyond 20 it is 0 or 1 to far more bits than FP32 holds. -/
def FVal.Phi (x : FVal) : FVal :=
  match x with
  | .nan => .nan
  | .inf n => if n then .zero else .one
  | .fin n m e =>
    if FVal.lt (.ofNat 20) (.fin false m e) then (if n then .fin false 1 (-400) else .one)
    else
      let a := (fixOf false m e).toNat
      let s : FVal := .fin false (phiGo 1200 1 a (fixMul a a)) (-(fixP : Int))
      let h := x.density.mul s
      FVal.add (.fin false 1 (-1)) (if n then h.neg else h)

/-- x Phi(x). At minus infinity infinity times zero, NaN. -/
def FVal.gelu (x : FVal) : FVal := x.mul x.Phi

/-- A VEC.FN function beside RECIP, RSQRT and SQRT, before its one rounding. -/
def elemFn (f : Nat) (x : FVal) : FVal :=
  match f with
  | 0 => x.exp
  | 1 => x.log
  | 5 => x.tanh
  | 6 => x.sigmoid
  | 7 => x.gelu
  | _ => x.silu

/-- The derivative of TANH (5), SIGMOID (6), GELU (7) or SILU (8): 4 E2 / (1 + E2)^2 with E2 = e^(-2|x|); E / (1 + E)^2 with E = e^(-|x|);
Phi(x) + x density(x); E (1 + E + x) / (1 + E)^2 with E = e^x. Infinities follow R95 in 1 - tanh^2, s (1 - s), Phi + x density and s (1 + x (1 - s)). -/
def elemDeriv (f : Nat) (x : FVal) : FVal :=
  let abs := match x with
    | .fin _ m e => FVal.fin true m e
    | v => v
  let bell := fun (E : FVal) => let d := E.add .one; E.div (d.mul d)
  match x with
  | .nan => .nan
  | .inf _ => if f = 5 ∨ f = 6 then .zero else .nan
  | .fin _ _ _ =>
    match f with
    | 5 => (bell (abs.scale 1).exp).scale 2
    | 6 => bell abs.exp
    | 7 => if x.lt (.fin true 20 0) then .fin true 1 (-400) else x.Phi.add (x.mul x.density)
    | _ => let E := x.exp; let d := E.add .one; (E.mul (d.add x)).div (d.mul d)

end Sys2Proof.Machine
end

