-- ==== Sys2Proof/Machine/Flags.lean ====
section
/-! DEFINITION. The full-bit table, the prefetch counters, the deadline estimates and the status words that show them
(08_core_store_streaming.md R215 to R218, R225, R228 to R230; 06_control_core.md R171, R174). -/
namespace Sys2Proof.Machine

/-! ## Full bits -/

/-- The state of entry `e` of core `c` as a unit sees it; `view` is the context (8 * core + context) whose open task the viewer's
record belongs to (R171). -/
def fbSeen (s : State) (c e : Nat) (view : Option Nat) : FbState :=
  let t := fbOf s c e
  if t.task = none ∨ t.task = view then t.st else .filling

/-- Does a tile count as full (R16, R194)? -/
def fullSeen (s : State) (view : Option Nat) : Option (Nat × Nat) → Bool
  | none => true
  | some (c, e) => fbSeen s c e view == .full

def emptySeen (s : State) (view : Option Nat) : Option (Nat × Nat) → Bool
  | none => true
  | some (c, e) => fbSeen s c e view == .empty

/-- Is a writer count free (R215)? -/
def writerRoom (s : State) : Option (Nat × Nat) → Bool
  | none => true
  | some (c, e) => (fbOf s c e).st != .filling || decide ((fbOf s c e).writers < 15)

/-- Save an entry for the task of context `task` (8 * core + context) before its first change by the task (R174). -/
def fbSave (s : State) (c e : Nat) (task : Option Nat) : State :=
  match task with
  | none => s
  | some x => modCtx s (x / 8) (x % 8) (fun k => match k.task with
    | none => k
    | some t => if t.fbSaved.any (fun p => p.1 == e) then k
                else { k with task := some { t with fbSaved := t.fbSaved ++ [(e, fbOf s c e)] } })

/-- Free the retained refetch state of a tile (R229). -/
def freeWatch (s : State) (c e : Nat) : State :=
  let drop := fun (s : State) (eng : Nat) =>
    if (coreOf s eng).watch.any (fun w => w.core == c && w.entry == e) then
      modCore s eng (fun k => { k with watch := k.watch.filter (fun w => !(w.core == c && w.entry == e)) })
    else s
  (List.range 32).foldl drop s

/-! ## Deadline estimates (R225) -/

def estFull (s : State) (c sid bytes : Nat) : State :=
  let e := estOf s c sid
  let e := if e.buffered = 0 ∧ e.neverReleased then { e with lastRel := ringNow s c } else e
  setEst s c sid { e with buffered := e.buffered + bytes }

def estRelease (s : State) (c sid bytes : Nat) : State :=
  let e := estOf s c sid
  let now := ringNow s c
  let dt := max (now - e.lastRel) 1
  setEst s c sid ⟨e.rate + ((bytes * 256 / dt : Nat) - e.rate) / 8, e.buffered - bytes, now, false⟩

/-- The deadline of a stream in step times, with 8 fraction bits, for the bias of its class. -/
def deadline (s : State) (c sid dclass : Nat) : Int :=
  let e := estOf s c sid
  e.buffered * 65536 / max e.rate 256
    + 256 * (rdF s (reg (pgPool (c / 8)) R_POOL_DCLASS_BIAS) (16 * dclass + 15) (16 * dclass) : Nat)

/-! ## Transitions (R215) -/

/-- A record that writes a tile fires: the entry goes to FILLING; a product or vector record (`compute`) that evicts an unread
prefetched tile counts PF_EARLY_EVICT_CNT in the engine that filled it (R230). -/
def fbFire (s : State) (task : Option Nat) (compute : Bool) : Option (Nat × Nat) → State
  | none => s
  | some (c, e) =>
    let s := fbSave s c e task
    let t := fbOf s c e
    let s := match t.prefetch with
      | some (eng, _) =>
        if compute && t.st == .full && !t.read then bump s (pgCore (eng / 256)) R_PF_EARLY_EVICT_CNT else s
      | none => s
    let s := if t.prefetch = none then s else freeWatch s c e
    let w := if t.st = .filling then t.writers + 1 else 1
    setFb s c e { t with st := .filling, writers := w, prefetch := none, read := false, late := false,
                         task := if t.task = none then task else t.task }

/-- A writer of a tile completes: the last one makes it FULL, unless parity holds it (R215, R218). -/
def fbComplete (s : State) : Option (Nat × Nat) → State
  | none => s
  | some (c, e) =>
    let t := fbOf s c e
    if t.writers = 0 then s
    else setFb s c e { t with writers := t.writers - 1,
                              st := if t.writers = 1 ∧ t.st = .filling ∧ !t.parity then .full else t.st }

/-- A writer that will not complete gives up its place in the count (DEDUCED, log entry 14). -/
def fbGiveUp (s : State) : Option (Nat × Nat) → State
  | none => s
  | some (c, e) => let t := fbOf s c e; setFb s c e { t with writers := t.writers - 1 }

/-- A fired record reads a source tile (R230, R229). -/
def fbRead (s : State) : Option (Nat × Nat) → State
  | none => s
  | some (c, e) =>
    let t := fbOf s c e
    match t.prefetch with
    | some (eng, _) =>
      if t.read then s
      else freeWatch (bump (setFb s c e { t with read := true }) (pgCore (eng / 256)) R_PF_USED_CNT) c e
    | none => s

/-- A release of a tile (R199, R215, R217): FULL goes to EMPTY, with the counts of R225 and R230. -/
def fbRelease (s : State) (task : Option Nat) : Option (Nat × Nat) → State
  | none => s
  | some (c, e) =>
    if fbSeen s c e task ≠ .full then s
    else
      let s := fbSave s c e task
      let t := fbOf s c e
      let s := match t.prefetch with
        | some (eng, bytes) =>
          let s := if t.read then s else bump s (pgCore (eng / 256)) R_PF_UNUSED_CNT
          freeWatch (estRelease s (eng / 256) (eng % 256) bytes) c e
        | none => s
      setFb s c e { t with st := .empty, writers := 0, prefetch := none, read := false, late := false }

/-- FB_CMD of R215 and R218 with OP 1 (`full`) or 2. -/
def fbCmd (s : State) (c e : Nat) (full : Bool) : State :=
  let t := fbOf s c e
  if fbSeen s c e none = .filling ∧ !t.parity then wrB s (kCore c R_CS_STATUS) 4 true
  else
    let s := if t.prefetch = none ∨ full then s else freeWatch s c e
    setFb s c e { t with st := if full then .full else .empty, writers := 0, parity := false,
                         prefetch := if full then t.prefetch else none }

/-- A parity mismatch of an entry (R218). -/
def fbParity (s : State) (c e : Nat) : State :=
  let s := setFb s c e { fbOf s c e with st := .filling, writers := 0, parity := true }
  reportErr (wrB s (kCore c R_CS_STATUS) 3 true) (pgCore c) 0x203 (w64 e)

/-- FB_STATEj: two bits an entry, the code of the state every other unit sees. -/
def fbStateWord (s : State) (c j : Nat) : Word :=
  w64 ((List.range 32).foldl (fun a i =>
    a + (match fbSeen s c (32 * j + i) none with | .empty => 0 | .filling => 1 | .full => 2) * 4 ^ i) 0)

end Sys2Proof.Machine
end

