-- ==== Sys2Proof/Machine/Engine.lean ====
section
/-! DEFINITION. The engine queues, refusals, and what the completion of a record does (06_control_core.md R147 to R157, R166 to
R175; 07_command_encoding.md R193, R199, R209). -/
namespace Sys2Proof.Machine

/-! ## Running conditions -/

/-- Does a core's control core and its engines run: domain ON, no recalibration holding its handshakes (16_bringup_service.md
R453), and calibrated, or core 8p in reduced service (R431)? -/
def coreRuns (s : State) (c : Nat) : Bool :=
  domOn s c && !(coreOf s c).recal
    && (if reducedService s then c % 8 == 0 else rdB s (kCore c R_DL_STATUS) 0)

/-! ## Queues (R153) -/

/-- The queue of an operation: 0 OPE, 1 vector, 2 stream; none for executed records. -/
def opQueue (op : Nat) : Option Nat :=
  if op = 0x40 then some 0 else if 0x50 ≤ op ∧ op ≤ 0x5E then some 1 else if 0x80 ≤ op ∧ op ≤ 0x84 then some 2 else none

def CoreSt.queue (k : CoreSt) : Nat → List QEntry
  | 0 => k.opeQ
  | 1 => k.vecQ
  | _ => k.strQ

/-- Every queued entry of a core. -/
def CoreSt.entries (k : CoreSt) : List QEntry := k.opeQ ++ k.vecQ ++ k.strQ

/-- Change every entry of the queues. -/
def CoreSt.mapEntries (k : CoreSt) (f : List QEntry → List QEntry) : CoreSt :=
  { k with opeQ := f k.opeQ, vecQ := f k.vecQ, strQ := f k.strQ }

/-- Change the entry with number `id`. -/
def modEntry (s : State) (c id : Nat) (f : QEntry → QEntry) : State :=
  modCore s c (fun k => k.mapEntries (fun l => l.map (fun q => if q.id = id then f q else q)))

/-- Remove the entry with number `id`. -/
def dropEntry (s : State) (c id : Nat) : State :=
  modCore s c (fun k => k.mapEntries (fun l => l.filter (fun q => q.id != id)))

def findEntry (s : State) (c id : Nat) : Option QEntry := (coreOf s c).entries.find? (fun q => q.id == id)

/-- Has a queue a free entry (R152, R153)? A frozen stream engine's queue is closed (15_mantle_cloak.md R403). -/
def queueRoom (s : State) (c n : Nat) : Bool :=
  decide (((coreOf s c).queue n).length < 32) && !(n == 2 && frozen s (0x20 + c))

/-! ## Contexts -/

/-- CTX_PC: a byte offset in the store, a multiple of 32, whose bits [4:0] are reserved (06_control_core.md R184; 00_scope.md R8). -/
def ctxPc (s : State) (c x : Nat) : Nat := (rd s (kCtx c x R_CTX_PC)).toNat % 2 ^ 26 / 32 * 32
def setPc (s : State) (c x pc : Nat) : State := wr s (kCtx c x R_CTX_PC) (w64 (pc % 2 ^ 26 / 32 * 32))

/-- Is an offset in the data region of a core store? -/
def offInData (o : Nat) : Bool := decide (0x100000 ≤ o ∧ o < 0x2800000)

/-- The record a context's PC names, as it stands when the context takes it. Of a record changed while the context can still reach it the spec leaves open
whether the old or the new form is taken (07_command_encoding.md R187): the model fetches nothing ahead, so that it is the new one (DESIGN CHOICE, log entry
116). What a record taken does later it does by the form taken. -/
def ctxRec (s : State) (c x : Nat) : Rec := recAt s (csBase c + ctxPc s c x)

/-- A context becomes READY (beneath HALTED where it is halted). -/
def readyCtx (s : State) (c x : Nat) : State := modCtx s c x (fun k => { k with st := .ready, lw := .none })

/-- Has a context any entry left in the queues? -/
def hasEntries (s : State) (c x : Nat) : Bool := (coreOf s c).entries.any (fun q => q.ctx == x)

/-- An open accumulation of context `x` begins to close (R71). -/
def closeAcc (s : State) (c x : Nat) : State :=
  if (coreOf s c).accOwner = some x then modCore s c (fun k => { k with accClosing := true }) else s

/-- Waits of context `x` that the completion or removal of entries ends: WAIT_QUEUE, FENCE and HALT (R147, R152, R155, R168). A context that CTX_CTL.STEP
took over a HALT record goes to IDLE by R168, and is no longer HALTED then, where R182 has STEP halt it again: the spec does not say which holds (DESIGN
CHOICE, log entry 117). -/
def settleCtx (s : State) (c x : Nat) : State :=
  let k := ctxOf s c x
  match k.st, k.lw with
  | .waitQueue, _ =>
    match opQueue (recOp (ctxRec s c x)) with
    | some n => if queueRoom s c n then readyCtx s c x else s
    | none => readyCtx s c x
  | .waitLocal, .fence ids =>
    if (coreOf s c).entries.any (fun q => ids.contains q.id) then s else readyCtx s c x
  | .waitLocal, .halt =>
    if hasEntries s c x then s else closeAcc (modCtx s c x (fun k => { k with st := .idle, lw := .none, halted := false })) c x
  | _, _ => s

def settle (s : State) (c : Nat) : State := (List.range 8).foldl (fun s x => settleCtx s c x) s

/-- Remove a fired command of whatever queue with its engine state: its writes not yet made are not made (R172). -/
def removeCommand (s : State) (c id : Nat) : State :=
  dropEntry (modCore s c (fun k =>
    { k with prods := k.prods.filter (fun r => r.id != id),
             drains := k.drains.filter (fun d => d.id != id), logQ := k.logQ.filter (fun w => w.id != id),
             runs := k.runs.filter (fun r => r.id != id), slots := k.slots.filter (fun r => r.cmd != id),
             held := k.held.filter (fun r => r.cmd != id), parked := k.parked.filter (fun r => r.cmd != id) })) c id

/-- The log is full (R172). -/
def logIsFull (k : CoreSt) : Bool := decide (32768 ≤ k.log.length)

/-- The commands of context `x`'s task that wait on a full log are removed (R172, R174). -/
def removeWaiting (s : State) (c x : Nat) : State :=
  let k := coreOf s c
  if !logIsFull k then s
  else settle (((k.logQ.filter (fun w => w.ctx == x)).map (fun w => w.id)).eraseDups.foldl (fun s id => removeCommand s c id) s) c

/-- The open task of a context begins its discard (R174). A discard under way goes on, and what ended the task last says where the context goes after
it: an error, or a STOP of the HALTED context, that comes upon a discard by TASK.ABORT or LOG_FULL takes its place. -/
def beginDiscard (s : State) (c x : Nat) (how : TaskEnd) : State :=
  match (ctxOf s c x).task with
  | some t => removeWaiting (modCtx s c x (fun k => { k with task := some { t with closing := some how } })) c x
  | none => s

/-- The Yoke's entry of a context that waits no longer goes (09_yoke_pockets.md R262). -/
def dropYoke (s : State) (c x : Nat) : State := { s with yokeWaits := s.yokeWaits.filter (fun i => i != 8 * c + x) }

/-- A request under way whose answer no context will receive is kept until its target performs it (09_yoke_pockets.md R240). -/
def orphanReq (s : State) (c x : Nat) : State :=
  match (ctxOf s c x).req with
  | some r => { s with orphans := s.orphans ++ [(8 * c + x, r)] }
  | none => s

/-- A refusal (R175, R209) of the record of context `x` at offset `pc` with TAG `tag`. -/
def refuse (s : State) (c x code pc tag : Nat) : State :=
  let s := orphanReq (dropYoke s c x) c x
  let s := beginDiscard s c x (.discard 3)
  let s := modCtx s c x (fun k =>
    { k with st := .error, err := code, lw := .none, wait := none, wakePending := false, woken := false, released := false, req := none,
             ans := none, halted := false, stepping := false, haltNext := false })
  let s := wr s (kCtx c x R_CTX_ERR_INFO) (w64 (pc * 2 ^ 32 + tag))
  let s := reportErr s (pgCore c) code (w64 (csBase c + pc))
  let s := raiseEvt s (pgCore c) 7
  let s := modCore s c (fun k => k.mapEntries (fun l => l.filter (fun q => q.fired || q.ctx != x)))
  settle (closeAcc s c x) c

/-- The refusal of an engine record at its queue: it leaves its queue. -/
def refuseEntry (s : State) (c : Nat) (q : QEntry) (code : Nat) : State :=
  refuse (dropEntry s c q.id) c q.ctx code q.pc (recTag q.word)

/-! ## Reading descriptors and firing (R156, R193) -/

/-- The view of a record on full bits: the context whose open task it belongs to. -/
def QEntry.view (q : QEntry) (c : Nat) : Option Nat := if q.task then some (8 * c + q.ctx) else none

/-- A present operand's descriptor word. -/
def readDescs (s : State) (q : QEntry) : List Desc :=
  (List.zip (opndSlots (recOp q.word)) q.bases).map (fun p => if present q.word p.1 then descAt s p.2 else 0)

/-- BASE of a present operand outside its permitted place (R188). -/
def badBases (c : Nat) (q : QEntry) : Bool :=
  (List.zip (opndSlots (recOp q.word)) q.bases).any (fun p => present q.word p.1 && !baseOk c p.2)

/-- The descriptors and mask record of a record that comes to fire are read with the check of 08_core_store_streaming.md R213, by a requester of class `cls` of R212. Its
Table: Uncorrectable reads has no row for such a read: beside the report, the record goes by the bits as they stand (DESIGN CHOICE, log entry 126). -/
def descCheck (s : State) (c cls : Nat) (q : QEntry) : State :=
  let rs := ((List.zip (opndSlots (recOp q.word)) q.bases).filter (fun p => present q.word p.1 && baseOk c p.2)).map (fun p => (p.2, p.2 + 64))
  askBanks (rs.foldl (fun s r => csCheck s c r.1 64 false) s) cls 0 rs

/-- A record comes to fire: it reads its descriptors and mask record (R156, R193). -/
def QEntry.arrive (q : QEntry) (s : State) : QEntry := { q with arrived := true, desc := readDescs s q }

/-- The operand slots a record reads as sources. -/
def srcSlots (op : Nat) : List Nat :=
  if op = 0x40 then [32, 40, 48]
  else if 0x80 ≤ op then (if op = 0x84 then [] else if op = 0x82 then [] else [32])
  else match op with
    | 0x50 => [32, 40, 48] | 0x51 => [32] | 0x52 => [32, 40] | 0x53 => [32] | 0x54 => [32] | 0x55 => [32]
    | 0x56 => [32, 40, 48, 64] | 0x57 => [32, 40, 48, 64] | 0x58 => [32, 40, 48] | 0x59 => [32, 40, 64]
    | 0x5A => [32, 40] | 0x5B => [32, 40, 48, 64, 72] | 0x5C => [32] | 0x5E => [32]
    | _ => []

/-- The operand slots a record writes. -/
def dstSlots (r : Rec) : List Nat :=
  let op := recOp r
  if op = 0x40 then (if bitAt r 90 then [56, 64] else [])
  else if 0x80 ≤ op then (if op = 0x84 ∨ op = 0x83 then [] else [40])
  else match op with
    | 0x54 => [72] | 0x55 => [64] | 0x57 => [56, 72] | 0x58 => [64] | 0x5A => [64]
    | _ => [56]

/-- The index-tensor slot of a record, if any. -/
def idxSlot (op : Nat) : Option Nat :=
  if op = 0x82 ∨ op = 0x83 then some 48 else if op = 0x5E then some 72 else none

def QEntry.tiles (q : QEntry) (slots : List Nat) : List Tile := slots.filterMap q.tile

/-- Records that are read and folded where they stand: STAT under VEC.SMAX_FOLD and VEC.SMAX_D without OPEN, AUX under ACCUM. -/
def foldSlots (r : Rec) : List Nat :=
  match recOp r with
  | 0x58 => if vOpen r then [] else [64]
  | 0x5A => if vOpen r then [] else [64]
  | 0x54 => if vAccum r then [72] else []
  | 0x57 => if vAccum r then [72] else []
  | _ => []

/-- Full bits a record waits on: its sources, its index tensor, and the regions it folds into (R16). -/
def QEntry.srcBits (q : QEntry) : List (Option (Nat × Nat)) :=
  (q.tiles (srcSlots (recOp q.word) ++ foldSlots q.word)).map Tile.fb
    ++ (match idxSlot (recOp q.word) with
        | some lo => match q.idx lo with
          | some t => [t.fb]
          | none => []
        | none => [])

/-- Full bits of the destinations a record writes, each once (two destinations may name one tile). -/
def QEntry.dstBits (q : QEntry) : List (Option (Nat × Nat)) := ((q.tiles (dstSlots q.word)).map Tile.fb).eraseDups

/-- Full bits of the tiles a record names that its firing reads, for the counts of R230. -/
def isStream (q : QEntry) : Bool := decide (0x80 ≤ recOp q.word)

/-- The full-bit conditions of R16, R215 and R216 for a record. -/
def tilesReady (s : State) (c : Nat) (q : QEntry) : Bool :=
  q.srcBits.all (fullSeen s (q.view c))
    && (if isStream q then q.dstBits.all (emptySeen s (q.view c)) else q.dstBits.all (writerRoom s))

/-- What a record latches when it fires (04_numerics.md R99). -/
def latchKey (s : State) (page : Nat) (q : QEntry) : DrawKey :=
  { q.key with step := (rd s (reg page R_NUM_STEP)).toNat, seed := (rd s (reg page R_NUM_SEED)).toNat,
               shard := rdF s (reg page R_NUM_SHARD) 11 0 }

/-- The full-bit effects of firing: sources read, destinations to FILLING (R156, R230). -/
def fireBits (s : State) (c : Nat) (q : QEntry) : State :=
  let s := q.srcBits.foldl (fun s b => fbRead s b) s
  q.dstBits.foldl (fun s b => fbFire s (q.view c) (!isStream q) b) s

/-- Mark an entry fired, with its latched draw inputs. -/
def fireEntry (s : State) (c : Nat) (q : QEntry) : State :=
  modEntry (fireBits s c q) c q.id (fun q' => { q' with fired := true, key := latchKey s (pgCore c) q })

/-! ## Writes of a command, and the task write log (R171, R172) -/

/-- The 64-byte granules of a write, in increasing address order. -/
def granules (a : Nat) (bytes : List Byte) : List (Nat × List Byte) :=
  (List.range ((a + bytes.length + 63) / 64 - a / 64)).map (fun i =>
    let g := 64 * (a / 64 + i)
    let lo := if g < a then a else g
    (lo, (bytes.drop (lo - a)).take (g + 64 - lo)))

/-- Add a piece to the granules of a write, which stand in increasing address order. -/
def addPiece (p : Nat × List Byte) : List (Nat × List (Nat × List Byte)) → List (Nat × List (Nat × List Byte))
  | [] => [(p.1 / 64, [p])]
  | g :: l =>
    if p.1 / 64 = g.1 then (g.1, g.2 ++ [p]) :: l
    else if p.1 / 64 < g.1 then (p.1 / 64, [p]) :: g :: l
    else g :: addPiece p l

/-- What one write of a command writes, granule by granule in increasing address order: each granule once, with its pieces. -/
def byGranule (ws : List (Nat × List Byte)) : List (Nat × List (Nat × List Byte)) :=
  (ws.flatMap (fun w => granules w.1 w.2)).foldl (fun l p => addPiece p l) []

/-- The writes of a fired record into its own core store: at once outside a task, through the log inside one, a granule at a time (R171, R172). -/
def engWrite (s : State) (c : Nat) (q : QEntry) (ws : List (Nat × List Byte)) : State :=
  if q.task then
    modCore s c (fun k => { k with logQ := k.logQ ++ (byGranule ws).map (fun g => (⟨q.id, q.ctx, g.1, g.2⟩ : PendWrite)) })
  else ws.foldl (fun s w => storeMem s w.1 w.2 false) s

/-- Has a record a write that waits for the log? -/
def logPending (s : State) (c id : Nat) : Bool := (coreOf s c).logQ.any (fun w => w.id == id)

/-! ## Completion (R153, R156, R193, R199) -/

/-- BASE of an operand slot. -/
def QEntry.baseOf (q : QEntry) (lo : Nat) : Nat :=
  ((List.zip (opndSlots (recOp q.word)) q.bases).find? (fun p => p.1 == lo)).elim 0 (fun p => p.2)

/-- Has a command of a task still to put the RESULT_SHIFT of the descriptor at slot `lo` through the log (06_control_core.md R171)? -/
def QEntry.owesShift (q : QEntry) (lo : Nat) : Bool := q.task && !q.shifted.contains lo

/-- RESULT_SHIFT, bits [396:392], of the descriptor named at slot `lo` takes the value `n`: that byte alone, at the completion of the record that writes
the tile (R193). A command of a task has put it through the log before it completes. -/
def writeShift (s : State) (q : QEntry) (lo n : Nat) : State :=
  if q.task then s else storeMem s (q.baseOf lo + 49) [BitVec.ofNat 8 n] false

/-- A command of a task puts its RESULT_SHIFT bytes through the log. -/
def logShifts (s : State) (c : Nat) (q : QEntry) (l : List (Nat × Nat)) : State :=
  modEntry (l.foldl (fun s p => engWrite s c q [(q.baseOf p.1 + 49, [BitVec.ofNat 8 p.2])]) s) c q.id
    (fun q' => { q' with shifted := q'.shifted ++ l.map (fun p => p.1) })

/-- The full bits of the sources a record's release bits name (R196, R200, R205). -/
def releaseBits (q : QEntry) : List (Option (Nat × Nat)) :=
  let r := q.word
  let op := recOp r
  let named :=
    if op = 0x40 then [(100, 32), (101, 40), (102, 48)]
    else if 0x80 ≤ op then [(76, 32)]
    else [(88, 32), (89, 40), (90, 48)]
  (named.filter (fun p => bitAt r p.1)).filterMap (fun p => (q.tile p.2).map Tile.fb)

/-- The completion of a record whose destinations are done: releases, the entry freed, and the waits this ends. -/
def finishEntry (s : State) (c : Nat) (q : QEntry) : State :=
  let s := (releaseBits q).foldl (fun s b => fbRelease s (q.view c) b) s
  settle (dropEntry s c q.id) c

end Sys2Proof.Machine
end

