-- ==== Sys2Proof/Machine/Timing.lean ====
section
/-! DEFINITION. Delay lines and Hem crossings (02_handshake_time.md R39, R41, R52 to R57; 16_bringup_service.md R454). -/
namespace Sys2Proof.Machine

/-- The margin monitor of a core reads `margin`, in units of 0.25 % of the step time; below 16 it sets DL_MARGIN_LOW and raises
DL_MARGIN (R41, R59). -/
def marginRead (s : State) (c margin : Nat) : State :=
  let s := wrF s (kCore c R_DL_STATUS) 15 8 margin
  if margin < 16 then raiseEvt (wrB s (kCore c R_DL_STATUS) 1 true) (pgCore c) 6 else s

def execDlMarginLow (c : Core) (margin : Byte) (s : State) : Out :=
  .next (if domOn s c ∧ margin.toNat < 16 then marginRead s c margin.toNat else s)

/-- The known-answer tests of a core's ten sources start: eight arrays, the vector unit (8) and the stream engine (9)
(04_numerics.md R115). -/
def startKat (s : State) (c : Nat) : State := modCore s c (fun k => { k with katRunning := List.range 10 })

/-- DL_CTL.RECAL (R454): a recalibration starts, unless one runs. -/
def recalStart (s : State) (c : Nat) : State :=
  if (coreOf s c).recal then s else startKat (modCore s c (fun k => { k with recal := true })) c

def execRecal (mid : Mid) (c : Core) (s : State) : Out :=
  .next (guardWrite s mid.toNat (pgCore c) R_DL_CTL 1 (fun s => recalStart s c))

/-- A calibration of core `c` ends with the delay at 1.10 times the replica's, held in hundredths; the island keeps the setting
(R39). It ends a recalibration, or is the bring-up calibration of a core not yet calibrated. -/
def recalDone (s : State) (c replica margin : Nat) : State :=
  if domOn s c ∧ ((coreOf s c).recal ∨ !rdB s (kCore c R_DL_STATUS) 0) then
    let s := modCore s c (fun k =>
      { k with recal := false, delay := .set (110 * replica), keptDelay := 110 * replica, keptValid := true })
    marginRead (wrB s (kCore c R_DL_STATUS) 0 true) c margin
  else s

def execDlRecalDone (c : Core) (replica : Nat) (margin : Byte) (s : State) : Out :=
  .next (recalDone s c replica margin.toNat)

/-! ## Hems -/

/-- Is a Hem's power domain ON? The Mantle islands' Hems are without power before standby power (18_module_hardware.md R488). -/
def hemOn (s : State) (h : Nat) : Bool := pageOn s (pgHem h) && (decide (h < 29) || s.pwr.phase != 0)

/-- What a Hem's delay lines are set to, in hundredths (R39, R431). -/
def delayNow (s : State) (c : Nat) : Nat :=
  match (coreOf s c).delay with
  | .fused => 150 * Config.fusedReplica c
  | .set n => n

/-- A Hem's clock stops (R52): LOCKED clears, and transfers into the Hem wait. -/
def execHemClockStop (h : HemId) (s : State) : Out :=
  .next (if hemOn s h ∧ !s.hemStopped.contains h.val then
    { wrB s (kXing h) 0 false with hemStopped := s.hemStopped ++ [h.val] } else s)

/-- The transfers held at a Hem go on, in their order, once nothing holds them (R52, R56). -/
def hemRelease (s : State) (h : Nat) : State :=
  if hemHeld s h then s
  else
    let p := h - 8
    let s := if 8 ≤ h ∧ h < 24 then
        { s with wire := s.wire ++ s.wireHeld.filter (fun f => f.port == p), wireHeld := s.wireHeld.filter (fun f => f.port != p) } else s
    if h = 24 then { s with cp := { s.cp with wire := s.cp.wire ++ s.cp.held, held := [] } } else s

/-- A Hem's clock runs (again) with its PLL locked; held transfers go on (R52). -/
def execHemClockRun (h : HemId) (s : State) : Out :=
  .next (if hemOn s h then
    hemRelease { wrB s (kXing h) 0 true with hemStopped := s.hemStopped.filter (fun x => x != h.val) } h else s)

/-- Lock lost for more than 100 µs (R53). -/
def execHemClockLoss (h : HemId) (s : State) : Out :=
  .next (if hemOn s h ∧ !rdB s (kXing h) 0 then
    reportErr (wrB s (kXing h) 4 true) (hemOwnerPage h) 0x204 (mmioAddr (pgHem h) 0) else s)

/-- An overrun: on a port or control-port receive crossing the word is dropped and counted (R54); on any other crossing it is
an uncorrectable error of the owning block (R55, R24). The spec names no state address for a crossing: BLK_ERR_ADDR takes the address of the Hem's page
(DESIGN CHOICE, log entry 105). -/
def execOverrun (h : HemId) (s : State) : Out :=
  .next (if !hemOn s h then s
    else if 8 ≤ h.val ∧ h.val < 25 then bump (wrB s (kXing h) 1 true) (pgHem h) R_HEM_OVERRUN_CNT
    else breach s (hemOwnerPage h) (pageMids (hemOwnerPage h)) (mmioAddr (pgHem h) 0))

/-- Sides of the crossing of Hem `h` that were reset and have not raised READY: the Hem's (`true`) or the handshake side. -/
def resyncSides (s : State) (h : Nat) : List (Nat × Bool) := s.resync.filter (fun r => r.1 == h)

/-- Side `hemSide` of a crossing is reset: the first one starts a resynchronisation, counted once; a reset of the other side joins it (R56, R57). -/
def resyncStart (s : State) (h : Nat) (hemSide : Bool) : State :=
  let s := if rdB s (kXing h) 3 then s else bump (wrB s (kXing h) 3 true) (pgHem h) R_HEM_RESYNC_CNT
  let s := { s with resync := if s.resync.contains (h, hemSide) then s.resync else s.resync ++ [(h, hemSide)] }
  if hemSide then s else wrB s (kXing h) 2 true

/-- A side that was reset raises READY, its own reset released; traffic resumes when every side that was reset has raised it (R56 events 4
and 5, R57). -/
def resyncReady (s : State) (h : Nat) (hemSide : Bool) : State :=
  if !hemOn s h ∨ !s.resync.contains (h, hemSide) then s
  else
    let s := { s with resync := s.resync.filter (fun r => r != (h, hemSide)) }
    let s := if hemSide then s else wrB s (kXing h) 2 false
    if resyncSides s h = [] then hemRelease (wrB s (kXing h) 3 false) h else s

def execResyncReady (h : HemId) (hemSide : Bool) (s : State) : Out := .next (resyncReady s h hemSide)

end Sys2Proof.Machine
end

