-- ==== Sys2Proof/Machine/Ope.lean ====
section
/-! DEFINITION. The arrays: products, feeders, cell groups, drains, scaled retry, random sources (03_outer_product_arrays.md R60
to R86, 04_numerics.md R89 to R119, 07_command_encoding.md R196 to R199). -/
namespace Sys2Proof.Machine

/-! ## A product's operands (R196, R197) -/

/-- A product as its descriptors give it. -/
structure Prod where
  word : Rec
  k : Nat
  a : Tile
  b0 : Option Tile
  b1 : Option Tile
  d0 : Option Tile
  d1 : Option Tile
  mask : Option Desc
  deriving DecidableEq, Repr

def prodOf (q : QEntry) : Option Prod :=
  (q.tile 32).map (fun a => ⟨q.word, q.kLen, a, q.tile 40, q.tile 48, q.tile 56, q.tile 64, q.descOf 72⟩)

def Prod.b (p : Prod) (o : Nat) : Option Tile := if o = 0 then p.b0 else p.b1
def Prod.d (p : Prod) (o : Nat) : Option Tile := if o = 0 then p.d0 else p.d1
/-- The copy a view reads: A_VIEW and B_VIEW of R196 (0 row copy, 1 column copy). -/
def Prod.aCopy (p : Prod) : Nat := if bitAt p.word 93 then 1 else 0
def Prod.bCopy (p : Prod) : Nat := if bitAt p.word 94 then 0 else 1
def Prod.drain (p : Prod) : Bool := bitAt p.word 90
def Prod.keep (p : Prod) : Bool := bitAt p.word 89
def Prod.retry (p : Prod) : Bool := bitAt p.word 95
def Prod.accRne (p : Prod) : Bool := bitAt p.word 91
def Prod.outRne (p : Prod) : Bool := bitAt p.word 92

/-- Lines of a view and their length (R192). -/
def Tile.lines (t : Tile) (copy : Nat) : Nat := if copy = 0 then t.rows else t.cols
def Tile.lineLen (t : Tile) (copy : Nat) : Nat := if copy = 0 then t.cols else t.rows
def Tile.pitch (t : Tile) (copy : Nat) : Nat := if copy = 0 then t.p0 else t.p1
def Tile.holds (t : Tile) (copy : Nat) : Bool := if copy = 0 then t.hasRow else t.hasCol

def Prod.m (p : Prod) : Nat := p.a.lines p.aCopy
def Prod.n (p : Prod) (o : Nat) : Nat := (p.b o).elim 0 (fun t => t.lines p.bCopy)

/-- k of Table: Port contents per array step. -/
def kOfFmt : Fmt → Nat
  | .kb4 => 32 | .f8a => 16 | .f8b => 16 | .bf16 => 8 | .fp16 => 8 | _ => 2

def Prod.ks (p : Prod) : Nat := kOfFmt p.a.fmt
/-- Steps of R68. -/
def Prod.steps (p : Prod) : Nat := (p.k + p.ks - 1) / p.ks
def Prod.bands (p : Prod) : Nat := (p.m + 63) / 64

/-- Is product row `r` fed (R72)? -/
def Prod.fedRow (p : Prod) (r : Nat) : Bool :=
  decide (r < p.m) && (match p.mask with
    | some d => !bitAt d 288 || bitAt d r
    | none => true)

/-- Is column `j` of OPE `o` fed (R73)? -/
def Prod.fedCol (p : Prod) (o j : Nat) : Bool :=
  decide (j < p.n o) && (match p.mask with
    | some d => !bitAt d 289 || bitAt d (256 + 16 * o + j)
    | none => true)

/-- Enabled positions of a core in increasing number (R82). -/
def enabledPos (s : State) (c : Nat) : List Nat :=
  (List.range 4).filter (fun j => !rdB s (kCore c R_OPE_POS_MAP) j)

/-- The band a position takes (R66, R82). -/
def posBand (en : List Nat) (pos : Nat) : Option Nat := if en.contains pos then some (en.idxOf pos) else none

/-- The fed rows of a position, by row in the array. -/
def Prod.posRows (p : Prod) (en : List Nat) (pos : Nat) : List Nat :=
  match posBand en pos with
  | some b => (List.range 64).filter (fun r => p.fedRow (64 * b + r))
  | none => []

def Prod.opeCols (p : Prod) (o : Nat) : List Nat := (List.range 16).filter (p.fedCol o)

/-- Fed arrays as 4 * OPE + position (R74). -/
def Prod.fedArrays (p : Prod) (en : List Nat) : List Nat :=
  (List.range 8).filter (fun i => p.opeCols (i / 4) != [] && p.posRows en (i % 4) != [])

/-! ## The checks of R197, R66 to R68, R106 -/

/-- Does a byte range reach a retired segment's line (16_bringup_service.md R462)? -/
def rangeRetired (s : State) (c : Nat) (r : Nat × Nat) : Bool :=
  (List.range 8).any (fun j => rd s (kCore c (R_SEG_RETIRED + 8 * j)) != 0)
    && (linesOf r.1 (r.2 - r.1)).any (csRetired s c)

/-- Do the byte ranges of a tile lie in core `c`'s data region, on lines in use? -/
def tileOwn (s : State) (c : Nat) (t : Tile) : Bool :=
  t.ranges.all (fun r => inData c r && !rangeRetired s c r)

/-- Does every line of a copy start at a multiple of 64 bytes? -/
def linesAligned (t : Tile) (copy : Nat) : Bool :=
  t.base copy % 64 == 0 && (decide (t.lines copy ≤ 1) || t.pitch copy * t.fmt.nibbles % 128 == 0)

def mayMultiply : Fmt → Bool
  | .w40 | .u16 | .u32 | .stat => false
  | _ => true
def mayDrain : Fmt → Bool
  | .u16 | .u32 | .stat => false
  | _ => true

/-- Is a FMT code one that a predicate on formats allows (R191)? -/
def fmtOk (t : Tile) (f : Fmt → Bool) : Bool := (fmtOf t.fmtCode).elim false f

/-- The owner of the open accumulation as the products that have fired leave it: none where one of them ends it (R69, R70). -/
def accNow (k : CoreSt) : Option Nat := if k.prods.any (fun r => r.closes) then none else k.accOwner

/-- The refusal of a product that comes to fire, if it meets a cause (R156, R209). -/
def productCheck (s : State) (c : Nat) (q : QEntry) : Option Nat :=
  let r := q.word
  let srcs := q.tiles [32, 40, 48]
  let dsts := q.tiles [56, 64]
  let k := coreOf s c
  let badPlaces := badBases c q
    || (srcs ++ dsts).any (fun t => !tileOwn s c t || t.copies.any (fun y => !linesAligned t y))
  let badFmts := srcs.any (fun t => !fmtOk t mayMultiply) || dsts.any (fun t => !fmtOk t mayDrain)
  let bs := q.tiles [40, 48]
  let keepBusy := q.task && bitAt r 89 && accNow k == some q.ctx && !k.accTask
  let viewB := bs.any (fun t => !t.holds (if bitAt r 94 then 0 else 1))
  match prodOf q with
  | none =>
    firstCode [
      (badPlaces, 0x02), (keepBusy, 0x09), (badFmts, 0x10), ((srcs ++ dsts).any (fun t => !t.descOk), 0x11), (viewB, 0x12),
      (match bs with
        | t :: ts => ts.any (fun u => kOfFmt u.fmt != kOfFmt t.fmt)
        | [] => false, 0x13),
      (true, 0x14)]
  | some p =>
    firstCode [
      (badPlaces, 0x02),
      (keepBusy, 0x09),
      (badFmts, 0x10),
      ((srcs ++ dsts).any (fun t => !t.descOk), 0x11),
      (!p.a.holds p.aCopy || viewB, 0x12),
      (bs.any (fun t => kOfFmt t.fmt != p.ks), 0x13),
      (bs == [] || decide (256 < p.m) || bs.any (fun t => decide (16 < t.lines p.bCopy))
        || decide (p.a.lineLen p.aCopy < p.k) || bs.any (fun t => decide (t.lineLen p.bCopy < p.k))
        || (p.drain && (List.range 2).any (fun o => (p.b o).isSome && (p.d o).isNone))
        || (List.range 2).any (fun o => match p.d o with
            | some t => decide (t.rows < p.m) || decide (t.cols < p.n o)
            | none => false), 0x14),
      (p.a.fmt == .kb4 && p.k % 16 != 0, 0x15),
      (decide ((enabledPos s c).length < p.bands), 0x16),
      (dsts.any (fun d => srcs.any (fun t => rangesMeet d.ranges t.ranges)), 0x17),
      (bitAt r 95 && (p.keep || !p.drain), 0x1A)]

/-! ## Accumulators, sources, counts -/

/-- Key of accumulator and latch (row, column) of array 4 * OPE + position. -/
def cellKey (arr row col : Nat) : Nat := (arr * 64 + row) * 16 + col

def accOf (k : CoreSt) (key : Nat) : Nat := tabGet (fun _ => 0) k.acc key

/-- Clear every accumulator of the arrays `arrs` (ACC_ZERO, R69). -/
def zeroArrays (k : CoreSt) (arrs : List Nat) : CoreSt :=
  { k with acc := k.acc.filter (fun e => !arrs.contains (e.1 / 1024)), accBad := k.accBad.filter (fun i => !arrs.contains (i / 1024)) }

/-- Do SR roundings of array `arr` use draws (04_numerics.md R116, R117)? -/
def arrDraws (s : State) (c arr : Nat) : Bool := !reducedService s && !(coreOf s c).arrFail.testBit arr

/-- A random source of a core fails (R116): arrays 0 to 7, vector unit 8, stream engine 9. -/
def sourceFail (s : State) (c i : Nat) : State :=
  let s := modCore s c (fun k =>
    if i < 8 then { k with arrFail := Nat.lor k.arrFail (2 ^ i) } else if i = 8 then { k with vecFail := true }
    else { k with strFail := true })
  let s := wrB s (kCore c R_NUM_CTL) 4 false
  bump (setDegraded s (pgCore c) 7) (pgCore c) R_NUM_SR_FAIL_CNT

/-- A source of a core is about to make a draw: if its two copies disagree, it fails (R115), and the roundings that follow, this one included, find it
failed (R116). `draws`: the work to be done rounds by draws of the source. -/
def drawCheck (s : State) (c i : Nat) (draws : Bool) : State :=
  if draws && s.srSick.contains (pgCore c, i) then
    sourceFail { s with srSick := s.srSick.filter (fun x => x != (pgCore c, i)) } c i
  else s

/-! ## Running a product -/

/-- The products in their steps, oldest first, each with its entry and operands. -/
def prodsOf (s : State) (c : Nat) : List (OpeRun × QEntry × Prod) :=
  (coreOf s c).prods.filterMap (fun r => (findEntry s c r.id).bind (fun q => (prodOf q).map (fun p => (r, q, p))))

/-- Replace the product with the number of `r` by `r`. -/
def setRun (s : State) (c : Nat) (r : OpeRun) : State :=
  modCore s c (fun k => { k with prods := k.prods.map (fun x => if x.id = r.id then r else x) })

/-- Key of a group of cells and of a feeder. -/
def groupKey (o pos rs cs : Nat) : Nat := ((o * 4 + pos) * 8 + rs) * 4 + cs
def feederKey : Feeder → Nat
  | .row pos seg => pos.val * 8 + seg.val
  | .col ope seg => 32 + ope.val * 4 + seg.val

def segRows (p : Prod) (en : List Nat) (pos rs : Nat) : List Nat := (p.posRows en pos).filter (fun r => r / 8 == rs)
def segCols (p : Prod) (o cs : Nat) : List Nat := (p.opeCols o).filter (fun j => j / 4 == cs)

/-- The fed groups of a product. -/
def fedGroups (p : Prod) (en : List Nat) : List (Nat × Nat × Nat × Nat) :=
  (List.range 256).filterMap (fun i =>
    let g := (i / 128, i / 32 % 4, i / 4 % 8, i % 4)
    if segRows p en g.2.1 g.2.2.1 != [] && segCols p g.1 g.2.2.2 != [] then some g else none)

def groupDone (r : OpeRun) (g : Nat × Nat × Nat × Nat) : Nat :=
  tabGet (fun _ => 0) r.groups (groupKey g.1 g.2.1 g.2.2.1 g.2.2.2)

/-- The groups that take a feeder's entries (R76). -/
def feedGroups (p : Prod) (en : List Nat) : Feeder → List (Nat × Nat × Nat × Nat)
  | .row pos seg => (fedGroups p en).filter (fun g => g.2.1 == pos.val && g.2.2.1 == seg.val)
  | .col ope seg => (fedGroups p en).filter (fun g => g.1 == ope.val && g.2.2.2 == seg.val)

/-- Least number in a list, `d` where it is empty. -/
def least (d : Nat) (l : List Nat) : Nat := l.foldl min d

/-- Have all groups of an array done every step? -/
def arrayDone (p : Prod) (en : List Nat) (r : OpeRun) (arr : Nat) : Bool :=
  ((fedGroups p en).filter (fun g => g.1 * 4 + g.2.1 == arr)).all (fun g => groupDone r g == r.steps)

/-- Add numerics events: at once, or to the attempt of a product that may be retried (R109). -/
def addEv (s : State) (c : Nat) (p : Prod) (r : OpeRun) (e : NumEv) : State × OpeRun :=
  if p.retry then (s, { r with ev := r.ev.add e }) else (countNum s (pgCore c) e 0, r)

/-- May a product use array `arr` after the products before it (R78 event 3)? One with DRAIN must have been copied out of the array. One without must have done its
steps in the array where the new product clears it; where it adds to it, each group of cells goes on by itself (R76). -/
def arrayFree (en : List Nat) (before : List (OpeRun × QEntry × Prod)) (keep : Bool) (arr : Nat) : Bool :=
  before.all (fun e => !(e.2.2.fedArrays en).contains arr
    || (if e.2.2.drain then e.1.copied.contains arr else keep || arrayDone e.2.2 en e.1 arr))

/-- The arrays that a product of ACC_ZERO still has to clear and now may (R69). -/
def zeroable (en : List Nat) (before : List (OpeRun × QEntry × Prod)) (e : OpeRun × QEntry × Prod) : List Nat :=
  if e.2.2.keep then [] else (e.2.2.fedArrays en).filter (fun i => !e.1.zeroed.contains i && arrayFree en before false i)

/-- Is array `arr` ready for the steps, or the copy, of a product: cleared where its mode says so, and free of the products before it? -/
def arrayMine (en : List Nat) (before : List (OpeRun × QEntry × Prod)) (e : OpeRun × QEntry × Prod) (arr : Nat) : Bool :=
  if e.2.2.keep then arrayFree en before true arr else e.1.zeroed.contains arr

/-- The products before the one with number `id`. -/
def prodsBefore (s : State) (c id : Nat) : List (OpeRun × QEntry × Prod) := (prodsOf s c).takeWhile (fun e => e.1.id != id)

/-- ACC_ZERO clears the arrays that have become free for a product. -/
def zeroStep (s : State) (c id : Nat) : State :=
  match (prodsOf s c).find? (fun e => e.1.id == id) with
  | none => s
  | some e =>
    let z := zeroable (enabledPos s c) (prodsBefore s c id) e
    if z = [] then s else setRun (modCore s c (fun k => zeroArrays k z)) c { e.1 with zeroed := e.1.zeroed ++ z }

/-- The end of the step phase of a product: one without DRAIN completes; one with DRAIN leaves to its drain once every fed array has
been copied (R69, R77, R78), and ends the open accumulation it was to end. An accumulation that is closing since its owner entered ERROR or IDLE is left to
its close: R71 puts the close after the completion of that product too, and has it set every accumulator to +0 (DEDUCED, log entry 127). -/
def endStep (s : State) (c id : Nat) : State :=
  match (prodsOf s c).find? (fun e => e.1.id == id) with
  | none => s
  | some (r, q, p) =>
    let en := enabledPos s c
    if !(fedGroups p en).all (fun g => groupDone r g == r.steps) || !(p.keep || (p.fedArrays en).all (fun i => r.zeroed.contains i)) then s
    else if !p.drain then
      finishEntry (modCore s c (fun k => { k with prods := k.prods.filter (fun x => x.id != id) })) c q
    else if (p.fedArrays en).all (fun i => r.copied.contains i) then
      modCore s c (fun k =>
        let ds := if k.drains.any (fun d => d.id == r.id) then k.drains else k.drains ++ [⟨r.id, r.attempt, r.shift, [], [], .zero, true⟩]
        let ds := ds.map (fun d => if d.id = r.id then { d with ev := d.ev.add r.ev, finite := r.finite } else d)
        let closes := r.closes && !k.accClosing
        { k with prods := k.prods.filter (fun x => x.id != id), drains := ds, accOwner := if closes then none else k.accOwner,
                 accTask := k.accTask && !closes })
    else s

/-- What follows for the products in their steps, oldest first, when one has advanced: arrays are cleared, step phases end. -/
def stepSettle (s : State) (c : Nat) : State :=
  (coreOf s c).prods.foldl (fun s r => endStep (zeroStep s c r.id) c r.id) s

/-- The retry shift of a product (R106). -/
def retryShift (s : State) (c : Nat) (p : Prod) : Nat :=
  let f := bits p.word 99 96
  if f = 0 then rdF s (kCore c R_NUM_CTL) 3 0 else f

/-- Is a product of RETRY still in its attempts (R108)? -/
def retryHolds (s : State) (c : Nat) : Bool :=
  let k := coreOf s c
  (k.drains.map (fun d => d.id) ++ k.prods.map (fun r => r.id)).any (fun id => (findEntry s c id).any (fun q => bitAt q.word 95))

/-- The 40 feeders of a core (R75). -/
def allFeeders : List Feeder :=
  (List.range 32).map (fun i => .row (Fin.ofNat 4 (i / 8)) (Fin.ofNat 8 i)) ++ (List.range 8).map (fun i => .col (Fin.ofNat 2 (i / 4)) (Fin.ofNat 4 i))

/-- Has a feeder an entry of a product in its steps still to fetch? While one has, the next product does not fire (DESIGN CHOICE, log entry 108: R79 lets the
arrays run up to 4 steps into the next product, and the spec does not say when that product fires). -/
def feedersBusy (s : State) (c : Nat) : Bool :=
  (prodsOf s c).any (fun e => allFeeders.any (fun f =>
    feedGroups e.2.2 (enabledPos s c) f != [] && decide (tabGet (fun _ => 0) e.1.fetched (feederKey f) < e.1.steps)))

/-- A product fires (R65, R69). -/
def productFire (s : State) (c : Nat) (q : QEntry) (p : Prod) : State :=
  let arrs := p.fedArrays (enabledPos s c)
  let s := fireEntry s c q
  let s := modCore s c (fun k =>
    let opens := !p.keep && !p.drain
    let restart := !p.keep && p.drain && accNow k == some q.ctx
    let r : OpeRun := ⟨q.id, p.steps, 0, retryShift s c p, [], [], [], .zero, true, [], [], arrs.foldl (fun a i => a + 2 ^ i) 0, p.keep && p.drain⟩
    { k with prods := (if opens then k.prods.map (fun x => { x with closes := false }) else k.prods) ++ [r],
             accOwner := if opens then some q.ctx else if restart then none else k.accOwner,
             accTask := if opens then q.task else if restart then false else k.accTask })
  stepSettle s c

/-- May the product at the head fire, as far as the arrays go (R70, R108, R116; log entry 108)? -/
def arraysReady (s : State) (c : Nat) : Bool :=
  let k := coreOf s c
  !feedersBusy s c && !retryHolds s c && !k.katRunning.any (fun i => decide (i < 8)) && !k.accClosing

/-- OPE_PRODUCT: the head of the OPE queues comes to fire, waits, fires or is refused (R156). -/
def opeProduct (s : State) (c : Nat) : State :=
  if !coreRuns s c then s
  else match ((coreOf s c).opeQ.filter (fun q => !q.fired)).head? with
  | none => s
  | some q0 =>
    let q := if q0.arrived then q0 else q0.arrive s
    let s := if q0.arrived then s else descCheck s c 4 q0
    match (if q0.arrived then none else productCheck s c q) with
    | some code => refuseEntry s c q code
    | none =>
      let s := modEntry s c q.id (fun _ => q)
      if !arraysReady s c || !tilesReady s c q then s
      else match prodOf q with
        | none => s
        | some p =>
          let own := accNow (coreOf s c)
          match firstCode [(own.isSome && own != some q.ctx, 0x18), (p.keep && own.isNone, 0x19)] with
          | some code => refuseEntry s c q code
          | none => productFire s c q p

def execOpeProduct (c : Core) (s : State) : Out := .next (opeProduct s c)

/-! ## Feeders (R61, R68, R75) -/

/-- One line's elements for step `t`: values (elements at K and above are +0), and the words read with whether each holds an
element below K (R68, R213). -/
def lineEntry (s : State) (t : Tile) (copy line k ks step : Nat) : List FVal × List (Nat × Bool) :=
  let n0 := line * t.pitch copy + step * ks
  let vs := (List.range ks).map (fun e =>
    if step * ks + e < k then t.elemAt (getCell s.mem) (isBad s.mem) copy (n0 + e) else .zero)
  let lo := t.addr copy n0
  let hi := t.addr copy (n0 + ks)
  let ws := (wordsOf lo (hi - lo)).map (fun w => (w, decide (step * ks + (max w lo - lo) * 2 / t.fmt.nibbles < k)))
  let sc := if t.fmt = .kb4 then
      ((List.range (ks / 16)).filter (fun i => decide (step * ks + 16 * i < k))).map
        (fun i => ((t.sbase copy + (n0 + 16 * i) / 16) / 8 * 8, true))
    else []
  (vs, ws ++ sc)

/-- The entry of step `t` at a feeder: a list of values for each of its 8 rows or 4 columns, empty where not fed. -/
def feedEntry (s : State) (p : Prod) (en : List Nat) (f : Feeder) (step : Nat) : List (List FVal × List (Nat × Bool)) :=
  match f with
  | .row pos seg =>
    (List.range 8).map (fun i =>
      let r := 8 * seg.val + i
      match posBand en pos.val with
      | some b => if p.fedRow (64 * b + r) then lineEntry s p.a p.aCopy (64 * b + r) p.k p.ks step else ([], [])
      | none => ([], []))
  | .col ope seg =>
    (List.range 4).map (fun i =>
      let j := 4 * seg.val + i
      match p.b ope.val with
      | some t => if p.fedCol ope.val j then lineEntry s t p.bCopy j p.k p.ks step else ([], [])
      | none => ([], []))

/-- The oldest product of which feeder `f` has an entry to fetch. -/
def feedsNext (s : State) (c : Nat) (f : Feeder) : Option (OpeRun × QEntry × Prod) :=
  (prodsOf s c).find? (fun e => feedGroups e.2.2 (enabledPos s c) f != [] && decide (tabGet (fun _ => 0) e.1.fetched (feederKey f) < e.1.steps))

/-- The entries in a feeder's link, of every product in its steps. -/
def linkFill (s : State) (c : Nat) (f : Feeder) : Nat :=
  (coreOf s c).prods.foldl (fun n r => n + (tabGet (fun _ => []) r.links (feederKey f)).length) 0

/-- A feeder whose link has room fetches one entry: it reads the words of the entry, with the check of R213. -/
def feedOne (s : State) (c : Nat) (f : Feeder) : State :=
  match feedsNext s c f with
  | none => s
  | some (r, _, p) =>
    let key := feederKey f
    let done := tabGet (fun _ => 0) r.fetched key
    if 4 ≤ linkFill s c f then s
    else
      let e := feedEntry s p (enabledPos s c) f done
      let s := e.foldl (fun s l => l.2.foldl (fun s w => csWord s c w.1 w.2) s) s
      let s := askBanks s 4 0 (e.flatMap (fun l => l.2.map (fun w => (w.1, w.1 + 8))))
      setRun s c { r with fetched := tabSet (fun _ => 0) r.fetched key (done + 1),
                          links := tabSet (fun _ => []) r.links key (tabGet (fun _ => []) r.links key ++ [e.map (fun l => l.1)]),
                          finite := r.finite && e.all (fun l => l.1.all FVal.isFinite) }

/-- FEEDER_REFILL: up to two entries (R75). -/
def execFeederRefill (c : Core) (f : Feeder) (s : State) : Out :=
  .next (if coreRuns s c then feedOne (feedOne s c f) c f else s)

/-! ## Cells (R60 to R63, R93 to R98) -/

/-- Exact sum of products of two element lists. -/
def dotSum : List FVal → List FVal → FVal
  | a :: as, b :: bs =>
    match as, bs with
    | [], _ => a.mul b
    | _, [] => a.mul b
    | _, _ => (a.mul b).add (dotSum as bs)
  | _, _ => .zero

/-- The rounding of an accumulation. -/
def accRnd (draws rne : Bool) (q : QEntry) (row col index : Nat) : Rnd :=
  if rne || !draws then .rne else .sr (draw q.key 0 row col index)

/-- The updates of one group of cells in step `t`: keys, new codes, and counts. -/
def groupUpdate (s : State) (c : Nat) (r : OpeRun) (q : QEntry) (p : Prod) (en : List Nat)
    (o pos rs cs t : Nat) (draws : Bool) (re ce : List (List FVal)) : List (Nat × Nat) × NumEv :=
  let arr := o * 4 + pos
  let band := (posBand en pos).getD 0
  let cells := (segRows p en pos rs).flatMap (fun i => (segCols p o cs).map (fun j => (i, j)))
  let one := fun (ij : Nat × Nat) =>
    let key := cellKey arr ij.1 ij.2
    let old := accOf (coreOf s c) key
    let sum := (dotSum (nth [] re (ij.1 % 8)) (nth [] ce (ij.2 % 4))).scale (-((r.attempt * r.shift : Nat) : Int))
    let x := (fDecode layW40 old).add sum
    let a := accRound (accRnd draws p.accRne q (64 * band + ij.1) (16 * o + ij.2) t) old x
    ((key, a.1), a.2)
  let us := cells.map one
  (us.map (fun u => u.1), us.foldl (fun e u => e.add u.2) .zero)

/-- Release the entries of a feeder's link that every group has fired with (R76). -/
def releaseLink (p : Prod) (en : List Nat) (r : OpeRun) (f : Feeder) : OpeRun :=
  let key := feederKey f
  let link := tabGet (fun _ => []) r.links key
  let fetched := tabGet (fun _ => 0) r.fetched key
  let low := least fetched ((feedGroups p en f).map (groupDone r))
  { r with links := tabSet (fun _ => []) r.links key (link.drop (low - (fetched - link.length))) }

/-- The entry of step `t` in a feeder's link. -/
def linkEntry (r : OpeRun) (f : Feeder) (t : Nat) : Option (List (List FVal)) :=
  let link := tabGet (fun _ => []) r.links (feederKey f)
  let fetched := tabGet (fun _ => 0) r.fetched (feederKey f)
  if fetched - link.length ≤ t ∧ t < fetched then some (nth [] link (t - (fetched - link.length))) else none

/-- The product of which a group of cells fires its next step: the oldest that has one for it. -/
def groupNext (s : State) (c : Nat) (id : Nat × Nat × Nat × Nat) : Option (OpeRun × QEntry × Prod) :=
  (prodsOf s c).find? (fun e => (fedGroups e.2.2 (enabledPos s c)).contains id && decide (groupDone e.1 id < e.1.steps))

/-- A group of cells fires its next step, if both entries are there and the array is the product's (R76, R78 event 3). A product step counts in OPE_STEP_CNT when
the slowest fed group fires it: groups stand up to 4 steps apart, and the spec does not say which of them counts (DESIGN CHOICE, log entry 109). -/
def groupFire (s : State) (c : Nat) (g : CellGroup) : State :=
  let en := enabledPos s c
  let arr := g.ope.val * 4 + g.pos.val
  let id := (g.ope.val, g.pos.val, g.rs.val, g.cs.val)
  let key := groupKey g.ope.val g.pos.val g.rs.val g.cs.val
  match groupNext s c id with
  | none => s
  | some (r, q, p) =>
    let t := groupDone r id
    if !arrayMine en (prodsBefore s c r.id) (r, q, p) arr then s
    else match linkEntry r (.row g.pos g.rs) t, linkEntry r (.col g.ope g.cs) t with
      | some re, some ce =>
        let s := drawCheck s c arr (!p.accRne && arrDraws s c arr)
        let u := groupUpdate s c r q p en g.ope.val g.pos.val g.rs.val g.cs.val t (arrDraws s c arr) re ce
        let before := least r.steps ((fedGroups p en).map (groupDone r))
        let s := modCore s c (fun k =>
          { k with acc := u.1.foldl (fun m w => tabSet (fun _ => 0) m w.1 w.2) k.acc,
                   fires := tabSet (fun _ => 0) k.fires key (tabGet (fun _ => 0) k.fires key + 1) })
        let r := { r with groups := tabSet (fun _ => 0) r.groups key (t + 1) }
        let r := releaseLink p en (releaseLink p en r (.row g.pos g.rs)) (.col g.ope g.cs)
        let se := addEv s c p r u.2
        let s := setRun se.1 c se.2
        let after := least r.steps ((fedGroups p en).map (groupDone r))
        let s := bumpN s (pgCore c) R_OPE_STEP_CNT (after - before)
        let s := bumpN s (pgCore c) R_OPE_CELL_UPD_CNT u.1.length
        stepSettle s c
      | _, _ => s

def execCellGroupFire (c : Core) (g : CellGroup) (s : State) : Out :=
  .next (if coreRuns s c then groupFire s c g else s)

/-! ## Drains (R78 to R80, R84) -/

/-- A parity mismatch of the cell (row, col) of an array (R84). -/
def parityHit (s : State) (c arr row col : Nat) : State :=
  let s := wrB s (kCore c R_OPE_STATUS) 5 true
  let kl := kCore c R_OPE_ERR_LOC
  let s := if rdB s kl 15 then s
    else wr s kl (w64 (0x8000 + arr / 4 * 2 ^ 14 + arr % 4 * 2 ^ 12 + row * 2 ^ 6 + col))
  reportErr (bump s (pgCore c) R_OPE_PARITY_CNT) (pgCore c) 0x201 0

/-- Does an array's drain latch hold rows of an earlier product (R79)? -/
def latchBusy (k : CoreSt) (arr : Nat) : Bool := k.drains.any (fun d => d.left.any (fun l => l.1 == arr && l.2 != []))

/-- The product whose accumulators in array `arr` are to be copied: the oldest fed there that has done its last update in it (R78 event 1). -/
def copyNext (s : State) (c arr : Nat) : Option (OpeRun × QEntry × Prod) :=
  let en := enabledPos s c
  (prodsOf s c).find? (fun e => e.2.2.drain && (e.2.2.fedArrays en).contains arr && !e.1.copied.contains arr && arrayDone e.2.2 en e.1 arr
    && arrayMine en (prodsBefore s c e.1.id) e arr)

/-- The fed cells (row, column) of an array. -/
def fedCells (p : Prod) (en : List Nat) (arr : Nat) : List (Nat × Nat) :=
  (p.posRows en (arr % 4)).flatMap (fun i => (p.opeCols (arr / 4)).map (fun j => (i, j)))

/-- DRAIN_COPY: R78 event 2. A mismatch is reported, goes into the latch as NaN, and is gone from the accumulator, which the clearing rewrites (R84). -/
def drainCopy (s : State) (c arr : Nat) : State :=
  match copyNext s c arr with
  | none => s
  | some (r, _, p) =>
    if latchBusy (coreOf s c) arr then s
    else
      let en := enabledPos s c
      let cells := fedCells p en arr
      let bad := (coreOf s c).accBad
      let s := (cells.filter (fun ij => bad.contains (cellKey arr ij.1 ij.2))).foldl (fun s ij => parityHit s c arr ij.1 ij.2) s
      let s := modCore s c (fun k =>
        let latch := cells.foldl (fun m ij =>
          tabSet (fun _ => LatchCell.rst) m (cellKey arr ij.1 ij.2)
            ⟨accOf k (cellKey arr ij.1 ij.2), bad.contains (cellKey arr ij.1 ij.2), false⟩) k.latch
        let acc := cells.foldl (fun m ij => tabSet (fun _ => 0) m (cellKey arr ij.1 ij.2) 0) k.acc
        let rows := p.posRows en (arr % 4)
        let ds := if k.drains.any (fun d => d.id == r.id) then
            k.drains.map (fun d => if d.id = r.id then { d with left := d.left ++ [(arr, rows)] } else d)
          else k.drains ++ [⟨r.id, r.attempt, r.shift, [(arr, rows)], [], .zero, true⟩]
        { k with latch := latch, acc := acc, drains := ds,
                 accBad := k.accBad.filter (fun i => !(cells.map (fun ij => cellKey arr ij.1 ij.2)).contains i) })
      stepSettle (setRun s c { r with copied := r.copied ++ [arr] }) c

def execDrainCopy (c : Core) (a : ArrayId) (s : State) : Out :=
  .next (if coreRuns s c then drainCopy s c (a.ope.val * 4 + a.pos.val) else s)

def latchOf (k : CoreSt) (key : Nat) : LatchCell := tabGet (fun _ => LatchCell.rst) k.latch key

/-- The value of a latch: NaN where its parity did not match. -/
def latchVal (k : CoreSt) (arr row col : Nat) : FVal :=
  let l := latchOf k (cellKey arr row col)
  if l.nan || l.bad then .nan else fDecode layW40 l.code

/-- The rounding of a drain conversion (site 1). -/
def drainRnd (draws : Bool) (p : Prod) (q : QEntry) (row col : Nat) : Rnd :=
  if p.outRne || !draws then .rne else .sr (draw q.key 1 row col 0)

/-- A converted element: its code and counts; W40 is not converted (R80). -/
def convElem (f : Fmt) (r : Rnd) (v : FVal) (w40 : Option Nat) : Nat × NumEv :=
  match f, w40 with
  | .w40, some c => (c, .zero)
  | _, _ => match f.lay with
    | some l => fRound l r v
    | none => (0, .zero)

/-- The bytes of an element's container. -/
def elemBytes (f : Fmt) (code : Nat) : List Byte := valBytes (f.nibbles / 2) code

/-- The write of a KB4 block of 16 elements from element number `n0` of a copy, from converted scale and codes. -/
def kb4Writes (t : Tile) (copy n0 : Nat) (scale : Nat) (codes : List Nat) : List (Nat × List Byte) :=
  [(t.base copy + n0 / 2, (List.range 8).map (fun i => BitVec.ofNat 8 (nth 0 codes (2 * i) + 16 * nth 0 codes (2 * i + 1)))),
   (t.sbase copy + n0 / 16, [BitVec.ofNat 8 scale])]

/-- Is `row` the last of the fed rows `rows` of an array in its block of 16 rows? -/
def lastOfBlock (rows : List Nat) (row : Nat) : Bool := rows.all (fun r => !(r / 16 == row / 16 && decide (row < r)))

/-- One row's writes into a destination: writes and counts (R80, R91, R124, R125, R508). `row` is the row in the array,
`tr` in the tile. A block of a KB4 column copy takes its scale from its own 16 values (R125), which lie in 16 rows: it is written whole with the last of the fed rows
among them, where R124 would have each fed row in both copies in its own step time (DEDUCED, log entry 110). -/
def drainWrites (s : State) (c : Nat) (q : QEntry) (p : Prod) (t : Tile) (arr row tr : Nat) (rows : List Nat) (draws : Bool) : List (Nat × List Byte) × NumEv :=
  let o := arr / 4
  let k := coreOf s c
  let cols := p.opeCols o
  if t.fmt = .kb4 then
    let blk := fun (copy n0 : Nat) (cells : List (Nat × Nat)) (fed : Nat × Nat → Bool) =>
      let vs := (List.zip (List.range 16) cells).map (fun e =>
        let rc := e.2
        ((if fed rc then latchVal k arr (rc.1 - (tr - row)) rc.2
          else t.elemAt (getCell s.mem) (isBad s.mem) copy (n0 + e.1)), drainRnd draws p q rc.1 (16 * o + rc.2)))
      let b := kb4Block vs
      (kb4Writes t copy n0 b.1 b.2.1, b.2.2)
    let rowPart := if t.hasRow then
        blk 0 (t.elemNo 0 tr 0) ((List.range 16).map (fun j => (tr, j))) (fun rc => cols.contains rc.2)
      else ([], .zero)
    let b0 := row / 16 * 16
    let colParts := if t.hasCol && lastOfBlock rows row then
        cols.map (fun j => blk 1 (t.elemNo 1 (tr - row + b0) j)
          ((List.range 16).map (fun i => (tr - row + b0 + i, j))) (fun rc => rows.contains (rc.1 - (tr - row))))
      else []
    (rowPart.1 ++ colParts.flatMap (fun x => x.1), colParts.foldl (fun e x => e.add x.2) rowPart.2)
  else
    let one := fun j =>
      let l := latchOf k (cellKey arr row j)
      let w := convElem t.fmt (drainRnd draws p q tr (16 * o + j)) (latchVal k arr row j) (if l.nan || l.bad then none else some l.code)
      (t.copies.map (fun y => (t.addr y (t.elemNo y tr j), elemBytes t.fmt w.1)), w.2)
    let es := cols.map one
    (es.flatMap (fun e => e.1), es.foldl (fun a e => a.add e.2) .zero)

/-- Change the drain run of entry `id`. -/
def modDrain (s : State) (c id : Nat) (f : DrainRun → DrainRun) : State :=
  modCore s c (fun k => { k with drains := k.drains.map (fun d => if d.id = id then f d else d) })

/-- The latches read for a row: its own, and with the last row of a block of a KB4 column copy those of the block's other rows. -/
def rowReads (p : Prod) (t : Tile) (arr row : Nat) (rows : List Nat) : List (Nat × Nat) :=
  let rs := if t.fmt = .kb4 && t.hasCol && lastOfBlock rows row then rows.filter (fun r => r / 16 == row / 16) else [row]
  rs.flatMap (fun i => (p.opeCols (arr / 4)).map (fun j => (i, j)))

/-- The parity check of the latches that are read: a mismatch not seen before is reported and makes the value NaN (R84). -/
def latchCheck (s : State) (c arr : Nat) (cells : List (Nat × Nat)) : State :=
  let fresh := cells.filter (fun ij => (latchOf (coreOf s c) (cellKey arr ij.1 ij.2)).bad)
  let s := fresh.foldl (fun s ij => parityHit s c arr ij.1 ij.2) s
  modCore s c (fun k => { k with latch := fresh.foldl (fun m ij =>
    tabSet (fun _ => LatchCell.rst) m (cellKey arr ij.1 ij.2) ⟨(latchOf k (cellKey arr ij.1 ij.2)).code, true, false⟩) k.latch })

/-- DRAIN_ROW: the next fed row of an array's drain (R78 event 4). -/
def drainRow (s : State) (c arr : Nat) : State :=
  let k := coreOf s c
  match k.drains.find? (fun d => d.left.any (fun l => l.1 == arr && l.2 != [])) with
  | none => s
  | some d => match findEntry s c d.id with
    | none => s
    | some q => match prodOf q with
      | none => s
      | some p =>
        let en := enabledPos s c
        let left := (d.left.find? (fun l => l.1 == arr)).elim [] (fun l => l.2)
        match left, p.d (arr / 4) with
        | row :: rest, some t =>
          if logPending s c q.id then s
          else
            let tr := 64 * (posBand en (arr % 4)).getD 0 + row
            let s := latchCheck s c arr (rowReads p t arr row (p.posRows en (arr % 4)))
            let s := drawCheck s c arr (!p.outRne && t.fmt != .w40 && arrDraws s c arr)
            let w := drainWrites s c q p t arr row tr (p.posRows en (arr % 4)) (arrDraws s c arr)
            let s := askBanks (engWrite s c q w.1) 2 0 (w.1.map (fun x => (x.1, x.1 + x.2.length)))
            let s := modDrain s c d.id (fun d =>
              { d with left := d.left.map (fun l => if l.1 = arr then (arr, rest) else l),
                       ev := if p.retry then d.ev.add w.2 else d.ev })
            if p.retry then s else countNum s (pgCore c) w.2 0
        | _, _ => s

def execDrainRow (c : Core) (a : ArrayId) (s : State) : Out :=
  .next (if coreRuns s c then drainRow s c (a.ope.val * 4 + a.pos.val) else s)

/-- Has a drain written every row of the fed arrays of OPE `o`? -/
def opeDrained (p : Prod) (en : List Nat) (d : DrainRun) (o : Nat) : Bool :=
  ((p.fedArrays en).filter (fun i => i / 4 == o)).all (fun i => d.left.any (fun l => l.1 == i && l.2 == []))

/-- Is an attempt retryable (R107)? -/
def retryable (p : Prod) (d : DrainRun) : Bool := p.retry && decide (0 < d.ev.ovf) && d.finite && decide (d.attempt < 2)

/-- An OPE's destination is written: its descriptor's SHIFT, and its full bit unless the other OPE still writes the tile. -/
def opeWritten (s : State) (d : DrainRun) (q : QEntry) (slot : Nat) (shared : Bool) : Option Tile → State
  | some t =>
    let s := writeShift s q slot (d.shift * d.attempt)
    if shared then s else fbComplete s t.fb
  | none => s

/-- The drain has ended: a retried product's counts, and its record completes. -/
def drainClose (s : State) (c : Nat) (p : Prod) (d : DrainRun) (q : QEntry) : State :=
  let s := if p.retry then
      let s := countNum s (pgCore c) d.ev d.attempt
      if 0 < d.ev.ovf then bump s (pgCore c) R_NUM_RETRY_FAIL_CNT else s
    else s
  finishEntry (modCore s c (fun k => { k with drains := k.drains.filter (fun e => e.id != d.id) })) c q

/-- DRAIN_DONE: R78 event 6 for an OPE, and the completion of the product with its last OPE (R109, R110, R153). -/
def drainDone (s : State) (c o : Nat) : State :=
  let k := coreOf s c
  match k.drains.find? (fun d => !d.opes.contains o) with
  | none => s
  | some d => match findEntry s c d.id with
    | none => s
    | some q => match prodOf q with
      | none => s
      | some p =>
        let en := enabledPos s c
        let inSteps := k.prods.any (fun r => r.id == d.id)
        let all := opeDrained p en d 0 && opeDrained p en d 1
        if logPending s c q.id || !opeDrained p en d o || (p.retry && (inSteps || !all || retryable p d)) then s
        else if (p.d o).isSome && q.owesShift (if o = 0 then 56 else 64) then logShifts s c q [(if o = 0 then 56 else 64, d.shift * d.attempt)]
        else
          let other := (p.d (1 - o)).isNone || d.opes.contains (1 - o)
          let slot := if o = 0 then 56 else 64
          let shared := match p.d o, p.d (1 - o) with
            | some t, some u => t.fb == u.fb && !other
            | _, _ => false
          let s := modDrain (opeWritten s d q slot shared (p.d o)) c d.id (fun d => { d with opes := d.opes ++ [o] })
          if !other || inSteps then s else drainClose s c p d q

def execDrainDone (c : Core) (ope : Fin 2) (s : State) : Out := .next (if coreRuns s c then drainDone s c ope.val else s)

/-- SCALED_RETRY: the rerun after a retryable attempt has drained (R107, R108). -/
def scaledRetry (s : State) (c : Nat) : State :=
  let k := coreOf s c
  match k.drains.find? (fun d => match findEntry s c d.id with
      | some q => bitAt q.word 95
      | none => false) with
  | none => s
  | some d => match findEntry s c d.id with
    | none => s
    | some q => match prodOf q with
      | none => s
      | some p =>
        let en := enabledPos s c
        if k.prods != [] || !opeDrained p en d 0 || !opeDrained p en d 1 || !retryable p d || logPending s c q.id then s
        else
          let s := modCore s c (fun k =>
            { k with drains := k.drains.filter (fun e => e.id != d.id),
                     prods := [⟨q.id, p.steps, d.attempt + 1, d.shift, [], [], [], .zero, true, [], [],
                       (p.fedArrays en).foldl (fun a i => a + 2 ^ i) 0, false⟩] })
          stepSettle s c

def execScaledRetry (c : Core) (s : State) : Out := .next (if coreRuns s c then scaledRetry s c else s)

/-- ACC_CLOSE: an accumulation that is closing closes once every fired product of its owner has completed (R71). -/
def accClose (s : State) (c : Nat) : State :=
  let k := coreOf s c
  match k.accOwner with
  | some x =>
    if k.accClosing && !k.opeQ.any (fun q => q.fired && q.ctx == x) then
      setCore s c { k with acc := [], accBad := [], accOwner := none, accClosing := false, accTask := false }
    else s
  | none => s

def execAccClose (c : Core) (s : State) : Out := .next (if domOn s c then accClose s c else s)

/-! ## Random sources (04_numerics.md R115, R116, R119) -/

/-- The page of a block with random sources. -/
def srPage : SrBlock → Nat
  | .core c => pgCore c
  | .coll p => pgColl p
  | .opt p => pgOpt p

/-- The tests of a block start. -/
def katStart (s : State) (page : Nat) : State :=
  if page / 1024 = 1 then startKat s (page % 1024)
  else { s with katPages := if s.katPages.contains page then s.katPages else s.katPages ++ [page] }

/-- A write of NUM_CTL: RETRY_SHIFT, where 0 sets 4, and a test where SR_KAT_RUN is written 1. -/
def numCtlWrite (s : State) (page : Nat) (v : Word) (own : Bool) : State :=
  let s := fieldWrite s page R_NUM_CTL (if bits v 3 0 = 0 then setBits v 3 0 4 else v) own false
  if bitAt v 16 then katStart s page else s

def execSrKatRun (mid : Mid) (block : SrBlock) (value : Word) (s : State) : Out :=
  .next (guardWrite s mid.toNat (srPage block) R_NUM_CTL value (fun s => numCtlWrite s (srPage block) value true))

/-- A source of a core passes its test and returns to service. -/
def sourcePass (s : State) (c i : Nat) : State :=
  let s := modCore s c (fun k =>
    if i < 8 then { k with arrFail := if k.arrFail.testBit i then k.arrFail - 2 ^ i else k.arrFail }
    else if i = 8 then { k with vecFail := false } else { k with strFail := false })
  let k := coreOf s c
  if k.arrFail = 0 ∧ !k.vecFail ∧ !k.strFail then clearFlag s (pgCore c) 7 else s

/-- The source of a Panel engine fails (R116). -/
def pageSrFail (s : State) (pg : Nat) : State :=
  let s := { s with srFailed := if s.srFailed.contains pg then s.srFailed else s.srFailed ++ [pg] }
  bump (setDegraded (wrB s (reg pg R_NUM_CTL) 4 false) pg 7) pg R_NUM_SR_FAIL_CNT

/-- SR_KAT_DONE: source `source` of a block ends its test. -/
def katDone (s : State) (b : SrBlock) (source : Nat) (pass : Bool) : State :=
  match b with
  | .core c =>
    if !(coreOf s c).katRunning.contains source then s
    else
      let s := modCore s c (fun k => { k with katRunning := k.katRunning.filter (fun i => i != source) })
      let s := if pass then sourcePass s c source else sourceFail s c source
      let k := coreOf s c
      if k.katRunning = [] then
        wrB s (kCore c R_NUM_CTL) 4 (k.arrFail == 0 && !k.vecFail && !k.strFail)
      else s
  | _ =>
    let pg := srPage b
    if !s.katPages.contains pg ∨ source ≠ 0 then s
    else
      let s := { s with katPages := s.katPages.filter (fun x => x != pg) }
      if pass then clearFlag (wrB { s with srFailed := s.srFailed.filter (fun x => x != pg) } (reg pg R_NUM_CTL) 4 true) pg 7
      else pageSrFail s pg

def execSrKatDone (block : SrBlock) (source : Nat) (pass : Bool) (s : State) : Out :=
  .next (if pageOn s (srPage block) then katDone s block source pass else s)

/-- NUM_STEP of a core: the step index, and DRAW_SEQ cleared in every context (R101). -/
def numStepSet (s : State) (c : Nat) (v : Word) : State :=
  (List.range 8).foldl (fun s x => wr s (kCtx c x R_CTX_SEQ) 0) (wr s (kCore c R_NUM_STEP) v)

def execNumStepWrite (mid : Mid) (c : Core) (value : Word) (s : State) : Out :=
  .next (guardWrite s mid.toNat (pgCore c) R_NUM_STEP value (fun s => numStepSet s c value))

end Sys2Proof.Machine
end

