-- ==== Sys2Proof/Machine/Wire.lean ====
section
/-! DEFINITION. Frames on the wire: the Wyist header, nonce and tag, the start word, and the deficit round-robin of a port (12_wyist_links.md R315, R318 to R320, R325). -/
namespace Sys2Proof.Machine

/-! ## Header, nonce and tag (R318, R319) -/

/-- The 56-byte header, laid out as Table: Wyist header; its reserved bits are 0. -/
def wyHeader (f : WFrame) : BitVec 448 :=
  BitVec.ofNat 448 (f.type % 2 ^ 4 + f.cls % 4 * 2 ^ 4 + (if f.mcast then 2 ^ 6 else 0) + f.len % 2 ^ 10 * 2 ^ 8 + f.opc % 4 * 2 ^ 18 + f.ver % 2 ^ 4 * 2 ^ 24
    + f.srcRank % 2 ^ 16 * 2 ^ 32 + f.dst % 2 ^ 16 * 2 ^ 48 + f.seq % 2 ^ 64 * 2 ^ 64 + f.xseq % 2 ^ 64 * 2 ^ 128 + f.ackSeq % 2 ^ 64 * 2 ^ 192
    + f.sack % 2 ^ 32 * 2 ^ 256 + f.credit % 2 ^ 16 * 2 ^ 288 + f.repoch % 2 ^ 8 * 2 ^ 304 + f.epoch % 2 ^ 8 * 2 ^ 312 + f.addr % 2 ^ 64 * 2 ^ 320
    + f.attr % 2 ^ 64 * 2 ^ 384)

/-- The bytes of the header, little-endian. -/
def headerBytes (f : WFrame) : List Byte := (List.range 56).map (fun i => BitVec.ofNat 8 (bits (wyHeader f) (8 * i + 7) (8 * i)))

/-- The 96-bit nonce: SRC_RANK, REPOCH, CLASS and XSEQ. -/
def wyNonce (f : WFrame) : BitVec 96 :=
  BitVec.ofNat 96 (f.xseq % 2 ^ 64 + f.cls % 4 * 2 ^ 64 + f.repoch % 2 ^ 8 * 2 ^ 72 + f.srcRank % 2 ^ 16 * 2 ^ 80)

/-- The tag that a key makes of a frame. -/
def gcmTag (k : LinkKey) (f : WFrame) : GcmTag := ⟨k, wyNonce f, headerBytes f, f.payload⟩

/-- A frame with the tag of a key. -/
def sealTag (k : Option LinkKey) (f : WFrame) : WFrame := { f with tag := k.map (fun k => gcmTag k f) }

/-- Does the tag of a frame verify under a key? -/
def tagOk (k : Option LinkKey) (f : WFrame) : Bool := match k with
  | none => false
  | some k => f.tag == some (gcmTag k f)

/-! ## On the wire (R315, R320, R321) -/

/-- WORDS of a frame in native mode: the start word, the header, the payload padded to words, the tag. -/
def frameWords8 (f : WFrame) : Nat := 1 + 7 + (f.len + 7) / 8 + 2

/-- The bytes of port time of a payload (R315). -/
def portBytes (native : Bool) (len : Nat) : Nat := if native then (len + 80 + 7) / 8 * 8 else len + 114

/-- What stands before a frame that leaves port `p` for an address: LINK_MAC, the class's PCP with DEI 0 and the VID of LINK_QTAG, EtherType 0x88B5; or a start word of KIND 1. -/
def wireHead (s : State) (p dst : Nat) (f : WFrame) : WireHead :=
  if rdB s (reg (pgPort p) R_LINK_STATUS) 3 then .start (w64 (dst % 2 ^ 48 + frameWords8 f * 2 ^ 48 + 2 ^ 58))
  else
    let q := reg (pgPort p) R_LINK_QTAG
    .eth (BitVec.ofNat 48 dst) (BitVec.ofNat 48 (rdF s (reg (pgPort p) R_LINK_MAC) 47 0))
      [(0x8100, BitVec.ofNat 16 (rdF s q (16 + 4 * (f.cls % 4) + 2) (16 + 4 * (f.cls % 4)) * 2 ^ 13 + rdF s q 11 0))] 0x88B5

/-- Is an address a locally administered group address for port `p` (R334)? -/
def groupAddr (a p : Nat) : Bool := a.testBit 41 && a.testBit 40 && a % 16 == p

/-- The destination address of a received frame. -/
def headDst : WireHead → Nat
  | .eth dst _ _ _ => dst.toNat
  | .start w => bits w 47 0

/-- Did a frame come to the port's own address? -/
def headOwn (s : State) (p : Nat) (h : WireHead) : Bool := headDst h == rdF s (reg (pgPort p) R_LINK_MAC) 47 0

/-- Tag, EtherType and destination address, or start word and destination address, of a frame that port `p` takes (R316, R320, R321): one 802.1Q tag with the port's VID; KIND 1 and
the frame's own length. A group address is one of R334 with the port's number, since a member entry names no address (DEDUCED, log entry 123). -/
def headOk (s : State) (p : Nat) (h : WireHead) (f : WFrame) : Bool :=
  let native := rdB s (reg (pgPort p) R_LINK_STATUS) 3
  (headOwn s p h || groupAddr (headDst h) p) && match h with
    | .eth _ _ tags t => !native && t == 0x88B5 && tags.length == 1
        && tags.all (fun g => g.1 == 0x8100 && g.2.toNat % 2 ^ 12 == rdF s (reg (pgPort p) R_LINK_QTAG) 11 0)
    | .start w => native && bits w 63 58 == 1 && bits w 57 48 == frameWords8 f

/-! ## Deficit round-robin (R325) -/

def drrOf (s : State) (p : Nat) : DrrSt := tabGet (fun _ => DrrSt.rst) s.drr p
def setDrr (s : State) (p : Nat) (v : DrrSt) : State := { s with drr := tabSet (fun _ => DrrSt.rst) s.drr p v }

/-- The class after `c` in turn: COLLECTIVE, SNAPSHOT, INGEST. -/
def drrNext (c : Nat) : Nat := if c = 0 then 2 else if c = 2 then 3 else 0

/-- The bytes a class may send in a turn: 64 times its weight, 0 acting as 1. The spec gives the ratio, not the unit (DESIGN CHOICE, log entry 123). -/
def drrQuantum (s : State) (p c : Nat) : Nat :=
  let w := rd s (reg (pgLink (p / 4)) R_LNK_TX_WEIGHT)
  64 * max 1 (if c = 0 then bits w 7 0 else if c = 2 then bits w 15 8 else bits w 23 16)

/-- The turn: a class with nothing to send gives its bytes up; one whose bytes suffice for its frame has the turn; else the next class gets its share. -/
def drrGo (share : Nat → Nat) (need : Nat → Option Nat) : Nat → DrrSt → DrrSt × Option Nat
  | 0, d => (d, none)
  | n + 1, d =>
    let nx := drrNext d.cur
    let have' := fun (t : Tab Nat) (c : Nat) => tabGet (fun _ => 0) t c
    match need d.cur with
    | none =>
      let b := tabSet (fun _ => 0) d.bytes d.cur 0
      drrGo share need n ⟨nx, tabSet (fun _ => 0) b nx (have' b nx + share nx)⟩
    | some k =>
      if k ≤ have' d.bytes d.cur then (d, some d.cur)
      else drrGo share need n ⟨nx, tabSet (fun _ => 0) d.bytes nx (have' d.bytes nx + share nx)⟩

end Sys2Proof.Machine
end

