-- ==== Sys2Proof/Machine/Link.lean ====
section
/-! DEFINITION. Ports, partners, credits, sequence numbers, retransmission, groups and the credit audit (12_wyist_links.md R314 to
R349). -/
namespace Sys2Proof.Machine

/-! ## Parts -/

def ptrOf (s : State) (e : Nat) : Partner := tabGet (fun _ => Partner.rst) s.partners e
def setPtr (s : State) (e : Nat) (v : Partner) : State := { s with partners := tabSet (fun _ => Partner.rst) s.partners e v }
def modPtr (s : State) (e : Nat) (f : Partner → Partner) : State := setPtr s e (f (ptrOf s e))
def grpOf (s : State) (g : Nat) : GroupSt := tabGet (fun _ => GroupSt.rst) s.groups g
def setGrp (s : State) (g : Nat) (v : GroupSt) : State := { s with groups := tabSet (fun _ => GroupSt.rst) s.groups g v }
def modGrp (s : State) (g : Nat) (f : GroupSt → GroupSt) : State := setGrp s g (f (grpOf s g))

/-- A number by key in a partner's tables, unlisted 0. -/
def nGet (t : Tab Nat) (k : Nat) : Nat := tabGet (fun _ => 0) t k
def nSet (t : Tab Nat) (k v : Nat) : Tab Nat := tabSet (fun _ => 0) t k v

/-- Entry e is at sub-page e >> 4, offset 0x800 + 128 * (e & 15) (R348). -/
abbrev kPtr (e off : Nat) : Nat := reg (pgPartner (e / 16)) (off + 128 * (e % 16))
/-- Group g is at sub-page g >> 4, offset 0x800 + 64 * (g & 15). -/
abbrev kGrp (g off : Nat) : Nat := reg (pgGroup (g / 16)) (off + 64 * (g % 16))
/-- Leg l is at sub-page l >> 8, offset 0x800 + 8 * (l & 255). -/
abbrev kLeg (l : Nat) : Nat := reg (pgLeg (l / 256)) (R_Leg_entry + 8 * (l % 256))
abbrev kPort (p off : Nat) : Nat := reg (pgPort p) off
abbrev kLnk (p off : Nat) : Nat := reg (pgLink p) off

def ptrPanel (e : Nat) : Nat := e / 1024
def grpPanel (g : Nat) : Nat := g / 64
def ptrValid (s : State) (e : Nat) : Bool := rdB s (kPtr e R_PTR_CFG0) 63
/-- STATE as stored: 0 INVALID, 1 loaded, 3 DEAD, 4 AUDIT; UNREACHABLE follows from the ports. -/
def ptrState (s : State) (e : Nat) : Nat := rdF s (kPtr e R_PTR_STATE) 2 0
def ptrRank (s : State) (e : Nat) : Nat := rdF s (kPtr e R_PTR_CFG1) 55 40
def ptrEpoch (s : State) (e : Nat) : Nat := rdF s (kPtr e R_PTR_CFG1) 63 56
def grantOf (s : State) (e c : Nat) : Nat := rdF s (kPtr e R_PTR_CFG1) (10 * c + 9) (10 * c)
def selfRank (s : State) (p : Nat) : Nat := rdF s (kLnk p R_LNK_SELF_RANK) 15 0
def ptrFrozen (s : State) (e : Nat) : Bool := rdB s (kPtr e R_PTR_STATE) 3
def txSeq (s : State) (e c : Nat) : Nat := (rd s (kPtr e (R_PTR_TX_SEQ0 + 8 * c))).toNat
def rxSeq (s : State) (e c : Nat) : Nat := (rd s (kPtr e (R_PTR_RX_SEQ0 + 8 * c))).toNat
def grpSeq (s : State) (g : Nat) : Nat := (rd s (kGrp g R_GRP_SEQ)).toNat
def grpValid (s : State) (g : Nat) : Bool := rdB s (kGrp g R_GRP_CFG) 63
def grpRoot (s : State) (g : Nat) : Bool := rdB s (kGrp g R_GRP_CFG) 62
def grpClass (s : State) (g : Nat) : Nat := rdF s (kGrp g R_GRP_CFG) 61 60

/-- The link block of a Panel runs: its domain is ON and it has not frozen itself (R24). -/
def linkUp (s : State) (p : Nat) : Bool := domOn s (40 + p) && !s.breached.contains (pgLink p)

/-- Time of an entry's Panel: HEM_REFCNT of its service processor Hem (R332). -/
def linkNow (s : State) (p : Nat) : Nat := refcnt s (25 + p)

/-- The entries of a Panel that are loaded. -/
def panelEntries (s : State) (p : Nat) : List Nat := ((List.range 1024).map (fun i => 1024 * p + i)).filter (ptrValid s)

/-- Credits outstanding and available of an entry and class (R328). -/
def outstanding (s : State) (e c : Nat) : Nat := (nGet (ptrOf s e).sent c + 65536 - nGet (ptrOf s e).credit c) % 65536
def avail (s : State) (e c : Nat) : Nat := grantOf s e c - outstanding s e c

/-! ## Ports (R324, R338) -/

def portState (s : State) (p : Nat) : Nat := rdF s (kPort p R_LINK_STATUS) 2 0
/-- The port is UP, and not frozen under R24. -/
def portUp (s : State) (p : Nat) : Bool := domOn s (40 + p / 4) && portState s p == 4 && !blockHeld s (pgPort p)

/-- Does the port receive: it is UP, and the clock of its Hem runs with no resynchronisation under way (02_handshake_time.md R52, R54, R56; log entry 125)? -/
def portHears (s : State) (p : Nat) : Bool := portUp s p && !hemHeld s (8 + p)

/-- The ports usable for an entry. -/
def usable (s : State) (e : Nat) : List Nat :=
  (List.range 16).filter (fun i => rdB s (kPtr e R_PTR_CFG0) (44 + i) && rdB s (kPtr e R_PTR_STATE) (8 + i) && portUp s i)

/-- May a port start a frame of class `c`: CONTROL frames not while it is paused (R317)? -/
def portStarts (s : State) (c i : Nat) : Bool := c != 1 || !rdB s (kPort i R_LINK_STATUS) 6

/-- The usable ports that may start a frame of class `c`. -/
def startPorts (s : State) (e c : Nat) : List Nat := (usable s e).filter (portStarts s c)

/-- The next port in round-robin order at or after `n`. -/
def nextPort (ports : List Nat) (n : Nat) : Option Nat :=
  match ports.find? (fun i => decide (n ≤ i)) with
  | some i => some i
  | none => ports.head?

/-- STATE of PTR_STATE as it reads: an entry with no usable port is UNREACHABLE (R333). -/
def ptrStateRead (s : State) (e : Nat) : Nat := if ptrState s e = 1 ∧ usable s e = [] then 2 else ptrState s e

/-! ## Sending (R318, R319, R325, R331) -/

/-- A frame leaves on port `p` for an address; while the clock of the port's Hem is stopped, or its crossing resynchronises, it waits before the Hem (02_handshake_time.md R52). -/
def emitFrame (s : State) (p dst : Nat) (f : WFrame) : State :=
  let k : WirePkt := ⟨p, wireHead s p dst f, f⟩
  let s := bump s (pgPort p) R_LINK_TX_FRAME_CNT
  if hemHeld s (8 + p) then { s with wireHeld := s.wireHeld ++ [k] } else { s with wire := s.wire ++ [k] }

/-- The address of a partner on port `p`: FA_BASE x 16 + p (R324). -/
def ptrAddr (s : State) (e p : Nat) : Nat := rdF s (kPtr e R_PTR_CFG0) 43 0 * 16 + p

/-- The address of a group's frames on port `p`: GRP_ADDR with the number of the sending port in its bits [3:0] (R334). -/
def grpAddr (s : State) (g p : Nat) : Nat := rdF s (kGrp g R_GRP_ADDR) 47 4 * 16 + p

/-- SACK: bit i for frame `ack + 1 + i` held. -/
def sackOf (held : List RxSlot) (ack : Nat) : Nat :=
  (List.range 32).foldl (fun a i => if held.any (fun h => h.f.seq == ack + 1 + i) then a + 2 ^ i else a) 0

/-- Held frames of a unicast class. -/
def heldCls (s : State) (e c : Nat) : List RxSlot := (ptrOf s e).held.filter (fun h => h.f.cls == c)

/-- The header and key of a unicast frame of entry `e`, around an operation. -/
def sealFrame (s : State) (e : Nat) (f : WFrame) (type seq : Nat) : WFrame :=
  let c := f.cls % 4
  let q := ptrOf s e
  sealTag q.key { f with type := type, cls := c, mcast := false, ver := 1, srcRank := selfRank s (ptrPanel e), dst := ptrRank s e, seq := seq,
                         xseq := nGet q.xseq c, ackSeq := rxSeq s e c, sack := sackOf (heldCls s e c) (rxSeq s e c), credit := nGet q.freed c,
                         repoch := 0, epoch := ptrEpoch s e }

/-- A frame of entry `e`, sealed, leaves on `port`: the next XSEQ is taken, its acknowledgement is given, and the window has a
frame. -/
def sendFrame (s : State) (e port : Nat) (f : WFrame) : State :=
  let c := f.cls
  let s := modPtr s e (fun q => { q with xseq := nSet q.xseq c (nGet q.xseq c + 1), since := nSet q.since c 0 })
  emitFrame (modPtr s e (fun q => { q with next := nSet q.next c (port + 1), winSent := true })) port (ptrAddr s e port) f

/-- An operation without contents, of class `c`. -/
def bareFrame (c attr : Nat) : WFrame := ⟨0, c, false, 0, 0, 1, 0, 0, 0, 0, 0, 0, 0, 0, 0, 0, attr, [], none⟩

/-- May an entry send? -/
def maySend (s : State) (e : Nat) : Bool := linkUp s (ptrPanel e) && ptrValid s e && ptrState s e == 1 && (ptrOf s e).key.isSome

/-- A standalone control frame of entry `e` in class `c`: on `port`, else on the next port in turn. -/
def sendCtl (s : State) (e c type attr : Nat) (port : Option Nat) : State :=
  if !maySend s e then s
  else
    let on := match port with
      | some p => if portUp s p && portStarts s c p then some p else none
      | none => nextPort (startPorts s e c) (nGet (ptrOf s e).next c)
    match on with
    | none => s
    | some p => sendFrame s e p (sealFrame s e (bareFrame c attr) type 0)

/-! ## Groups, sending (R334 to R337) -/

/-- The next group XSEQ of class `c`: one counter for the module, in Panel 0's page (R335). -/
def takeGrpXseq (s : State) (c : Nat) : State × Nat :=
  let k := kLnk 0 (R_LNK_GRP_XSEQ + 8 * c)
  (wr s k (rd s k + 1), (rd s k).toNat)

/-- A frame under a group's key, with the pair epoch of entry `e`. -/
def sealGroup (s : State) (g e : Nat) (f : WFrame) (type seq xseq dst ackSeq sack credit : Nat) : WFrame :=
  sealTag (grpOf s g).key { f with type := type, cls := grpClass s g, mcast := true, ver := 1, srcRank := selfRank s (grpPanel g), dst := dst, seq := seq,
                                   xseq := xseq, ackSeq := ackSeq, sack := sack, credit := credit,
                                   repoch := rdF s (kLnk (grpPanel g) R_LNK_SELF_RANK) 23 16, epoch := ptrEpoch s e }

/-- The entry of a root group's first leg: the frames for every leg carry its pair epoch and no CREDIT, since one header goes to partners with epochs and counts of
their own; a member takes neither from a frame sent to the group address (DESIGN CHOICE, log entry 124). -/
def firstLeg (s : State) (g : Nat) : Nat := (((grpOf s g).legs.map (fun l => l.entry)).head?).getD 0

/-- The ports a group's frames use: UP ports in the mask of every leg's entry (log entry 63). -/
def grpPorts (s : State) (g : Nat) : List Nat :=
  (List.range 16).filter (fun i => portUp s i && (grpOf s g).legs.all (fun l => rdB s (kPtr l.entry R_PTR_CFG0) (44 + i)))

/-- Those of them that may start a frame of the group's class (R317). -/
def grpStarts (s : State) (g : Nat) : List Nat := (grpPorts s g).filter (portStarts s (grpClass s g))

/-! ## The replay region (R332, R337, R339) -/

/-- The slots of a Panel's replay region that hold frames. -/
def replayUsed (s : State) (p : Nat) : List Nat :=
  (s.partners.filter (fun e => ptrPanel e.1 == p)).flatMap (fun e => e.2.unacked.map (fun t => t.slot))
    ++ (s.groups.filter (fun g => grpPanel g.1 == p)).flatMap (fun g => g.2.retained.map (fun t => t.slot))

/-- The slot a new frame takes: the lowest that is free. The spec names none (DESIGN CHOICE, log entry 70). -/
def replaySlot (s : State) (p : Nat) : Nat :=
  let used := replayUsed s p
  ((List.range (used.length + 1)).find? (fun i => !used.contains i)).getD 0

/-- The address of a slot, from LNK_REPLAY_BASE. -/
def replayAddr (s : State) (p slot : Nat) : Nat := rdF s (kLnk p R_LNK_REPLAY_BASE) 63 12 * 4096 + 512 * slot

/-- Does a span lie in scratchpad of the Panel's own LLC slice? -/
def replayIn (s : State) (p a n : Nat) : Bool := regionOf a == .llcWin p && oneRegion a n && (linesOf a n).all (scratchOk s)

/-- The payload of a frame is kept in its slot. -/
def replayPut (s : State) (p slot : Nat) (b : List Byte) : State :=
  if b ≠ [] ∧ replayIn s p (replayAddr s p slot) b.length then storeMem s (replayAddr s p slot) b false else s

/-- The frame as the region holds it: its payload is read again from its slot. Where the registers name no scratchpad of the Panel, the spec says nothing of the frame: it is
as it was sent (DESIGN CHOICE, log entry 70). -/
def replayGet (s : State) (p slot : Nat) (f : WFrame) : State × WFrame :=
  let n := f.payload.length
  if f.payload ≠ [] ∧ replayIn s p (replayAddr s p slot) n then
    let r := readMem s (replayAddr s p slot) n false false
    (r.st, { f with payload := r.bytes })
  else (s, f)

/-- A member's ACK or NACK of a group stream: MCAST 1, DST the root's group number. -/
def sendGrpCtl (s : State) (g type : Nat) : State :=
  let e := rdF s (kGrp g R_GRP_CFG) 31 20
  let c := grpClass s g
  match nextPort (startPorts s e c) (nGet (ptrOf s e).next c) with
  | none => s
  | some p =>
    if !maySend s e then s
    else
      let x := takeGrpXseq s c
      let s := x.1
      let f := sealGroup s g e (bareFrame c 0) type 0 x.2 (rdF s (kGrp g R_GRP_CFG) 19 12) (grpSeq s g)
        (sackOf (grpOf s g).held (grpSeq s g)) (nGet (ptrOf s e).freed c)
      let s := modGrp (modPtr s e (fun q => { q with next := nSet q.next c (p + 1), winSent := true })) g (fun t => { t with since := 0 })
      emitFrame s p (ptrAddr s e p) f

/-- A retained frame goes to one leg as unicast, on a usable port other than the one last used where one exists. -/
def sendLeg (s : State) (g l : Nat) (t : GTx) (retx nack : Bool) : State :=
  match (grpOf s g).legs[l]? with
  | none => s
  | some leg =>
    let e := leg.entry
    let c := grpClass s g
    let last := (t.legs.find? (fun q => q.1 == l)).map (fun q => q.2.port)
    let ports := startPorts s e c
    let others := ports.filter (fun i => some i != last)
    match nextPort (if retx ∧ others ≠ [] then others else ports) (nGet (ptrOf s e).next c) with
    | none => s
    | some p =>
      if !maySend s e then s
      else
        let r := replayGet s (grpPanel g) t.slot t.f
        let x := takeGrpXseq r.1 c
        let now := linkNow s (grpPanel g)
        let f := sealGroup x.1 g e r.2 0 t.f.seq x.2 g 0 0 (nGet (ptrOf s e).freed c)
        let s := modGrp x.1 g (fun q => { q with retained := q.retained.map (fun r =>
          if r.f.seq = t.f.seq then { r with legs := r.legs.map (fun z =>
            if z.1 = l then (l, ⟨f, p, now, if nack then some now else z.2.nackAt, t.slot⟩) else z) } else r) })
        let s := modPtr s e (fun q => { q with next := nSet q.next c (p + 1), winSent := true })
        let s := if retx then bump s (pgLink (ptrPanel e)) R_LNK_RETX_CNT else s
        emitFrame s p (ptrAddr s e p) f

/-- A first transmission takes a credit of entry `e`. -/
def takeCredit (s : State) (e c : Nat) : State :=
  modPtr s e (fun q => { q with sent := nSet q.sent c ((nGet q.sent c + 1) % 65536),
                                credTimes := q.credTimes ++ [(c, linkNow s (ptrPanel e))] })

/-- Serve a detached leg: the retained frames not yet sent to it go out while its entry has credits (R336). -/
def serveLeg : Nat → State → Nat → Nat → State
  | 0, s, _, _ => s
  | fuel + 1, s, g, l =>
    match (grpOf s g).legs[l]? with
    | none => s
    | some leg =>
      if leg.attached ∨ avail s leg.entry (grpClass s g) = 0 ∨ !maySend s leg.entry ∨ startPorts s leg.entry (grpClass s g) = [] then s
      else match (grpOf s g).retained.find? (fun t => decide (leg.sent ≤ t.f.seq) && t.legs.any (fun q => q.1 == l)) with
        | none => s
        | some t =>
          let s := takeCredit s leg.entry (grpClass s g)
          let s := modGrp s g (fun q => { q with legs := modNth (fun (z : LegSt) => { z with sent := t.f.seq + 1 }) q.legs l })
          serveLeg fuel (sendLeg s g l t false false) g l

/-- The highest ACK_SEQ among a group's attached legs. -/
def leadAck (t : GroupSt) : Nat := (t.legs.filter (fun l => l.attached)).foldl (fun a l => max a l.ack) 0

/-- The lag of a leg. -/
def legLag (t : GroupSt) (l : LegSt) : Nat := leadAck t - l.ack

/-- LAG_LIMIT; 0 acts as 16. -/
def lagLimit (s : State) (g : Nat) : Nat := let n := rdF s (kGrp g R_GRP_CFG) 59 52; if n = 0 then 16 else n

/-- A leg detaches: its unacknowledged frames that were sent go out again as unicast (R336). -/
def detachLeg (s : State) (g l : Nat) : State :=
  let s := bump s (pgLink (grpPanel g)) R_DETACHED_LEGS_CNT
  let s := modGrp s g (fun q => { q with legs := modNth (fun (z : LegSt) => { z with attached := false, sent := grpSeq s g }) q.legs l })
  let todo := (grpOf s g).retained.filter (fun t => t.legs.any (fun q => q.1 == l))
  todo.foldl (fun s t => sendLeg s g l t true false) s

/-- Detach and reattach legs as their lags stand. -/
def judgeLegs (s : State) (g : Nat) : State :=
  (List.range (grpOf s g).legs.length).foldl (fun s l =>
    match (grpOf s g).legs[l]? with
    | none => s
    | some leg =>
      if leg.attached then (if lagLimit s g ≤ legLag (grpOf s g) leg then detachLeg s g l else s)
      else if legLag (grpOf s g) leg = 0 ∧ (grpPorts s g).all (fun i => (usable s leg.entry).contains i) then
        bump (modGrp s g (fun q => { q with legs := modNth (fun (z : LegSt) => { z with attached := true }) q.legs l }))
          (pgLink (grpPanel g)) R_LNK_REATTACH_CNT
      else s) s

/-- Serve every detached leg of a group. -/
def serveLegs (s : State) (g : Nat) : State :=
  (List.range (grpOf s g).legs.length).foldl (fun s l => serveLeg 1024 s g l) s

/-! ## Acknowledgements (R328, R329, R332, R333) -/

/-- Credits come back: the highest CREDIT received, modulo 65536; each returned credit gives a round-trip sample. -/
def creditIn (s : State) (e c credit : Nat) : State :=
  let q := ptrOf s e
  let d := (credit + 65536 - nGet q.credit c) % 65536
  if d = 0 ∨ outstanding s e c < d then s
  else
    let mine := (q.credTimes.filter (fun t => t.1 == c)).take d
    let keep := (q.credTimes.filter (fun t => t.1 == c)).drop d ++ q.credTimes.filter (fun t => t.1 != c)
    let sum := mine.foldl (fun a t => a + (linkNow s (ptrPanel e) - t.2)) 0
    let s := setPtr s e { q with credit := nSet q.credit c (credit % 65536), credTimes := keep }
    bumpN (bumpN s (pgLink (ptrPanel e)) R_LNK_CRED_RTT_SUM sum) (pgLink (ptrPanel e)) R_LNK_CRED_RTT_CNT d

/-- Does an acknowledgement cover sequence number `seq`? -/
def covers (ackSeq sack seq : Nat) : Bool := decide (seq < ackSeq) || (decide (ackSeq < seq) && sack.testBit (seq - ackSeq - 1))

/-- A frame acknowledged on a port clears the port's count of reports. -/
def clearReports (s : State) (e : Nat) (ports : List Nat) : State :=
  modPtr s e (fun q => { q with reports := ports.foldl (fun t i => nSet t i 0) q.reports })

/-- RETX_LIMIT; 0 acts as 1. -/
def retxLimit (s : State) (p : Nat) : Nat := max (rdF s (kLnk p R_LNK_CFG) 27 24) 1

/-- A report of frames missing on a port (R333). -/
def reportPort (s : State) (e i : Nat) : State :=
  let n := nGet (ptrOf s e).reports i + 1
  let s := modPtr s e (fun q => { q with reports := nSet q.reports i n })
  if retxLimit s (ptrPanel e) ≤ n then wrB s (kPtr e R_PTR_STATE) (8 + i) false else s

/-- The mirror's header frame has been acknowledged: the mirror is written. -/
def mirrorSettle (s : State) : State :=
  match s.mirHeader with
  | none => s
  | some (e, a) =>
    if s.outbox.any (fun o => !o.1 && o.2.1 == e && o.2.2.cls == 2 && o.2.2.addr == a)
        || (ptrOf s e).unacked.any (fun t => t.f.cls == 2 && t.f.addr == a) then s
    else
      bump ((List.range 4).foldl (fun s p => wrB s (reg (pgRec p) R_REC_STATUS) 3 false) { s with mirHeader := none })
        (pgRec 0) R_REC_MIRROR_CNT

/-- The snapshot and mirror under way settle (14_recovery.md R382): the mirror is acknowledged once its header frame is neither
waiting nor unacknowledged; with all local slots sealed as well, SNAP_DONE sets. `sealDue` holds the Panels still to seal, and 4
while a snapshot is open. -/
def snapSettle (s : State) : State :=
  let s := mirrorSettle s
  if s.sealDue = [4] ∧ !rdB s (reg (pgRec 0) R_REC_STATUS) 3 then
    (List.range 4).foldl (fun s p => wrB s (reg (pgRec p) R_REC_STATUS) 2 true) { s with sealDue := [] }
  else s

/-- The acknowledgement fields of a unicast frame of the partner. -/
def ackIn (s : State) (e : Nat) (f : WFrame) : State :=
  let c := f.cls
  let s := creditIn s e c f.credit
  let hit := fun (t : TxFrame) => t.f.cls == c && covers f.ackSeq f.sack t.f.seq
  let q := ptrOf s e
  let s := setPtr s e { q with unacked := q.unacked.filter (fun t => !hit t) }
  snapSettle (clearReports s e ((q.unacked.filter hit).map (fun t => t.port)))

/-- The distinct elements of a list. -/
def dedup : List Nat → List Nat
  | [] => []
  | a :: l => if l.contains a then dedup l else a :: dedup l

/-- Retransmit a unicast frame on a usable port other than the last used, where one exists. -/
def retransmit (s : State) (e : Nat) (t : TxFrame) (nack : Bool) : State :=
  let c := t.f.cls
  let ports := startPorts s e c
  let others := ports.filter (fun i => i != t.port)
  match nextPort (if others = [] then ports else others) (nGet (ptrOf s e).next c) with
  | none => s
  | some p =>
    if !maySend s e then s
    else
      let now := linkNow s (ptrPanel e)
      let r := replayGet s (ptrPanel e) t.slot t.f
      let s := r.1
      let f := sealFrame s e r.2 0 t.f.seq
      let s := modPtr s e (fun q => { q with unacked := q.unacked.map (fun u =>
        if u.f.cls = c ∧ u.f.seq = t.f.seq then ⟨f, p, now, if nack then some now else u.nackAt, u.slot⟩ else u) })
      sendFrame (bump s (pgLink (ptrPanel e)) R_LNK_RETX_CNT) e p f

/-- One above the sequence number of the highest SACK bit; 0 with none. -/
def sackTop (f : WFrame) : Nat := if f.sack = 0 then 0 else f.ackSeq + 1 + Nat.log2 f.sack

/-- RETX_TIMEOUT in ns; 0 acts as 1 us. -/
def retxTimeout (s : State) (p : Nat) : Nat := 1000 * max (rdF s (kLnk p R_LNK_CFG) 23 8) 1

/-- Was a frame retransmitted for a NACK within RETX_TIMEOUT / 4? -/
def nackRecent (s : State) (p : Nat) (t : TxFrame) : Bool :=
  match t.nackAt with
  | none => false
  | some a => decide (linkNow s p - a < retxTimeout s p / 4)

/-- The frames a unicast NACK reports missing are retransmitted, and their ports reported. -/
def nackIn (s : State) (e : Nat) (f : WFrame) : State :=
  let lost := (ptrOf s e).unacked.filter (fun t => t.f.cls == f.cls && decide (t.f.seq < sackTop f))
  let s := (dedup (lost.map (fun t => t.port))).foldl (fun s i => reportPort s e i) s
  lost.foldl (fun s t => if nackRecent s (ptrPanel e) t then s else retransmit s e t true) s

/-- The leg of root group `g` whose entry is `e`. -/
def legOf (s : State) (g e : Nat) : Option Nat :=
  (List.range (grpOf s g).legs.length).find? (fun l => ((grpOf s g).legs[l]?).any (fun z => z.entry == e))

/-- The last port a retained frame took toward a leg. -/
def legPort (t : GTx) (l : Nat) : Nat := match t.legs.find? (fun q => q.1 == l) with
  | some q => q.2.port
  | none => t.port

/-- A frame of leg `l` that a NACK names is sent to the leg again, unless it was for a recent NACK. -/
def resendLeg (s : State) (g l e : Nat) (t : GTx) : State :=
  match t.legs.find? (fun q => q.1 == l) with
  | some q => if nackRecent s (ptrPanel e) q.2 then s else sendLeg s g l t true true
  | none => s

/-- A leg's ACK_SEQ, XSEQ and the retained frames it acknowledges. -/
def legAcked (s : State) (g l e : Nat) (f : WFrame) : State :=
  let s := creditIn s e f.cls f.credit
  let hit := fun (t : GTx) => covers f.ackSeq f.sack t.f.seq && t.legs.any (fun q => q.1 == l)
  let s := clearReports s e (((grpOf s g).retained.filter hit).map (fun t => legPort t l))
  let s := modGrp s g (fun q => { q with legs := modNth (fun (z : LegSt) => { z with ack := max z.ack f.ackSeq, xhi := f.xseq + 1 }) q.legs l })
  let drop := fun (t : GTx) => if hit t then { t with legs := t.legs.filter (fun z => z.1 != l) } else t
  modGrp s g (fun q => { q with retained := (q.retained.map drop).filter (fun t => t.legs != []) })

/-- The frames of leg `l` that a NACK leaves open. -/
def legLost (s : State) (g l : Nat) (f : WFrame) : List GTx :=
  (grpOf s g).retained.filter (fun t => decide (t.f.seq < sackTop f) && t.legs.any (fun q => q.1 == l))

/-- A leg's NACK: its ports are reported; a detached leg's frames are sent to it again. -/
def legNacked (s : State) (g l e : Nat) (f : WFrame) : State :=
  let lost := legLost s g l f
  let s := (dedup (lost.map (fun t => legPort t l))).foldl (fun s i => reportPort s e i) s
  if ((grpOf s g).legs[l]?).any (fun z => !z.attached) then lost.foldl (fun s t => resendLeg s g l e t) s else s

/-- A member's acknowledgement of a root's group stream. -/
def legAck (s : State) (g l e : Nat) (f : WFrame) (nack : Bool) : State :=
  let s := legAcked s g l e f
  let s := if nack then legNacked s g l e f else s
  serveLegs (judgeLegs s g) g

/-! ## Receive checks (R321, R323, R342) -/

/-- The entry of a sender: the valid entry with its rank. -/
def entryOf (s : State) (rank : Nat) : Option Nat :=
  (s.regs.find? (fun r => r.1 / 4096 / 1024 == 0x0D && decide (0x800 ≤ r.1 % 4096) && r.1 % 128 == 0 && bitAt r.2 63
      && ptrRank s (16 * (r.1 / 4096 % 1024) + (r.1 % 4096 - 0x800) / 128) == rank)).map
    (fun r => 16 * (r.1 / 4096 % 1024) + (r.1 % 4096 - 0x800) / 128)

/-- Whom a received frame belongs to once it has passed the checks: an entry, or with MCAST an entry and a group. -/
inductive RxTo | uni (e : Nat) | member (e g : Nat) | root (e g l : Nat)
  deriving DecidableEq, Repr

/-- The member group of an entry with a root's group number. -/
def memberGroup (s : State) (e n : Nat) : Option Nat :=
  (List.range 256).find? (fun g => grpValid s g && !grpRoot s g && rdF s (kGrp g R_GRP_CFG) 31 20 == e && rdF s (kGrp g R_GRP_CFG) 19 12 == n)

/-- The addressee of a frame of entry `e`. -/
def rxTo (s : State) (e : Nat) (f : WFrame) : Option RxTo :=
  if !f.mcast then (if f.dst = selfRank s (ptrPanel e) then some (.uni e) else none)
  else if f.type = 0 then (memberGroup s e f.dst).map (fun g => .member e g)
  else if f.dst < 256 ∧ grpValid s f.dst ∧ grpRoot s f.dst then (legOf s f.dst e).map (fun l => .root e f.dst l)
  else none

def rxKey (s : State) : RxTo → Option LinkKey
  | .uni e => (ptrOf s e).key
  | .member _ g => (grpOf s g).key
  | .root _ g _ => (grpOf s g).key

/-- The first check of R321 that fails, as the page and counter it names; a frame that passes is counted and passed on. EPOCH is one pair's: a frame sent to a group address
carries that of another (log entry 124). -/
def rxCheck (s : State) (p : Nat) (f : WFrame) (chk : RxCheck) : State × Option RxTo :=
  let drop := fun (s : State) (page off : Nat) => (bump s page off, (none : Option RxTo))
  let s := bumpN s (pgPort p) R_LINK_FEC_CORR_CNT chk.fecCorrected
  if chk.fecUncorrectable then drop s (pgPort p) R_LINK_FEC_UNCORR_CNT
  else if (!rdB s (kPort p R_LINK_STATUS) 3 && !chk.fcsOk) || !headOk s p chk.head f then drop s (pgPort p) R_LINK_RX_DROP_CNT
  else if f.ver ≠ 1 ∨ 4 ≤ f.type ∨ 512 < f.len ∨ (f.type ≠ 0 ∧ f.len ≠ 0) ∨ f.payload.length ≠ f.len then
    drop s (pgPort p) R_LINK_RX_DROP_CNT
  else
    let s := bump s (pgPort p) R_LINK_RX_FRAME_CNT
    match entryOf s f.srcRank with
    | none => drop s (pgLink (p / 4)) R_LNK_UNKNOWN_CNT
    | some e =>
      let pg := pgLink (ptrPanel e)
      if !linkUp s (ptrPanel e) ∨ ptrState s e = 4 then (s, none)
      else if ptrState s e = 3 then drop s pg R_LNK_UNKNOWN_CNT
      else match rxTo s e f with
        | none => drop s pg R_LNK_UNKNOWN_CNT
        | some t =>
          if (!f.mcast || headOwn s p chk.head) && f.epoch != ptrEpoch s e then drop s pg R_LNK_STALE_EPOCH_CNT
          else if !tagOk (rxKey s t) f then drop s pg R_LNK_GCM_FAIL_CNT
          else (modPtr s e (fun q => { q with winSeen := true }), some t)

def rxEntry : RxTo → Nat
  | .uni e => e
  | .member e _ => e
  | .root e _ _ => e

/-- A frame arrives at port `p`; `act` is its effect once every check has passed. One of a reserved TYPE is dropped and counted by every command that brings a frame. -/
def receive (s : State) (p : Nat) (f : WFrame) (chk : RxCheck) (type : Nat) (act : State → RxTo → State) : State :=
  if !portHears s p ∨ (f.type < 4 ∧ f.type ≠ type) then s
  else
    let r := rxCheck s p f chk
    match r.2 with
    | none => r.1
    | some t => act r.1 t

/-! ## DATA frames in (R326, R327, R330, R331, R347) -/

/-- The highest XSEQ accepted from a partner in a class. -/
def noteXseq (s : State) (e : Nat) (f : WFrame) : State :=
  modPtr s e (fun q => { q with xhi := nSet q.xhi f.cls (max (nGet q.xhi f.cls) (f.xseq + 1)) })

/-- The next expected sequence number after `n`, over the held frames. -/
def advance (held : List RxSlot) : Nat → Nat → Nat
  | 0, n => n
  | f + 1, n => if held.any (fun h => h.f.seq == n) then advance held f (n + 1) else n

/-- Does frame `seq` open a gap: it lies beyond `ack` and the frame before it is not held? -/
def opensGap (held : List RxSlot) (ack seq : Nat) : Bool := decide (ack < seq) && !held.any (fun h => h.f.seq + 1 == seq)

/-- A unicast DATA frame that passed the checks. -/
def dataUni (s : State) (p e : Nat) (f : WFrame) : State :=
  let c := f.cls
  let pg := pgLink (ptrPanel e)
  let s := ackIn s e f
  let ack := rxSeq s e c
  let held := heldCls s e c
  if ptrFrozen s e then bump s pg R_LNK_FROZEN_DROP_CNT
  else if f.seq < ack ∨ held.any (fun h => h.f.seq == f.seq) then sendCtl (bump s pg R_LNK_DUP_CNT) e c 1 0 none
  else if ack + grantOf s e c ≤ f.seq then bump s pg R_LNK_SEQ_WINDOW_CNT
  else
    let gap := opensGap held ack f.seq
    let s := modPtr (noteXseq s e f) e (fun q => { q with held := q.held ++ [⟨f, p, false⟩], since := nSet q.since c (nGet q.since c + 1) })
    let s := wr s (kPtr e (R_PTR_RX_SEQ0 + 8 * c)) (w64 (advance (heldCls s e c) 1024 ack))
    if gap then sendCtl s e c 2 0 none
    else if 8 ≤ nGet (ptrOf s e).since c then sendCtl s e c 1 0 none else s

/-- A DATA frame of a group at its member; one sent to its own address brings the CREDIT of its root (log entry 124). -/
def dataMember (s : State) (p e g : Nat) (own : Bool) (f : WFrame) : State :=
  let pg := pgLink (ptrPanel e)
  let s := if own then creditIn s e (grpClass s g) f.credit else s
  let ack := grpSeq s g
  let held := (grpOf s g).held
  if ptrFrozen s e then bump s pg R_LNK_FROZEN_DROP_CNT
  else if f.seq < ack ∨ held.any (fun h => h.f.seq == f.seq) then sendGrpCtl (bump s pg R_LNK_DUP_CNT) g 1
  else if ack + grantOf s e (grpClass s g) ≤ f.seq then bump s pg R_LNK_SEQ_WINDOW_CNT
  else
    let gap := opensGap held ack f.seq
    let s := modGrp s g (fun q => { q with held := q.held ++ [⟨f, p, false⟩], since := q.since + 1 })
    let s := wr s (kGrp g R_GRP_SEQ) (w64 (advance (grpOf s g).held 1024 ack))
    if gap then sendGrpCtl s g 2
    else if 8 ≤ (grpOf s g).since then sendGrpCtl s g 1 else s

def execDataFrameRx (p : Port) (f : WFrame) (chk : RxCheck) (s : State) : Out :=
  .next (receive s p f chk 0 (fun s t => match t with
    | .uni e => dataUni s p e { f with cls := f.cls % 4 }
    | .member e g => dataMember s p e g (headOwn s p chk.head) { f with cls := grpClass s g }
    | .root _ _ _ => s))

/-- The slot of a delivered or consumed frame is freed: its credit returns (R327). -/
def freeSlot (s : State) (src : RxStream) (seq : Nat) (credit : Bool) : State :=
  let back := fun (s : State) (e c : Nat) =>
    if credit then modPtr s e (fun q => { q with freed := nSet q.freed c ((nGet q.freed c + 1) % 65536) }) else s
  match src with
  | .entry e c =>
    if (ptrOf s e).held.any (fun h => h.f.cls == c && h.f.seq == seq) then
      back (modPtr s e (fun q => { q with held := q.held.filter (fun h => !(h.f.cls == c && h.f.seq == seq)) })) e c
    else s
  | .group g =>
    if (grpOf s g).held.any (fun h => h.f.seq == seq) then
      back (modGrp s g (fun q => { q with held := q.held.filter (fun h => h.f.seq != seq) }))
        (rdF s (kGrp g R_GRP_CFG) 31 20) (grpClass s g)
    else s

/-- The next frame of a stream to be delivered: the oldest held frame below the next expected one that is not yet handed on. -/
def nextRx (s : State) (src : RxStream) : Option RxSlot :=
  let first := fun (l : List RxSlot) (ack : Nat) =>
    (l.filter (fun h => !h.handed && decide (h.f.seq < ack))).foldl (fun (a : Option RxSlot) h => match a with
      | none => some h
      | some b => if h.f.seq < b.f.seq then some h else some b) none
  match src with
  | .entry e c => first (heldCls s e c) (rxSeq s e c)
  | .group g => first (grpOf s g).held (grpSeq s g)

/-- The partner entry of a stream. -/
def srcEntry (s : State) : RxStream → Nat
  | .entry e _ => e
  | .group g => rdF s (kGrp g R_GRP_CFG) 31 20

/-- Freeze the ingress context of a partner at a violating frame (R347): it and the later frames are dropped unacknowledged,
their slots freed without a credit, and each counted. -/
def ingressFreeze (s : State) (src : RxStream) (seq : Nat) : State :=
  let e := srcEntry s src
  let s := wrB s (kPtr e R_PTR_STATE) 3 true
  let pg := pgLink (ptrPanel e)
  match src with
  | .entry e c =>
    let n := ((ptrOf s e).held.filter (fun h => h.f.cls == c && !h.handed && decide (seq ≤ h.f.seq))).length
    let s := modPtr s e (fun q => { q with held := q.held.filter (fun h => !(h.f.cls == c && !h.handed && decide (seq ≤ h.f.seq))) })
    bumpN (wr s (kPtr e (R_PTR_RX_SEQ0 + 8 * c)) (w64 seq)) pg R_LNK_FROZEN_DROP_CNT n
  | .group g =>
    let n := ((grpOf s g).held.filter (fun h => !h.handed && decide (seq ≤ h.f.seq))).length
    let s := modGrp s g (fun q => { q with held := q.held.filter (fun h => !(!h.handed && decide (seq ≤ h.f.seq))) })
    bumpN (wr s (kGrp g R_GRP_SEQ) (w64 seq)) pg R_LNK_FROZEN_DROP_CNT n

/-! ## Control frames in (R331 to R333) -/

/-- ACK, NACK and KEEPALIVE frames are taken only with an XSEQ above the highest accepted (R331). -/
def freshUni (s : State) (e : Nat) (f : WFrame) : Bool := decide (nGet (ptrOf s e).xhi f.cls ≤ f.xseq)
def freshLeg (s : State) (g l : Nat) (f : WFrame) : Bool := ((grpOf s g).legs[l]?).any (fun z => decide (z.xhi ≤ f.xseq))

/-- An ACK on a port that a probe asked for marks the port OK again (R333). -/
def probeAnswered (s : State) (e p : Nat) : State :=
  if !(ptrOf s e).probes.contains p then s
  else modPtr (wrB s (kPtr e R_PTR_STATE) (8 + p) true) e (fun q => { q with probes := q.probes.filter (fun i => i != p), reports := nSet q.reports p 0 })

/-- Groups that an entry is a leg of. -/
def groupsOf (s : State) (e : Nat) : List Nat :=
  (List.range 256).filter (fun g => (grpOf s g).legs.any (fun l => l.entry == e))

/-- A change of an entry's ports or credits may reattach or serve its legs. -/
def legsOfEntry (s : State) (e : Nat) : State := (groupsOf s e).foldl (fun s g => serveLegs (judgeLegs s g) g) s

def execAckFrameRx (p : Port) (f : WFrame) (chk : RxCheck) (s : State) : Out :=
  .next (receive s p f chk 1 (fun s t => match t with
    | .uni e =>
      let f := { f with cls := f.cls % 4 }
      if freshUni s e f then legsOfEntry (probeAnswered (ackIn (noteXseq s e f) e f) e p) e else s
    | .root e g l => if freshLeg s g l f then legAck s g l e { f with cls := grpClass s g } false else s
    | .member _ _ => s))

def execNackFrameRx (p : Port) (f : WFrame) (chk : RxCheck) (s : State) : Out :=
  .next (receive s p f chk 2 (fun s t =>
    let count := fun (s : State) (e : Nat) => bump s (pgLink (ptrPanel e)) R_LNK_NACK_CNT
    match t with
    | .uni e =>
      let f := { f with cls := f.cls % 4 }
      if freshUni s e f then nackIn (ackIn (noteXseq (count s e) e f) e f) e f else s
    | .root e g l => if freshLeg s g l f then legAck (count s e) g l e { f with cls := grpClass s g } true else s
    | .member _ _ => s))

def execKeepaliveRx (p : Port) (f : WFrame) (chk : RxCheck) (s : State) : Out :=
  .next (receive s p f chk 3 (fun s t => match t with
    | .uni e =>
      let f := { f with cls := f.cls % 4 }
      if freshUni s e f then
        let s := ackIn (noteXseq s e f) e f
        if f.attr % 2 = 1 then sendCtl s e f.cls 1 0 (some p.val) else s
      else s
    | _ => s))

/-! ## Sending (R325, R328, R331 to R333, R336, R341) -/

/-- The operation of a frame: what its sender asks for. -/
def sameOp (f g : WFrame) : Bool :=
  f.cls == g.cls && f.opc == g.opc && f.addr == g.addr && f.attr == g.attr && f.payload == g.payload

/-- Take the frame an engine has waiting to be sent, if it is this one. -/
def takeOut (s : State) (group : Bool) (k : Nat) (f : WFrame) : State :=
  let rec drop : List (Bool × Nat × WFrame) → List (Bool × Nat × WFrame)
    | [] => []
    | o :: l => if o.1 = group ∧ o.2.1 = k ∧ sameOp o.2.2 f then l else o :: drop l
  { s with outbox := drop s.outbox }

/-- Is an operation one a DATA frame can carry? -/
def opFits (f : WFrame) : Bool := f.payload.length == f.len && decide (f.len ≤ 512) && decide (f.opc < 2) && decide (f.cls < 4)

/-- Grants of a Panel's entries in all classes, without entry `x`. -/
def grantSum (s : State) (p x : Nat) : Nat :=
  ((panelEntries s p).filter (fun e => e != x)).foldl (fun a e => a + grantOf s e 0 + grantOf s e 1 + grantOf s e 2 + grantOf s e 3) 0

/-- Retained frames of a Panel's groups. -/
def retainedSum (s : State) (p : Nat) : Nat :=
  (s.groups.filter (fun g => g.1 / 64 == p)).foldl (fun a g => a + g.2.retained.length) 0

/-- A frame waits at its sender. -/
def queueOut (s : State) (o : Bool × Nat × WFrame) : State :=
  if s.outbox.any (fun x => x.1 == o.1 && x.2.1 == o.2.1 && sameOp x.2.2 o.2.2) then s else { s with outbox := s.outbox ++ [o] }

/-- May a root send its next group frame: its legs' credits and keys, and room in the replay region (R336, R337)? Its GRP_ADDR is a group address (R334). -/
def grpReady (s : State) (g : Nat) : Bool :=
  let p := grpPanel g
  let t := grpOf s g
  decide (g < 256) && linkUp s p && grpValid s g && grpRoot s g && t.key.isSome && t.legs != [] && groupAddr (rdF s (kGrp g R_GRP_ADDR) 47 4 * 16) 0
    && t.legs.all (fun l => !l.attached || (avail s l.entry (grpClass s g) != 0 && maySend s l.entry))
    && decide (grantSum s p 4096 + retainedSum s p < rdF s (kLnk p R_LNK_REPLAY_SIZE) 15 0)

/-- The port of a group's next frame, in turn. -/
def grpPort (s : State) (g : Nat) : Option Nat :=
  let ports := grpStarts s g
  if ports = [] then none else some (nth 0 ports (grpSeq s g % ports.length))

/-- The port that a frame waiting at its sender can start on, if it can be sent now. -/
def outPort (s : State) (o : Bool × Nat × WFrame) : Option Nat :=
  if !opFits o.2.2 then none
  else if o.1 then (if grpReady s o.2.1 then grpPort s o.2.1 else none)
  else if maySend s o.2.1 && avail s o.2.1 o.2.2.cls != 0 then nextPort (startPorts s o.2.1 o.2.2.cls) (nGet (ptrOf s o.2.1).next o.2.2.cls) else none

/-- The class a waiting frame leaves in. -/
def outClass (s : State) (o : Bool × Nat × WFrame) : Nat := if o.1 then grpClass s o.2.1 else o.2.2.cls

/-- The turn at port `p` for a frame of class `c` and length `len`: CONTROL goes first; the other classes share by deficit round-robin with what waits for the port (R325). -/
def portTurn (s : State) (p c len : Nat) : State × Bool :=
  if c = 1 then (s, true)
  else
    let waits := s.outbox.filter (fun o => outPort s o == some p)
    if waits.any (fun o => outClass s o == 1) then (s, false)
    else
      let cost := fun (n : Nat) => portBytes (rdB s (kPort p R_LINK_STATUS) 3) n
      let need := fun (k : Nat) => if k = c then some (cost len) else (waits.find? (fun o => outClass s o == k)).map (fun o => cost o.2.2.len)
      let r := drrGo (drrQuantum s p) need 64 (drrOf s p)
      if r.2 = some c then (setDrr s p { r.1 with bytes := nSet r.1.bytes c (nGet r.1.bytes c - cost len) }, true) else (setDrr s p r.1, false)

/-- DATA_FRAME_TX: the first transmission of an operation to entry `e`, with a credit, on the next usable port; where another frame has the turn at the port, it waits. -/
def dataTx (s : State) (e : Nat) (f : WFrame) : State :=
  if !maySend s e ∨ !opFits f ∨ avail s e f.cls = 0 then s
  else match nextPort (startPorts s e f.cls) (nGet (ptrOf s e).next f.cls) with
    | none => s
    | some p =>
      let turn := portTurn s p f.cls f.len
      let s := turn.1
      if !turn.2 then queueOut s (false, e, f)
      else
        let seq := txSeq s e f.cls
        let w := sealFrame s e f 0 seq
        let slot := replaySlot s (ptrPanel e)
        let s := replayPut (takeCredit (takeOut s false e f) e f.cls) (ptrPanel e) slot f.payload
        let s := wr s (kPtr e (R_PTR_TX_SEQ0 + 8 * f.cls)) (w64 (seq + 1))
        let s := modPtr s e (fun q => { q with unacked := q.unacked ++ [⟨w, p, linkNow s (ptrPanel e), none, slot⟩] })
        sendFrame s e p w

def execDataFrameTx (e : Nat) (f : WFrame) (s : State) : Out := .next (dataTx s e f)

/-- ACK_DELAY ends with frames unacknowledged. -/
def execAckDelay (src : RxStream) (s : State) : Out :=
  .next (match src with
    | .entry e c => if nGet (ptrOf s e).since c = 0 then s else sendCtl s e c 1 0 none
    | .group g => if (grpOf s g).since = 0 then s else sendGrpCtl s g 1)

/-- The oldest unacknowledged frame of a class. -/
def oldestTx (s : State) (e c : Nat) : Option TxFrame :=
  ((ptrOf s e).unacked.filter (fun t => t.f.cls == c)).foldl (fun (a : Option TxFrame) t => match a with
    | none => some t
    | some b => if t.f.seq < b.f.seq then some t else some b) none

/-- A group frame goes out to the group address again, on another port where the group uses one. -/
def regroup (s : State) (g : Nat) (t : GTx) : State :=
  let ports := grpStarts s g
  let others := ports.filter (fun i => i != t.port)
  match nextPort (if others = [] then ports else others) (t.port + 1) with
  | none => s
  | some p =>
    let r := replayGet s (grpPanel g) t.slot t.f
    let x := takeGrpXseq r.1 (grpClass s g)
    let f := sealGroup x.1 g (firstLeg s g) r.2 0 t.f.seq x.2 g 0 0 0
    let now := linkNow s (grpPanel g)
    let s := modGrp x.1 g (fun q => { q with retained := q.retained.map (fun r =>
      if r.f.seq = t.f.seq then { r with port := p, sentAt := now, legs := r.legs.map (fun z =>
        if ((q.legs[z.1]?).any (fun l => l.attached)) then (z.1, ⟨f, p, now, z.2.nackAt, t.slot⟩) else z) } else r) })
    emitFrame (bump s (pgLink (grpPanel g)) R_LNK_RETX_CNT) p (grpAddr s g p) f

/-- Legs of a retained frame that are attached. -/
def waitsAttached (t : GroupSt) (r : GTx) : List Nat :=
  (r.legs.map (fun z => z.1)).filter (fun l => (t.legs[l]?).any (fun z => z.attached))

/-- RETX_TIMEOUT: the oldest unacknowledged frame of the stream is sent again. -/
def timeout (s : State) (d : TxStream) : State :=
  match d with
  | .entry e c =>
    match oldestTx s e c with
    | none => s
    | some t =>
      if !maySend s e then s
      else retransmit (reportPort (bump s (pgLink (ptrPanel e)) R_LNK_TIMEOUT_CNT) e t.port) e t false
  | .group g =>
    match (grpOf s g).retained.find? (fun r => waitsAttached (grpOf s g) r != []) with
    | none => s
    | some r =>
      if !linkUp s (grpPanel g) then s
      else
        let s := bump s (pgLink (grpPanel g)) R_LNK_TIMEOUT_CNT
        let s := (waitsAttached (grpOf s g) r).foldl (fun s l => match (grpOf s g).legs[l]? with
          | some z => reportPort s z.entry (legPort r l)
          | none => s) s
        regroup s g r
  | .leg g l =>
    match (grpOf s g).legs[l]?, (grpOf s g).retained.find? (fun r => r.legs.any (fun z => z.1 == l)) with
    | some z, some r =>
      if z.attached ∨ z.sent ≤ r.f.seq ∨ !maySend s z.entry then s
      else sendLeg (reportPort (bump s (pgLink (grpPanel g)) R_LNK_TIMEOUT_CNT) z.entry (legPort r l)) g l r true false
    | _, _ => s

def execRetxTimeout (dst : TxStream) (s : State) : Out := .next (timeout s dst)

/-- PROBE_KEEPALIVE: a KEEPALIVE with ATTR[0] on a port marked not OK. -/
def execProbeKeepalive (e : Nat) (p : Port) (s : State) : Out :=
  .next (if rdB s (kPtr e R_PTR_CFG0) (44 + p.val) ∧ !rdB s (kPtr e R_PTR_STATE) (8 + p.val) ∧ maySend s e ∧ portUp s p ∧ portStarts s 1 p then
    sendCtl (modPtr s e (fun q => { q with probes := p.val :: q.probes.filter (fun i => i != p.val) })) e 1 3 1 (some p.val) else s)

/-- LIVENESS_WINDOW: a 10 us window of an entry with WATCH set ends. -/
def liveness (s : State) (e : Nat) : State :=
  let k := kPtr e R_PTR_STATE
  if !linkUp s (ptrPanel e) ∨ !ptrValid s e ∨ !rdB s (kPtr e R_PTR_CFG0) 62 ∨ ptrState s e ≠ 1 then s
  else
    let q := ptrOf s e
    let pg := pgLink (ptrPanel e)
    let n := if q.winSeen then 0 else rdF s k 7 6 + 1
    let s := wrF s k 7 6 n
    let s := if q.winSeen then s else bump s pg R_LNK_KEEPALIVE_MISS_CNT
    let s := if n = 3 then
        ringBtn (bump (wrF s k 2 0 3) pg R_LNK_DEAD_CNT) (0x40 + ptrPanel e) (rdF s (reg pg R_LNK_CFG) 36 32) false
      else if q.winSent then s else sendCtl s e 1 3 0 none
    modPtr s e (fun q => { q with winSent := false, winSeen := false })

def execLivenessWindow (e : Nat) (s : State) : Out := .next (liveness s e)

/-- GROUP_FRAME_TX: a root sends the next frame of its group; where another frame has the turn at the port, it waits. -/
def groupTx (s : State) (g : Nat) (f : WFrame) : State :=
  let p := grpPanel g
  let c := grpClass s g
  let t := grpOf s g
  if !grpReady s g ∨ !opFits f then s
  else match grpPort s g with
    | none => s
    | some port =>
      let turn := portTurn s port c f.len
      let s := turn.1
      if !turn.2 then queueOut s (true, g, f)
      else
        let seq := grpSeq s g
        let slot := replaySlot s p
        let x := takeGrpXseq (replayPut (takeOut s true g f) p slot f.payload) c
        let s := x.1
        let w := sealGroup s g (firstLeg s g) f 0 seq x.2 g 0 0 0
        let now := linkNow s p
        let s := wr s (kGrp g R_GRP_SEQ) (w64 (seq + 1))
        let s := (t.legs.filter (fun l => l.attached)).foldl (fun s l =>
          modPtr (takeCredit s l.entry c) l.entry (fun q => { q with winSent := true })) s
        let s := modGrp s g (fun q => { q with
          retained := q.retained ++ [⟨w, port, now, slot, (List.range q.legs.length).map (fun l => (l, ⟨w, port, now, none, slot⟩))⟩],
          legs := q.legs.map (fun l => if l.attached then { l with sent := seq + 1 } else l) })
        serveLegs (judgeLegs (emitFrame s port (grpAddr s g port) w) g) g

def execGroupFrameTx (g : Nat) (f : WFrame) (s : State) : Out := .next (groupTx s g f)

/-! ## Ports (R317, R338 to R343) -/

/-- The frames whose last port left UP are sent again at once on other ports (R338). -/
def failover (s : State) (p : Nat) : State :=
  let es := (s.partners.filter (fun q => q.2.unacked.any (fun t => t.port == p))).map (fun q => q.1)
  let s := es.foldl (fun s e =>
    ((ptrOf s e).unacked.filter (fun t => t.port == p)).foldl (fun s t =>
      if (usable s e).filter (fun i => i != p) = [] then s else retransmit s e t false) s) s
  let gs := (s.groups.filter (fun g => g.2.retained.any (fun t => t.port == p))).map (fun g => g.1)
  gs.foldl (fun s g => ((grpOf s g).retained.filter (fun t => t.port == p)).foldl (fun s t => regroup s g t) s) s

/-- PORT_BTN of the Panel's service processor rings on each change into or out of UP. -/
def portBtn (s : State) (p : Nat) : State :=
  ringBtn s (0x40 + p / 4) (rdF s (kLnk (p / 4) R_LNK_CFG) 44 40) false

/-- Enter a state other than UP: PORT_FAILOVER holds (R338; before the first ENABLE it reads its reset value, log entry 60). -/
def portTo (s : State) (p st : Nat) : State :=
  let was := portState s p = 4
  let s := setDegraded (wrF s (kPort p R_LINK_STATUS) 2 0 st) (pgPort p) 6
  if was then failover (portBtn s p) p else s

/-- A training is counted, and MODE takes effect (R314). -/
def trainCount (s : State) (p : Nat) : State :=
  bump (wrB s (kPort p R_LINK_STATUS) 3 (rdB s (kPort p R_LINK_CTL) 1)) (pgPort p) R_LINK_TRAIN_CNT

/-- A training starts (R338): from the stored coefficients unless FULL_TRAIN is set or none are stored. -/
def trainStart (s : State) (p : Nat) : State :=
  let s := trainCount (portTo s p 1) p
  let s := wrB s (kPort p R_LINK_STATUS) 7 (s.portCoef.contains p && !rdB s (kPort p R_LINK_CTL) 3)
  { s with trainFails := nSet s.trainFails p 0 }

/-- The port is UP: its address is set (R338, R343). -/
def portRise (s : State) (p : Nat) : State :=
  let s := clearFlag (wrF s (kPort p R_LINK_STATUS) 2 0 4) (pgPort p) 6
  (s.groups.map (fun g => g.1)).foldl (fun s g => serveLegs (judgeLegs s g) g) (portBtn s p)

/-- A port address that follows R324. -/
def macOk (a p : Nat) : Bool := a.testBit 41 && !a.testBit 40 && a % 16 == p

/-- A write of LINK_CTL: MODE, FULL_TRAIN and ENABLE, unless PORT_DISABLE holds ENABLE at 0; RETRAIN (R338, R340, R406). -/
def linkCtlWrite (s : State) (p : Nat) (v : Word) (own : Bool) : State :=
  let old := rdB s (kPort p R_LINK_CTL) 0
  let held := s.portDisabled.contains p
  let s := fieldWrite s (pgPort p) R_LINK_CTL (if held then setBit v 0 false else v) own false
  let now := rdB s (kPort p R_LINK_CTL) 0
  if old && !now then portTo s p 0
  else if now && (!old || bitAt v 2 || portState s p == 0) then trainStart (portTo s p 0) p else s

/-- LINK_CTL with the other RW fields as they stand. -/
def ctlWord (s : State) (p : Nat) (en retrain : Bool) : Word :=
  setBit (setBit (rd s (kPort p R_LINK_CTL) &&& maskHL 3 0) 0 en) 2 retrain

def execEnable (mid : Mid) (p : Port) (value : Bool) (s : State) : Out :=
  let v := ctlWord s p value false
  .next (guardWrite s mid.toNat (pgPort p) R_LINK_CTL v (fun s => linkCtlWrite s p v true))

def execRetrain (mid : Mid) (p : Port) (s : State) : Out :=
  let v := ctlWord s p (rdB s (kPort p R_LINK_CTL) 0) true
  .next (guardWrite s mid.toNat (pgPort p) R_LINK_CTL v (fun s => linkCtlWrite s p v true))

/-- ALIGNED: the LLDP buffer is open again, and an address already assigned takes the port UP (log entry 60). -/
def portAligned (s : State) (p : Nat) : State :=
  let s := wrB (wrB (wrF s (kPort p R_LINK_STATUS) 2 0 2) (kPort p R_LINK_STATUS) 5 false) (kPort p R_LINK_STATUS) 4 false
  if macOk (rd s (kPort p R_LINK_MAC)).toNat p then portRise s p else s

/-- LINK_TRAIN_DONE. -/
def linkTrainDone (s : State) (p : Nat) (ok : Bool) : State :=
  if !domOn s (40 + p / 4) ∨ portState s p ≠ 1 then s
  else
    let seeded := rdB s (kPort p R_LINK_STATUS) 7
    if ok then
      portAligned (if seeded || s.portCoef.contains p then s else { s with portCoef := s.portCoef ++ [p] }) p
    else if seeded then trainCount (wrB s (kPort p R_LINK_STATUS) 7 false) p
    else
      let n := nGet s.trainFails p + 1
      let s := { s with trainFails := nSet s.trainFails p n }
      if n = 3 then wrF s (kPort p R_LINK_STATUS) 2 0 5 else trainCount s p

def execLinkTrainDone (p : Port) (ok : Bool) (s : State) : Out := .next (linkTrainDone s p ok)

/-- LINK_DOWN: loss of FEC lock, or a remote fault. An enabled port trains again at once. -/
def linkDown (s : State) (p : Nat) (fault : Bool) : State :=
  if !domOn s (40 + p / 4) ∨ portState s p = 0 ∨ portState s p = 5 then s
  else
    let s := wrB (portTo s p 0) (kPort p R_LINK_STATUS) 4 fault
    if rdB s (kPort p R_LINK_CTL) 0 then trainStart s p else s

def execLinkDown (p : Port) (remoteFault : Bool) (s : State) : Out := .next (linkDown s p remoteFault)

/-- LLDP_CAPTURE: the first LLDP frame of a standard-mode port in ALIGNED; its first 512 bytes. -/
def execLldpCapture (p : Port) (bytes : List Byte) (s : State) : Out :=
  .next (if !domOn s (40 + p.val / 4) ∨ hemHeld s (8 + p.val) ∨ portState s p ≠ 2 ∨ rdB s (kPort p R_LINK_STATUS) 3 ∨ rdB s (kPort p R_LINK_STATUS) 5 then s
  else
    let s := (List.range 64).foldl (fun s i =>
      wr s (kPort p (R_LINK_LLDP_BUF + 8 * i)) (w64 (bytesVal ((bytes.drop (8 * i)).take 8)))) s
    wrB s (kPort p R_LINK_STATUS) 5 true)

/-- A write of LINK_MAC (R343). -/
def linkMacWrite (s : State) (p : Nat) (v : Word) : State :=
  let a := bits v 47 0
  if !macOk a p then wrB s (kPort p R_LINK_STATUS) 8 true
  else
    let s := wr s (kPort p R_LINK_MAC) (w64 a)
    if portState s p = 2 then portRise s p else s

def execLinkMacWrite (mid : Mid) (p : Port) (addr : BitVec 48) (s : State) : Out :=
  let v : Word := w64 addr.toNat
  .next (guardWrite s mid.toNat (pgPort p) R_LINK_MAC v (fun s => linkMacWrite s p v))

/-- HELLO: a native-mode port in ALIGNED takes its address and echoes the HELLO. -/
def execHello (p : Port) (addr : BitVec 48) (s : State) : Out :=
  .next (if !domOn s (40 + p.val / 4) ∨ hemHeld s (8 + p.val) ∨ portState s p ≠ 2 ∨ !rdB s (kPort p R_LINK_STATUS) 3 then s
  else
    let s := { wr s (kPort p R_LINK_MAC) (w64 addr.toNat) with hellos := s.hellos ++ [(p.val, addr.toNat)] }
    portRise s p)

/-- PFC_RECEIVED at a standard-mode port, with its class-enable vector and the time for the CONTROL priority, LINK_QTAG.PCP_CONTROL. -/
def execPfcReceived (p : Port) (classes : BitVec 8) (time : Nat) (s : State) : Out :=
  .next (if !portHears s p ∨ rdB s (kPort p R_LINK_STATUS) 3 then s
  else
    let s := bump s (pgPort p) R_LINK_PFC_RX_CNT
    if bitAt classes (rdF s (kPort p R_LINK_QTAG) 22 20) then wrB s (kPort p R_LINK_STATUS) 6 (decide (time ≠ 0)) else bump s (pgPort p) R_LINK_PFC_IGN_CNT)

def execPfcPauseEnd (p : Port) (s : State) : Out :=
  .next (if domOn s (40 + p.val / 4) then wrB s (kPort p R_LINK_STATUS) 6 false else s)

/-! ## Partner commands and the credit audit (R339, R344 to R346) -/

/-- PARTNER_CMD_STAT. -/
def cmdResult (s : State) (p n : Nat) (busy : Bool) : State :=
  wrB (wrF s (kLnk p R_PARTNER_CMD_STAT) 7 4 n) (kLnk p R_PARTNER_CMD_STAT) 0 busy

/-- Sum of the staged grants. -/
def stagedGrants (s : State) (p : Nat) : Nat :=
  (List.range 4).foldl (fun a c => a + rdF s (kLnk p R_LNK_STAGE_CFG1) (10 * c + 9) (10 * c)) 0

/-- Does a root group that is enabled have a leg at entry `e`? -/
def legOfEnabled (s : State) (e : Nat) : Bool := (groupsOf s e).any (fun g => grpValid s g && grpRoot s g)

/-- The refusal of a partner command, if any: the codes of PARTNER_CMD_STAT.RESULT. -/
def partnerRefusal (s : State) (p op e : Nat) : Option Nat :=
  let sum := grantSum s p e + stagedGrants s p
  let st := rd s (kLnk p R_LNK_STAGE_CFG0)
  let rank := rdF s (kLnk p R_LNK_STAGE_CFG1) 55 40
  let dup : Bool := (match entryOf s rank with
    | some x => x != e
    | none => false) || s.partners.any (fun q => q.1 != e && ptrState s q.1 == 4 && q.2.auditOp == 2 && bits q.2.staged.2 55 40 == rank)
  let loads := op == 1 || op == 2
  if ptrPanel e ≠ p then some 7
  else if (op = 1 ∧ ptrValid s e) ∨ (op ≠ 1 ∧ (!ptrValid s e ∨ ptrState s e = 4)) then some 2
  else if loads ∧ 8192 < sum then some 3
  else if loads ∧ rdF s (kLnk p R_LNK_REPLAY_SIZE) 15 0 < sum then some 4
  else if loads ∧ dup then some 5
  else if loads ∧ !(bitAt st 37 && !bitAt st 36) then some 6
  else if op = 3 ∧ legOfEnabled s e then some 8
  else none

/-- The symbolic pair key of an entry (15_mantle_cloak.md R413). -/
def pairKey (s : State) (e : Nat) : LinkKey :=
  let a := selfRank s (ptrPanel e)
  let b := ptrRank s e
  .pair s.linkSecret (min a b) (max a b) (ptrEpoch s e)

/-- The staged values of a Panel. -/
def stagedOf (s : State) (p : Nat) : Word × Word := (rd s (kLnk p R_LNK_STAGE_CFG0), rd s (kLnk p R_LNK_STAGE_CFG1))

/-- The staged values fill entry `e`: ACTIVE, every port OK, all counts 0, the pair key derived (R344, R345, R413). -/
def loadEntry (s : State) (e : Nat) (v : Word × Word) : State :=
  let p := ptrPanel e
  let s := wr s (kPtr e R_PTR_CFG0) (setBits (setBit v.1 63 true) 61 60 0)
  let s := wr s (kPtr e R_PTR_CFG1) v.2
  let s := wr s (kPtr e R_PTR_STATE) (w64 (0xFFFF * 2 ^ 8 + 1))
  let s := setPtr s e Partner.rst
  bump (modPtr s e (fun q => { q with key := some (pairKey s e) })) (pgCry p) R_CRY_DERIVE_CNT

/-- A write of PARTNER_CMD (R344). REDRAW keeps the staged values that were checked, so that no two entries come to hold one rank (R323). -/
def partnerCmdWrite (s : State) (p : Nat) (v : Word) : State :=
  let op := bits v 18 16
  let e := bits v 11 0
  if op = 0 ∨ 4 ≤ op then s
  else if rdB s (kLnk p R_PARTNER_CMD_STAT) 0 then wrF s (kLnk p R_PARTNER_CMD_STAT) 7 4 1
  else match partnerRefusal s p op e with
    | some n => cmdResult s p n false
    | none =>
      if op = 1 then cmdResult (loadEntry s e (stagedOf s p)) p 0 false
      else
        let s := modPtr (wrF s (kPtr e R_PTR_STATE) 2 0 4) e (fun q => { q with auditOp := op, staged := stagedOf s p })
        cmdResult s p 1 true

def partnerCmd (op e : Nat) : Word := w64 (op * 2 ^ 16 + e)

def execLoad (mid : Mid) (link : Panel) (e : Nat) (s : State) : Out :=
  .next (guardWrite s mid.toNat (pgLink link) R_PARTNER_CMD (partnerCmd 1 e) (fun s => partnerCmdWrite s link (partnerCmd 1 e)))
def execPartnerRedraw (mid : Mid) (link : Panel) (e : Nat) (s : State) : Out :=
  .next (guardWrite s mid.toNat (pgLink link) R_PARTNER_CMD (partnerCmd 2 e) (fun s => partnerCmdWrite s link (partnerCmd 2 e)))
def execRemove (mid : Mid) (link : Panel) (e : Nat) (s : State) : Out :=
  .next (guardWrite s mid.toNat (pgLink link) R_PARTNER_CMD (partnerCmd 3 e) (fun s => partnerCmdWrite s link (partnerCmd 3 e)))

/-- Leave the group legs of a redrawn entry detached at the group's next SEQ, and release what only they hold (R345, R346). -/
def auditLegs (s : State) (e : Nat) : State :=
  (groupsOf s e).foldl (fun s g => match legOf s g e with
    | none => s
    | some l => modGrp s g (fun q => { q with
        legs := modNth (fun (z : LegSt) => { z with attached := false, ack := grpSeq s g, sent := grpSeq s g, xhi := 0 }) q.legs l,
        retained := (q.retained.map (fun t => { t with legs := t.legs.filter (fun z => z.1 != l) })).filter (fun t => t.legs != []) })) s

/-- Slots of a class held by an entry: its unicast frames and the frames of groups it is the root of. -/
def slotsHeld (s : State) (e c : Nat) : Nat :=
  (heldCls s e c).length
    + (s.groups.filter (fun g => grpValid s g.1 && !grpRoot s g.1 && rdF s (kGrp g.1 R_GRP_CFG) 31 20 == e && grpClass s g.1 == c)).foldl
        (fun a g => a + g.2.held.length) 0

/-- CREDIT_AUDIT: the entry's started writes are done; the audit of R345 from step 3. -/
def creditAudit (s : State) (e : Nat) : State :=
  let p := ptrPanel e
  if 4096 ≤ e ∨ !linkUp s p ∨ ptrState s e ≠ 4 then s
  else
    let q := ptrOf s e
    let s := wr s (kLnk p R_LNK_AUDIT_TX)
      (w64 ((List.range 4).foldl (fun a c => a + (outstanding s e c % 1024) * 2 ^ (10 * c)) (q.unacked.length * 2 ^ 40)))
    let s := wr s (kLnk p R_LNK_AUDIT_RX) (w64 ((List.range 4).foldl (fun a c => a + slotsHeld s e c % 1024 * 2 ^ (10 * c)) 0))
    let good := (List.range 4).all (fun c => decide (outstanding s e c ≤ grantOf s e c) && decide (slotsHeld s e c ≤ grantOf s e c))
    let s := bump s (pgLink p) R_LNK_AUDIT_CNT
    let s := (s.groups.filter (fun g => grpValid s g.1 && !grpRoot s g.1 && rdF s (kGrp g.1 R_GRP_CFG) 31 20 == e)).foldl
      (fun s g => modGrp s g.1 (fun t => { t with held := [] })) s
    let s := { s with toEngine := s.toEngine.filter (fun i => srcEntry s i.src != e),
                      mirHeader := s.mirHeader.filter (fun h => h.1 != e) }
    let s := auditLegs s e
    let zero := fun (s : State) (c : Nat) => wr (wr s (kPtr e (R_PTR_TX_SEQ0 + 8 * c)) 0) (kPtr e (R_PTR_RX_SEQ0 + 8 * c)) 0
    let s := (List.range 4).foldl zero s
    let s := setPtr s e Partner.rst
    let s := if q.auditOp = 2 then loadEntry s e q.staged
      else wr (wr (wr s (kPtr e R_PTR_CFG0) 0) (kPtr e R_PTR_CFG1) 0) (kPtr e R_PTR_STATE) 0
    let s := cmdResult s p 0 false
    if good then s else breach s (pgLink p) [] (mmioAddr (pgPartner (e / 16)) (0x800 + 128 * (e % 16)))

def execCreditAudit (e : Nat) (s : State) : Out := .next (creditAudit s e)

/-! ## Group entries and the rank (R335, R349) -/

/-- The symbolic group key (15_mantle_cloak.md R413). -/
def grpLinkKey (s : State) (g : Nat) : LinkKey :=
  if grpRoot s g then .group s.linkSecret (selfRank s (grpPanel g)) g
  else .group s.linkSecret (ptrRank s (rdF s (kGrp g R_GRP_CFG) 31 20)) (rdF s (kGrp g R_GRP_CFG) 19 12)

/-- The legs named by a root's configuration. -/
def legsFor (s : State) (g : Nat) : List LegSt :=
  if grpRoot s g then
    (List.range (rdF s (kGrp g R_GRP_CFG) 39 32)).map (fun i =>
      ⟨rdF s (kLeg (rdF s (kGrp g R_GRP_CFG) 51 40 + i)) 11 0, 0, true, 0, 0⟩)
  else []

/-- A write of GRP_CFG. -/
def grpCfgWrite (s : State) (g : Nat) (v : Word) : State :=
  let k := kGrp g R_GRP_CFG
  if grpValid s g then
    if bitAt v 63 ∨ (grpOf s g).retained ≠ [] then s else setGrp (wrB s k 63 false) g GroupSt.rst
  else
    let s := wr s k (v &&& ~~~ maskHL 11 0)
    if !bitAt v 63 then s
    else
      let s := wr s (kGrp g R_GRP_SEQ) 0
      bump (setGrp s g { GroupSt.rst with key := some (grpLinkKey s g), legs := legsFor s g }) (pgCry (grpPanel g)) R_CRY_DERIVE_CNT

def execGroupValidWrite (mid : Mid) (g : Nat) (value : Word) (s : State) : Out :=
  .next (if 256 ≤ g then s
    else guardWrite s mid.toNat (pgGroup (g / 16)) (R_GRP_CFG + 64 * (g % 16)) value (fun s => grpCfgWrite s g value))

/-- A write of LNK_SELF_RANK; on Panel 0 the group XSEQ counters start again at 0. -/
def selfRankWrite (s : State) (p : Nat) (v : Word) : State :=
  let s := wr s (kLnk p R_LNK_SELF_RANK) (v &&& maskHL 23 0)
  if p = 0 then (List.range 4).foldl (fun s c => wr s (kLnk 0 (R_LNK_GRP_XSEQ + 8 * c)) 0) s else s

def execSelfRankWrite (mid : Mid) (link : Panel) (value : Word) (s : State) : Out :=
  .next (guardWrite s mid.toNat (pgLink link) R_LNK_SELF_RANK value (fun s => selfRankWrite s link value))

end Sys2Proof.Machine
end

