-- ==== Sys2Proof/Machine/Opt.lean ====
section
/-! DEFINITION. Optimizer engines: the ledger, the update rules, commit and discard, and the start of snapshots that follows a commit
(13_collectives_optimizer.md R360 to R376; 14_recovery.md R378 to R382). -/
namespace Sys2Proof.Machine

/-! ## Bytes and elements of a run of memory -/

/-- `n` bytes at `a`; where the access is not answered, marked bytes. -/
def spanRead (s : State) (a n : Nat) : State × List (Byte × Bool) :=
  let r := readMem (askBanks s 8 0 [(a, a + n)]) a n false false
  if r.ok then (r.st, r.cells) else (r.st, List.replicate n (0, true))

/-- Groups of `k`, `f` of them at most. -/
def groupsOfK {α : Type} (k : Nat) : Nat → List α → List (List α)
  | 0, _ => []
  | f + 1, l => if l = [] then [] else l.take k :: groupsOfK k f (l.drop k)

def bytesOf (l : List (Byte × Bool)) : List Byte := l.map (fun p => p.1)
def anyMarked (l : List (Byte × Bool)) : Bool := l.any (fun p => p.2)

/-- The values of `n` elements of a format from their bytes and, for KB4, scale bytes; a marked byte reads as NaN. -/
def elemVals (f : Fmt) (n : Nat) (data scales : List (Byte × Bool)) : List FVal :=
  if f = .kb4 then
    let blk := fun (p : List (Byte × Bool) × (Byte × Bool)) =>
      p.1.flatMap (fun b =>
        if b.2 || p.2.2 then [FVal.nan, FVal.nan]
        else [kb4Decode p.2.1.toNat (b.1.toNat % 16), kb4Decode p.2.1.toNat (b.1.toNat / 16)])
    ((List.zip (groupsOfK 8 (n / 16) data) scales).flatMap blk)
  else
    match f.lay with
    | some l => (groupsOfK (f.nibbles / 2) n data).map (fun b =>
        if anyMarked b then .nan else fDecode l (bytesVal (bytesOf b) % 2 ^ (1 + l.ebits + l.fbits)))
    | none => []

/-- Values with their roundings as bytes and, for KB4, scale bytes, with the counts of the conversion. -/
def elemPut (f : Fmt) (vs : List (FVal × Rnd)) : List Byte × List Byte × NumEv :=
  if f = .kb4 then
    let bs := (groupsOfK 16 (vs.length / 16) vs).map kb4Block
    (bs.flatMap (fun b => (groupsOfK 2 8 b.2.1).map (fun c => BitVec.ofNat 8 (nth 0 c 0 + 16 * nth 0 c 1))),
     bs.map (fun b => BitVec.ofNat 8 b.1), bs.foldl (fun e b => e.add b.2.2) .zero)
  else
    let es := vs.map (fun v => convElem f v.2 v.1 none)
    (es.flatMap (fun e => elemBytes f e.1), [], es.foldl (fun a e => a.add e.2) .zero)

/-- Data bytes of `n` elements. -/
def Fmt.bytesFor (f : Fmt) (n : Nat) : Nat := n * f.nibbles / 2
/-- Scale bytes of `n` elements. -/
def Fmt.scalesFor (f : Fmt) (n : Nat) : Nat := if f = .kb4 then n / 16 else 0

/-- Is a format one of codes 0x0 to 0x5? -/
def dataFmt (code : Nat) : Bool := decide (code ≤ 5)

/-- A write by an engine; a refused one is lost. -/
def panelWrite (s : State) (mid a : Nat) (bytes : List Byte) : State := (writeMem s mid a bytes false).st

/-! ## Shard entries (R361, R362, R376) -/

/-- Register of shard entry `k` of Panel `p`. -/
abbrev kSh (p k off : Nat) : Nat := reg (pgOpt p + 1 + k / 32) (off + 64 * (k % 32))
abbrev kOpt (p off : Nat) : Nat := reg (pgOpt p) off

def shValid (s : State) (p k : Nat) : Bool := rdB s (kSh p k R_SH_CFG) 63
/-- LEDGER: 0 EXPECTED, 1 RECEIVED, 2 UPDATED. -/
def shLedger (s : State) (p k : Nat) : Nat := rdF s (kSh p k R_SH_CFG) 62 61
def setLedger (s : State) (p k n : Nat) : State := wrF s (kSh p k R_SH_CFG) 62 61 n

/-- The valid entries of an engine, in increasing index. -/
def shEntries (s : State) (p : Nat) : List Nat :=
  (s.regs.filter (fun r => decide (pgOpt p < r.1 / 4096) && decide (r.1 / 4096 < pgOpt p + 129) && decide (0x800 ≤ r.1 % 4096)
      && r.1 % 64 == 0 && bitAt r.2 63)).map (fun r => 32 * (r.1 / 4096 - pgOpt p - 1) + (r.1 % 4096 - 0x800) / 64)

/-- Are all valid entries of all engines in one ledger state? -/
def allLedger (s : State) (n : Nat) : Bool := (List.range 4).all (fun p => (shEntries s p).all (fun k => shLedger s p k == n))

def ceil4k (n : Nat) : Nat := (n + 4095) / 4096 * 4096

def shElems (s : State) (p k : Nat) : Nat := rdF s (kSh p k R_SH_CFG) 31 0
def shRule (s : State) (p k : Nat) : Nat := rdF s (kSh p k R_SH_CFG) 57 56
def shTag (s : State) (p k : Nat) : Nat := rdF s (kSh p k R_SH_CFG) 47 32
def shResFmt (s : State) (p k : Nat) : Fmt := (fmtOf (rdF s (kSh p k R_SH_CFG) 51 48)).getD .fp32
def shMomFmt (s : State) (p k : Nat) : Fmt := if rdB s (kSh p k R_SH_CFG) 55 then .bf16 else .fp32
def shBase (s : State) (p k : Nat) : Nat := rdF s (kSh p k R_SH_STATE_BASE) 63 12 * 4096
def curPlane (s : State) (p : Nat) : Nat := rdF s (kOpt p R_OPT_STATUS) 0 0

/-- Bytes of a master plane and of a moment plane. -/
def planeW (s : State) (p k : Nat) : Nat := ceil4k (4 * shElems s p k)
def planeM (s : State) (p k : Nat) : Nat := ceil4k ((shMomFmt s p k).bytesFor (shElems s p k))
/-- Addresses of the planes with index `i`, and of the resident shadow (Table: Optimizer state block). -/
def masterAt (s : State) (p k i : Nat) : Nat := shBase s p k + i * planeW s p k
def mom1At (s : State) (p k i : Nat) : Nat := shBase s p k + 2 * planeW s p k + i * planeM s p k
def mom2At (s : State) (p k i : Nat) : Nat := shBase s p k + 2 * planeW s p k + (2 + i) * planeM s p k
def shadowAt (s : State) (p k : Nat) : Nat :=
  shBase s p k + 2 * planeW s p k + (if shRule s p k = 0 then 4 else 2) * planeM s p k

/-- Resident bytes: elements, then KB4 scales. -/
def resBytes (s : State) (p k : Nat) : Nat :=
  (shResFmt s p k).bytesFor (shElems s p k) + (shResFmt s p k).scalesFor (shElems s p k)

/-! ## Contributions (R361, R367, R368) -/

/-- A contribution posted to module-wide entry `e`. -/
def postContribution (s : State) (e : Nat) : State :=
  let p := e / 4096
  let k := e % 4096
  if shLedger s p k = 0 then
    wr (setLedger s p k 1) (kSh p k R_SH_LAST_STEP) (rd s (kOpt p R_NUM_STEP))
  else
    let s := { countNum s (pgOpt p) ⟨0, 1, 0⟩ 0 with svc := { s.svc with dup := true } }
    let s := wrB s (kOpt p R_OPT_STATUS) 1 true
    reportErr (bump s (pgOpt p) R_OPT_LEDGER_DUP_CNT) (pgOpt p) 0x208 (w64 e)

/-! ## Updates (R363, R364) -/

/-- One operation rounded to W40 with RNE. -/
def w40 (v : FVal) : FVal := fDecode layW40 (fRound layW40 .rne v).1
def wAdd (a b : FVal) : FVal := w40 (a.add b)
def wSub (a b : FVal) : FVal := w40 (a.add b.neg)
def wMul (a b : FVal) : FVal := w40 (a.mul b)
def wDiv (a b : FVal) : FVal := w40 (a.div b)
def wSqrt (a : FVal) : FVal := w40 a.sqrt

/-- base^t by repeated squaring, from the lowest bit of t (log entry 72). -/
def wPowGo : Nat → FVal → Nat → FVal → FVal
  | 0, _, _, acc => acc
  | f + 1, base, t, acc =>
    if t = 0 then acc else wPowGo f (wMul base base) (t / 2) (if t % 2 = 1 then wMul acc base else acc)
def wPow (base : FVal) (t : Nat) : FVal := wPowGo 64 base t .one

/-- The active parameters of an entry's set, as values (R365). -/
structure OptPar where
  lr : FVal
  b1 : FVal
  b2 : FVal
  eps : FVal
  wd : FVal
  mul : FVal
  clip : FVal

def optPar (s : State) (p set : Nat) : OptPar :=
  let f := fun (off hi lo : Nat) => fDecode layFp32 (rdF s (kOpt p (off + 64 * set)) hi lo)
  ⟨f R_OPT_SET_ACTIVE_word_0 31 0, f R_OPT_SET_ACTIVE_word_0 63 32, f R_OPT_SET_ACTIVE_word_1 31 0, f R_OPT_SET_ACTIVE_word_1 63 32,
   f R_OPT_SET_ACTIVE_word_2 31 0, f R_OPT_SET_ACTIVE_word_2 63 32, f R_OPT_SET_ACTIVE_word_3 31 0⟩

/-- LS_EXP, signed. -/
def lsExp (s : State) (p : Nat) : Int := sext 8 (rdF s (kOpt p R_OPT_LOSS) 7 0)

/-- The gradient of an element: scaled, then clamped where CLIP is nonzero. -/
def optGrad (q : OptPar) (ls : Int) (g : FVal) : FVal :=
  let g := w40 ((wMul g q.mul).scale (-ls))
  if q.clip.isZero then g else FVal.max (FVal.min g q.clip) q.clip.neg

/-- sign(c): 0 for either zero, NaN for NaN. -/
def optSign (c : FVal) : FVal :=
  match c with
  | .nan => .nan
  | .inf n => .fin n 1 0
  | .fin n m _ => if m = 0 then .zero else .fin n 1 0

/-- Table: Update rules: new master, first and second moment. `c1`, `c2` are 1 - beta^t. -/
def optRule (rule : Nat) (q : OptPar) (c1 c2 w m v g : FVal) : FVal × FVal × FVal :=
  let decay := wMul (wMul q.lr q.wd) w
  if rule = 0 then
    let m' := wAdd (wMul q.b1 m) (wMul (wSub .one q.b1) g)
    let v' := wAdd (wMul q.b2 v) (wMul (wSub .one q.b2) (wMul g g))
    let step := wDiv (wMul q.lr (wDiv m' c1)) (wAdd (wSqrt (wDiv v' c2)) q.eps)
    (wSub (wSub w decay) step, m', v')
  else if rule = 1 then
    let m' := wAdd (wMul q.b1 m) g
    (wSub (wSub w decay) (wMul q.lr m'), m', v)
  else
    let c := wAdd (wMul q.b1 m) (wMul (wSub .one q.b1) g)
    (wSub (wSub w decay) (wMul q.lr (optSign c)), wAdd (wMul q.b2 m) (wMul (wSub .one q.b2) g), v)

/-- Values from 0 onward with their position. -/
def indexed {α : Type} : Nat → List α → List (Nat × α)
  | _, [] => []
  | n, a :: l => (n, a) :: indexed (n + 1) l

/-- Do the draws of a Panel engine's source serve (R116, R117)? -/
def engDraws (s : State) (page : Nat) : Bool := !reducedService s && !s.srFailed.contains page

/-- The draw key of an engine page and a TAG. -/
def engKey (s : State) (page tag : Nat) : DrawKey :=
  ⟨(rd s (reg page R_NUM_STEP)).toNat, (rd s (reg page R_NUM_SEED)).toNat, (rd s (reg page R_NUM_SHARD)).toNat, tag, 0, 0⟩

/-- The source of an engine's page is about to make draws: if its two copies disagree, it fails (R115) and the roundings that follow find it failed. -/
def engCheck (s : State) (page : Nat) (rne : Bool) : State :=
  if !rne && engDraws s page && s.srSick.contains (page, 0) then pageSrFail { s with srSick := s.srSick.filter (fun x => x != (page, 0)) } page else s

/-- The rounding of element `i` at site 4, quantity `col`, or site 5, with the inputs latched (R99). -/
def engRnd (s : State) (page : Nat) (key : DrawKey) (site col : Nat) (rne : Bool) (i : Nat) : Rnd :=
  if rne || !engDraws s page then .rne else .sr (draw key site (i / 2 ^ 32) col i)

/-- Attach roundings to values. -/
def withEng (s : State) (page : Nat) (key : DrawKey) (site col : Nat) (rne : Bool) (vs : List FVal) : List (FVal × Rnd) :=
  (indexed 0 vs).map (fun e => (e.2, engRnd s page key site col rne e.1))

/-- Poisoned granules count one non-finite value each in an engine's page. -/
def countMarked (s : State) (page a : Nat) (l : List (Byte × Bool)) : State :=
  let gs := ((indexed 0 l).filter (fun e => e.2.2)).map (fun e => (a + e.1) / 64)
  countNum s page ⟨0, (dedup gs).length, 0⟩ 0

/-- A plane is read: bytes with marks. -/
def planeRead (s : State) (f : Fmt) (a n : Nat) : State × List FVal :=
  let r := spanRead s a (f.bytesFor n)
  let q := spanRead r.1 (a + f.bytesFor n) (f.scalesFor n)
  (if f = .kb4 then q.1 else r.1, elemVals f n r.2 (if f = .kb4 then q.2 else []))

/-- A plane is written with its conversion counted. -/
def planeWrite (s : State) (p : Nat) (f : Fmt) (a : Nat) (vs : List (FVal × Rnd)) : State :=
  let w := elemPut f vs
  countNum (panelWrite s (0x4C + p) a (w.1 ++ w.2.1)) (pgOpt p) w.2.2 0

/-- Is an update held back by ABANDON (14_recovery.md R386)? -/
def optHeld (s : State) : Bool := s.recov.op == 6 || rdB s (reg (pgRec 0) R_REC_STATUS) 5

/-- OPT_UPDATE: the entry's planes of index 1 - CUR_PLANE and its resident shadow are written. -/
def optUpdate (s : State) (p k : Nat) : State :=
  let n := shElems s p k
  let f := kSh p k R_SH_GRAD
  if 4096 ≤ k ∨ !domOn s (44 + p) ∨ frozen s (0x4C + p) ∨ blockHeld s (pgOpt p) ∨ !shValid s p k ∨ shLedger s p k ≠ 1 ∨ s.optWritten.contains (4096 * p + k)
      ∨ optHeld s ∨ shRule s p k = 3 ∨ memWaits s (shBase s p k) ∨ memWaits s (rdF s f 63 6 * 64) then s
  else
    let cur := curPlane s p
    let cfg := rd s (kOpt p R_OPT_CFG)
    let q := optPar s p (rdF s (kSh p k R_SH_CFG) 60 58)
    let t := (rd s (kOpt p R_NUM_STEP)).toNat + 1
    let c1 := wSub .one (wPow q.b1 t)
    let c2 := wSub .one (wPow q.b2 t)
    let ls := lsExp s p
    let mf := shMomFmt s p k
    let w := planeRead s .fp32 (masterAt s p k cur) n
    let m := planeRead w.1 mf (mom1At s p k cur) n
    let v := if shRule s p k = 0 then planeRead m.1 mf (mom2At s p k cur) n else (m.1, List.replicate n .zero)
    let g := planeRead v.1 ((fmtOf (rdF s f 3 0)).getD .fp32) (rdF s f 63 6 * 64) n
    let s := engCheck g.1 (pgOpt p) (bitAt cfg 0 && bitAt cfg 1 && bitAt cfg 2)
    let new := (List.zip (List.zip w.2 m.2) (List.zip v.2 g.2)).map (fun x =>
      optRule (shRule s p k) q c1 c2 x.1.1 x.1.2 x.2.1 (optGrad q ls x.2.2))
    let pg := pgOpt p
    let key := engKey s pg (shTag s p k)
    let wr' := withEng s pg key 4 0 (bitAt cfg 0) (new.map (fun x => x.1))
    let w32 := (wr'.map (fun x => fDecode layFp32 (fRound layFp32 x.2 x.1).1))
    let m' := withEng s pg key 4 1 (bitAt cfg 1) (new.map (fun x => x.2.1))
    let v' := withEng s pg key 4 2 (bitAt cfg 1) (new.map (fun x => x.2.2))
    let r' := withEng s pg key 4 3 (bitAt cfg 2) w32
    let s := planeWrite s p .fp32 (masterAt s p k (1 - cur)) wr'
    let s := planeWrite s p mf (mom1At s p k (1 - cur)) m'
    let s := if shRule s p k = 0 then planeWrite s p mf (mom2At s p k (1 - cur)) v' else s
    let s := planeWrite s p (shResFmt s p k) (shadowAt s p k) r'
    { bumpN s pg R_OPT_ELEM_CNT n with optWritten := s.optWritten ++ [4096 * p + k] }

def execOptUpdate (p : Panel) (k : Nat) (s : State) : Out := .next (optUpdate s p k)

/-- OPT_UPDATE_DONE: every plane is written; the entry is UPDATED. -/
def execOptUpdateDone (p : Panel) (k : Nat) (s : State) : Out :=
  .next (if domOn s (44 + p.val) ∧ s.optWritten.contains (4096 * p.val + k) then
    { setLedger s p k 2 with optWritten := s.optWritten.filter (fun x => x != 4096 * p.val + k) } else s)

/-! ## Loss scale and parameters (R365, R366) -/

/-- LS_EXP changes to `n`. -/
def setLs (s : State) (p : Nat) (n : Int) : State :=
  if lsExp s p = n then s
  else bump (wrF s (kOpt p R_OPT_LOSS) 7 0 (n % 256).toNat) (pgOpt p) R_OPT_LS_CHANGE_CNT

/-- R366 after an outcome: LS_EXP moves by 1 inside LS_MIN and LS_MAX; one that stands outside them already does not move. -/
def lossStep (s : State) (p : Nat) (commit : Bool) : State :=
  let k := kOpt p R_OPT_LOSS
  if !rdB s k 24 then s
  else if !commit then
    setLs (wrF s k 63 48 0) p (if sext 8 (rdF s k 15 8) < lsExp s p then lsExp s p - 1 else lsExp s p)
  else
    let n := rdF s k 63 48 + 1
    let gi := rdF s k 47 32
    if gi ≠ 0 ∧ n = gi then setLs (wrF s k 63 48 0) p (if lsExp s p < sext 8 (rdF s k 23 16) then lsExp s p + 1 else lsExp s p)
    else wrF s k 63 48 n

/-- The staged parameter sets become active. -/
def paramsStep (s : State) (p : Nat) : State :=
  (List.range 32).foldl (fun s i =>
    let off := 64 * (i / 4) + 8 * (i % 4)
    wr s (kOpt p (R_OPT_SET_ACTIVE_word_0 + off)) (rd s (kOpt p (R_OPT_SET_STAGE_word_0 + off)))) s

/-- Every valid entry returns to EXPECTED. -/
def ledgerReset (s : State) (p : Nat) : State :=
  { (shEntries s p).foldl (fun s k => setLedger s p k 0) s with optWritten := s.optWritten.filter (fun x => x / 4096 != p) }

/-- WRITE_IGN. -/
def writeIgn (s : State) (p : Nat) : State := wrB s (kOpt p R_OPT_STATUS) 2 true

/-- A write of OPT_LOSS (R366). -/
def optLossWrite (s : State) (p : Nat) (v : Word) : State :=
  if (shEntries s p).all (fun k => shLedger s p k == 0) then fieldWrite s (pgOpt p) R_OPT_LOSS v true false else writeIgn s p

/-- A write of a register of a shard entry (R369). -/
def shardWrite (s : State) (p k off : Nat) (v : Word) : State :=
  let page := pgOpt p + 1 + k / 32
  let o := off + 64 * (k % 32)
  let idle := (shEntries s p).all (fun k => shLedger s p k == 0)
  if off = R_SH_CFG then
    let was := shValid s p k
    if (was != bitAt v 63 && !idle) || (was && bitAt v 63 && (((v ^^^ rd s (kSh p k R_SH_CFG)) &&& ~~~ maskHL 62 61) != 0)) then
      writeIgn s p
    else if was then (if bitAt v 63 then s else wrB s (kSh p k R_SH_CFG) 63 false)
    else fieldWrite s page o v true false
  else if shValid s p k then writeIgn s p else fieldWrite s page o v true false

/-! ## Resident tiles (R371, log entry 73) -/

/-- Where element `e` of a shard stands in copy `y` of its resident tile: along the storage order of a single copy, else in the natural order, output
major (05_forward_backward.md R121). -/
def resElem (t : Tile) (e : Nat) : Nat × Nat :=
  if t.hasCol then (e % t.rows, e / t.rows) else (e / t.cols, e % t.cols)

/-- The resident bytes go into every copy of the tile of entry `k`. A KB4 copy along the other axis is formed in blocks of its own (05_forward_backward.md R125): a
conversion at the optimizer-engine point, with the rounding of the resident copy, the same draw for an element in both copies, and its counts (R103, R364;
DEDUCED, log entry 73). -/
def putResident (s : State) (p k : Nat) (t : Tile) (f : Fmt) (data scales : List (Byte × Bool)) : State :=
  let n := t.rows * t.cols
  let mid := 0x4C + p
  let natural := if t.hasCol then 1 else 0
  if f = .kb4 then
    let line := if natural = 1 then t.rows else t.cols
    let direct := fun (s : State) =>
      (indexed 0 (List.zip (groupsOfK 8 (n / 16) data) scales)).foldl (fun s b =>
        let rc := resElem t (16 * b.1)
        let e := t.elemNo natural rc.1 rc.2
        panelWrite (panelWrite s mid (t.base natural + e / 2) (bytesOf b.2.1)) mid (t.sbase natural + e / 16) [b.2.2.1]) s
    let s := direct s
    if t.hasRow && t.hasCol then
      let vs := elemVals f n data scales
      let rne := rdB s (kOpt p R_OPT_CFG) 2
      let s := engCheck s (pgOpt p) rne
      let key := engKey s (pgOpt p) (shTag s p k)
      let row := fun (s : State) (r : Nat) => (List.range t.cols).map (fun c =>
        (nth FVal.zero vs (c * line + r), engRnd s (pgOpt p) key 4 3 rne (c * line + r)))
      (List.range t.rows).foldl (fun s r =>
        let w := elemPut f (row s r)
        let s := panelWrite (panelWrite s mid (t.base 0 + t.elemNo 0 r 0 / 2) w.1) mid (t.sbase 0 + t.elemNo 0 r 0 / 16) w.2.1
        countNum s (pgOpt p) w.2.2 0) s
    else s
  else
    let es := indexed 0 (groupsOfK (f.nibbles / 2) n data)
    es.foldl (fun s b =>
      let rc := resElem t b.1
      t.copies.foldl (fun s y => panelWrite s mid (t.addr y (t.elemNo y rc.1 rc.2)) (bytesOf b.2)) s) s

/-- The tile descriptor of an entry's resident copy. -/
def resTile (s : State) (p k : Nat) : State × Option Tile :=
  let r := spanRead s (rdF s (kSh p k R_SH_RES_DESC) 63 6 * 64) 64
  let t := tileOf (BitVec.ofNat 512 (bytesVal (bytesOf r.2)))
  (r.1, if anyMarked r.2 || !t.descOk || t.rows * t.cols != shElems s p k then none else some t)

/-- Copy an entry's resident shadow into its resident tile. -/
def copyResident (s : State) (p k : Nat) : State :=
  let f := shResFmt s p k
  let n := shElems s p k
  let a := shadowAt s p k
  let d := spanRead s a (f.bytesFor n)
  let c := spanRead d.1 (a + f.bytesFor n) (f.scalesFor n)
  let s := if f = .kb4 then c.1 else d.1
  let t := resTile s p k
  match t.2 with
  | none => t.1
  | some t' => putResident t.1 p k t' f d.2 (if f = .kb4 then c.2 else [])

/-- The resident bytes of an entry as its tile holds them, in the shard's natural order: elements, then KB4 scales (14_recovery.md
R381). -/
def getResident (s : State) (p k : Nat) : State × List (Byte × Bool) :=
  let f := shResFmt s p k
  let r := resTile s p k
  match r.2 with
  | none => (r.1, List.replicate (resBytes s p k) (0, true))
  | some t =>
    let y := if t.hasCol then 1 else 0
    let at' := fun (e : Nat) => let rc := resElem t e; t.elemNo y rc.1 rc.2
    let n := t.rows * t.cols
    let read := fun (acc : State × List (Byte × Bool)) (a len : Nat) => let q := spanRead acc.1 a len; (q.1, acc.2 ++ q.2)
    if f = .kb4 then
      let d := (List.range (n / 16)).foldl (fun acc b => read acc (t.base y + at' (16 * b) / 2) 8) (r.1, [])
      (List.range (n / 16)).foldl (fun acc b => read acc (t.sbase y + at' (16 * b) / 16) 1) d
    else (List.range n).foldl (fun acc e => read acc (t.addr y (at' e)) (f.nibbles / 2)) (r.1, [])

/-! ## Outcomes (R371 to R373, R379, R387) -/

abbrev kRec (p off : Nat) : Nat := reg (pgRec p) off

/-- The address range of the mirror header in the buddy's map for step `n`. -/
def mirrorSlot (s : State) (n : Nat) : Nat :=
  rdF s (kRec 0 R_REC_MIR_BASE) 63 12 * 4096 + (n % 2) * (rdF s (kRec 0 R_REC_MIR_SLOT) 31 0 * 4096)

def buddyOn (s : State) : Bool := rdB s (kRec 0 R_REC_CFG) 16
def buddy (s : State) : Nat := rdF s (kRec 0 R_REC_CFG) 11 0

/-- The bytes of a Panel's mirror part, in the layout of R381: each element with a mark where it was read poisoned. -/
def partBytes (s : State) (p : Nat) : State × List (Byte × Bool) :=
  (shEntries s p).foldl (fun (acc : State × List (Byte × Bool)) k =>
    let n := shElems s p k
    let cur := curPlane s p
    let mb := (shMomFmt s p k).bytesFor n
    let w := spanRead acc.1 (masterAt s p k cur) (4 * n)
    let m := spanRead w.1 (mom1At s p k cur) mb
    let v := if shRule s p k = 0 then spanRead m.1 (mom2At s p k cur) mb else (m.1, [])
    let r := getResident v.1 p k
    (r.1, acc.2 ++ w.2 ++ m.2 ++ v.2 ++ r.2)) (s, [])

/-- WRITE frames of class `c` that put bytes at `a` of a partner. -/
def writeFrames (c a : Nat) (bytes : List Byte) : List WFrame :=
  (indexed 0 (groupsOfK 512 (bytes.length / 512 + 1) bytes)).map (fun b =>
    { bareFrame c 0 with len := b.2.length, addr := a + 512 * b.1, payload := b.2 })

/-- Queue frames for a partner entry. -/
def queueFrames (s : State) (e : Nat) (fs : List WFrame) : State := { s with outbox := s.outbox ++ fs.map (fun f => (false, e, f)) }

/-- The number of poisoned granules among bytes at granule-aligned source order. -/
def poisonCount (l : List (Byte × Bool)) : Nat := (groupsOfK 64 (l.length / 64 + 1) l).countP anyMarked

/-- A snapshot and mirror of the present state start (R379, R381): the slots are unsealed, the mirror parts handed to the links. -/
def snapStart (s : State) : State :=
  let n := (rd s (kOpt 0 R_NUM_STEP)).toNat
  let slotAt := fun (p : Nat) => rdF s (kRec p R_REC_SNAP_BASE) 63 12 * 4096 + (n % 2) * (rdF s (kRec p R_REC_SNAP_SLOT) 31 0 * 4096)
  let s := (List.range 4).foldl (fun s p =>
    let b := spanRead s (slotAt p + 32) 1
    let s := panelWrite b.1 (0x50 + p) (slotAt p + 32) ((bytesOf b.2).map (fun x => x &&& 0xFE))
    wrB (wrB s (kRec p R_REC_STATUS) 4 true) (kRec p R_REC_STATUS) 2 false) s
  let s := { s with sealDue := [0, 1, 2, 3, 4], mirHeader := none }
  if !buddyOn s then s
  else
    let s := wrB s (kRec 0 R_REC_STATUS) 3 true
    let slot := mirrorSlot s n
    (List.range 4).foldl (fun s p =>
      let r := partBytes s p
      let s := wrB r.1 (kRec p R_REC_STATUS) 3 true
      let s := bumpN s (pgRec p) R_REC_POISON_CNT (poisonCount r.2)
      let s := bumpN s (pgRec p) R_REC_MIRROR_BYTES_CNT r.2.length
      queueFrames s (buddy s) (writeFrames 2 (slot + 4096 + p * (rdF s (kRec p R_REC_MIR_PART) 31 0 * 4096)) (bytesOf r.2))) s

/-- The outcome has been applied by all four engines (R373): Panel 0 rings VOTE_BTN, held commands may start, and after a
commit the snapshot begins and the service firmware is to advance the ingest cursor. A step discarded for LEDGER_DUP is not rerun: the firmware is to stop the
job (05_forward_backward.md R144). -/
def finishVote (s : State) (commit : Bool) : State :=
  let s := (List.range 4).foldl (fun s p => wrB s (reg (pgColl p) R_COLL_STATUS) 3 false) s
  let s := ringBtn s 0x40 (rdF s (kOpt 0 R_OPT_CFG) 12 8) false
  let dup := s.svc.dup
  let s := { s with svc := { s.svc with dup := false } }
  if commit then snapStart { s with svc := { s.svc with advance := true } } else if dup then stopOwed s 0x208 else s

/-- An engine discards (R372). -/
def optDiscard (s : State) (p : Nat) : State :=
  bump (lossStep (ledgerReset s p) p false) (pgOpt p) R_OPT_DISCARD_CNT

/-- Every engine is to commit, or discards at once. -/
def applyOutcome (s : State) (discard : Bool) : State :=
  if discard then finishVote ((List.range 4).foldl optDiscard s) false
  else
    let s := (List.range 4).foldl (fun s p => wrB s (kOpt p R_OPT_STATUS) 3 true) s
    { s with optDue := [0, 1, 2, 3], optWaited := [] }

/-- The actions of a commit from step 2 (R371). -/
def optApply (s : State) (p : Nat) : State :=
  let s := wrB s (kOpt p R_OPT_STATUS) 0 (curPlane s p == 0)
  let s := (shEntries s p).foldl (fun s k => copyResident s p k) s
  let n := (rd s (kOpt p R_NUM_STEP)).toNat + 1
  let s := wr (wr s (kOpt p R_NUM_STEP) (w64 n)) (kOpt p R_BLK_SHADOW_COMMIT) (w64 n)
  let s := lossStep (paramsStep s p) p true
  let s := bump (ledgerReset s p) (pgOpt p) R_OPT_COMMIT_CNT
  let s := wrB (wrB s (kOpt p R_OPT_STATUS) 3 false) (kRec p R_REC_STATUS) 2 false
  { s with optDue := s.optDue.filter (fun x => x != p) }

/-- OPT_COMMIT: the commit waits for its Panel's snapshot, then applies. -/
def optCommit (s : State) (p : Nat) : State :=
  if !domOn s (44 + p) ∨ blockHeld s (pgOpt p) ∨ !s.optDue.contains p ∨ (shEntries s p).any (fun k => memWaits s (shBase s p k)) then s
  else if !rdB s (kRec p R_REC_STATUS) 2 then
    if s.optWaited.contains p then s
    else { bump s (pgOpt p) R_OPT_SNAP_WAIT_CNT with optWaited := s.optWaited ++ [p] }
  else
    let s := optApply s p
    if s.optDue = [] then finishVote s true else s

def execOptCommit (p : Panel) (s : State) : Out := .next (optCommit s p)

/-- The address of the ingest cursor (R17; 14_recovery.md REC_INGEST). -/
def cursorAt (s : State) : Nat := rdF s (kRec 0 R_REC_INGEST) 63 3 * 8

/-- Does service processor 0 run its firmware: domain ON, not frozen, its clock running, its accounting state whole? -/
def svcRuns (s : State) : Bool := domOn s 44 && !frozen s 0x40 && !blockHeld s (pgSvc 0) && !hemHeld s 25

/-- After a commit the service firmware advances the ingest ring's data cursor (R17, R373), by what the spec does not say (log entry 79). -/
def advanceCursor (s : State) : State :=
  if !s.svc.advance then s
  else
    let r := spanRead s (cursorAt s) 8
    let v := w64 (bytesVal (bytesOf r.2)) + Config.ingestAdvance (rd s (kOpt 0 R_NUM_STEP)).toNat
    let s := panelWrite r.1 0x40 (cursorAt s) (valBytes 8 v.toNat)
    { s with svc := { s.svc with advance := false } }

/-- STEP_START: with no outcome open, service processor 0 advances the ingest cursor where a commit asks for it, writes NUM_STEP of optimizer engine 0 to
the four collective engines and sends the step-start message (R373). A step discarded for LEDGER_DUP gets none (05_forward_backward.md R144). -/
def stepStart (s : State) : State :=
  if !svcRuns s ∨ s.svc.stopped ∨ s.svc.stopFor.isSome ∨ s.closing.stage ≠ 0 ∨ s.optDue ≠ [] ∨ (s.svc.advance ∧ memWaits s (cursorAt s)) then s
  else
    let s := advanceCursor s
    let n := rd s (kOpt 0 R_NUM_STEP)
    let s := (List.range 4).foldl (fun s p => if domOn s (44 + p) then wr s (reg (pgColl p) R_NUM_STEP) n else s) s
    { s with stepMsgs := s.stepMsgs ++ [n] }

def execStepStart (s : State) : Out := .next (stepStart s)

end Sys2Proof.Machine
end

