-- ==== Sys2Proof/Machine/Control.lean ====
section
/-! DEFINITION. The control core: contexts, the taking of records, issue, scalar, predicate, flow and loop records, breakpoints
(06_control_core.md R146 to R156, R163 to R168, R175 to R184; 07_command_encoding.md R186 to R189, R208). -/
namespace Sys2Proof.Machine

/-! ## Contexts started and stopped from their page (R147, R148, R182) -/

/-- HALTED or not, an IDLE context is one whose state beneath is IDLE. -/
def ctlStart (s : State) (c x : Nat) : State :=
  if (ctxOf s c x).st = .idle ∧ !(ctxOf s c x).halted then modCtx s c x (fun k => { k with st := .ready, haltNext := false }) else s

/-- A context leaves the wait it was in: its request on the way loses its receiver, its wait entry is dropped, in the Yoke too. -/
def dropWait (s : State) (c x : Nat) : State :=
  modCtx (orphanReq (dropYoke s c x) c x) c x (fun k =>
    { k with wait := none, wakePending := false, woken := false, released := false, req := none, ans := none })

def ctlStop (s : State) (c x : Nat) : State :=
  let k := ctxOf s c x
  if k.halted || k.st == .error then
    let s := modCtx (dropWait s c x) c x (fun k =>
      { k with halted := false, stepping := false, bpSkip := false, haltNext := false })
    if k.halted && k.task.isSome then
      beginDiscard (modCtx s c x (fun k => { k with st := .waitLocal, lw := .task })) c x (.discard 4)
    else closeAcc (modCtx s c x (fun k => { k with st := .idle, lw := .none })) c x
  else s

/-- An executed record completes: counted, and the PC at the next record (R150, R184). -/
def execDone (s : State) (c x : Nat) : State :=
  bump (setPc s c x (ctxPc s c x + 32)) (pgCore c) R_CC_EXEC_CNT

/-- A synchronisation record completes. -/
def syncComplete (s : State) (c x : Nat) : State :=
  execDone (modCtx s c x (fun k =>
    { k with st := .ready, wait := none, ans := none, req := none, wakePending := false, woken := false, released := false })) c x

/-- A wake that a context has kept acts: the record executes again, or, with the release that a barrier wait was for, it completes (09_yoke_pockets.md R240,
R247). -/
def keptWake (s : State) (c x : Nat) : State :=
  if (ctxOf s c x).released then syncComplete s c x
  else modCtx s c x (fun k => { k with st := .ready, wait := none, wakePending := false, woken := true })

/-- A HALTED context goes on: into READY, or the wait beneath (R182); a wake it kept acts, unless its core is frozen (09_yoke_pockets.md R240). -/
def unhalt (s : State) (c x : Nat) (step : Bool) : State :=
  let k := ctxOf s c x
  if !k.halted then s
  else
    let s := modCtx s c x (fun k => { k with halted := false, bpSkip := true, stepping := step, haltNext := false })
    if k.wakePending && !frozen s c then keptWake s c x else s

def ctlResume (s : State) (c x : Nat) : State := unhalt s c x false
def ctlStep (s : State) (c x : Nat) : State := unhalt s c x true

/-- A write of CTX_CTL acts as STOP, START, RESUME, STEP in that order (R148). -/
def ctxCtlWrite (s : State) (c x : Nat) (v : Word) : State :=
  let s := if bitAt v 1 then ctlStop s c x else s
  let s := if bitAt v 0 then ctlStart s c x else s
  let s := if bitAt v 2 then ctlResume s c x else s
  if bitAt v 3 then ctlStep s c x else s

def ctxCtl (mid : Mid) (c : Core) (x : CtxId) (v : Word) (s : State) : Out :=
  .next (guardWrite s mid.toNat (pgCtx c x) R_CTX_CTL v (fun s => ctxCtlWrite s c x v))

def execStart (mid : Mid) (c : Core) (x : CtxId) (s : State) : Out := ctxCtl mid c x 1 s
def execStop (mid : Mid) (c : Core) (x : CtxId) (s : State) : Out := ctxCtl mid c x 2 s
def execResume (mid : Mid) (c : Core) (x : CtxId) (s : State) : Out := ctxCtl mid c x 4 s
def execStepCtx (mid : Mid) (c : Core) (x : CtxId) (s : State) : Out := ctxCtl mid c x 8 s

/-- A write of CC_CTL: RESUME_ALL first, then HALT_ALL, which Cloak ignores (R183, R184). -/
def ccCtlWrite (s : State) (c : Nat) (v : Word) : State :=
  let s := if bitAt v 1 then
      (List.range 8).foldl (fun s x => ctlResume s c x) (wrB s (kCore c R_CC_CTL) 0 false)
    else s
  if cloaked s then s else wrB s (kCore c R_CC_CTL) 0 (bitAt v 0)

def execHaltAll (mid : Mid) (c : Core) (s : State) : Out :=
  .next (guardWrite s mid.toNat (pgCore c) R_CC_CTL 1 (fun s => ccCtlWrite s c 1))

def execResumeAll (mid : Mid) (c : Core) (s : State) : Out :=
  .next (guardWrite s mid.toNat (pgCore c) R_CC_CTL 2 (fun s => ccCtlWrite s c 2))

/-! ## Taking a record (R151, R166, R175, R181, R182, R186) -/

/-- Is the task of a context being discarded? -/
def discarding (t : TaskSt) : Bool :=
  match t.closing with
  | some (.discard _) => true
  | some .halt => true
  | _ => false

/-- Does a context compete for issue? None does until its discard is done (R174). -/
def eligible (s : State) (c x : Nat) : Bool :=
  (ctxOf s c x).st == .ready && !(ctxOf s c x).halted && !(ctxOf s c x).task.any discarding

/-- The context whose turn it is: the first that competes after the one that last took a record (R151). -/
def turnOf (s : State) (c : Nat) : Option Nat :=
  ((List.range 8).map (fun i => ((coreOf s c).rr + 1 + i) % 8)).find? (eligible s c)

/-- The control core fetches the record at the PC of context `x`: its words are checked (08_core_store_streaming.md R213), its bank is asked (R212). -/
def fetchRec (s : State) (c x : Nat) : State :=
  let a := csBase c + ctxPc s c x
  if offInData (ctxPc s c x) && !csRetired s c a then askBanks (csCheck s c a 32 false) 7 0 [(a, a + 32)] else s

/-- Context `x` has taken a record: the round-robin pointer, and a single step ends (R182). -/
def took (s : State) (c x : Nat) : State :=
  let s := fetchRec s c x
  let s := modCore s c (fun k => { k with rr := x, took := k.took + 1 })
  modCtx s c x (fun k => { k with bpSkip := false, stepping := false, halted := k.halted || k.stepping })

/-- A context halts before its record. -/
def haltCtx (s : State) (c x : Nat) : State := modCtx s c x (fun k => { k with halted := true, haltNext := false })

/-- A breakpoint fires (R181). -/
def breakHit (s : State) (c x : Nat) : State :=
  let s := haltCtx s c x
  if rdB s (kCtx c x R_BP_CTL) 7 then
    (List.range 8).foldl (fun s y =>
      if y ≠ x ∧ (ctxOf s c y).st ≠ .idle ∧ (ctxOf s c y).st ≠ .error then modCtx s c y (fun k => { k with haltNext := true }) else s) s
  else s

/-- Does the tag breakpoint match (R181)? None fires under Cloak (R183). -/
def tagHit (s : State) (c x : Nat) (r : Rec) : Bool :=
  !cloaked s && rdB s (kCtx c x R_BP_CTL) 1
    && (Nat.land (recTag r) (rdF s (kCtx c x R_BP_TAG) 31 16)
        == Nat.land (rdF s (kCtx c x R_BP_TAG) 15 0) (rdF s (kCtx c x R_BP_TAG) 31 16))

def cmdHit (s : State) (c x : Nat) : Bool :=
  !cloaked s && rdB s (kCtx c x R_BP_CTL) 0 && rd s (kCtx c x R_CTX_CMD_CNT) == rd s (kCtx c x R_BP_CMD_COUNT)

/-- What comes of a context's turn: nothing, a new state with no record acting, or a record to act on. -/
inductive Gate | stay | done (s : State) | act (r : Rec)

/-- The turn of context `x` for a record of the kind `row` accepts. RESUME and STEP let the context past a tag breakpoint for the record it then takes;
where that is a synchronisation record that waits and executes again after its wake, the spec does not say whether the breakpoint is checked again at it
(R182): the model checks it (DESIGN CHOICE, log entry 118). -/
def takeGate (s : State) (c x : Nat) (row : Nat → Bool) : Gate :=
  let k := ctxOf s c x
  if !coreRuns s c || frozen s c || turnOf s c != some x then .stay
  else
    let pc := ctxPc s c x
    let free := k.stepping
    if !free && (rdB s (kCore c R_CC_CTL) 0 || k.haltNext) then .done (haltCtx s c x)
    else if !offInData pc then .done (refuse (took s c x) c x 0x02 pc 0)
    else if csRetired s c (csBase c + pc) then .done (refuse (took s c x) c x 0x02 pc 0)
    else
      let r := ctxRec s c x
      if (wordsOf (csBase c + pc) 32).any (isBad s.mem) then
        .done (refuse (took s c x) c x 0x01 pc (recTag r))
      else if (recLay (recOp r)).isSome && !row (recOp r) then .stay
      else if !free && !k.bpSkip && tagHit s c x r then .done (breakHit s c x)
      else if !decodeOk r then .done (refuse (took s c x) c x 0x01 pc (recTag r))
      else if predOf s c x (bits r 10 8) == bitAt r 11 then
        .done (bump (setPc (took s c x) c x (pc + 32)) (pgCore c) R_CC_SKIP_CNT)
      else .act r

/-- An executed record of one operation: `f` is its effect after it is taken. -/
def execRec (s : State) (c x op : Nat) (f : State → Rec → State) : State :=
  match takeGate s c x (fun o => o == op) with
  | .stay => s
  | .done s => s
  | .act r => f (modCtx (took s c x) c x (fun k => { k with cur := r })) r

/-- A record that sends the PC to `pc`: any place but the next record costs a refetch (R165). -/
def retarget (s : State) (c x pc : Nat) : State :=
  let s' := bump (setPc s c x pc) (pgCore c) R_CC_EXEC_CNT
  if pc = ctxPc s c x + 32 then s' else modCtx s' c x (fun k => { k with st := .waitLocal, lw := .refetch })

/-- Refuse the record at the context's PC. -/
def refuseHere (s : State) (c x code : Nat) (r : Rec) : State := refuse s c x code (ctxPc s c x) (recTag r)

/-! ## Issue (R150 to R154, R188) -/

/-- The entry of an issued record. -/
def issueEntry (s : State) (c x : Nat) (r : Rec) : QEntry :=
  { id := (coreOf s c).nextId, ctx := x, pc := ctxPc s c x, word := r, bases := opndBases s c x r,
    kLen := if bitAt r 88 && recOp r == 0x40 then (scalarSrc s c x (bits r 87 80)).toNat else bits r 159 128,
    task := (ctxOf s c x).task.isSome, arrived := false, desc := [], fired := false,
    key := ⟨0, 0, 0, recTag r, x, (rd s (kCtx c x R_CTX_SEQ)).toNat⟩, shifted := [] }

/-- Put an entry at the end of queue `n`. -/
def enqueue (s : State) (c n : Nat) (q : QEntry) : State :=
  modCore s c (fun k =>
    let k := { k with nextId := k.nextId + 1 }
    match n with
    | 0 => { k with opeQ := k.opeQ ++ [q] }
    | 1 => { k with vecQ := k.vecQ ++ [q] }
    | _ => { k with strQ := k.strQ ++ [q] })

/-- A record is issued: the entry, DRAW_SEQ, the command count, post-increments (R101, R150, R188). -/
def issue (s : State) (c x n : Nat) (r : Rec) : State :=
  let q := issueEntry s c x r
  let s := enqueue (took s c x) c n q
  let s := wr s (kCtx c x R_CTX_SEQ) (w64 ((q.key.seq + 1) % 8192))
  let s := wr s (kCtx c x R_CTX_CMD_CNT) (rd s (kCtx c x R_CTX_CMD_CNT) + 1)
  let s := bump (postIncs s c x r) (pgCore c) R_CC_ISSUE_CNT
  setPc s c x (q.pc + 32)

def execEngineRecordIssue (c : Core) (x : CtxId) (s : State) : Out :=
  .next (match takeGate s c x (fun o => (opQueue o).isSome) with
    | .stay => s
    | .done s => s
    | .act r =>
      let k := ctxOf s c x
      if !k.stepping && !k.bpSkip && cmdHit s c x then breakHit s c x
      else match opQueue (recOp r) with
        | none => s
        | some n =>
          if queueRoom s c n then issue s c x n r else modCtx s c x (fun k => { k with st := .waitQueue }))

/-! ## NOP, MARK, HALT, FENCE, CTX.SEQ -/

def execNop (c : Core) (x : CtxId) (s : State) : Out :=
  .next (execRec s c x 0x00 (fun s _ => execDone s c x))

/-- MARK: a trace record, none under Cloak (R208, 02_handshake_time.md R48). -/
def execMark (c : Core) (x : CtxId) (s : State) : Out :=
  .next (execRec s c x 0x01 (fun s r =>
    let s := execDone s c x
    if cloaked s then s else { s with trace := s.trace ++ [(c.val, recTag r, bits r 63 32, ringNow s c)] }))

/-- HALT (R168, R174). -/
def execHalt (c : Core) (x : CtxId) (s : State) : Out :=
  .next (execRec s c x 0x02 (fun s _ =>
    let s := execDone s c x
    if (ctxOf s c x).task.isSome then
      beginDiscard (modCtx s c x (fun k => { k with st := .waitLocal, lw := .task })) c x .halt
    else settleCtx (modCtx s c x (fun k => { k with st := .waitLocal, lw := .halt })) c x))

/-- FENCE (R155). -/
def execFence (c : Core) (x : CtxId) (s : State) : Out :=
  .next (execRec s c x 0x03 (fun s r =>
    let k := coreOf s c
    let pick := fun (n : Nat) => if bitAt r (32 + n) then ((k.queue n).filter (fun q => q.ctx == x.val)).map (fun q => q.id) else []
    let ids := pick 0 ++ pick 1 ++ pick 2
    let s := execDone s c x
    if ids = [] then s else modCtx s c x (fun k => { k with st := .waitLocal, lw := .fence ids })))

/-- CTX.SEQ (R176). -/
def execCtxSeq (c : Core) (x : CtxId) (s : State) : Out :=
  .next (execRec s c x 0x04 (fun s r =>
    let v := if bitAt r 40 then bits r 60 48 else (scalarSrc s c x (bits r 39 32)).toNat % 8192
    execDone (wr s (kCtx c x R_CTX_SEQ) (w64 v)) c x))

/-! ## Scalars (R208) -/

/-- SC.ALU functions, modulo 2^64. -/
def aluOp (f : Nat) (a b : Word) : Word :=
  let sh := b.toNat % 64
  match f with
  | 0 => a + b
  | 1 => a - b
  | 2 => a * b
  | 3 => a &&& b
  | 4 => a ||| b
  | 5 => a ^^^ b
  | 6 => a <<< sh
  | 7 => a >>> sh
  | 8 => a.sshiftRight sh
  | 9 => if a.slt b then a else b
  | 10 => if a.slt b then b else a
  | 11 => if a.ult b then a else b
  | 12 => if a.ult b then b else a
  | _ => b

def setScalar (s : State) (c x n : Nat) (v : Word) : State := wr s (kCtx c x (R_S + 8 * n)) v

/-- A 32-bit immediate sign-extended to 64 bits. -/
def imm64 (n : Nat) : Word := BitVec.ofInt 64 (sext 32 n)

def execScAlu (c : Core) (x : CtxId) (s : State) : Out :=
  .next (execRec s c x 0x08 (fun s r =>
    let a := scalarSrc s c x (bits r 47 40)
    let b := if bitAt r 56 then imm64 (bits r 95 64) else scalarSrc s c x (bits r 55 48)
    execDone (setScalar s c x (bits r 37 32) (aluOp (bits r 61 57) a b)) c x))

def execScLi (c : Core) (x : CtxId) (s : State) : Out :=
  .next (execRec s c x 0x09 (fun s r => execDone (setScalar s c x (bits r 37 32) (w64 (bits r 127 64))) c x))

/-- The address of SC.LD, SC.ST and the full/empty records: base plus sign-extended OFFSET. -/
def offAddr (base : Word) (off : Nat) : Nat := addOff base.toNat (sext 32 off)

/-- Is an address a multiple of 8 in physical memory or MMIO (R208, 08_core_store_streaming.md R214)? -/
def scalarPlace (s : State) (a : Nat) : Bool :=
  a % 8 == 0 && (match regionOf a with
    | .hole _ => false
    | .none => false
    | .data c => !csRetired s c a
    | _ => true)

def startScalar (s : State) (c x : Nat) (a : ScalarAcc) : State :=
  modCtx s c x (fun k => { k with st := .waitLocal, lw := .mem a })

def execScLd (c : Core) (x : CtxId) (s : State) : Out :=
  .next (execRec s c x 0x0A (fun s r =>
    let a := offAddr (scalarSrc s c x (bits r 47 40)) (bits r 95 64)
    if !scalarPlace s a then refuseHere s c x 0x02 r else startScalar s c x (.ld a (bits r 37 32))))

def execScSt (c : Core) (x : CtxId) (s : State) : Out :=
  .next (execRec s c x 0x0B (fun s r =>
    let a := offAddr (scalarSrc s c x (bits r 47 40)) (bits r 95 64)
    match firstCode [(!scalarPlace s a, 0x02), ((ctxOf s c x).task.isSome && regionOf a != .data c, 0x09)] with
    | some code => refuseHere s c x code r
    | none => startScalar s c x (.st a (scalarSrc s c x (bits r 39 32)))))

/-- A.SET. -/
def execASet (c : Core) (x : CtxId) (s : State) : Out :=
  .next (execRec s c x 0x0C (fun s r =>
    let k := kCtx c x (R_A_BASE + 16 * bits r 35 32)
    let b := if bitAt r 48 then w64 (bits r 191 128) else scalarSrc s c x (bits r 47 40)
    let s := wr s k b
    let s := if bitAt r 49 then wr s (k + 8) (w64 (bits r 95 64)) else s
    execDone s c x))

/-! ## Predicates (R167) -/

/-- PRED.CMP conditions. -/
def cmpOp (cond : Nat) (sg : Bool) (a b : Word) : Bool :=
  let lt := if sg then a.slt b else a.ult b
  match cond with
  | 0 => a == b
  | 1 => a != b
  | 2 => lt
  | 3 => lt || a == b
  | 4 => !(lt || a == b)
  | _ => !lt

def execPredCmp (c : Core) (x : CtxId) (s : State) : Out :=
  .next (execRec s c x 0x10 (fun s r =>
    let sg := bitAt r 60
    let a := scalarSrc s c x (bits r 47 40)
    let b := if bitAt r 56 then (if sg then imm64 (bits r 95 64) else w64 (bits r 95 64)) else scalarSrc s c x (bits r 55 48)
    execDone (setPred s c x (bits r 34 32) (cmpOp (bits r 59 57) sg a b)) c x))

def execPredLogic (c : Core) (x : CtxId) (s : State) : Out :=
  .next (execRec s c x 0x11 (fun s r =>
    let a := predOf s c x (bits r 38 36)
    let b := predOf s c x (bits r 42 40)
    let v := match bits r 45 44 with
      | 0 => a && b
      | 1 => a || b
      | 2 => a != b
      | _ => !a
    execDone (setPred s c x (bits r 34 32) v) c x))

/-- PRED.FULL: the descriptor is read as the record executes (R193, R194). -/
def execPredFull (c : Core) (x : CtxId) (s : State) : Out :=
  .next (execRec s c x 0x12 (fun s r =>
    let base := nth 0 (opndBases s c x r) 0
    if !baseOk c base then refuseHere s c x 0x02 r
    else
      let t := tileOf (descAt s base)
      let s := askBanks (csCheck s c base 64 false) 7 0 [(base, base + 64)]
      let view := if (ctxOf s c x).task.isSome then some (8 * c.val + x.val) else none
      execDone (postIncs (setPred s c x (bits r 34 32) (fullSeen s view t.fb)) c x r) c x))

def execPredTask (c : Core) (x : CtxId) (s : State) : Out :=
  .next (execRec s c x 0x13 (fun s r => execDone (setPred s c x (bits r 34 32) (ctxOf s c x).taskCommitted) c x))

/-! ## Branches and loops (R163 to R165, R168, R169) -/

def loopStart (s : State) (c x l : Nat) : Nat := rdF s (kCtx c x (R_LOOP_PC + 0x18 * l)) 25 0
def loopEndOff (s : State) (c x l : Nat) : Nat := rdF s (kCtx c x (R_LOOP_PC + 0x18 * l)) 57 32

def execBr (c : Core) (x : CtxId) (s : State) : Out :=
  .next (execRec s c x 0x18 (fun s r =>
    let t : Int := (ctxPc s c x : Int) + 32 * sext 24 (bits r 55 32)
    let d := (ctxOf s c x).depth
    let inBody := d == 0 || (decide ((loopStart s c x (d - 1) : Int) ≤ t) && decide (t ≤ (loopEndOff s c x (d - 1) : Int)))
    match firstCode [(decide (t < 0) || !offInData t.toNat, 0x02), (!inBody, 0x06)] with
    | some code => refuseHere s c x code r
    | none => retarget s c x t.toNat))

def execLoopBegin (c : Core) (x : CtxId) (s : State) : Out :=
  .next (execRec s c x 0x19 (fun s r =>
    let n := if bitAt r 40 then bits r 127 96 else (scalarSrc s c x (bits r 39 32)).toNat
    let e := 32 * bits r 84 64
    let d := (ctxOf s c x).depth
    match firstCode [(!offInData e, 0x02), (n != 0 && decide (4 ≤ d), 0x04)] with
    | some code => refuseHere s c x code r
    | none =>
      if n = 0 then retarget s c x (e + 32)
      else
        let k := kCtx c x (R_LOOP_PC + 0x18 * d)
        let s := wr s k (w64 (e * 2 ^ 32 + (ctxPc s c x + 32) % 2 ^ 26))
        let s := wr (wr s (k + 8) (w64 n)) (k + 16) 0
        execDone (modCtx s c x (fun k => { k with depth := d + 1 })) c x))

/-- Would popping a level go below the opening depth of the context's task (R169)? -/
def popsTask (s : State) (c x : Nat) : Bool :=
  match (ctxOf s c x).task with
  | some t => decide ((ctxOf s c x).depth ≤ t.depth)
  | none => false

def execLoopEnd (c : Core) (x : CtxId) (s : State) : Out :=
  .next (execRec s c x 0x1A (fun s r =>
    let d := (ctxOf s c x).depth
    if d = 0 then refuseHere s c x 0x05 r
    else
      let k := kCtx c x (R_LOOP_PC + 0x18 * (d - 1))
      let i := rd s (k + 16) + 1
      if i.ult (rd s (k + 8)) then retarget (wr s (k + 16) i) c x (loopStart s c x (d - 1))
      else if popsTask s c x then refuseHere s c x 0x08 r
      else
        let e := loopEndOff s c x (d - 1)
        retarget (modCtx (wr s (k + 16) i) c x (fun k => { k with depth := d - 1 })) c x (e + 32)))

def execLoopBreak (c : Core) (x : CtxId) (s : State) : Out :=
  .next (execRec s c x 0x1B (fun s r =>
    let d := (ctxOf s c x).depth
    if d = 0 then refuseHere s c x 0x05 r
    else if popsTask s c x then refuseHere s c x 0x08 r
    else
      let e := loopEndOff s c x (d - 1)
      retarget (modCtx s c x (fun k => { k with depth := d - 1 })) c x (e + 32)))

/-- REFETCH_DONE: two step times after a change of PC (R165). -/
def execRefetchDone (c : Core) (x : CtxId) (s : State) : Out :=
  .next (if coreRuns s c ∧ (ctxOf s c x).st = .waitLocal ∧ (ctxOf s c x).lw = .refetch then readyCtx s c x else s)

end Sys2Proof.Machine
end

