-- ==== Sys2Proof/Machine/Task.lean ====
section
/-! DEFINITION. Speculative tasks and the task write log (06_control_core.md R169 to R174). -/
namespace Sys2Proof.Machine

/-- The registers a task saves, by offset of the context page: S, A, P and DRAW_SEQ (R170). -/
def savedOffs : List Nat :=
  (List.range 64).map (fun i => R_S + 8 * i) ++ (List.range 32).map (fun i => R_A_BASE + 8 * i) ++ [R_CTX_PRED, R_CTX_SEQ]

/-- TASK.BEGIN (R169, R170). -/
def taskBegin (s : State) (c x : Nat) (r : Rec) : State :=
  let a := 32 * bits r 84 64
  match firstCode [(!offInData a, 0x02), ((ctxOf s c x).task.isSome, 0x07)] with
  | some code => refuseHere s c x code r
  | none =>
    let saved := savedOffs.map (fun o => (o, rd s (kCtx c x o)))
    let n := (coreOf s c).taskOrder
    let s := modCore s c (fun k => { k with taskOrder := n + 1 })
    execDone (modCtx s c x (fun k => { k with task := some ⟨n, k.depth, saved, [], none, false⟩, taskAbort := a })) c x

def execTaskBegin (c : Core) (x : CtxId) (s : State) : Out :=
  .next (execRec s c x 0x1C (fun s r => taskBegin s c x r))

/-- The refusal of a TASK.COMMIT or TASK.ABORT (R169). -/
def closeCheck (s : State) (c x : Nat) : Option Nat :=
  match (ctxOf s c x).task with
  | none => some 0x07
  | some t => if (ctxOf s c x).depth = t.depth then none else some 0x08

/-- TASK.COMMIT (R173): the context waits for the task's commands. -/
def taskCommit (s : State) (c x : Nat) (r : Rec) : State :=
  match closeCheck s c x with
  | some code => refuseHere s c x code r
  | none =>
    modCtx (execDone s c x) c x (fun k =>
      { k with st := .waitLocal, lw := .task, task := k.task.map (fun t => { t with closing := some .commit }) })

def execTaskCommit (c : Core) (x : CtxId) (s : State) : Out :=
  .next (execRec s c x 0x1D (fun s r => taskCommit s c x r))

/-- TASK.ABORT (R174). -/
def taskAbort (s : State) (c x : Nat) (r : Rec) : State :=
  match closeCheck s c x with
  | some code => refuseHere s c x code r
  | none => beginDiscard (modCtx (execDone s c x) c x (fun k => { k with st := .waitLocal, lw := .task })) c x (.discard 1)

def execTaskAbort (c : Core) (x : CtxId) (s : State) : Out :=
  .next (execRec s c x 0x1E (fun s r => taskAbort s c x r))

/-- Has the task of context `x` a command not yet completed? -/
def taskBusy (s : State) (c x : Nat) : Bool :=
  (coreOf s c).entries.any (fun q => q.task && q.ctx == x) || (coreOf s c).logQ.any (fun w => w.ctx == x)

/-- Free the log entries of a context's task. -/
def freeLog (s : State) (c x : Nat) : State :=
  modCore s c (fun k => { k with log := k.log.filter (fun e => e.ctx != x) })

/-- The full-bit entries that a context's task holds hidden become visible (R173). -/
def showBits (s : State) (c x : Nat) : State :=
  (s.fb.filter (fun p => p.1 / 4096 == c && p.2.task == some (8 * c + x))).foldl
    (fun s p => setFb s c (p.1 % 4096) { p.2 with task := none }) s

/-- TASK_COMMIT_APPLY (R173). -/
def commitApply (s : State) (c x : Nat) : State :=
  match (ctxOf s c x).task with
  | some t =>
    if t.closing = some .commit ∧ !taskBusy s c x then
      let s := showBits (freeLog s c x) c x
      let s := modCore s c (fun k => if k.accOwner = some x then { k with accTask := false } else k)
      let s := modCtx s c x (fun k => { k with task := none, taskCommitted := true, taskCause := 0 })
      bump (readyCtx s c x) (pgCore c) R_TASK_COMMIT_CNT
    else s
  | none => s

def execTaskCommitApply (c : Core) (x : CtxId) (s : State) : Out := .next (if coreRuns s c then commitApply s c x else s)

/-- TASK_LOG_WRITE: the granule at the head of the write queue is saved, then written; it waits while the log is full (R171,
R172). -/
def taskLogWrite (s : State) (c : Nat) : State :=
  let k := coreOf s c
  match k.logQ with
  | [] => s
  | w :: rest =>
    if logIsFull k then s
    else
      let g := 64 * w.gran
      let old := (List.range 64).map (fun i => getCell s.mem (g + i))
      w.parts.foldl (fun s p => storeMem s p.1 p.2 false) (setCore s c { k with log := k.log ++ [⟨w.ctx, g, old⟩], logQ := rest })

/-- The open tasks of a core that hold log entries. -/
def holders (s : State) (c : Nat) : List Nat :=
  (List.range 8).filter (fun x => (ctxOf s c x).task.isSome && (coreOf s c).log.any (fun e => e.ctx == x))

/-- Does a write of context `x`'s task wait on the full log: one of its commands', or that of its SC.ST (R172)? -/
def waitsOnLog (s : State) (c x : Nat) : Bool :=
  logIsFull (coreOf s c) && ((coreOf s c).logQ.any (fun w => w.ctx == x)
    || ((ctxOf s c x).task.isSome && (ctxOf s c x).st == .waitLocal && (match (ctxOf s c x).lw with
        | .mem (.st _ _) => true
        | _ => false)))

/-- LOG_FULL: every open task that holds log entries has a command waiting on the log and none is closing; the youngest is
discarded (R172). -/
def logFull (s : State) (c : Nat) : State :=
  let k := coreOf s c
  let hs := holders s c
  let closing := (List.range 8).any (fun x => match (ctxOf s c x).task with
    | some t => t.closing.isSome
    | none => false)
  let order : Nat → Nat := fun x => match (ctxOf s c x).task with
    | some t => t.order
    | none => 0
  if logIsFull k && !closing && hs.all (waitsOnLog s c) then
    match hs.find? (fun x => hs.all (fun y => decide (order y ≤ order x))) with
    | some x =>
      beginDiscard (modCtx (dropWait s c x) c x (fun k => { k with st := .waitLocal, lw := .task })) c x (.discard 2)
    | none => s
  else s

def execLogFull (c : Core) (s : State) : Out := .next (if coreRuns s c then logFull s c else s)

/-- TASK_DISCARD: steps 1 to 3 of R174. -/
def taskDiscard (s : State) (c x : Nat) : State :=
  match (ctxOf s c x).task with
  | some t =>
    if !discarding t || t.writing then s
    else
      let s := removeWaiting s c x
      if taskBusy s c x then s
      else
        let es := (coreOf s c).log.filter (fun e => e.ctx == x)
        let s := es.reverse.foldl (fun s e => storeMem s e.addr e.old false) s
        let s := showBits s c x
        let s := t.fbSaved.foldl (fun s p => setFb s c p.1 p.2) s
        modCtx s c x (fun k => { k with task := some { t with writing := true } })
  | none => s

def execTaskDiscard (c : Core) (x : CtxId) (s : State) : Out := .next (if coreRuns s c then taskDiscard s c x else s)

/-- An accumulation the task opened begins to close (R174). -/
def closeTaskAcc (s : State) (c x : Nat) : State :=
  if (coreOf s c).accOwner = some x ∧ (coreOf s c).accTask then modCore s c (fun k => { k with accClosing := true }) else s

/-- TASK_DISCARD_DONE: steps 4 and 5 of R174, and where the context goes: to the abort target, to IDLE, or, after an error, it stays in ERROR or in the
IDLE that a STOP has sent it to since. -/
def discardDone (s : State) (c x : Nat) : State :=
  match (ctxOf s c x).task with
  | some t =>
    if !t.writing then s
    else
      let s := t.saved.foldl (fun s p => wr s (kCtx c x p.1) p.2) s
      let s := closeTaskAcc (freeLog s c x) c x
      let cause := match t.closing with
        | some (.discard n) => n
        | _ => 4
      let s := modCtx s c x (fun k => { k with task := none, taskCommitted := false, taskCause := cause })
      let s := bump s (pgCore c) R_TASK_DISCARD_CNT
      if (ctxOf s c x).st = .error then s
      else match t.closing with
      | some (.discard 1) | some (.discard 2) =>
        modCtx (setPc s c x (ctxOf s c x).taskAbort) c x (fun k =>
          { k with st := .waitLocal, lw := .refetch, depth := t.depth })
      | some (.discard 4) => closeAcc (modCtx s c x (fun k => { k with st := .idle, lw := .none })) c x
      | some .halt => settleCtx (modCtx s c x (fun k => { k with st := .waitLocal, lw := .halt })) c x
      | _ => s
  | none => s

def execTaskDiscardDone (c : Core) (x : CtxId) (s : State) : Out := .next (if coreRuns s c then discardDone s c x else s)

end Sys2Proof.Machine
end

