-- ==== Sys2Proof/Machine/Sync.lean ====
section
/-! DEFINITION. Full/empty words, the Yoke, barriers, Pockets, word Pockets and Buttons (09_yoke_pockets.md R235 to R264;
07_command_encoding.md R207). -/
namespace Sys2Proof.Machine

/-! ## Requests, waits and wakes (R235, R238 to R240) -/

/-- A record sends its request and its context waits for the answer. -/
def sendReq (s : State) (c x : Nat) (r : SyncReq) : State :=
  modCtx s c x (fun k => { k with st := .waitSync, req := some r, ans := none, wait := none })

/-- The oldest request of context `x` of a kind that is on its way: one whose sender was reset since, else the context's. -/
def findReq (s : State) (c x : Nat) (p : SyncReq → Bool) : Option (SyncReq × Bool) :=
  match s.orphans.find? (fun o => o.1 == 8 * c + x && p o.2) with
  | some o => some (o.2, true)
  | none => match (ctxOf s c x).req with
    | some r => if p r then some (r, false) else none
    | none => none

/-- The first entry of a list with this key and request is removed. -/
def dropOrphan : List (Nat × SyncReq) → Nat → SyncReq → List (Nat × SyncReq)
  | [], _, _ => []
  | o :: l, k, r => if o.1 = k ∧ o.2 = r then l else o :: dropOrphan l k r

/-- The target answers a request; an orphan's answer is discarded (R240). -/
def answerReq (s : State) (c x : Nat) (r : SyncReq) (orphan : Bool) (a : SyncAns) : State :=
  if orphan then { s with orphans := dropOrphan s.orphans (8 * c + x) r }
  else modCtx s c x (fun k => { k with req := none, ans := some a })

/-- The counts of a record that waits: its first wait of a full/empty record, or a wait again after a wake (R239, R261). -/
def countWait (s : State) (c x : Nat) (fe : Bool) : State :=
  if (ctxOf s c x).woken then bump (modCtx s c x (fun k => { k with woken := false })) (pgCore c) R_SPURIOUS_WAKE_CNT
  else if fe then bump s (pgCore c) R_FE_WAIT_CNT else s

/-- The target finds the condition unmet: the context waits on it. -/
def waitReq (s : State) (c x : Nat) (r : SyncReq) (orphan : Bool) (w : WaitCond) (fe : Bool) : State :=
  if orphan then { s with orphans := dropOrphan s.orphans (8 * c + x) r }
  else countWait (modCtx s c x (fun k => { k with req := none, wait := some w })) c x fe

/-- A wake reaches a waiting context: READY to execute its record again, or kept while it is halted or its core frozen (R239,
R240). -/
def wakeCtx (s : State) (c x : Nat) : State :=
  let k := ctxOf s c x
  if k.halted || frozen s c then modCtx s c x (fun k => { k with wakePending := true })
  else modCtx s c x (fun k => { k with st := .ready, wait := none, woken := true })

/-- The kept wakes of a core act after its unfreeze (R240). -/
def thawWakes (s : State) (c : Nat) : State :=
  (List.range 8).foldl (fun s x =>
    if (ctxOf s c x).wakePending && !(ctxOf s c x).halted then keptWake s c x else s) s

/-- Is a context inside a task? -/
def inTask (s : State) (c x : Nat) : Bool := (ctxOf s c x).task.isSome

/-! ## Full/empty records (R207, R241) -/

/-- Address of a sync word, as 131072 * core + word. -/
def syncWord (a : Nat) : Option Nat :=
  match regionOf a with
  | .sync c => if a % 8 = 0 then some (131072 * c + (a - csBase c) / 8) else none
  | _ => none

/-- Byte address of a sync word. -/
def syncAddr (w : Nat) : Nat := csBase (w / 131072) + 8 * (w % 131072)

/-- A full/empty record: SYNC_RANGE, TASK_SCOPE for one that writes, else its request. -/
def feRecord (s : State) (c x : Nat) (r : Rec) (writes : Bool) (mk : Nat → SyncReq) : State :=
  let w := syncWord (offAddr (scalarSrc s c x (bits r 47 40)) (bits r 95 64))
  match firstCode [(w.isNone, 0x03), (writes && inTask s c x, 0x09)] with
  | some code => refuseHere s c x code r
  | none => sendReq s c x (mk (w.getD 0))

def execFeTake (c : Core) (x : CtxId) (s : State) : Out :=
  .next (execRec s c x 0x21 (fun s r => feRecord s c x r true (fun w => .take w (bits r 37 32))))
def execFePeek (c : Core) (x : CtxId) (s : State) : Out :=
  .next (execRec s c x 0x22 (fun s r => feRecord s c x r false (fun w => .peek w (bits r 37 32))))
def execFePut (c : Core) (x : CtxId) (s : State) : Out :=
  .next (execRec s c x 0x23 (fun s r => feRecord s c x r true (fun w => .put w (scalarSrc s c x (bits r 39 32)))))
def execFeSet (c : Core) (x : CtxId) (s : State) : Out :=
  .next (execRec s c x 0x24 (fun s r => feRecord s c x r true (fun w => .set w (scalarSrc s c x (bits r 39 32)))))
def execFeClear (c : Core) (x : CtxId) (s : State) : Out :=
  .next (execRec s c x 0x25 (fun s r => feRecord s c x r true (fun w => .clear w)))

/-- The word of a full/empty request. -/
def feWord : SyncReq → Option Nat
  | .take w _ | .peek w _ | .put w _ | .set w _ | .clear w => some w
  | _ => none

/-- FULL of a word takes the value `b`; a change of a word with WAITED set sends a notice (R242). -/
def setFull (s : State) (w : Nat) (b : Bool) : State :=
  let f := syncOf s w
  if f.full = b then s
  else if f.waited then { setSync s w ⟨b, false⟩ with toYoke := s.toYoke ++ [.notice (.word w)] }
  else setSync s w ⟨b, false⟩

def syncVal (s : State) (w : Nat) : Word := w64 (codeAt (getCell s.mem) (syncAddr w) 8)

def storeSync (s : State) (w : Nat) (v : Word) : State := storeMem s (syncAddr w) (valBytes 8 v.toNat) false

/-- What a bank does with a request (R236, R241, R242). `ecc`: the outcome of the check bits of the word a take or peek reads. -/
def bankDo (s : State) (c x : Nat) (r : SyncReq) (orphan : Bool) (w : Nat) (ecc : Ecc) : State :=
  let d := w / 131072
  let ok := fun (s : State) (a : SyncAns) => answerReq (if orphan then s else bump s (pgCore c) R_FE_OP_CNT) c x r orphan a
  let wait := fun (s : State) (cond : WaitCond) =>
    let s := setSync s w { syncOf s w with waited := true }
    waitReq { s with toYoke := s.toYoke ++ [.reg c x cond] } c x r orphan cond true
  let read := fun (s : State) (act : State → Word → State) =>
    let s := csEcc s d (syncAddr w) ecc
    if isBad s.mem (syncAddr w) then answerReq (csUe s d (syncAddr w) false) c x r orphan (.refuse 0x0B)
    else act s (syncVal s w)
  if !domOn s d then answerReq s c x r orphan (.refuse 0x0B)
  else match r with
    | .take _ sd =>
      if (syncOf s w).full then read s (fun s v => ok (setFull s w false) (.value sd v)) else wait s (.full w)
    | .peek _ sd => if (syncOf s w).full then read s (fun s v => ok s (.value sd v)) else wait s (.full w)
    | .put _ v => if (syncOf s w).full then wait s (.empty w) else ok (setFull (storeSync s w v) w true) .done
    | .set _ v => ok (setFull (storeSync s w v) w true) .done
    | .clear _ => ok (setFull s w false) .done
    | _ => s

/-- SYNC_BANK_ACCESS: the oldest full/empty request of context `x` of core `c` is performed at its bank. A request to a core that is in reset waits for the
domain to return to ON: what the reset wakes completes against the cleared word or waits again (R244). -/
def execSyncBankAccess (c : Core) (x : CtxId) (ecc : Ecc) (s : State) : Out :=
  .next (match findReq s c x (fun r => (feWord r).isSome) with
    | some (r, o) =>
      let w := (feWord r).getD 0
      if domState s (w / 131072) = 3 then s
      else bankDo (askBanks s (if w / 131072 = c.val then 7 else 1) 0 [(syncAddr w, syncAddr w + 8)]) c x r o w ecc
    | none => s)

/-! ## The Yoke's wait table (R238, R239, R242) -/

/-- The subject of a wait condition held by the Yoke. -/
def condSubject : WaitCond → Option Notice
  | .full w | .empty w => some (.word w)
  | .pocket k => some (.pocket k)
  | _ => none

def msgSubject : YokeMsg → Option Notice
  | .reg _ _ cond => condSubject cond
  | .notice n => some n

/-- Take the first message that `p` accepts, if none before it has its subject. -/
def takeMsg (p : YokeMsg → Bool) : List YokeMsg → List YokeMsg → Option (YokeMsg × List YokeMsg)
  | _, [] => none
  | seen, m :: l =>
    if p m then
      (if seen.any (fun o => msgSubject o == msgSubject m) then none else some (m, seen.reverse ++ l))
    else takeMsg p (m :: seen) l

/-- Does the Yoke run: PD_44 is ON, and it has not frozen itself under R24? -/
def yokeOn (s : State) : Bool := domOn s 44 && !blockHeld s pgYoke

/-- Does Pocket `k` take new work: PD_44 is ON, and it has not frozen itself under R24? -/
def pktOn (s : State) (k : Nat) : Bool := domOn s 44 && !blockHeld s (pgPocket k)

/-- YOKE_REGISTRATION: the registration of context `x` is held as an entry, while the context still waits. -/
def execYokeRegistration (c : Core) (x : CtxId) (s : State) : Out :=
  .next (if !yokeOn s then s
    else match takeMsg (fun m => match m with
        | .reg c' x' _ => c' == c.val && x' == x.val
        | _ => false) [] s.toYoke with
      | some (.reg _ _ cond, rest) =>
        let s := { s with toYoke := rest }
        if (ctxOf s c x).wait = some cond ∧ !s.yokeWaits.contains (8 * c.val + x.val) then
          { s with yokeWaits := s.yokeWaits ++ [8 * c.val + x.val] }
        else s
      | _ => s)

/-- The contexts (8 * core + context) with an entry for a subject. -/
def waitersOf (s : State) (n : Notice) : List Nat :=
  s.yokeWaits.filter (fun k => (ctxOf s (k / 8) (k % 8)).wait.any (fun w => condSubject w == some n))

/-- CHANGE_NOTICE: the Yoke wakes every context whose entry matches, and removes the entries. -/
def execChangeNotice (n : Notice) (s : State) : Out :=
  .next (if !yokeOn s then s
    else match takeMsg (fun m => m == .notice n) [] s.toYoke with
      | none => s
      | some (_, rest) =>
        let ws := waitersOf s n
        let s := { s with toYoke := rest, yokeWaits := s.yokeWaits.filter (fun k => !ws.contains k) }
        let cores := (List.range 32).filter (fun c => ws.any (fun k => k / 8 == c))
        let s := { s with wakes := s.wakes ++ cores.map (fun c => .ctxs c ((ws.filter (fun k => k / 8 == c)).map (fun k => k % 8)) n) }
        bumpN s pgYoke R_YOKE_WAKE_CNT ws.length)

/-- The core of a wake. -/
def wakeCore : Wake → Nat
  | .ctxs c _ _ => c
  | .button c _ => c

/-- Remove the first element that `p` accepts. -/
def dropFirst {α : Type} (p : α → Bool) : List α → List α
  | [] => []
  | a :: l => if p a then l else a :: dropFirst p l

/-- Does a wake concern context `x`? -/
def wakeHits (s : State) (c x : Nat) : Wake → Bool
  | .ctxs _ xs n => xs.contains x && (ctxOf s c x).wait.any (fun w => condSubject w == some n)
  | .button _ b => (ctxOf s c x).wait.any (fun w => match w with
    | .button m => Nat.land m b != 0
    | _ => false)

/-- SYNC_WAKE: the oldest wake on its way to a core. A core in RETENTION, whose state is kept (16_bringup_service.md R434), gets it once it is ON. -/
def execSyncWake (c : Core) (s : State) : Out :=
  .next (match s.wakes.find? (fun w => wakeCore w == c.val) with
    | none => s
    | some w =>
      if domState s c.val = 1 then s else
      let s := { s with wakes := dropFirst (fun w => wakeCore w == c.val) s.wakes }
      if domOn s c then (List.range 8).foldl (fun s x => if wakeHits s c x w then wakeCtx s c x else s) s else s)

/-- SYNC_ANSWER: the target's answer reaches its context. -/
def syncAnswer (s : State) (c x : Nat) : State :=
  match (ctxOf s c x).ans with
  | none => s
  | some .done => syncComplete s c x
  | some (.value sd v) => syncComplete (setScalar s c x sd v) c x
  | some (.outcome pd ok sbase ws) =>
    let s := setPred s c x pd ok
    let s := (List.zip (List.range ws.length) ws).foldl (fun s p => setScalar s c x (sbase + p.1) p.2) s
    syncComplete s c x
  | some (.refuse code) =>
    refuse (modCtx s c x (fun k => { k with ans := none })) c x code (ctxPc s c x) (recTag (ctxOf s c x).cur)

def execSyncAnswer (c : Core) (x : CtxId) (s : State) : Out := .next (if domOn s c then syncAnswer s c x else s)

/-! ## Barriers (R245 to R248) -/

/-- Page and offset of a slot's entry. -/
def slotKey (slot off : Nat) : Nat := reg (pgSlots (slot / 32)) (off + 64 * (slot % 32))

/-- The participant mask of a slot: bit 8 * core + context. -/
def slotMask (s : State) (slot : Nat) : Nat :=
  (List.range 4).foldl (fun m w => m + (rd s (slotKey slot (R_SLOT_MASK0 + 8 * w))).toNat * 2 ^ (64 * w)) 0

/-- The number of ones among the low 256 bits. -/
def popcount (m : Nat) : Nat := (List.range 256).countP (fun i => m.testBit i)

/-- EXPECTED of a slot. -/
def slotExpected (s : State) (slot : Nat) : Nat := popcount (slotMask s slot)

/-- Cores with a participant. -/
def slotCores (s : State) (slot : Nat) : List Nat :=
  (List.range 32).filter (fun c => slotMask s slot / 2 ^ (8 * c) % 256 != 0)

/-- BAR.ARRIVE. -/
def execBarArrive (c : Core) (x : CtxId) (s : State) : Out :=
  .next (execRec s c x 0x20 (fun s r =>
    if inTask s c x then refuseHere s c x 0x09 r
    else sendReq s c x (.arrive (bits r 39 32) (bitAt r 40))))

/-- One release of a slot where ARRIVED equals EXPECTED (R247). -/
def slotRelease (s : State) (slot : Nat) : State :=
  let t := slotOf s slot
  if !t.en || t.arrived != slotExpected s slot then s
  else
    let s := { s with releases := s.releases ++ (slotCores s slot).map (fun c => ⟨c, slot, t.gen, false⟩) }
    let s := setSlot s slot ⟨true, !t.gen, t.ahead, 0, t.lead2, 0⟩
    bump (bump s pgYoke R_YOKE_RELEASE_CNT) (pgSlots (slot / 32)) (R_SLOT_RELEASE_CNT + 64 * (slot % 32))

/-- The Yoke handles an arrival by the participant's lead (R246). -/
def arrival (s : State) (c x : Nat) (r : SyncReq) (orphan : Bool) (slot : Nat) (wait : Bool) : State :=
  let t := slotOf s slot
  let b := 2 ^ (8 * c + x)
  let accept := fun (s : State) (t' : SlotSt) (g : Bool) =>
    let s := setSlot s slot t'
    let s := if orphan then s else bump s (pgCore c) R_BAR_ARRIVE_CNT
    let s := if wait && !orphan then modCtx s c x (fun k => { k with req := none, wait := some (.barrier slot g), woken := false })
             else answerReq s c x r orphan .done
    slotRelease (slotRelease s slot) slot
  if !t.en || !(slotMask s slot).testBit (8 * c + x) then answerReq s c x r orphan (.refuse 0x0A)
  else if t.lead2.testBit (8 * c + x) then
    let s := bump s (pgCore c) R_BAR_OVERRUN_CNT
    let s := bump s pgYoke R_YOKE_OVERRUN_CNT
    let s := bump s (pgSlots (slot / 32)) (R_SLOT_OVERRUN_CNT + 64 * (slot % 32))
    waitReq s c x r orphan (.overrun slot t.gen) false
  else if t.lead1.testBit (8 * c + x) then
    accept s { t with ahead := t.ahead + 1, lead1 := t.lead1 - b, lead2 := t.lead2 + b } (!t.gen)
  else accept s { t with arrived := t.arrived + 1, lead1 := t.lead1 + b } t.gen

/-- YOKE_ARRIVAL. -/
def execYokeArrival (c : Core) (x : CtxId) (s : State) : Out :=
  .next (if !yokeOn s then s
    else match findReq s c x (fun r => match r with
        | .arrive _ _ => true
        | _ => false) with
      | some (.arrive slot wait, o) => arrival s c x (.arrive slot wait) o slot wait
      | _ => s)

/-- What a release does to a context of its core: KIND 3 completes, KIND 4 executes its arrival again; the wake of a disable makes
both execute again (R247, R248). A HALTED context, or one of a frozen core, keeps the wake (R240): with the release that it waited for it completes when it goes
on, since to execute its arrival again would count it twice (log entry 35). -/
def releaseCtx (s : State) (r : Release) (x : Nat) : State :=
  match (ctxOf s r.core x).wait with
  | some (.barrier k g) =>
    if k = r.slot ∧ (r.disable ∨ g = r.gen) then
      if r.disable then wakeCtx s r.core x
      else if (ctxOf s r.core x).halted || frozen s r.core then
        modCtx s r.core x (fun k => { k with wakePending := true, released := true })
      else syncComplete s r.core x
    else s
  | some (.overrun k g) => if k = r.slot ∧ (r.disable ∨ g = r.gen) then wakeCtx s r.core x else s
  | _ => s

/-- RELEASE_ARRIVAL: the oldest release of a slot on its way to a core. A core in RETENTION gets it once it is ON. -/
def execReleaseArrival (c : Core) (slot : Byte) (s : State) : Out :=
  .next (match s.releases.find? (fun r => r.core == c.val && r.slot == slot.toNat) with
    | none => s
    | some r =>
      if domState s c.val = 1 then s else
      let s := { s with releases := dropFirst (fun r => r.core == c.val && r.slot == slot.toNat) s.releases }
      if domOn s c then (List.range 8).foldl (fun s x => releaseCtx s r x) s else s)

/-- A write of SLOT_CTL.EN (R245, R248). A Yoke frozen under R24 takes no new work. -/
def slotCtlWrite (s : State) (slot : Nat) (en : Bool) : State :=
  let t := slotOf s slot
  let k := slotKey slot R_SLOT_CTL
  if blockHeld s pgYoke then s
  else if en then
    if t.en || slotMask s slot == 0 then s else wrB (setSlot s slot ⟨true, false, 0, 0, 0, 0⟩) k 0 true
  else if !t.en then s
  else
    let s := { s with releases := s.releases ++ (slotCores s slot).map (fun c => ⟨c, slot, t.gen, true⟩) }
    bumpN (wrB (setSlot s slot .rst) k 0 false) pgYoke R_YOKE_DISCARD_CNT (t.arrived + t.ahead)

def slotCtlCmd (mid : Mid) (slot : Byte) (en : Bool) (s : State) : Out :=
  .next (guardWrite s mid.toNat (pgSlots (slot.toNat / 32)) (R_SLOT_CTL + 64 * (slot.toNat % 32)) (if en then 1 else 0)
    (fun s => slotCtlWrite s slot.toNat en))

def execSlotEnable (mid : Mid) (slot : Byte) (s : State) : Out := slotCtlCmd mid slot true s
def execSlotDisable (mid : Mid) (slot : Byte) (s : State) : Out := slotCtlCmd mid slot false s

/-! ## Pockets (R249 to R255) -/

/-- State of a Pocket's receiver: ON or asleep in RETENTION, so that a message stays (R252, R255). -/
def recvUp (s : State) (mid : Nat) : Bool := domState s (midDomain mid) == 1 || domState s (midDomain mid) == 2

def pktNotice (s : State) (k : Nat) : State := { s with toYoke := s.toYoke ++ [.notice (.pocket k)] }

/-- GO is set, with the counts, the ring of RECV_BTN and the notice to the Yoke. -/
def pktAccept (s : State) (k : Nat) : State :=
  let st := reg (pgPocket k) R_PKT_STATUS
  let s := bump (wrB (wrB s st 0 true) st 3 false) (pgPocket k) R_PKT_SENT_CNT
  pktNotice (ringBtn s (pktReceiver s k) (bits (pktBind s k) 20 16) false) k

/-- A message returned ABORTED: ABORTED, the sender's ABORT_BTN, PKT_ABORT_CNT. -/
def pktAborted (s : State) (k : Nat) : State :=
  let s := bump (wrB s (reg (pgPocket k) R_PKT_STATUS) 3 true) (pgPocket k) R_PKT_ABORT_CNT
  ringBtn s (pktSender s k) (bits (pktBind s k) 36 32) false

/-- A message with GO set is returned ABORTED, its registers cleared (R254). -/
def pktReturn (s : State) (k : Nat) : State :=
  if !pktGo s k then s
  else
    let s := (List.range 16).foldl (fun s i => wr s (reg (pgPocket k) (R_PKT_MSG + 8 * i)) 0) s
    pktAborted (wrB s (reg (pgPocket k) R_PKT_STATUS) 0 false) k

/-- A write of 1 to PKT_GO by the sender, GO clear (R252). A Pocket frozen under R24 takes none. -/
def pktGoWrite (s : State) (k : Nat) : State :=
  if !pktOn s k then s else if recvUp s (pktReceiver s k) then pktAccept s k else pktAborted s k

/-- Message registers 0 onward. -/
def pktWords (s : State) (k n : Nat) : List Word := (List.range n).map (fun i => rd s (reg (pgPocket k) (R_PKT_MSG + 8 * i)))

/-- Service processor 0 sends its oldest waiting answer on Pocket 1 once that is free (16_bringup_service.md R448). -/
def svcFlush (s : State) : State :=
  match s.svc.out with
  | [] => s
  | ws :: rest =>
    if pktGo s 1 || !pktOn s 1 || frozen s 0x40 then s
    else
      let s := { s with svc := { s.svc with out := rest } }
      let s := (List.zip (List.range 16) ws).foldl (fun s p =>
        guardWrite s 0x40 (pgPocket 1) (R_PKT_MSG + 8 * p.1) p.2 (fun s => wr s (reg (pgPocket 1) (R_PKT_MSG + 8 * p.1)) p.2)) s
      guardWrite s 0x40 (pgPocket 1) R_PKT_GO 1 (fun s => pktGoWrite s 1)

/-- The answer of service processor 0 to the command whose word 0 is `v`: OP and SEQ echoed, STATUS, and VALUE, whose contents the spec does not
state, free (16_bringup_service.md R448, log entry 12). -/
def svcAnswer (s : State) (v : Word) (status : Nat) : State :=
  let a := w64 (bits v 63 48 * 2 ^ 48 + status * 2 ^ 40 + (Config.freeValue 40 s.free).toNat)
  svcFlush { s with free := s.free + 1, svc := { s.svc with out := s.svc.out ++ [[a]] } }

/-- A take: GO clear, the receiving core's count, EMPTY_BTN (R253); a take of Pocket 1 lets the next answer follow. -/
def pktTake (s : State) (k : Nat) : State :=
  let s := wrB s (reg (pgPocket k) R_PKT_STATUS) 0 false
  let s := if pktReceiver s k < 32 then bump s (pgCore (pktReceiver s k)) R_PKT_RECV_CNT else s
  let s := if bitAt (pktBind s k) 40 then ringBtn s (pktSender s k) (bits (pktBind s k) 28 24) false else s
  if k = 1 then svcFlush s else s

/-- A write of 1 to PKT_TAKE by the receiver: ignored while GO is clear, and not taken by a Pocket frozen under R24. -/
def pktTakeWrite (s : State) (k : Nat) : State := if pktGo s k && pktOn s k then pktTake s k else s

/-- PKT.SEND. -/
def execPktSend (c : Core) (x : CtxId) (s : State) : Out :=
  .next (execRec s c x 0x28 (fun s r =>
    if inTask s c x then refuseHere s c x 0x09 r
    else sendReq s c x (.send (bits r 40 32) ((List.range (bits r 58 54)).map (fun i => scalarReg s c x (bits r 53 48 + i))) (bits r 62 60))))

/-- PKT.RECV. -/
def execPktRecv (c : Core) (x : CtxId) (s : State) : Out :=
  .next (execRec s c x 0x29 (fun s r =>
    if inTask s c x then refuseHere s c x 0x09 r
    else sendReq s c x (.recv (bits r 40 32) (bits r 53 48) (bits r 58 54) (bits r 62 60))))

/-- A send or receive of a core that is not bound: a violation; the Pocket answers PD 0 (R251). -/
def pktForeign (s : State) (c x k off : Nat) (r : SyncReq) (orphan : Bool) (pd : Nat) : State :=
  answerReq (pageViolation s c (pgPocket k) off 3) c x r orphan (.outcome pd false 0 [])

/-- A PKT.SEND request at its Pocket (R252). -/
def pktSendReq (s : State) (c x k : Nat) (ws : List Word) (pd : Nat) (orphan : Bool) : State :=
  let r := SyncReq.send k ws pd
  let out := fun (s : State) (ok : Bool) => answerReq s c x r orphan (.outcome pd ok 0 [])
  if !pktValid s k || pktSender s k != c then pktForeign s c x k R_PKT_GO r orphan pd
  else if pktGo s k then out (bump s (pgCore c) R_PKT_REJECT_CNT) false
  else if recvUp s (pktReceiver s k) then
    let s := (List.zip (List.range ws.length) ws).foldl (fun s p => wr s (reg (pgPocket k) (R_PKT_MSG + 8 * p.1)) p.2) s
    out (bump (pktAccept s k) (pgCore c) R_PKT_SEND_CNT) true
  else out (pktAborted s k) false

/-- A PKT.RECV request at its Pocket (R253). -/
def pktRecvReq (s : State) (c x k sbase n pd : Nat) (orphan : Bool) : State :=
  let r := SyncReq.recv k sbase n pd
  if !pktValid s k || pktReceiver s k != c then pktForeign s c x k R_PKT_TAKE r orphan pd
  else if pktGo s k then
    let ws := pktWords s k n
    answerReq (pktTake s k) c x r orphan (.outcome pd true sbase ws)
  else waitReq { s with toYoke := s.toYoke ++ [.reg c x (.pocket k)] } c x r orphan (.pocket k) false

/-- PKT_GO: the write by the sender, or a context's request. -/
def execPktGo (src : PktSrc) (k : Fin 512) (s : State) : Out :=
  .next (match src with
    | .fabric mid => guardWrite s mid.toNat (pgPocket k) R_PKT_GO 1 (fun s => pktGoWrite s k)
    | .ctx c x =>
      if !pktOn s k then s
      else match findReq s c x (fun r => match r with
          | .send j _ _ => j == k.val
          | _ => false) with
        | some (.send j ws pd, o) => pktSendReq s c x j ws pd o
        | _ => s)

/-- PKT_TAKE: the write by the receiver, or a context's request. -/
def execPktTake (src : PktSrc) (k : Fin 512) (s : State) : Out :=
  .next (match src with
    | .fabric mid => guardWrite s mid.toNat (pgPocket k) R_PKT_TAKE 1 (fun s => pktTakeWrite s k)
    | .ctx c x =>
      if !pktOn s k then s
      else match findReq s c x (fun r => match r with
          | .recv j _ _ _ => j == k.val
          | _ => false) with
        | some (.recv j sb n pd, o) => pktRecvReq s c x j sb n pd o
        | _ => s)

/-- A clear of Pocket `k`: its message returned, and every context waiting in PKT.RECV on it completes with PD 0 (R254), counted as
woken (R262). -/
def pktClearWrite (s : State) (k : Nat) : State :=
  let s := pktReturn s k
  let ws := (List.range 256).filter (fun i => (ctxOf s (i / 8) (i % 8)).wait == some (.pocket k))
  let s := { s with yokeWaits := s.yokeWaits.filter (fun i => !ws.contains i),
                    toYoke := s.toYoke.filter (fun m => match m with
                      | .reg c x _ => !ws.contains (8 * c + x)
                      | _ => true) }
  let s := bumpN s pgYoke R_YOKE_WAKE_CNT ws.length
  ws.foldl (fun s i =>
    let pd := bits (ctxOf s (i / 8) (i % 8)).cur 62 60
    modCtx s (i / 8) (i % 8) (fun t => { t with wait := none, ans := some (.outcome pd false 0 []) })) s

def execPktClear (mid : Mid) (k : Fin 512) (s : State) : Out :=
  .next (guardWrite s mid.toNat (pgBind 0) R_PKT_CLEAR (w64 k.val) (fun s => pktClearWrite s k))

/-- A write of PKT_LOCK: LOCK_SET sets LOCKED; the Mantle writes LOCKED (R250). -/
def pktLockWrite (s : State) (v : Word) (mantle : Bool) : State :=
  let k := reg (pgBind 0) R_PKT_LOCK
  let s := if mantle then wrB s k 0 (bitAt v 0) else s
  if bitAt v 1 then wrB s k 0 true else s

/-- LOCK_SET: LOCKED is written back as it stands. -/
def execLockSet (mid : Mid) (s : State) : Out :=
  let v : Word := if rdB s (reg (pgBind 0) R_PKT_LOCK) 0 then 3 else 2
  .next (guardWrite s mid.toNat (pgBind 0) R_PKT_LOCK v (fun s => pktLockWrite s v (isMantle mid.toNat)))

/-! ## Word Pockets (R256) -/

/-- GO of a word Pocket is set, or the word returned ABORTED to its sender (R252, R256). -/
def wpSend (s : State) (w : Nat) : State :=
  let st := reg (pgWord w) R_WP_STATUS
  if recvUp s (wpReceiver w) then
    let s := wrB (wrB s st 0 true) st 3 false
    ringBtn s (wpReceiver w) (w % 8) (isMantle (wpSender w))
  else wrB s st 3 true

/-- OPs of Table: Mantle commands and Table: Update commands (15_mantle_cloak.md R406, 16_bringup_service.md R455). -/
def mntOps : List Nat := [0x01, 0x02, 0x03, 0x04, 0x05, 0x06, 0x08, 0x10, 0x11, 0x12, 0x13, 0x20, 0x30, 0x31, 0x34]

/-- The Mantle clears a Button of its own (R260). -/
def mntBtnClear (s : State) (b : Nat) : State :=
  guardWrite s 0xF0 (pgBtn 0xF0) R_BTN_PEND (w64 (2 ^ b)) (fun s => wrB s (reg (pgBtn 0xF0) R_BTN_PEND) b false)

/-- The Mantle puts an answer into a free word Pocket. -/
def mntPut (s : State) (w : Nat) (v : Word) : State :=
  let s := guardWrite s 0xF0 (pgWord w) R_WP_WORD v (fun s => wr s (reg (pgWord w) R_WP_WORD) v)
  guardWrite s 0xF0 (pgWord w) R_WP_GO 1 (fun s => wpSend s w)

/-- Answers leave in order, each as soon as its word Pocket is free and the control port is up (R405). -/
def mntFlush (s : State) : State :=
  (List.range 8).foldl (fun s i =>
    match s.mnt.out.find? (fun p => p.1 == 8 + i) with
    | none => s
    | some p =>
      if wpGo s (8 + i) || !domOn s 44 || !domOn s 48 then s
      else mntPut { s with mnt := { s.mnt with out := dropFirst (fun q => q.1 == 8 + i) s.mnt.out } } (8 + i) p.2) s

/-- The Mantle takes the command of word Pocket `w`. -/
def mntTake (s : State) (w : Nat) : State :=
  let s := bumpHdr s (pgWord w) R_BLK_RD_CNT
  let s := guardWrite s 0xF0 (pgWord w) R_WP_TAKE 1 (fun s => wrB s (reg (pgWord w) R_WP_STATUS) 0 false)
  let s := mntBtnClear s w
  { s with mnt := { s.mnt with order := s.mnt.order.filter (fun x => x != w) } }

/-- An answer of word Pocket `w` (Table: Command and answer words). VALUE is a free value where the spec states none: `value` is 0 there (log
entry 12). The DONE of UNFREEZE has VALUE 0, as the worked answer of R405 has it. -/
def mntAnswer (s : State) (w op seq status value : Nat) : State :=
  let n := if op = 0x01 ∧ status = 0 then 0 else if value = 0 then (Config.freeValue 40 s.free).toNat else value
  let v := w64 (op * 2 ^ 56 + seq % 256 * 2 ^ 48 + status * 2 ^ 40 + n % 2 ^ 40)
  mntFlush { s with free := s.free + 1, mnt := { s.mnt with out := s.mnt.out ++ [(w + 8, v)] } }

/-- Commands whose OP is in no table, once they come to be taken, are answered BAD_ARG (R405). -/
def mntPump : Nat → State → State
  | 0, s => s
  | n + 1, s =>
    match s.mnt.order with
    | [] => s
    | w :: _ =>
      let v := rd s (reg (pgWord w) R_WP_WORD)
      if mntOps.contains (bits v 63 56) then s
      else mntPump n (mntAnswer (bump (mntTake s w) (pgMnt 0) R_MNT_CMD_CNT) w (bits v 63 56) (bits v 55 48) 4 0)

/-- A write of 1 to WP_GO, GO clear: a command of the control port joins the commands in order of GO. -/
def wpGoWrite (s : State) (w : Nat) : State :=
  let s := wpSend s w
  if w < 8 ∧ wpGo s w then mntPump 8 { s with mnt := { s.mnt with order := s.mnt.order ++ [w] } } else s

/-- A write of 1 to WP_TAKE: the take notice lets the Mantle send the next answer. -/
def wpTakeWrite (s : State) (w : Nat) : State :=
  let s := wrB s (reg (pgWord w) R_WP_STATUS) 0 false
  if w < 8 then s else mntFlush s

def execWpGo (mid : Mid) (w : Fin 16) (s : State) : Out :=
  .next (guardWrite s mid.toNat (pgWord w) R_WP_GO 1 (fun s => wpGoWrite s w))
def execWpTake (mid : Mid) (w : Fin 16) (s : State) : Out :=
  .next (guardWrite s mid.toNat (pgWord w) R_WP_TAKE 1 (fun s => wpTakeWrite s w))

/-! ## Buttons (R257 to R260) -/

/-- A write of BTN_RING. -/
def btnRingWrite (s : State) (receiver : Nat) (v : Word) (mantle : Bool) : State :=
  (List.range 32).foldl (fun s b => if bitAt v b then ringBtn s receiver b mantle else s) s

/-- BTN.RING as a request: Buttons 28 to 31 of another master are a violation (R258). -/
def ringReq (s : State) (c x mid b : Nat) (orphan : Bool) : State :=
  let r := SyncReq.ring mid b
  if 28 ≤ b then answerReq (pageViolation s c (pgBtn mid) R_BTN_RING 4) c x r orphan .done
  else answerReq (ringBtn s mid b false) c x r orphan .done

/-- BTN_RING: a write, or a context's BTN.RING: first its record, then its request. -/
def execBtnRing (src : BtnSrc) (s : State) : Out :=
  .next (match src with
    | .fabric mid receiver ring =>
      let v : Word := w64 ring.toNat
      guardWrite s mid.toNat (pgBtn receiver.toNat) R_BTN_RING v (fun s => btnRingWrite s receiver.toNat v (isMantle mid.toNat))
    | .ctx c x =>
      match findReq s c x (fun r => match r with
          | .ring _ _ => true
          | _ => false) with
      | some (.ring mid b, o) => ringReq s c x mid b o
      | _ => execRec s c x 0x2A (fun s r =>
          match firstCode [(!hasButtons (bits r 39 32), 0x02), (inTask s c x, 0x09)] with
          | some code => refuseHere s c x code r
          | none => sendReq s c x (.ring (bits r 39 32) (bits r 44 40))))

/-- BTN.WAIT (R260). -/
def btnWait (s : State) (c x : Nat) (r : Rec) : State :=
  let m := bits r 95 64
  let sd := bits r 37 32
  let k := reg (pgBtn c) R_BTN_PEND
  let got := Nat.land (rd s k).toNat m
  if inTask s c x then refuseHere s c x 0x09 r
  else if m = 0 then syncComplete (setScalar s c x sd 0) c x
  else if got ≠ 0 then
    syncComplete (setScalar (wr s k (rd s k &&& ~~~ w64 got)) c x sd (w64 got)) c x
  else countWait (modCtx s c x (fun k => { k with st := .waitSync, wait := some (.button m) })) c x false

def execBtnWait (c : Core) (x : CtxId) (s : State) : Out := .next (execRec s c x 0x2B (fun s r => btnWait s c x r))

end Sys2Proof.Machine
end

