-- ==== Sys2Proof/Machine/Coll.lean ====
section
/-! DEFINITION. Collective engines: taking and checking commands, the three operations, wide folding, the numerics word and the
closing phase (13_collectives_optimizer.md R350 to R360, R370, R373 to R375). -/
namespace Sys2Proof.Machine

/-! ## Descriptors and sets (R351, R353, R355) -/

abbrev kColl (p off : Nat) : Nat := reg (pgColl p) off
def collMid (p : Nat) : Nat := 0x48 + p

def cdOp (d : Desc) : Nat := bits d 225 224
def cdSet (d : Desc) : Nat := bits d 231 226
def cdId (d : Desc) : Nat := bits d 159 144
def cdTag (d : Desc) : Nat := bits d 143 128
def cdClose (d : Desc) : Bool := bitAt d 240

def collOf (s : State) (p : Nat) : List CollCmd := tabGet (fun _ => []) s.coll p
def setColl (s : State) (p : Nat) (q : List CollCmd) : State := { s with coll := tabSet (fun _ => []) s.coll p q }
/-- Change the command with number `n` of engine `p`. -/
def modCmd (s : State) (p n : Nat) (f : CollCmd → CollCmd) : State :=
  setColl s p ((collOf s p).map (fun c => if c.num = n then f c else c))

/-- The key of a set entry. -/
def kSet (p i : Nat) : Nat := kColl p (R_COLL_SET + 8 * i)
def setCount (s : State) (p i : Nat) : Nat := rdF s (kSet p i) 50 40
def setSelf (s : State) (p i : Nat) : Nat := rdF s (kSet p i) 39 30
def setOk (s : State) (p i : Nat) : Bool := rdB s (kSet p i) 63
/-- The partner entry of position `q`. -/
def member (s : State) (p i q : Nat) : Nat :=
  let m := rdF s (kSet p i) 29 20 + q
  rdF s (reg (pgColl p + 1 + m / 256) (R_Member_entry + 8 * (m % 256))) 11 0
/-- The positions of the other members. -/
def others (s : State) (p i : Nat) : List Nat := (List.range (setCount s p i)).filter (fun q => q != setSelf s p i)

def CollCmd.src (c : CollCmd) : Tile := tileOf c.srcD
def CollCmd.dsts (c : CollCmd) : List Tile := c.dstD.map tileOf
def Tile.size (t : Tile) : Nat := t.rows * t.cols
/-- The single copy of a tile. -/
def Tile.only (t : Tile) : Nat := if t.hasRow then 0 else 1
def dstFmt (l : List Tile) : Fmt := match l with
  | [] => .fp32
  | t :: _ => t.fmt

/-- Elements of a frame (R355). -/
def perFrame (f : Fmt) : Nat := if f = .kb4 then 896 else 1024 / f.nibbles

/-- Elements of a member's chunk or shard. -/
def CollCmd.chunk (s : State) (p : Nat) (c : CollCmd) : Nat :=
  if cdOp c.d = 0 then c.src.size else c.src.size / max (setCount s p (cdSet c.d)) 1

/-- Elements of frame `f` of a run of `n`. -/
def frameLen (fm : Fmt) (n f : Nat) : Nat := min (perFrame fm) (n - f * perFrame fm)
def frameCount (fm : Fmt) (n : Nat) : Nat := (n + perFrame fm - 1) / perFrame fm

/-- ATTR of a collective frame. -/
def collAttr (p kind id index : Nat) : Nat := collMid p + kind * 2 ^ 8 + id * 2 ^ 16 + index * 2 ^ 32
def attrKind (a : Nat) : Nat := a / 2 ^ 8 % 2 ^ 8
def attrId (a : Nat) : Nat := a / 2 ^ 16 % 2 ^ 16
def attrIndex (a : Nat) : Nat := a / 2 ^ 32 % 2 ^ 32

/-! ## Taking a command (R350 to R352) -/

/-- Is a byte range in HBM, LLC scratchpad ways or a core store's data region? -/
def collPlace (s : State) (r : Nat × Nat) : Bool :=
  oneRegion r.1 (r.2 - r.1) && (match regionOf r.1 with
    | .hbm => true
    | .llcWin _ => (linesOf r.1 (r.2 - r.1)).all (scratchOk s)
    | .data _ => true
    | _ => false)

/-- Does a tile descriptor break the DESC row of Table: Collective refusals? -/
def tileBadColl (t : Tile) : Bool := !t.descOk || (t.hasRow && t.hasCol) || t.pitch0 != 0 || t.pitch1 != 0

/-- Do sizes match Table: Collective operations? -/
def sizesOk (op n src dst : Nat) : Bool :=
  if op = 0 then dst == n * src else if op = 1 then n * dst == src else src == dst && src % max n 1 == 0

/-- Is a destination the gradient buffer of a shard entry (code OPT)? -/
def optDstOk (s : State) (e : Nat) (l : List Tile) : Bool :=
  let p := e / 4096
  let k := e % 4096
  let base := rdF s (kSh p k R_SH_GRAD) 63 6 * 64
  shValid s p k && (l.foldl (fun a t => a + t.size) 0 == shElems s p k)
    && l.all (fun t => t.fmtCode == rdF s (kSh p k R_SH_GRAD) 3 0)
    && (indexed 0 l).all (fun t => t.2.base t.2.only == base + (t.2.fmt.bytesFor ((l.take t.1).foldl (fun a x => a + x.size) 0)))

/-- The refusal code of a descriptor, the lowest that holds. -/
def collRefusal (s : State) (p : Nat) (d : Desc) (readable : Bool) (src : Tile) (dst : List Tile) : Option Nat :=
  let tiles := src :: dst
  let op := cdOp d
  let i := cdSet d
  let n := setCount s p i
  let chunk := if op = 0 then src.size else src.size / max n 1
  let cfg := kColl p R_COLL_CLOSE_CFG
  let badSet := fun (en hi lo : Nat) => rdB s cfg en && !setOk s p (rdF s cfg hi lo)
  firstCode [
    (!readable || op == 3 || dst.length == 0 || decide (64 < dst.length) || tiles.any tileBadColl
      || !sizesOk op n src.size (dst.foldl (fun a t => a + t.size) 0), 0x01),
    (!setOk s p i || decide (n ≤ setSelf s p i), 0x02),
    (tiles.any (fun t => !dataFmt t.fmtCode) || dst.any (fun t => t.fmt != dstFmt dst)
      || (op == 0 && (src.shift != 0 || dstFmt dst != src.fmt))
      || (tiles.any (fun t => t.fmt == .kb4) && chunk % 16 != 0), 0x03),
    (tiles.any (fun t => !t.ranges.all (collPlace s)), 0x04),
    (cdClose d && (p != 0 || badSet 15 13 8 || badSet 7 5 0), 0x05),
    (bitAt d 241 && !optDstOk s (bits d 255 242) dst, 0x06)]

/-- DONE_BTN of DONE_MID rings if DONE_EN is set. -/
def collDone (s : State) (d : Desc) : State := if bitAt d 210 then ringBtn s (bits d 223 216) (bits d 215 211) false else s

/-- A refused command; the service firmware is to stop the job (R352). -/
def collRefuse (s : State) (p : Nat) (d : Desc) (code : Nat) (addr : Nat) : State :=
  let s := wr s (kColl p R_COLL_ERR) (w64 (code * 2 ^ 32 + cdId d * 2 ^ 16 + cdTag d))
  let s := wrB s (kColl p R_COLL_STATUS) 0 true
  let s := countNum (bump s (pgColl p) R_COLL_REFUSE_CNT) (pgColl p) ⟨0, 1, 0⟩ 0
  collDone (stopOwed (reportErr s (pgColl p) code (w64 addr)) code) d

/-- The Pocket whose message the engine takes: the lowest with GO set that is bound to it (log entry 74). -/
def collPocket (s : State) (p : Nat) : Option Nat :=
  (List.range 512).find? (fun k => pktGo s k && pktOn s k && pktValid s k && pktReceiver s k == collMid p)

/-- Does an engine of Panel `p` run? -/
def engOn (s : State) (p page : Nat) : Bool := domOn s (44 + p) && !s.breached.contains page

/-- Descriptors at consecutive 64-byte places. -/
def descsRead (s : State) (a n : Nat) : State × Bool × List Desc :=
  (List.range n).foldl (fun (acc : State × Bool × List Desc) i =>
    let r := spanRead acc.1 (a + 64 * i) 64
    (r.1, acc.2.1 && collPlace acc.1 (a + 64 * i, a + 64 * i + 64) && !anyMarked r.2,
     acc.2.2 ++ [BitVec.ofNat 512 (bytesVal (bytesOf r.2))])) (s, true, [])

/-- COLL_COMMAND_TAKE. -/
def collTake (s : State) (p : Nat) : State :=
  match collPocket s p with
  | none => s
  | some k =>
    let a := (rd s (reg (pgPocket k) R_PKT_MSG)).toNat
    if !engOn s p (pgColl p) ∨ frozen s (collMid p) ∨ 64 ≤ (collOf s p).length ∨ memWaits s a then s
    else
      let s := pktTake s k
      let h := descsRead s a 1
      let d := nth 0 h.2.2 0
      let sr := descsRead h.1 (bits d 63 0) 1
      let ds := descsRead sr.1 (bits d 127 64) (min (bits d 239 232) 64)
      let s := ds.1
      let n := bits d 239 232
      let ok := h.2.1 && sr.2.1 && ds.2.1 && decide (n ≤ 64)
      let src := tileOf (nth 0 sr.2.2 0)
      let dst := ds.2.2.map tileOf
      match collRefusal s p d ok src dst with
      | some code => collRefuse s p d code a
      | none =>
        let c : CollCmd := ⟨s.collNext, d, nth 0 sr.2.2 0, ds.2.2, false, dst.map Tile.size, [], 0, ⟨0, 0, 0, 0, 0, 0⟩, [], false⟩
        { setColl s p (collOf s p ++ [c]) with collNext := s.collNext + 1 }

def execCollCommandTake (p : Panel) (s : State) : Out := .next (collTake s p)

/-! ## Reading and writing runs of elements -/

/-- Bytes and scale bytes of elements `n0` onward of a single-copy tile, the poisoned ones marked. -/
def runCells (s : State) (t : Tile) (n0 n : Nat) : State × List (Byte × Bool) × List (Byte × Bool) :=
  let y := t.only
  let d := spanRead s (t.addr y n0) (t.fmt.bytesFor n)
  let c := if t.fmt = .kb4 then spanRead d.1 (t.sbase y + n0 / 16) (n / 16) else (d.1, [])
  (c.1, d.2, c.2)

/-- The same, each poisoned granule counted (R358). -/
def runRead (s : State) (p : Nat) (t : Tile) (n0 n : Nat) : State × List (Byte × Bool) × List (Byte × Bool) :=
  let r := runCells s t n0 n
  (countMarked (countMarked r.1 (pgColl p) (t.addr t.only n0) r.2.1) (pgColl p) (t.sbase t.only + n0 / 16) r.2.2, r.2.1, r.2.2)

/-- The payload that carries a run: marked elements, and all of a marked KB4 block, as the canonical NaN (04_numerics.md R90). -/
def runPayload (f : Fmt) (n : Nat) (data scales : List (Byte × Bool)) : List Byte :=
  if f = .kb4 then
    let bs := List.zip (groupsOfK 8 (n / 16) data) scales
    bs.flatMap (fun b => if anyMarked b.1 || b.2.2 then List.replicate b.1.length 0 else bytesOf b.1)
      ++ bs.map (fun b => if anyMarked b.1 || b.2.2 then 0xFF else b.2.1)
  else
    match f.lay with
    | some l => (groupsOfK (f.nibbles / 2) n data).flatMap (fun b => if anyMarked b then elemBytes f l.nanCode else bytesOf b)
    | none => bytesOf data

/-- A payload as clean bytes: data, then scales. -/
def splitPayload (f : Fmt) (n : Nat) (b : List Byte) : List (Byte × Bool) × List (Byte × Bool) :=
  let m := b.map (fun x => (x, false))
  (m.take (f.bytesFor n), (m.drop (f.bytesFor n)).take (f.scalesFor n))

/-- Write elements `pos` onward of a command's result into its destination tiles; a tile whose last element is written takes RESULT_SHIFT 0, that byte of its descriptor
(07_command_encoding.md R193), and becomes FULL (R354). -/
def putRun (s : State) (p : Nat) (c : CollCmd) (pos n : Nat) (data scales : List Byte) : State :=
  let step := fun (acc : State × Nat × Nat) (t : Tile) =>
    let off := acc.2.1
    let j := acc.2.2
    let lo := max pos off
    let hi := min (pos + n) (off + t.size)
    let s := acc.1
    let s := if lo < hi then
        let y := t.only
        let cnt := hi - lo
        let s := panelWrite s (collMid p) (t.addr y (lo - off)) ((data.drop (t.fmt.bytesFor (lo - pos))).take (t.fmt.bytesFor cnt))
        let s := if t.fmt = .kb4 then
            panelWrite s (collMid p) (t.sbase y + (lo - off) / 16) ((scales.drop ((lo - pos) / 16)).take (cnt / 16))
          else s
        let left := nth 0 (((collOf s p).find? (fun x => x.num == c.num)).map (fun x => x.left) |>.getD []) j
        let s := modCmd s p c.num (fun x => { x with left := modNth (fun v => v - cnt) x.left j })
        if left = cnt then fbComplete (panelWrite s (collMid p) (bits c.d 127 64 + 64 * j + 49) [0]) t.fb else s
      else s
    (s, off + t.size, j + 1)
  (c.dsts.foldl step (s, 0, 0)).1

/-- The bytes and scale bytes of elements `pos` onward of a command's result, as written. -/
def getRun (s : State) (p : Nat) (c : CollCmd) (pos n : Nat) : State × List (Byte × Bool) × List (Byte × Bool) :=
  let step := fun (acc : State × Nat × List (Byte × Bool) × List (Byte × Bool)) (t : Tile) =>
    let off := acc.2.1
    let lo := max pos off
    let hi := min (pos + n) (off + t.size)
    if lo < hi then
      let r := runRead acc.1 p t (lo - off) (hi - lo)
      (r.1, off + t.size, acc.2.2.1 ++ r.2.1, acc.2.2.2 ++ r.2.2)
    else (acc.1, off + t.size, acc.2.2)
  let r := c.dsts.foldl step (s, 0, [], [])
  (r.1, r.2.2)

/-! ## Starting (R354, R359) -/

/-- The local words of a Panel fold into COLL_STEP_WORD: read and cleared in its cores, the engine and the optimizer engine. -/
def foldWords (s : State) (p : Nat) : State :=
  let pages := (List.range 8).map (fun i => pgCore (8 * p + i)) ++ [pgColl p, pgOpt p]
  pages.foldl (fun s pg =>
    if pageOn s pg then
      let k := kColl p R_COLL_STEP_WORD
      wr (wr s k (nwMerge (rd s k) (rd s (reg pg R_NUM_WORD_LOCAL)))) (reg pg R_NUM_WORD_LOCAL) 0
    else s) s

/-- An ENGINE frame of the COLLECTIVE class. -/
def collFrame (p kind id index : Nat) (payload : List Byte) : WFrame :=
  { bareFrame 0 (collAttr p kind id index) with opc := 1, len := payload.length, payload := payload }

/-- Queue a frame for a partner entry or a group, counting its payload. -/
def collSend (s : State) (p : Nat) (group : Bool) (k : Nat) (f : WFrame) : State :=
  bumpN { s with outbox := s.outbox ++ [(group, k, f)] } (pgColl p) R_COLL_TX_BYTES_CNT f.len

/-- Frames `0` onward of a run of `n` elements that starts at element `n0` of the source. -/
def sendRun (s : State) (p : Nat) (t : Tile) (n0 n kind id : Nat) (group : Bool) (k : Nat) : State :=
  (List.range (frameCount t.fmt n)).foldl (fun s f =>
    let m := frameLen t.fmt n f
    let r := runRead s p t (n0 + f * perFrame t.fmt) m
    collSend r.1 p group k (collFrame p kind id f (runPayload t.fmt m r.2.1 r.2.2))) s

/-- Start a command of engine `p`: destinations go to FILLING and the frames of Table: Collective operations are sent. -/
def collBegin (s : State) (p : Nat) (c : CollCmd) : State :=
  let s := c.dsts.foldl (fun s t => fbFire s none false t.fb) s
  let i := cdSet c.d
  let id := cdId c.d
  let grp := rdF s (kSet p i) 15 8
  let n := c.chunk s p
  if cdOp c.d = 0 then
    let s := modCmd s p c.num (fun x => { x with started := true, key := engKey s (pgColl p) (cdTag c.d) })
    let s := sendRun s p c.src 0 n 1 id true grp
    let r := runCells s c.src 0 n
    let w := splitPayload c.src.fmt n (runPayload c.src.fmt n r.2.1 r.2.2)
    putRun r.1 p c (setSelf s p i * n) n (bytesOf w.1) (bytesOf w.2)
  else
    let s := foldWords s p
    let word := rd s (kColl p R_COLL_STEP_WORD)
    let s := modCmd s p c.num (fun x => { x with started := true, stepWord := word, key := engKey s (pgColl p) (cdTag c.d) })
    (others s p i).foldl (fun s q =>
      let s := sendRun s p c.src (q * n) n 0 id false (member s p i q)
      collSend s p false (member s p i q) (collFrame p 2 id 0 (valBytes 8 word.toNat))) s

/-- Start the oldest waiting command of an engine, if it is of operation `op`, fewer than four run and it is not held: from step 2 of
a closing phase a command taken since then is (R351, R354, R370). -/
def collStart (s : State) (p op : Nat) : State :=
  match (collOf s p).find? (fun c => !c.started) with
  | none => s
  | some c =>
    if !engOn s p (pgColl p) ∨ cdOp c.d ≠ op ∨ 4 ≤ (collOf s p).countP (fun x => x.started)
        ∨ (rdB s (kColl p R_COLL_STATUS) 3 && !s.closing.waits.contains c.num)
        ∨ !fullSeen s none c.src.fb ∨ c.dsts.any (fun t => !emptySeen s none t.fb)
        ∨ (c.src :: c.dsts).any (fun t => memWaits s (t.base t.only)) then s
    else collBegin s p c

def execAllGather (p : Panel) (s : State) : Out := .next (collStart s p 0)
def execReduceScatter (p : Panel) (s : State) : Out := .next (collStart s p 1)
def execAllReduce (p : Panel) (s : State) : Out := .next (collStart s p 2)

/-! ## Frames in (R355, R356, R359) -/

/-- Frames of a source wait behind an earlier one of the same stream that the engine has not taken in. -/
def engNext (s : State) (mid : Nat) (can : EngIn → Bool) : Option EngIn :=
  let mine := s.toEngine.filter (fun i => i.mid == mid && !i.seen)
  (indexed 0 mine).find? (fun i => can i.2 && !(mine.take i.1).any (fun j => j.src == i.2.src)) |>.map (fun i => i.2)

/-- Change or drop the entry of a frame in the engines' inbox. -/
def seenIn (s : State) (i : EngIn) : State :=
  { s with toEngine := s.toEngine.map (fun j => if j = i then { j with seen := true } else j) }
def dropIn (s : State) (i : EngIn) : State :=
  freeSlot { s with toEngine := s.toEngine.filter (fun j => j != i) } i.src i.f.seq true

def cmdOf (s : State) (p id : Nat) : Option CollCmd := (collOf s p).find? (fun c => cdId c.d == id)

/-- The position of a frame's sender in a set, if it is another member. -/
def senderPos (s : State) (p set : Nat) (i : EngIn) : Option Nat := (others s p set).find? (fun q => member s p set q == srcEntry s i.src)

/-- The CONTRIB frames with an index that an owner holds, by position. -/
def contribs (s : State) (p : Nat) (c : CollCmd) (index : Nat) : List (Nat × EngIn) :=
  (others s p (cdSet c.d)).filterMap (fun q =>
    (s.toEngine.find? (fun i => i.mid == collMid p && i.seen && attrKind i.f.attr == 0 && attrId i.f.attr == cdId c.d
      && attrIndex i.f.attr == index && srcEntry s i.src == member s p (cdSet c.d) q)).map (fun i => (q, i)))

/-- May a frame be taken in now? Frames of unknown COLL_ID, and result data of a command that has not started, are held. -/
def collCan (s : State) (p : Nat) (i : EngIn) : Bool :=
  let k := attrKind i.f.attr
  if 3 ≤ k then true
  else match cmdOf s p (attrId i.f.attr) with
    | none => false
    | some c => k != 1 || c.started

/-- Is every chunk frame of an owner folded? -/
def allFolded (s : State) (p : Nat) (c : CollCmd) : Bool := c.folded.length == frameCount c.src.fmt (c.chunk s p)

/-- The result word (R359): the merge of the step word and every contribution's word. -/
def resultWord (c : CollCmd) : Word := (c.words.filter (fun w => w.1 == 0)).foldl (fun a w => nwMerge a w.2.2) c.stepWord

/-- Has a word of phase `ph` come from every other member? -/
def wordsIn (s : State) (p : Nat) (c : CollCmd) (ph : Nat) : Bool :=
  (others s p (cdSet c.d)).all (fun q => c.words.any (fun w => w.1 == ph && w.2.1 == q))

/-- An owner of an ALL_REDUCE that has folded its chunk and has every word sends the RESULT frames, in the destination's format, and its
result word after them. -/
def settleCmd (s : State) (p num : Nat) : State :=
  match (collOf s p).find? (fun c => c.num == num) with
  | none => s
  | some c =>
    if cdOp c.d = 2 ∧ !c.sentRes ∧ allFolded s p c ∧ wordsIn s p c 0 then
      let s := modCmd s p num (fun x => { x with sentRes := true })
      let f := dstFmt c.dsts
      let n := c.chunk s p
      let grp := rdF s (kSet p (cdSet c.d)) 15 8
      let s := (List.range (frameCount f n)).foldl (fun s i =>
        let m := frameLen f n i
        let r := getRun s p c (setSelf s p (cdSet c.d) * n + i * perFrame f) m
        collSend r.1 p true grp (collFrame p 1 (cdId c.d) i (runPayload f m r.2.1 r.2.2))) s
      collSend s p true grp (collFrame p 2 (cdId c.d) 0 (valBytes 8 (resultWord c).toNat))
    else s

/-- COLL_FRAME_RX: the next frame in the engine's inbox is taken in; one of a reserved KIND is dropped. -/
def collFrameRx (s : State) (p : Nat) : State :=
  match engNext s (collMid p) (collCan s p) with
  | none => s
  | some i =>
    if !engOn s p (pgColl p) then s
    else
      let s := bumpN s (pgColl p) R_COLL_RX_BYTES_CNT i.f.len
      let k := attrKind i.f.attr
      if 5 ≤ k then dropIn s i
      else if k = 3 ∨ k = 4 then
        let w := w64 (bytesVal i.f.payload)
        { dropIn s i with closing := { s.closing with got := s.closing.got ++ [(k - 2, srcEntry s i.src, w)] } }
      else match cmdOf s p (attrId i.f.attr) with
        | none => dropIn s i
        | some c => match senderPos s p (cdSet c.d) i with
          | none => dropIn s i
          | some q =>
            if k = 0 then
              let s := seenIn s i
              if c.started && (contribs s p c (attrIndex i.f.attr)).length == (others s p (cdSet c.d)).length then s
              else bump s (pgColl p) R_COLL_FOLD_HOLD_CNT
            else if k = 2 then
              let ph := match i.src with
                | .entry _ _ => 0
                | .group _ => 1
              settleCmd (modCmd (dropIn s i) p c.num (fun x => { x with words := x.words ++ [(ph, q, w64 (bytesVal i.f.payload))] })) p c.num
            else
              let f := dstFmt c.dsts
              let n := c.chunk s p
              let m := frameLen f n (attrIndex i.f.attr)
              let w := splitPayload f m i.f.payload
              putRun (dropIn s i) p c (q * n + attrIndex i.f.attr * perFrame f) m (bytesOf w.1) (bytesOf w.2)

def execCollFrameRx (p : Panel) (s : State) : Out := .next (collFrameRx s p)

/-! ## Folding (R356 to R358) -/

/-- A sum in W40: one more term, added with RNE. -/
def foldAdd (a b : List FVal) : List FVal := (List.zip a b).map (fun x => wAdd x.1 x.2)

/-- COLL_FOLD: chunk frame `index` of the command with COLL_ID `id` is folded and written. -/
def collFold (s : State) (p id index : Nat) : State :=
  match cmdOf s p id with
  | none => s
  | some c =>
    let set := cdSet c.d
    let n := c.chunk s p
    let sf := c.src.fmt
    let cs := contribs s p c index
    if !engOn s p (pgColl p) ∨ !c.started ∨ cdOp c.d = 0 ∨ c.folded.contains index ∨ frameCount sf n ≤ index
        ∨ cs.length ≠ (others s p set).length then s
    else
      let m := frameLen sf n index
      let at' := index * perFrame sf
      let own := runRead s p c.src (setSelf s p set * n + at') m
      let s := own.1
      let vals := fun (d sc : List (Byte × Bool)) => (elemVals sf m d sc).map (fun v => v.scale c.src.shift)
      let sum := cs.foldl (fun a x => let w := splitPayload sf m x.2.f.payload; foldAdd a (vals w.1 w.2)) ((vals own.2.1 own.2.2).map w40)
      let pos := (if cdOp c.d = 2 then setSelf s p set * n else 0) + at'
      let e0 := bits c.d 191 160
      let df := dstFmt c.dsts
      let s := engCheck s (pgColl p) (bitAt c.d 209)
      let rnd := (indexed 0 sum).map (fun v => (v.2, engRnd s (pgColl p) c.key 5 0 (bitAt c.d 209) (e0 + pos + v.1)))
      let w := elemPut df rnd
      let s := countNum s (pgColl p) w.2.2 0
      let s := cs.foldl (fun s x => dropIn s x.2) s
      let s := modCmd s p c.num (fun x => { x with folded := x.folded ++ [index] })
      let s := putRun s p c pos m w.1 w.2.1
      settleCmd s p c.num

def execCollFold (p : Panel) (collId frame : Nat) (s : State) : Out := .next (collFold s p collId frame)

/-! ## Completion (R351, R359, R361) -/

/-- Has a command written everything and received every word? -/
def collFinished (s : State) (p : Nat) (c : CollCmd) : Bool :=
  c.started && c.left.all (fun n => n == 0)
    && (cdOp c.d == 0 || (allFolded s p c && wordsIn s p c 0))
    && (cdOp c.d != 2 || (c.sentRes && wordsIn s p c 1))

/-- COLL_COMMAND_COMPLETE: the oldest command that has finished. A command with CLOSE set opens the closing phase. -/
def collComplete (s : State) (p : Nat) : State :=
  match (collOf s p).find? (collFinished s p) with
  | none => s
  | some c =>
    if !engOn s p (pgColl p) then s
    else
      let s := setColl s p ((collOf s p).filter (fun x => x.num != c.num))
      let s := bump s (pgColl p) R_COLL_CMD_CNT
      let s := if cdOp c.d = 0 then s else wr s (kColl p R_COLL_LAST_WORD) (resultWord c)
      let s := if bitAt c.d 208 then fbRelease s none c.src.fb else s
      let s := if bitAt c.d 241 then postContribution s (bits c.d 255 242) else s
      let s := collDone s c.d
      if cdClose c.d ∧ s.closing.stage = 0 then
        let nums := (List.range 4).flatMap (fun q => (collOf s q).map (fun x => x.num))
        wrB { s with closing := ⟨1, nums, 0, s.closing.got⟩ } (kColl 0 R_COLL_STATUS) 1 true
      else s

def execCollCommandComplete (p : Panel) (s : State) : Out := .next (collComplete s p)

/-! ## The closing phase (R370, R387) -/

/-- Send a stage's word to every other member of its set. -/
def sendClose (s : State) (stage : Nat) : State :=
  let cfg := kColl 0 R_COLL_CLOSE_CFG
  let en := rdB s cfg (if stage = 1 then 15 else 7)
  let set := if stage = 1 then rdF s cfg 13 8 else rdF s cfg 5 0
  if !en then s
  else (others s 0 set).foldl (fun s q =>
    collSend s 0 false (member s 0 set q) (collFrame 0 (2 + stage) 0 0 (valBytes 8 s.closing.word.toNat))) s

/-- CLOSING_PHASE: steps 1 to 4. -/
def closingStart (s : State) : State :=
  let open' := (List.range 4).any (fun p => (collOf s p).any (fun c => s.closing.waits.contains c.num))
  if s.closing.stage ≠ 1 ∨ open' ∨ !allLedger s 2 then s
  else
    let s := (List.range 4).foldl (fun s p => wrB (foldWords s p) (kColl p R_COLL_STATUS) 3 true) s
    let word := (List.range 4).foldl (fun a p => nwMerge a (rd s (kColl p R_COLL_STEP_WORD))) 0
    let s := (List.range 4).foldl (fun s p => wr s (kColl p R_COLL_STEP_WORD) 0) s
    let s := wrB (wrB s (kColl 0 R_COLL_STATUS) 1 false) (kColl 0 R_COLL_STATUS) 2 true
    let taken := (List.range 4).flatMap (fun q => (collOf s q).map (fun x => x.num))
    sendClose { s with closing := ⟨2, taken, word, s.closing.got⟩ } 1

def execClosingPhase (s : State) : Out := .next (closingStart s)

/-- The first word of a stage from an entry. -/
def closeWord (s : State) (stage e : Nat) : Option Word := (s.closing.got.find? (fun g => g.1 == stage && g.2.1 == e)).map (fun g => g.2.2)

/-- Merge a stage: the word of every other member, each taken from its stream in order; a disabled stage passes its word through. `none`: words are missing. -/
def mergeStage (s : State) (stage : Nat) : Option ClosingSt :=
  let cfg := kColl 0 R_COLL_CLOSE_CFG
  let en := rdB s cfg (if stage = 1 then 15 else 7)
  let set := if stage = 1 then rdF s cfg 13 8 else rdF s cfg 5 0
  let es := if en then (others s 0 set).map (member s 0 set) else []
  if es.all (fun e => (closeWord s stage e).isSome) then
    some { s.closing with
      word := es.foldl (fun a e => nwMerge a ((closeWord s stage e).getD 0)) s.closing.word,
      got := es.foldl (fun l e => dropFirst (fun g => g.1 == stage && g.2.1 == e) l) s.closing.got }
  else none

def execClose1Merged (s : State) : Out :=
  .next (if s.closing.stage ≠ 2 then s
  else match mergeStage s 1 with
    | none => s
    | some c => sendClose { s with closing := { c with stage := 3 } } 2)

/-- CLOSE2_MERGED: the fleet word decides. -/
def close2 (s : State) : State :=
  if s.closing.stage ≠ 3 then s
  else match mergeStage s 2 with
    | none => s
    | some c =>
      let s := { s with closing := { c with stage := 0, word := 0 } }
      let s := wr s (kColl 0 R_COLL_LAST_WORD) c.word
      let discard := bitAt c.word 63
      let s := (List.range 4).foldl (fun s p =>
        let s := wr s (kOpt p R_OPT_VOTE_WORD) c.word
        let s := wrF s (kRec p R_REC_STATUS) 7 6 (if discard then 2 else 1)
        wr s (kRec p R_REC_VOTE_STEP) (rd s (kOpt p R_NUM_STEP))) s
      let s := bump (wrB s (kColl 0 R_COLL_STATUS) 2 false) (pgColl 0) R_COLL_CLOSE_CNT
      applyOutcome s discard

def execClose2Merged (s : State) : Out := .next (close2 s)

end Sys2Proof.Machine
end

