-- ==== Sys2Proof/Machine/Recovery.lean ====
section
/-! DEFINITION. Recovery engines: local snapshots, mirrors, restores, verification and the recovery commands (14_recovery.md R377 to
R396). -/
namespace Sys2Proof.Machine

/-! ## Slots (R379, R383) -/

/-- The address of a Panel's local slot for step `n`. -/
def localSlot (s : State) (p n : Nat) : Nat :=
  rdF s (kRec p R_REC_SNAP_BASE) 63 12 * 4096 + (n % 2) * (rdF s (kRec p R_REC_SNAP_SLOT) 31 0 * 4096)

/-- The snapshot regions of a Panel: base, bytes, REPLICATED, in table order. -/
def regions (s : State) (p : Nat) : List (Nat × Nat × Bool) :=
  (List.range 64).filterMap (fun i =>
    let k := kRec p (R_REC_SNAP_REGION_BASE + 16 * i)
    if rdB s (k + 8) 63 then some (rdF s k 63 6 * 64, rdF s (k + 8) 31 0 * 64, rdB s (k + 8) 62) else none)

/-- The committed step of the module. -/
def recStep (s : State) : Nat := (rd s (kOpt 0 R_NUM_STEP)).toNat

/-- A 64-bit word of memory. -/
def wordRead (s : State) (a : Nat) : State × Nat := let r := spanRead s a 8; (r.1, bytesVal (bytesOf r.2))

/-- The ingest cursor: the word at REC_INGEST. -/
def ingestCursor (s : State) : State × Nat := wordRead s (rdF s (kRec 0 R_REC_INGEST) 63 3 * 8)

/-- SHA-512 of bytes, as a number. -/
def shaOf (b : List Byte) : Nat := (Config.sha512 b).toNat

/-- The 128 bytes of a slot header. -/
def slotHeader (s : State) (p step cursor bytes digest : Nat) (mirror poisoned : Bool) : List Byte :=
  let flags := 1 + (if poisoned then 2 else 0) + (if mirror then 4 else 0)
    + rdF s (kOpt p R_OPT_LOSS) 7 0 * 2 ^ 40 + rdF s (kOpt p R_OPT_LOSS) 63 48 * 2 ^ 48
  valBytes 8 step ++ valBytes 8 (rd s (kOpt p R_NUM_SEED)).toNat ++ valBytes 8 cursor ++ valBytes 8 bytes ++ valBytes 8 flags
    ++ List.replicate 24 0 ++ valBytes 64 digest

/-- A slot header as read: STEP, SEED, CURSOR, BYTES, the flag word, DIGEST. -/
structure SlotHdr where
  step : Nat
  seed : Nat
  cursor : Nat
  bytes : Nat
  flags : Nat
  digest : Nat

def hdrRead (s : State) (a : Nat) : State × SlotHdr :=
  let r := spanRead s a 128
  let w := fun (o n : Nat) => bytesVal (bytesOf ((r.2.drop o).take n))
  (r.1, ⟨w 0 8, w 8 8, w 16 8, w 24 8, w 32 8, w 64 64⟩)

/-- Why a slot cannot be restored for step `n`, as a RESULT code. -/
def hdrRefusal (h : SlotHdr) (n seed : Nat) (mirror : Bool) : Option Nat :=
  if h.flags % 2 = 0 ∨ h.step ≠ n ∨ h.flags.testBit 2 ≠ mirror then some 2
  else if h.flags.testBit 1 then some 5
  else if h.seed ≠ seed then some 4
  else none

/-- Copy granules with their poison. -/
def copyGranules (s : State) (mid a : Nat) (cells : List (Byte × Bool)) : State :=
  (indexed 0 (groupsOfK 64 (cells.length / 64 + 1) cells)).foldl (fun s g =>
    (writeMem s mid (a + 64 * g.1) (bytesOf g.2) (anyMarked g.2)).st) s

/-- LOCAL_SLOT_SEALED: the engine of a Panel has copied its regions; the header follows with SEALED set. Its CURSOR is the one after the commit, so it waits until the
firmware has advanced the cursor. -/
def localSeal (s : State) (p : Nat) : State :=
  let n := recStep s
  let slot := localSlot s p n
  if !engOn s p (pgRec p) ∨ !s.sealDue.contains p ∨ memWaits s slot ∨ s.svc.advance then s
  else
    let r := (regions s p).foldl (fun (acc : State × List (Byte × Bool)) g =>
      let q := spanRead acc.1 g.1 g.2.1
      (q.1, acc.2 ++ q.2)) (s, [])
    let s := copyGranules r.1 (0x50 + p) (slot + 4096) r.2
    let c := ingestCursor s
    let bad := poisonCount r.2
    let h := slotHeader c.1 p n c.2 r.2.length (shaOf (bytesOf r.2)) false (bad != 0)
    let s := panelWrite c.1 (0x50 + p) slot h
    let s := bumpN (bump s (pgRec p) R_REC_SNAP_CNT) (pgRec p) R_REC_POISON_CNT bad
    snapSettle { wrB s (kRec p R_REC_STATUS) 4 false with sealDue := s.sealDue.filter (fun x => x != p) }

def execLocalSlotSealed (p : Panel) (s : State) : Out := .next (localSeal s p)

/-- Store a digest in a Panel's page. -/
def putDigest (s : State) (p d : Nat) : State :=
  (List.range 8).foldl (fun s i => wr s (kRec p (R_REC_DIGEST + 8 * i)) (w64 (d / 2 ^ (64 * i) % 2 ^ 64))) s

/-- Dp of a Panel: its value, its bytes' count and whether any was poisoned. -/
def digestPart (s : State) (p : Nat) : State × Nat × Nat × Bool :=
  let r := partBytes s p
  let d := shaOf (bytesOf r.2)
  (putDigest r.1 p d, d, r.2.length, anyMarked r.2)

/-- The four parts' digests, the root over them, all bytes, any poison. -/
def digestAll (s : State) : State × Nat × Nat × Bool :=
  let r := (List.range 4).foldl (fun (acc : State × List Byte × Nat × Bool) p =>
    let d := digestPart acc.1 p
    (d.1, acc.2.1 ++ valBytes 64 d.2.1, acc.2.2.1 + d.2.2.1, acc.2.2.2 || d.2.2.2)) (s, [], 0, false)
  (r.1, shaOf r.2.1, r.2.2.1, r.2.2.2)

/-- MIRROR_HEADER_WRITE: every part is on its way, so the sealed header follows. -/
def mirrorHeader (s : State) : State :=
  let e := buddy s
  if !engOn s 0 (pgRec 0) ∨ s.svc.advance ∨ !rdB s (kRec 0 R_REC_STATUS) 3 ∨ s.mirHeader.isSome
      ∨ s.outbox.any (fun o => !o.1 && o.2.1 == e && o.2.2.cls == 2) then s
  else
    let n := recStep s
    let d := digestAll s
    let c := ingestCursor d.1
    let h := slotHeader c.1 0 n c.2 d.2.2.1 d.2.1 true d.2.2.2
    let a := mirrorSlot c.1 n
    { queueFrames c.1 e (writeFrames 2 a h) with mirHeader := some (e, a) }

def execMirrorHeaderWrite (s : State) : Out := .next (mirrorHeader s)

/-! ## Requests to a source (R389, R391). Their layout is the model's (log entry 76). -/

/-- An ENGINE frame between recovery engines: kind 0 a request, 1 a reply. -/
def recFrame (p kind : Nat) (ws : List Nat) : WFrame :=
  let b := ws.flatMap (valBytes 8)
  { bareFrame 2 (0x50 + p + kind * 2 ^ 8) with opc := 1, len := b.length, payload := b }

def recWord (f : WFrame) (i : Nat) : Nat := bytesVal ((f.payload.drop (8 * i)).take 8)

/-- Is a partner one that a source can be? -/
def peerOk (s : State) (e : Nat) : Bool := ptrValid s e && (ptrState s e == 1)

/-- Send a request to engine `p` of a source. -/
def askSource (s : State) (e p : Nat) (ws : List Nat) : State :=
  { queueFrames s e [recFrame p 0 ws] with recov := { s.recov with asked := s.recov.asked + 1 } }

/-- The pieces of a Panel's part: offset, bytes, place in this module. -/
def partPieces (s : State) (p : Nat) : List (Nat × Nat × Nat) :=
  ((shEntries s p).foldl (fun (acc : List (Nat × Nat × Nat) × Nat) k =>
    let n := shElems s p k
    let cur := curPlane s p
    let mb := (shMomFmt s p k).bytesFor n
    let two := shRule s p k == 0
    let o := acc.2
    let o2 := o + 4 * n + mb + (if two then mb else 0)
    (acc.1 ++ [(o, 4 * n, masterAt s p k cur), (o + 4 * n, mb, mom1At s p k cur)]
       ++ (if two then [(o + 4 * n + mb, mb, mom2At s p k cur)] else []) ++ [(o2, resBytes s p k, shadowAt s p k)],
     o2 + resBytes s p k)) ([], 0)).1

/-- Bytes of a Panel's part. -/
def partLen (s : State) (p : Nat) : Nat := (partPieces s p).foldl (fun a x => a + x.2.1) 0

/-- Does the batch at the ingest cursor carry the stamp of step `n` (R390)? -/
def stampOk (s : State) (n : Nat) : State × Bool :=
  let c := ingestCursor s
  let w := wordRead c.1 c.2
  (w.1, w.2 == n)

/-- End a command with a RESULT. -/
def recEnd (s : State) (n : Nat) : State := { s with recov := { s.recov with result := some n } }

/-- RESTORE_MIRROR and RESTORE_REPLICA: the checks of R389 and R390, then the requests. -/
def restorePull (s : State) (replica : Bool) : State :=
  let n := (rd s (kRec 0 R_REC_ARG0)).toNat
  let e := if replica then rdF s (kRec 0 R_REC_ARG1) 11 0 else buddy s
  if !allLedger s 0 then recEnd s 1
  else
    let c := stampOk s n
    let s := c.1
    if !c.2 then recEnd s 3
    else if !peerOk s e then recEnd s 7
    else
      let seed := (rd s (kOpt 0 R_NUM_SEED)).toNat
      let total := (List.range 4).foldl (fun a p => a + partLen s p) 0
      let base := mirrorSlot s n
      let rk := if replica then 1 else 0
      let s := askSource s e 0 [rk, n, seed, total, partLen s 0, base, 0, 0, 0]
      (List.range 4).foldl (fun s p =>
        let off := if replica then 0 else 4096 + p * (rdF s (kRec p R_REC_MIR_PART) 31 0 * 4096)
        let s := (partPieces s p).foldl (fun s x => askSource s e p [rk, n, seed, total, partLen s p, base, off + x.1, x.2.1, x.2.2]) s
        if replica then
          (indexed 0 (regions s p)).foldl (fun s g =>
            if g.2.2.2 then askSource s e p [2, n, seed, total, partLen s p, base, g.1, g.2.2.1, g.2.1] else s) s
        else s) s

/-- Set FULL the full bit of an entry's resident tile. -/
def residentFull (s : State) (p k : Nat) : State :=
  let t := resTile s p k
  match t.2.bind Tile.fb with
  | none => t.1
  | some (c, e) => setFb t.1 c e { fbOf t.1 c e with st := .full, writers := 0, parity := false }

def allTilesFull (s : State) : State :=
  (List.range 4).foldl (fun s p => (shEntries s p).foldl (fun s k => residentFull s p k) s) s

/-- A restore takes effect (R389): the step of the four optimizer engines, LS_EXP and GOOD_STEPS, the full bits; the state is
not yet snapshotted. -/
def restoreDone (s : State) (n flags : Nat) : State :=
  let s := (List.range 4).foldl (fun s p =>
    let s := wr s (kOpt p R_NUM_STEP) (w64 n)
    let s := wrF (wrF s (kOpt p R_OPT_LOSS) 7 0 (flags / 2 ^ 40)) (kOpt p R_OPT_LOSS) 63 48 (flags / 2 ^ 48)
    wrB s (kRec p R_REC_STATUS) 2 false) s
  let s := bump (allTilesFull s) (pgRec 0) R_REC_RESTORE_CNT
  { s with recov := { s.recov with restored := true } }

/-- The first refusal of the four local slots of step `n`, with the flag word of Panel 0's. -/
def localCheck (s : State) (n : Nat) : State × Option Nat × Nat :=
  (List.range 4).foldl (fun (acc : State × Option Nat × Nat) p =>
    let h := hdrRead acc.1 (localSlot s p n)
    let bytes := (regions s p).foldl (fun a g => a + g.2.1) 0
    let bad := match hdrRefusal h.2 n (rd s (kOpt 0 R_NUM_SEED)).toNat false with
      | some x => some x
      | none => if h.2.bytes = bytes then none else some 8
    (h.1, (match acc.2.1 with
      | some x => some x
      | none => bad), if p = 0 then h.2.flags else acc.2.2)) (s, none, 0)

/-- The local slots of step `n` go back into the snapshot regions. -/
def localCopy (s : State) (n : Nat) : State :=
  (List.range 4).foldl (fun s p =>
    ((regions s p).foldl (fun (acc : State × Nat) g =>
      let q := spanRead acc.1 (localSlot s p n + 4096 + acc.2) g.2.1
      (copyGranules q.1 (0x50 + p) g.1 q.2, acc.2 + g.2.1)) (s, 0)).1) s

/-- RESTORE_LOCAL. -/
def restoreLocal (s : State) : State :=
  let n := (rd s (kRec 0 R_REC_ARG0)).toNat
  if !allLedger s 0 then recEnd s 1
  else
    let c := stampOk s n
    if !c.2 then recEnd c.1 3
    else
      let k := localCheck c.1 n
      match k.2.1 with
      | some x => recEnd k.1 x
      | none => recEnd (restoreDone (localCopy k.1 n) n k.2.2) 0

/-! ## Commands (R392) -/

/-- Are all cores out of work: every context IDLE, no queue entry, no open accumulation? -/
def coresReset (s : State) : Bool :=
  s.ctxs.all (fun c => c.2.st == .idle)
    && s.cores.all (fun c => c.2.opeQ == [] && c.2.vecQ == [] && c.2.strQ == [] && c.2.accOwner == none)

/-- ABANDON drops collective commands and cancels the closing exchange. -/
def abandon (s : State) : State :=
  if !coresReset s then recEnd s 1
  else
    let s := (List.range 4).foldl (fun s p =>
      wrB (wrB (wrB (setColl s p []) (kColl p R_COLL_STATUS) 3 false) (kColl p R_COLL_STATUS) 2 false) (kColl p R_COLL_STATUS) 1 false) s
    { s with closing := .rst, outbox := s.outbox.filter (fun o => !(o.2.2.cls == 0 && o.2.2.opc == 1)) }

/-- Is every COLLECTIVE frame sent to a partner that is not DEAD acknowledged, and every started update written? -/
def abandonDone (s : State) : Bool :=
  s.optWritten == []
    && s.partners.all (fun q => ptrState s q.1 == 3 || !q.2.unacked.any (fun t => t.f.cls == 0))
    && s.groups.all (fun g => grpClass s g.1 != 0 || g.2.retained.all (fun t => t.legs.all (fun l =>
        (g.2.legs[l.1]?).any (fun z => ptrState s z.entry == 3))))

def abandoned (s : State) : Bool := rdB s (kRec 0 R_REC_STATUS) 5

/-- ROLLBACK. -/
def rollback (s : State) : State :=
  let n := recStep s - 1
  if !abandoned s ∨ !allLedger s 0 ∨ recStep s = 0 then recEnd s 1
  else
    let k := localCheck s n
    match k.2.1 with
    | some x => recEnd k.1 x
    | none =>
      let s := (List.range 4).foldl (fun s p => wrB s (kOpt p R_OPT_STATUS) 0 (curPlane s p == 0)) k.1
      recEnd (restoreDone (localCopy s n) n k.2.2) 0

/-- A frame of the COLLECTIVE class for an engine that has not taken its command. -/
def orphanIn (s : State) (i : EngIn) : Bool :=
  decide (0x48 ≤ i.mid) && decide (i.mid < 0x4C) && i.f.cls == 0 && (cmdOf s (i.mid - 0x48) (attrId i.f.attr)).isNone

/-- Free the slots of in-order COLLECTIVE engine frames that no stream has handed on. -/
def purgeHeld (s : State) (src : RxStream) : State :=
  let ready := fun (l : List RxSlot) (ack : Nat) => l.filter (fun h => !h.handed && h.f.cls == 0 && h.f.opc == 1 && decide (h.f.seq < ack))
  let l := match src with
    | .entry e c => ready (heldCls s e c) (rxSeq s e c)
    | .group g => ready (grpOf s g).held (grpSeq s g)
  l.foldl (fun s h => freeSlot s src h.f.seq true) s

/-- PURGE. -/
def purge (s : State) : State :=
  if !abandoned s then recEnd s 1
  else
    let s := (s.toEngine.filter (orphanIn s)).foldl dropIn s
    let s := (s.partners.map (fun q => q.1)).foldl (fun s e => purgeHeld s (.entry e 0)) s
    let s := (s.groups.map (fun g => g.1)).foldl (fun s g => purgeHeld s (.group g)) s
    let s := (List.range 4).foldl ledgerReset s
    let s := allTilesFull s
    let s := (List.range 4).foldl (fun s p => wrF s (kRec p R_REC_STATUS) 7 6 0) s
    recEnd (wrB s (kRec 0 R_REC_STATUS) 5 false) 0

/-- VERIFY: each Dp is computed and the source asked for what it is compared with. -/
def verify (s : State) : State :=
  if !s.recov.restored then recEnd s 1
  else
    let n := (rd s (kRec 0 R_REC_ARG0)).toNat
    let root := rdB s (kRec 0 R_REC_ARG1) 63
    let e := if root then buddy s else rdF s (kRec 0 R_REC_ARG1) 11 0
    let d := digestAll s
    let s := d.1
    if !peerOk s e then recEnd s 7
    else if root then askSource s e 0 [4, n, 0, 0, 0, mirrorSlot s n, 0, 0, 0]
    else (List.range 4).foldl (fun s p => askSource s e p [3, n, 0, 0, 0, 0, 0, 0, 0]) s

/-- ADOPT. -/
def adopt (s : State) (discard : Bool) : State :=
  if !abandoned s ∨ !allLedger s 2 ∨ s.optDue ≠ [] then recEnd s 1 else applyOutcome s discard

/-- The start of a recovery command (Table: Recovery commands). -/
def recStart (s : State) (op : Nat) (out : Bool) : State :=
  if op = 1 then (if (List.range 4).any (fun p => rdB s (kRec p R_REC_STATUS) 4) then recEnd s 1 else snapStart s)
  else if op = 2 then restorePull s false
  else if op = 3 then restorePull s true
  else if op = 4 then restoreLocal s
  else if op = 5 then verify s
  else if op = 6 then abandon s
  else if op = 7 then adopt s out
  else if op = 8 then rollback s
  else purge s

/-- A write of REC_CMD. -/
def recCmdWrite (s : State) (p : Nat) (v : Word) : State :=
  let op := bits v 3 0
  if p ≠ 0 ∨ op = 0 ∨ 10 ≤ op ∨ s.recov.op ≠ 0 then s
  else
    let out := bitAt v 8
    let s := { s with recov := ⟨op, out, none, 0, 0, s.recov.restored⟩ }
    recStart (wrB (wrB s (kRec 0 R_REC_STATUS) 0 true) (kRec 0 R_REC_CMD_STAT) 0 true) op out

/-- One recovery command row. -/
def recCmd (mid : Mid) (v : Word) (s : State) : Out :=
  .next (guardWrite s mid.toNat (pgRec 0) R_REC_CMD v (fun s => recCmdWrite s 0 v))

def execSnapshot (mid : Mid) (s : State) : Out := recCmd mid 1 s
def execRestoreMirror (mid : Mid) (s : State) : Out := recCmd mid 2 s
def execRestoreReplica (mid : Mid) (s : State) : Out := recCmd mid 3 s
def execRestoreLocal (mid : Mid) (s : State) : Out := recCmd mid 4 s
def execVerify (mid : Mid) (s : State) : Out := recCmd mid 5 s
def execAbandon (mid : Mid) (s : State) : Out := recCmd mid 6 s
def execAdopt (mid : Mid) (outcome : Bool) (s : State) : Out := recCmd mid (if outcome then 0x107 else 7) s
def execRollback (mid : Mid) (s : State) : Out := recCmd mid 8 s
def execPurge (mid : Mid) (s : State) : Out := recCmd mid 9 s

/-! ## Requests served and answered -/

/-- The next request in an engine's inbox of a kind that `want` accepts. -/
def nextRequest (s : State) (p : Nat) (want : Nat → Bool) : Option EngIn :=
  engNext s (0x50 + p) (fun i => attrKind i.f.attr == 0 && want (recWord i.f 0))

/-- Answer a request: its bytes as WRITE frames in the SNAPSHOT class, then the reply. -/
def answerSource (s : State) (p : Nat) (i : EngIn) (status flags digest dest : Nat) (bytes : List Byte) : State :=
  let e := srcEntry s i.src
  let words := [status, flags, recWord i.f 0] ++ (List.range 8).map (fun j => digest / 2 ^ (64 * j) % 2 ^ 64)
  queueFrames (dropIn s i) e ((if status = 0 then writeFrames 2 dest bytes else []) ++ [recFrame p 1 words])

/-- LS_EXP and GOOD_STEPS of an engine, placed as in a slot header. -/
def lossFlags (s : State) : Nat := rdF s (kOpt 0 R_OPT_LOSS) 7 0 * 2 ^ 40 + rdF s (kOpt 0 R_OPT_LOSS) 63 48 * 2 ^ 48

/-- RESTORE_PULL_REQUEST: engine `p` of the source serves a request for a mirror piece (0), a piece of its own part (1), a REPLICATED
region (2) or a mirror header (4). -/
def servePull (s : State) (p : Nat) : State :=
  match nextRequest s p (fun k => k == 0 || k == 1 || k == 2 || k == 4) with
  | none => s
  | some i =>
    if !engOn s p (pgRec p) then s
    else
      let w := recWord i.f
      let n := w 1
      if w 0 = 0 ∨ w 0 = 4 then
        let h := hdrRead s (w 5)
        let s := h.1
        if w 0 = 4 then
          (match hdrRefusal h.2 n h.2.seed true with
           | some x => answerSource s p i x 0 0 0 []
           | none => answerSource s p i 0 0 h.2.digest 0 [])
        else
          (match hdrRefusal h.2 n (w 2) true with
           | some x => answerSource s p i x 0 0 0 []
           | none =>
             if h.2.bytes ≠ w 3 then answerSource s p i 8 0 0 0 []
             else
               let d := spanRead s (w 5 + w 6) (w 7)
               answerSource d.1 p i 0 h.2.flags 0 (w 8) (bytesOf d.2))
      else if recStep s ≠ n then answerSource s p i 7 0 0 0 []
      else if w 0 = 1 then
        if partLen s p ≠ w 4 then answerSource s p i 8 0 0 0 []
        else
          let d := partBytes s p
          answerSource d.1 p i 0 (lossFlags s) 0 (w 8) (bytesOf ((d.2.drop (w 6)).take (w 7)))
      else match (regions s p)[w 6]? with
        | some g =>
          if g.2.1 = w 7 ∧ g.2.2 then
            let d := spanRead s g.1 g.2.1
            answerSource d.1 p i 0 (lossFlags s) 0 (w 8) (bytesOf d.2)
          else answerSource s p i 8 0 0 0 []
        | none => answerSource s p i 8 0 0 0 []

def execRestorePullRequest (p : Panel) (s : State) : Out := .next (servePull s p)

/-- VERIFY_DIGEST_REQUEST: the holder's engines compute Dp at the named step and return it, or answer PEER. -/
def serveDigest (s : State) : State :=
  (List.range 4).foldl (fun s p =>
    match nextRequest s p (fun k => k == 3) with
    | none => s
    | some i =>
      if !engOn s p (pgRec p) then s
      else if recStep s ≠ recWord i.f 1 then answerSource s p i 7 0 0 0 []
      else
        let d := digestPart s p
        answerSource d.1 p i 0 0 d.2.1 0 []) s

def execVerifyDigestRequest (s : State) : Out := .next (serveDigest s)

/-- The Dp held in a Panel's page. -/
def heldDigest (s : State) (p : Nat) : Nat :=
  (List.range 8).foldl (fun a i => a + (rd s (kRec p (R_REC_DIGEST + 8 * i))).toNat * 2 ^ (64 * i)) 0

/-- A reply reaches engine `p`: the first refusal stands; a digest that differs is VERIFY_FAIL. -/
def takeReply (s : State) (p : Nat) : State :=
  match engNext s (0x50 + p) (fun i => attrKind i.f.attr == 1) with
  | none => s
  | some i =>
    let status := recWord i.f 0
    let kind := recWord i.f 2
    let digest := (List.range 8).foldl (fun a j => a + recWord i.f (3 + j) * 2 ^ (64 * j)) 0
    let mine := if kind = 4 then shaOf ((List.range 4).flatMap (fun q => valBytes 64 (heldDigest s q))) else heldDigest s p
    let bad := if status ≠ 0 then some status else if (kind = 3 ∨ kind = 4) ∧ digest ≠ mine then some 6 else none
    let r := s.recov
    let s := dropIn s i
    { s with recov := { r with asked := r.asked - 1, loss := if status = 0 ∧ kind < 3 then recWord i.f 1 else r.loss,
                               result := match r.result with
                                 | some x => some x
                                 | none => bad } }

/-- All replies in the engines' inboxes. -/
def takeReplies (s : State) : State :=
  (List.range (s.toEngine.length)).foldl (fun s _ => (List.range 4).foldl takeReply s) s

/-- The resident tiles take the resident bytes a restore brought. -/
def restoreTiles (s : State) : State :=
  (List.range 4).foldl (fun s p => (shEntries s p).foldl (fun s k => copyResident s p k) s) s

/-- Has the command reached its end, and with which RESULT? -/
def recOutcome (s : State) : Option Nat :=
  match s.recov.result with
  | some n => if s.recov.asked = 0 ∨ n = 6 ∨ s.recov.op = 0 then some n else none
  | none =>
    if s.recov.op = 1 then (if rdB s (kRec 0 R_REC_STATUS) 2 then some 0 else none)
    else if s.recov.op = 6 then (if abandonDone s then some 0 else none)
    else if s.recov.op = 7 then (if s.optDue = [] then some 0 else none)
    else if s.recov.asked = 0 then some 0 else none

/-- REC_COMMAND_COMPLETE: the command ends; RESULT is written, DONE_BTN rung, and a REC of the control node answered (R448). -/
def recComplete (s : State) : State :=
  if s.recov.op = 0 ∨ !engOn s 0 (pgRec 0) then s
  else
    let s := takeReplies s
    match recOutcome s with
    | none => s
    | some n =>
      let s := if n = 0 ∧ (s.recov.op = 2 ∨ s.recov.op = 3) then
          restoreDone (restoreTiles s) (rd s (kRec 0 R_REC_ARG0)).toNat s.recov.loss
        else s
      let s := if n = 0 ∧ s.recov.op = 6 then wrB s (kRec 0 R_REC_STATUS) 5 true else s
      let s := if n = 6 then bump s (pgRec 0) R_REC_VERIFY_FAIL_CNT else s
      let s := wrB (wrF s (kRec 0 R_REC_CMD_STAT) 7 4 n) (kRec 0 R_REC_CMD_STAT) 0 false
      let s := { wrB s (kRec 0 R_REC_STATUS) 0 false with recov := { s.recov with op := 0, asked := 0, result := none } }
      let s := ringBtn s 0x40 (rdF s (kRec 0 R_REC_CFG) 28 24) false
      match s.svc.recCmd with
      | some v => svcAnswer { s with svc := { s.svc with recCmd := none } } v 0
      | none => s

def execRecCommandComplete (s : State) : Out := .next (recComplete s)

end Sys2Proof.Machine
end

