-- ==== Sys2Proof/Machine/Vector.lean ====
section
/-! DEFINITION. The vector unit: row statistics, the operations, the window, out-of-order firing and completion
(05_forward_backward.md R130 to R135, R139; 06_control_core.md R157 to R162; 07_command_encoding.md R200 to R204). -/
namespace Sys2Proof.Machine

/-! ## FP32 arithmetic (R158) -/

def fAdd (a b : FVal) : FVal := r32 (a.add b)
def fSub (a b : FVal) : FVal := r32 (a.add b.neg)
def fMul (a b : FVal) : FVal := r32 (a.mul b)
def fDiv (a b : FVal) : FVal := r32 (a.div b)
def fSqrt (a : FVal) : FVal := r32 a.sqrt

def FVal.isNan : FVal → Bool
  | .nan => true
  | _ => false

/-- An exponential in the softmax rules: one operation, rounded once (R158; DEDUCED, log entry 9). -/
def fExp (a : FVal) : FVal := r32 a.exp

/-- VEC.EW functions (R202). -/
def ewOp (f : Nat) (a b c i0 i1 : FVal) : FVal :=
  match f with
  | 0 => fAdd a b
  | 1 => fSub a b
  | 2 => fMul a b
  | 3 => r32 ((a.mul b).add c)
  | 4 => a.max b
  | 5 => a.min b
  | 6 => r32 ((a.mul i0).add i1)
  | 7 => (a.max i0).min i1
  | 8 => if c.isZero then b else a
  | 9 => if b.lt a then .one else .zero
  | 10 => if a.eq b then .one else .zero
  | _ => a

/-- VEC.FN functions, each one operation rounded once to FP32 with RNE (R202, R158; DEDUCED, log entry 9). -/
def fnOp (f : Nat) (a : FVal) : FVal :=
  if a.isNan then .nan
  else match f with
    | 2 => fDiv .one a
    | 3 => r32 a.rsqrt
    | 4 => fSqrt a
    | _ => r32 (elemFn f a)

/-- The derivative of functions 5 to 8, rounded once. -/
def fnDeriv (f : Nat) (a : FVal) : FVal := r32 (elemDeriv f a)

/-! ## Reading elements (R158, R160, R203) -/

/-- Conversion of a stored value to FP32, with its counts; a source in FP32 changes no format. -/
def toF32 (f : Fmt) (v : FVal) : FVal × NumEv :=
  let p := fRound layFp32 .rne v
  if f = .fp32 then (v, .zero) else (fDecode layFp32 p.1, { p.2 with uflow := 0 })

/-- Multiplication by 2^RESULT_SHIFT (R160). -/
def shiftF32 (k : Nat) (v : FVal) : FVal × NumEv :=
  if k = 0 || !v.isFinite then (v, .zero)
  else let p := fRound layFp32 .rne (v.scale k); (fDecode layFp32 p.1, p.2)

/-- Element (r, c) of a source, with its counts. -/
def vReadEv (s : State) (t : Tile) (apply : Bool) (r c : Nat) : FVal × NumEv :=
  let a := toF32 t.fmt (t.elem s r c)
  let b := shiftF32 (if apply then t.shift else 0) a.1
  (b.1, a.2.add b.2)

/-- Element (r, c) with the broadcast of R203. -/
def vRead (s : State) (t : Tile) (apply : Bool) (r c : Nat) : FVal :=
  (vReadEv s t apply (if t.rows = 1 then 0 else r) (if t.cols = 1 then 0 else c)).1

def sumEv (l : List NumEv) : NumEv := l.foldl NumEv.add .zero

/-- Counts of reading elements of a source that `use` accepts, in the first `n` rows. -/
def readEvsOf (s : State) (t : Tile) (apply : Bool) (n : Nat) (use : Nat → Nat → Bool) : NumEv :=
  sumEv ((List.range (min n t.rows)).flatMap (fun r => ((List.range t.cols).filter (use r)).map (fun c => (vReadEv s t apply r c).2)))

/-- Counts of reading the first `n` rows of a source. -/
def readEvs (s : State) (t : Tile) (apply : Bool) (n : Nat) : NumEv := readEvsOf s t apply n (fun _ _ => true)

/-- The words in which an error stands, in increasing order. -/
def marked (s : State) : List Nat := ((s.mem.bad.map (fun p => p.1) ++ s.mem.weak.map (fun p => p.1)).eraseDups).map (fun w => 8 * w)

/-- The words with an error that rows of a tile read (R213). -/
def tileMarked (s : State) (t : Tile) (use : Nat → Bool) : List Nat :=
  let copy := if t.hasRow then 0 else 1
  (marked s).filter (fun w => ((List.range t.rows).filter use).any (fun r => (List.range t.cols).any (fun c =>
    let e := t.elemNo copy r c
    let a := t.addr copy e
    (decide (a / 8 * 8 ≤ w) && decide (w < a + (t.fmt.nibbles + 1) / 2)) || (t.fmt == .kb4 && w == (t.sbase copy + e / 16) / 8 * 8))))

/-! ## Writing elements (R91, R124, R125, R158) -/

/-- A value to write and its rounding. -/
abbrev WVal := FVal × Rnd

/-- One copy of a KB4 destination: blocks of 16 along its contiguous axis. -/
def putKb4 (t : Tile) (copy : Nat) (vals : List (List WVal)) : List (Nat × List Byte) × NumEv :=
  let lines := if copy = 0 then vals
    else (List.range t.cols).map (fun c => vals.map (fun row => nth (.zero, .rne) row c))
  let blks := (List.range lines.length).flatMap (fun i =>
    let l := nth [] lines i
    (List.range (l.length / 16)).map (fun b => (i * t.pitch copy + 16 * b, (l.drop (16 * b)).take 16)))
  let one := fun (b : Nat × List WVal) =>
    let k := kb4Block b.2
    (kb4Writes t copy b.1 k.1 k.2.1, k.2.2)
  let rs := blks.map one
  (rs.flatMap (fun r => r.1), sumEv (rs.map (fun r => r.2)))

/-- The writes of rows 0 onward of a destination, in every copy it holds, and their counts. `pad`: the rows that complete the last block of a KB4 column copy,
read back (04_numerics.md R508). -/
def putRows (t : Tile) (vals pad : List (List WVal)) : List (Nat × List Byte) × NumEv :=
  if t.fmt = .kb4 then
    let ps := t.copies.map (fun y => putKb4 t y (if y = 1 then vals ++ pad else vals))
    (ps.flatMap (fun p => p.1), sumEv (ps.map (fun p => p.2)))
  else
    let one := fun (r c : Nat) (v : WVal) =>
      let w := convElem t.fmt v.2 v.1 none
      (t.copies.map (fun y => (t.addr y (t.elemNo y r c), elemBytes t.fmt w.1)), w.2)
    let es := (List.zip (List.range vals.length) vals).flatMap (fun p =>
      (List.zip (List.range p.2.length) p.2).map (fun e => one p.1 e.1 e.2))
    (es.flatMap (fun e => e.1), sumEv (es.map (fun e => e.2)))

/-- Do SR conversions of the vector unit use draws (R117, R162)? -/
def vecDraws (s : State) (c : Nat) (r : Rec) : Bool := !vOutRne r && !reducedService s && !(coreOf s c).vecFail

/-- The rounding of destination element (row, index) at site 2. -/
def vecRnd (draws : Bool) (k : DrawKey) (row idx : Nat) : Rnd := if draws then .sr (draw k 2 row 0 idx) else .rne

/-- Attach the roundings of site 2 to rows of values. -/
def withRnd (draws : Bool) (k : DrawKey) (vals : List (List FVal)) : List (List WVal) :=
  (List.zip (List.range vals.length) vals).map (fun p =>
    (List.zip (List.range p.2.length) p.2).map (fun e => (e.2, vecRnd draws k p.1 e.1)))

/-- The rows of a KB4 column copy that share a block with the first `n` rows and are not written: read back, with the draws of their own places (R508). -/
def padRows (s : State) (t : Tile) (draws : Bool) (k : DrawKey) (n : Nat) : List (List WVal) :=
  if t.fmt = .kb4 && t.hasCol && n % 16 != 0 then
    (List.range (16 - n % 16)).map (fun i => (List.range t.cols).map (fun j =>
      (t.elemAt (getCell s.mem) (isBad s.mem) 1 (t.elemNo 1 (n + i) j), vecRnd draws k (n + i) j)))
  else []

/-! ## Row-statistics records (R130) -/

structure StatRec where
  kind : Nat
  empty : Bool
  pos : Nat
  tag : Nat
  count : Nat
  stat1 : FVal
  stat0 : FVal
  deriving DecidableEq, Repr

/-- Address of the record of row `r`. -/
def statAddr (t : Tile) (r : Nat) : Nat :=
  let copy := if t.hasRow then 0 else 1
  t.addr copy (t.elemNo copy r 0)

/-- A record is one element of 16 bytes: where one of its words is uncorrectable, both statistics read as NaN (08_core_store_streaming.md R213); its integer fields
read as they stand, for the spec gives them no NaN (DESIGN CHOICE, log entry 114). -/
def statRead (s : State) (t : Tile) (r : Nat) : StatRec :=
  let a := statAddr t r
  let v : BitVec 128 := BitVec.ofNat 128 (codeAt (getCell s.mem) a 16)
  let f := fun (n : Nat) => if isBad s.mem a || isBad s.mem (a + 8) then FVal.nan else fDecode layFp32 n
  ⟨bits v 127 124, bitAt v 123, bits v 115 96, bits v 95 85, bits v 84 64, f (bits v 63 32), f (bits v 31 0)⟩

/-- The writes of a record, in every copy its tile holds. -/
def statWrites (t : Tile) (r : Nat) (x : StatRec) : List (Nat × List Byte) :=
  let n := fp32 x.stat0 + fp32 x.stat1 * 2 ^ 32 + x.count % 2 ^ 21 * 2 ^ 64 + x.tag % 2 ^ 11 * 2 ^ 85 + x.pos % 2 ^ 20 * 2 ^ 96
    + (if x.empty then 2 ^ 123 else 0) + x.kind * 2 ^ 124
  t.copies.map (fun y => (t.addr y (t.elemNo y r 0), valBytes 16 n))

/-- A position word: sequence tag, bit 20, position (R204). -/
def posWord (s : State) (t : Tile) (r c : Nat) : Nat × Bool × Nat :=
  let copy := if t.hasRow then 0 else 1
  let w := codeAt (getCell s.mem) (t.addr copy (t.elemNo copy r c)) 4
  (w / 2 ^ 21, w / 2 ^ 20 % 2 == 1, w % 2 ^ 20)

/-- Is key `j` visible to a row (R139)? -/
def visible (s : State) (keys : Option Tile) (x : StatRec) (j : Nat) : Bool :=
  match keys with
  | none => true
  | some t => let w := posWord s t 0 j; w.1 == x.tag && decide (w.2.2 ≤ x.pos)

/-- Has a key-position operand a word with bit 20 set? -/
def keysBad (s : State) (keys : Option Tile) : Bool :=
  match keys with
  | none => false
  | some t => (List.range t.cols).any (fun j => (posWord s t 0 j).2.1)

/-! ## Statistics (R132 to R134) -/

/-- Partial moments: count, mean, sum of squared deviations. -/
structure Moments where
  n : Nat
  mean : FVal
  m2 : FVal

/-- Welford's pairwise merge. The spec names it and not its operations: here mean + d nb / n, and m2a + m2b + d d na nb / n, each product, quotient and sum rounded to
FP32 in the order written (DESIGN CHOICE, log entry 113). -/
def Moments.merge (a b : Moments) : Moments :=
  if a.n = 0 then b else if b.n = 0 then a
  else
    let n := FVal.ofNat (a.n + b.n)
    let d := fSub b.mean a.mean
    let nb := FVal.ofNat b.n
    ⟨a.n + b.n, fAdd a.mean (fDiv (fMul d nb) n),
     fAdd (fAdd a.m2 b.m2) (fDiv (fMul (fMul d d) (fMul (FVal.ofNat a.n) nb)) n)⟩

/-- Chunks of 128, at most `fuel` of them. -/
def chunks128 : Nat → List FVal → List (List FVal)
  | 0, _ => []
  | f + 1, l => if l = [] then [] else l.take 128 :: chunks128 f (l.drop 128)

/-- Mean and squared deviations of a row: lanes in increasing order, then chunks in increasing order (R132). -/
def rowMoments (l : List FVal) : Moments :=
  (chunks128 (l.length / 128 + 1) l).foldl (fun a ch =>
    a.merge (ch.foldl (fun b v => b.merge ⟨1, v, .zero⟩) ⟨0, .zero, .zero⟩)) ⟨0, .zero, .zero⟩

/-- A sum in the order of R132. -/
def laneSum (l : List FVal) : FVal :=
  (chunks128 (l.length / 128 + 1) l).foldl (fun a ch => fAdd a (ch.foldl fAdd .zero)) .zero

/-- A sum of squares in the order of R132, each square added in one fused operation (log entry 47). -/
def laneSquares (l : List FVal) : FVal :=
  (chunks128 (l.length / 128 + 1) l).foldl (fun a ch => fAdd a (ch.foldl (fun b v => r32 (b.add (v.mul v))) .zero)) .zero

/-- The record VEC.NORM_STAT writes. -/
def normStat (func : Nat) (eps : FVal) (l : List FVal) : StatRec :=
  let n := FVal.ofNat l.length
  let w := rowMoments l
  let var := if func = 1 then fDiv w.m2 n else fDiv (laneSquares l) n
  ⟨func, false, 0, 0, l.length, fDiv .one (fSqrt (fAdd var eps)), if func = 1 then w.mean else .zero⟩

/-- x-hat of an element under its row's record. -/
def xHat (x : StatRec) (v : FVal) : FVal := if x.kind = 1 then fMul (fSub v x.stat0) x.stat1 else fMul v x.stat1

/-- One fold of a key block into a softmax record: scores with their visibility. -/
def smaxFold (x : StatRec) (opened : Bool) (sc : List (FVal × Bool)) : StatRec :=
  let vis := (sc.filter (fun p => p.2)).map (fun p => p.1)
  let x := { x with count := x.count + sc.length, empty := vis == [] && (opened || x.empty) }
  if vis = [] then x
  else
    let mb := vis.foldl FVal.max (.inf true)
    let lb := (vis.map (fun v => fExp (fSub v mb))).foldl fAdd .zero
    let m := x.stat0.max mb
    let part := fun (l a : FVal) => if l.isZero then .zero else fMul l (fExp (fSub a m))
    { x with stat0 := m, stat1 := fAdd (part x.stat1 x.stat0) (part lb mb) }

/-- A probability (R133, R134). A masked score is minus infinity (R132), so that a row with NaN statistics gives NaN there too. -/
def smaxP (x : StatRec) (v : FVal) (vis : Bool) : FVal :=
  if x.empty then .zero else fDiv (fExp (fSub (if vis then v else .inf true) x.stat0)) x.stat1

/-! ## What a record does -/

/-- The outcome of a vector command: its writes, its counts, the source rows reached, the refusal at the next row, skipped and
out-of-range rows, index elements resolved. -/
structure VecOut where
  writes : List (Nat × List Byte)
  ev : NumEv
  rows : Nat
  stop : Option Nat
  skips : Nat
  oors : Nat
  index : Nat

/-- Values written into a destination. -/
def VecOut.ofVals (s : State) (c : Nat) (q : QEntry) (d : Tile) (vals : List (List FVal)) (readEv : NumEv) (stop : Option Nat) :
    VecOut :=
  let draws := vecDraws s c q.word
  let p := putRows d (withRnd draws q.key vals) (padRows s d draws q.key vals.length)
  ⟨p.1, readEv.add p.2, vals.length, stop, 0, 0, 0⟩

/-- Rows of a row-wise command up to the first that is refused. -/
def rowsUntil {α : Type} (n : Nat) (f : Nat → Except Nat α) : List α × Option Nat :=
  ((List.range n).foldl (fun (a : List α × Option Nat) r => match a.2 with
    | some _ => a
    | none => match f r with
      | .ok v => (v :: a.1, none)
      | .error e => (a.1, some e)) ([], none)) |> fun a => (a.1.reverse, a.2)

/-- Element-wise commands. -/
def vecElems (s : State) (c : Nat) (q : QEntry) (d : Tile) (srcs : List Tile) (f : Nat → Nat → FVal) : VecOut :=
  let vals := (List.range d.rows).map (fun r => (List.range d.cols).map (f r))
  .ofVals s c q d vals (sumEv (srcs.map (fun t => readEvs s t (vApply q.word) t.rows))) none

/-- A tile operand, or an empty tile. -/
def QEntry.tileD (q : QEntry) (lo : Nat) : Tile := (q.tile lo).getD (tileOf 0)

def vecEw (s : State) (c : Nat) (q : QEntry) : VecOut :=
  let r := q.word
  let srcs := q.tiles [32, 40, 48]
  let rdo := fun (lo i j : Nat) => match q.tile lo with
    | some t => vRead s t (vApply r) i j
    | none => .zero
  vecElems s c q (q.tileD 56) srcs (fun i j => ewOp (vFunc r) (rdo 32 i j) (rdo 40 i j) (rdo 48 i j) (vImm0 r) (vImm1 r))

def vecFn (s : State) (c : Nat) (q : QEntry) : VecOut :=
  vecElems s c q (q.tileD 56) [q.tileD 32] (fun i j => fnOp (vFunc q.word) (vRead s (q.tileD 32) (vApply q.word) i j))

def vecFnBwd (s : State) (c : Nat) (q : QEntry) : VecOut :=
  let ap := vApply q.word
  vecElems s c q (q.tileD 56) [q.tileD 32, q.tileD 40] (fun i j =>
    fMul (vRead s (q.tileD 40) ap i j) (fnDeriv (vFunc q.word) (vRead s (q.tileD 32) ap i j)))

def vecDropout (s : State) (c : Nat) (q : QEntry) : VecOut :=
  vecElems s c q (q.tileD 56) [q.tileD 32] (fun i j =>
    if bits q.word 175 160 ≤ draw q.key 3 i 0 j then fMul (vRead s (q.tileD 32) (vApply q.word) i j) (vImm0 q.word) else .zero)

/-- VEC.RAND: draws as unsigned 16-bit integers (R161). -/
def vecRand (q : QEntry) : VecOut :=
  let d := q.tileD 56
  let ws := (List.range d.rows).flatMap (fun i => (List.range d.cols).flatMap (fun j =>
    d.copies.map (fun y => (d.addr y (d.elemNo y i j), valBytes 2 (draw q.key 3 i (bits q.word 95 91) j)))))
  ⟨ws, .zero, d.rows, none, 0, 0, 0⟩

/-- The values of row `r` of a source. -/
def vRow (s : State) (t : Tile) (apply : Bool) (r : Nat) : List FVal := (List.range t.cols).map (fun j => vRead s t apply r j)

def vecRowRed (s : State) (c : Nat) (q : QEntry) : VecOut :=
  let x := q.tileD 32
  let red := fun (l : List FVal) => match vFunc q.word with
    | 0 => l.foldl fAdd .zero
    | 1 => l.foldl FVal.max (.inf true)
    | _ => l.foldl (fun a v => r32 (a.add (v.mul v))) .zero
  .ofVals s c q (q.tileD 56) ((List.range x.rows).map (fun r => [red (vRow s x (vApply q.word) r)]))
    (readEvs s x (vApply q.word) x.rows) none

def vecColRed (s : State) (c : Nat) (q : QEntry) : VecOut :=
  let x := q.tileD 32
  let d := q.tileD 72
  let vals := (List.range x.cols).map (fun j =>
    (List.range x.rows).foldl (fun a r => fAdd a (vRead s x (vApply q.word) r j)) (if vAccum q.word then d.elem s 0 j else .zero))
  { VecOut.ofVals s c q d [vals] (readEvs s x (vApply q.word) x.rows) none with rows := x.rows }

def vecNormStat (s : State) (q : QEntry) : VecOut :=
  let x := q.tileD 32
  let t := q.tileD 64
  let ws := (List.range x.rows).flatMap (fun r =>
    statWrites t r (normStat (vFunc q.word) (vImm0 q.word) (vRow s x (vApply q.word) r)))
  ⟨ws, readEvs s x (vApply q.word) x.rows, x.rows, none, 0, 0, 0⟩

def vecNormFwd (s : State) (c : Nat) (q : QEntry) : VecOut :=
  let x := q.tileD 32
  let ap := vApply q.word
  let beta := q.tile 48
  let out := rowsUntil x.rows (fun r =>
    let k := statRead s (q.tileD 64) r
    if k.kind ≠ (if beta.isSome then 1 else 2) then .error 0x21
    else .ok ((List.range x.cols).map (fun j =>
      let y := fMul (xHat k (vRead s x ap r j)) (vRead s (q.tileD 40) ap 0 j)
      match beta with
      | some b => fAdd y (vRead s b ap 0 j)
      | none => y)))
  let small := sumEv ((q.tiles [40, 48]).map (fun t => readEvs s t ap 1))
  .ofVals s c q (q.tileD 56) out.1 ((readEvs s x ap out.1.length).add small) out.2

def vecNormBwd (s : State) (c : Nat) (q : QEntry) : VecOut :=
  let dy := q.tileD 32
  let x := q.tileD 40
  let gam := q.tileD 48
  let ax := q.tileD 72
  let ap := vApply q.word
  let out := rowsUntil x.rows (fun r =>
    let k := statRead s (q.tileD 64) r
    if k.kind ≠ 1 ∧ k.kind ≠ 2 then .error 0x21
    else
      let dys := vRow s dy ap r
      let xh := (vRow s x ap r).map (xHat k)
      let g := (List.zip dys (vRow s gam ap 0)).map (fun p => fMul p.1 p.2)
      let n := FVal.ofNat k.count
      let mg := fDiv (laneSum g) n
      let mgx := fDiv (laneSum ((List.zip g xh).map (fun p => fMul p.1 p.2))) n
      let dx := (List.zip g xh).map (fun p =>
        fMul k.stat1 (fSub (if k.kind = 1 then fSub p.1 mg else p.1) (fMul p.2 mgx)))
      .ok (dx, (List.zip dys xh).map (fun p => fMul p.1 p.2), if k.kind = 1 then some dys else none))
  let old := fun (row j : Nat) => if vAccum q.word then ax.elem s row j else .zero
  let dg := (List.range x.cols).map (fun j => out.1.foldl (fun a o => fAdd a (nth .zero o.2.1 j)) (old 0 j))
  let db := (List.range x.cols).map (fun j => out.1.foldl (fun a o => match o.2.2 with
    | some l => fAdd a (nth .zero l j)
    | none => a) (old 1 j))
  let draws := vecDraws s c q.word
  let p := putRows (q.tileD 56) (withRnd draws q.key (out.1.map (fun o => o.1))) (padRows s (q.tileD 56) draws q.key out.1.length)
  let a := putRows ax (withRnd false q.key [dg, db]) []
  let ev := ((readEvs s dy ap out.1.length).add (readEvs s x ap out.1.length)).add (readEvs s gam ap 1)
  if out.2.isSome then ⟨p.1, ev.add p.2, out.1.length, out.2, 0, 0, 0⟩
  else ⟨p.1 ++ a.1, (ev.add p.2).add a.2, out.1.length, none, 0, 0, 0⟩

/-- The record a fold starts from: opened, or read and of the kind wanted (R131, R204). -/
def foldBase (s : State) (q : QEntry) (kind : Nat) (query : Option (Nat × Bool × Nat)) (r : Nat) : Except Nat StatRec :=
  if vOpen q.word then
    match query with
    | some w => if w.2.1 then .error 0x22 else .ok ⟨kind, false, w.2.2, w.1, 0, .zero, if kind = 3 then .inf true else .zero⟩
    | none => .ok ⟨kind, false, 0, 0, 0, .zero, if kind = 3 then .inf true else .zero⟩
  else
    let k := statRead s (q.tileD 64) r
    if k.kind ≠ kind then .error 0x21 else .ok k

/-- A fold's records: writes of the rows done and the refusal at the next; `ev` gives the counts of the rows read. -/
def foldOut (q : QEntry) (ev : Nat → NumEv) (rows : Nat) (f : Nat → Except Nat StatRec) : VecOut :=
  let out := rowsUntil rows f
  let ws := (List.zip (List.range rows) out.1).flatMap (fun p => statWrites (q.tileD 64) p.1 p.2)
  ⟨ws, ev out.1.length, out.1.length, out.2, 0, 0, 0⟩

def vecSmaxFold (s : State) (q : QEntry) : VecOut :=
  let x := q.tileD 32
  let keys := q.tile 40
  let base := foldBase s q 3
  let query := fun (r : Nat) => (q.tile 48).map (fun t => posWord s t r 0)
  let seen := fun (r j : Nat) => match base (query r) r with
    | .ok k => visible s keys k j
    | .error _ => false
  foldOut q (fun n => readEvsOf s x true n seen) x.rows (fun r =>
    match base (query r) r with
    | .error e => .error e
    | .ok k =>
      if keysBad s keys ∨ 1048576 < k.count + x.cols then .error 0x22
      else .ok (smaxFold k (vOpen q.word) ((List.range x.cols).map (fun j => (vRead s x true r j, visible s keys k j)))))

def vecSmaxApply (s : State) (c : Nat) (q : QEntry) : VecOut :=
  let x := q.tileD 32
  let keys := q.tile 40
  let out := rowsUntil x.rows (fun r =>
    let k := statRead s (q.tileD 64) r
    if k.kind ≠ 3 then .error 0x21
    else if keysBad s keys then .error 0x22
    else .ok ((List.range x.cols).map (fun j => smaxP k (vRead s x true r j) (visible s keys k j))))
  let seen := fun (r j : Nat) => let k := statRead s (q.tileD 64) r; !k.empty && visible s keys k j
  .ofVals s c q (q.tileD 56) out.1 (readEvsOf s x true out.1.length seen) out.2

def vecSmaxD (s : State) (q : QEntry) : VecOut :=
  let p := q.tileD 32
  let dp := q.tileD 40
  let ap := vApply q.word
  foldOut q (fun n => (readEvs s p ap n).add (readEvs s dp ap n)) p.rows (fun r =>
    match foldBase s q 4 none r with
    | .error e => .error e
    | .ok k =>
      if 1048576 < k.count + p.cols then .error 0x22
      else .ok { k with count := k.count + p.cols,
                        stat0 := (List.range p.cols).foldl (fun a j => fAdd a (fMul (vRead s p ap r j) (vRead s dp ap r j))) k.stat0 })

def vecSmaxBwd (s : State) (c : Nat) (q : QEntry) : VecOut :=
  let x := q.tileD 32
  let dp := q.tileD 40
  let keys := q.tile 48
  let out := rowsUntil x.rows (fun r =>
    let k := statRead s (q.tileD 64) r
    let d := statRead s (q.tileD 72) r
    if k.kind ≠ 3 ∨ d.kind ≠ 4 then .error 0x21
    else if keysBad s keys then .error 0x22
    else .ok ((List.range x.cols).map (fun j =>
      if k.empty then .zero
      else fMul (smaxP k (vRead s x true r j) (visible s keys k j)) (fSub (vRead s dp (vApply q.word) r j) d.stat0))))
  let seen := fun (r j : Nat) => let k := statRead s (q.tileD 64) r; !k.empty && visible s keys k j
  let full := fun (r _ : Nat) => !(statRead s (q.tileD 64) r).empty
  .ofVals s c q (q.tileD 56) out.1
    ((readEvsOf s x true out.1.length seen).add (readEvsOf s dp (vApply q.word) out.1.length full)) out.2

/-! ## Scatter-add (06_control_core.md R178 to R180) -/

/-- The rows of an index tensor, resolved. -/
def Idx.rowAddrs (t : Idx) (s : State) : List (Nat × RowAddr) := (List.range t.count).map (fun i => (i, t.rowAddr s i))

/-- The target rows of an index tensor: each address once, in increasing first element, with its elements. -/
def targets (l : List (Nat × RowAddr)) : List (Nat × List Nat) :=
  let at' := l.filterMap (fun p => match p.2 with
    | .at a => some (p.1, a)
    | _ => none)
  ((at'.map (fun p => p.2)).eraseDups).map (fun a => (a, (at'.filter (fun p => p.2 == a)).map (fun p => p.1)))

def countSkips (l : List (Nat × RowAddr)) : Nat := l.countP (fun p => p.2 == .skip)
def countOors (l : List (Nat × RowAddr)) : Nat := l.countP (fun p => p.2 == .outOfRange)

/-- Elements of a target format in a row of ROW_BYTES. -/
def rowElems (t : Idx) (f : Fmt) : Nat := t.rowBytes * 2 / f.nibbles

/-- The source rows that a scatter-add reads: those that resolve to a target. -/
def usedRows (rows : List (Nat × RowAddr)) (i : Nat) : Bool := (targets rows).any (fun g => g.2.contains i)

/-- The values of a target row after its elements have been added in increasing i, with the counts of reading it (R180). `old` gives the value and counts of the
element at index `j` as it stands. -/
def addRow (s : State) (q : QEntry) (x : Tile) (g : Nat × List Nat) (n : Nat) (old : Nat → FVal × NumEv) : List (FVal × NumEv) :=
  (List.range n).map (fun j => (g.2.foldl (fun acc i => fAdd acc (vRead s x (vApply q.word) i j)) (old j).1, (old j).2))

/-- A scatter-add (R180, R203). Where the target is KB4, the spec says where its elements stand and not where its scale bytes do: a block reads under a free scale, its
new codes are written, and no scale is (DESIGN CHOICE, log entry 115). -/
def vecScatterAdd (s : State) (c : Nat) (q : QEntry) : VecOut :=
  let x := q.tileD 32
  let f := (q.tileD 56).fmt
  let t := (q.idx 72).getD (idxOf 0)
  let rows := t.rowAddrs s
  let sz := f.nibbles / 2
  let draws := vecDraws s c q.word
  let rowNo := fun (a : Nat) => if t.rowStride = 0 then 0 else (a - t.dataBase - t.colOffset) / t.rowStride
  let n := rowElems t f
  let one := fun (g : Nat × List Nat) =>
    if f = .kb4 then
      let scale := fun (b : Nat) => (Config.freeValue 8 (s.free + (g.1 * 2 + b))).toNat
      let vs := addRow s q x g n (fun j =>
        if isBad s.mem (g.1 + j / 2) then (.nan, .zero)
        else toF32 f (kb4Decode (scale (j / 16)) ((getCell s.mem (g.1 + j / 2)).toNat / 16 ^ (j % 2) % 16)))
      (List.range ((n + 15) / 16)).map (fun b =>
        let k := kb4Block (((List.zip (List.range n) vs).drop (16 * b)).take 16 |>.map (fun e => (e.2.1, vecRnd draws q.key (rowNo g.1) e.1)))
        let cs := k.2.1
        ((g.1 + 8 * b, (List.range ((cs.length + 1) / 2)).map (fun i => BitVec.ofNat 8 (nth 0 cs (2 * i) + 16 * nth 0 cs (2 * i + 1)))),
         (sumEv (((vs.drop (16 * b)).take 16).map (fun e => e.2))).add k.2.2))
    else
      let vs := addRow s q x g n (fun j => match f.lay with
        | some l => if isBad s.mem (g.1 + j * sz) then (.nan, .zero) else toF32 f (fDecode l (codeAt (getCell s.mem) (g.1 + j * sz) sz))
        | none => (.zero, .zero))
      (List.zip (List.range n) vs).map (fun e =>
        let w := convElem f (vecRnd draws q.key (rowNo g.1) e.1) e.2.1 none
        ((g.1 + e.1 * sz, elemBytes f w.1), e.2.2.add w.2))
  let es := (targets rows).flatMap one
  ⟨es.map (fun e => e.1), (sumEv (es.map (fun e => e.2))).add (readEvsOf s x (vApply q.word) t.count (fun r _ => usedRows rows r)), t.count, none,
   countSkips rows, countOors rows, t.count⟩

/-- What a fired record does. -/
def vecCompute (s : State) (c : Nat) (q : QEntry) : VecOut :=
  match recOp q.word with
  | 0x50 => vecEw s c q
  | 0x51 => vecFn s c q
  | 0x52 => vecFnBwd s c q
  | 0x53 => vecRowRed s c q
  | 0x54 => vecColRed s c q
  | 0x55 => vecNormStat s q
  | 0x56 => vecNormFwd s c q
  | 0x57 => vecNormBwd s c q
  | 0x58 => vecSmaxFold s q
  | 0x59 => vecSmaxApply s c q
  | 0x5A => vecSmaxD s q
  | 0x5B => vecSmaxBwd s c q
  | 0x5C => vecDropout s c q
  | 0x5D => vecRand q
  | _ => vecScatterAdd s c q

/-! ## Checks (R191, R192, R203, R209) -/

def isData : Fmt → Bool
  | .fp32 | .bf16 | .fp16 | .f8a | .f8b | .kb4 => true
  | _ => false

/-- The formats allowed for the operand at bit `lo` of a vector operation (R191, R201). -/
def vecFmtOk (op lo : Nat) (f : Fmt) : Bool :=
  if (op = 0x58 ∧ (lo = 40 ∨ lo = 48)) ∨ (op = 0x59 ∧ lo = 40) ∨ (op = 0x5B ∧ lo = 48) then f == .u32
  else if lo = 64 ∨ (op = 0x5B ∧ lo = 72) then f == .stat
  else if lo = 72 ∨ (op = 0x53 ∧ lo = 56) then f == .fp32
  else if op = 0x5D then f == .u16
  else isData f

/-- Operand slots an operation cannot do without. -/
def vecNeeds (r : Rec) : List Nat :=
  match recOp r with
  | 0x50 => (match vFunc r with
    | 3 | 8 => [32, 40, 48, 56]
    | 6 | 7 | 11 => [32, 56]
    | _ => [32, 40, 56])
  | 0x51 | 0x53 | 0x5C => [32, 56]
  | 0x52 => [32, 40, 56]
  | 0x54 => [32, 72]
  | 0x55 => [32, 64]
  | 0x56 => [32, 40, 56, 64]
  | 0x57 => [32, 40, 48, 56, 64, 72]
  | 0x58 => if vOpen r then [32, 48, 64] else [32, 64]
  | 0x59 => [32, 56, 64]
  | 0x5A => [32, 40, 64]
  | 0x5B => [32, 40, 56, 64, 72]
  | 0x5D => [56]
  | _ => [32, 56, 72]

/-- The data operands of a row-wise operation: a row copy, and one shape (R203). -/
def rowWise (op : Nat) : List Nat :=
  match op with
  | 0x53 | 0x54 | 0x55 => [32]
  | 0x56 => [32, 56]
  | 0x57 => [32, 40, 56]
  | 0x58 => [32]
  | 0x59 => [32, 56]
  | 0x5A => [32, 40]
  | 0x5B => [32, 40, 56]
  | _ => []

def shapeIs (t : Option Tile) (rows cols : Nat) : Bool :=
  match t with
  | some t => t.rows == rows && t.cols == cols
  | none => true

/-- The shapes of R203, R204 and Table: Vector operations. -/
def vecShapeOk (q : QEntry) : Bool :=
  let op := recOp q.word
  let x := q.tileD 32
  let t := q.tile
  let d := q.tileD 56
  if op = 0x50 ∨ op = 0x51 ∨ op = 0x52 ∨ op = 0x5C then
    (q.tiles [32, 40, 48]).all (fun s => (s.rows == 1 || s.rows == d.rows) && (s.cols == 1 || s.cols == d.cols))
  else if op = 0x5D ∨ op = 0x5E then true
  else
    let same := if op = 0x53 then [] else rowWise op
    same.all (fun lo => shapeIs (t lo) x.rows x.cols)
      && (match t 64 with
          | some s => s.rows == x.rows
          | none => true)
      && (match op with
          | 0x53 => shapeIs (t 56) x.rows 1
          | 0x54 => shapeIs (t 72) 1 x.cols
          | 0x56 => shapeIs (t 40) 1 x.cols && shapeIs (t 48) 1 x.cols
          | 0x57 => shapeIs (t 48) 1 x.cols && shapeIs (t 72) 2 x.cols
          | 0x58 => shapeIs (t 40) 1 x.cols && shapeIs (t 48) x.rows 1
          | 0x59 => shapeIs (t 40) 1 x.cols
          | 0x5B => shapeIs (t 48) 1 x.cols && (match t 72 with
              | some s => s.rows == x.rows
              | none => true)
          | _ => true)

/-- Two descriptors equal but for FULLBIT and RESULT_SHIFT (R203). -/
def samePlace (a b : Tile) : Bool := { a with fullbit := 0, shift := 0 } == { b with fullbit := 0, shift := 0 }

/-- OVERLAP of R203. -/
def vecOverlap (q : QEntry) : Bool :=
  let op := recOp q.word
  let own := op == 0x50 || op == 0x51 || op == 0x5C
  let srcs := q.tiles (srcSlots op)
  if op = 0x5E then
    (match q.idx 72 with
     | some t => srcs.any (fun x => rangesMeet [(t.dataBase, t.dataBase + t.rowLimit * t.rowStride)] x.ranges)
     | none => false)
  else
    (q.tiles (dstSlots q.word)).any (fun d => srcs.any (fun x => !(own && samePlace d x) && rangesMeet d.ranges x.ranges))

/-- The tile operands of a record: every slot but an index tensor's. -/
def tileSlots (op : Nat) : List Nat := (opndSlots op).filter (fun lo => idxSlot op != some lo)

/-- The refusal of a vector record that enters the window, if it meets a cause (R156, R203, R209). -/
def vecCheck (s : State) (c : Nat) (q : QEntry) : Option Nat :=
  let op := recOp q.word
  let slots := tileSlots op
  let placed := if op = 0x5E then [32] else slots
  let ix := (idxSlot op).bind q.idx
  firstCode [
    (badBases c q || (q.tiles placed).any (fun t => !tileOwn s c t)
      || ix.any (fun t => !inData c (t.idxBase, t.idxBase + t.count * t.width)
          || (t.twoLevel && !inData c (t.pageBase, t.pageBase + 4 * t.pageCount))), 0x02),
    (slots.any (fun lo => match q.tile lo with
      | some t => !fmtOk t (vecFmtOk op lo)
      | none => false), 0x10),
    ((q.tiles placed).any (fun t => !t.descOk), 0x11),
    ((q.tiles (rowWise op)).any (fun t => !t.hasRow), 0x12),
    (vecOverlap q, 0x17),
    ((vecNeeds q.word).any (fun lo => !present q.word lo) || !vecShapeOk q, 0x20),
    (ix.any (fun t => !t.levelOk), 0x2A),
    (ix.any (fun t => !t.descOk || decide ((q.tileD 32).rows < t.count)
      || decide ((q.tileD 32).cols < rowElems t (q.tileD 56).fmt)), 0x2B)]

/-- The full bit of a scatter-add's target is in the issuing core's table; its DST descriptor gives FMT and FULLBIT alone
(R203): the rest of the descriptor is put inside the data region. -/
def fixScatter (c : Nat) (q : QEntry) : QEntry :=
  if recOp q.word = 0x5E then
    { q with desc := (List.zip (opndSlots 0x5E) q.desc).map (fun p =>
        if p.1 = 56 then
          BitVec.ofNat 512 (csBase c + 0x100000 + bits p.2 415 384 * 2 ^ 384 % 2 ^ 388 + 2 ^ 388
            + bits p.2 415 400 * 2 ^ 400)
        else p.2) }
  else q

/-! ## The window (R157) -/

def vecReads (q : QEntry) : List (Nat × Nat) :=
  (q.tiles (srcSlots (recOp q.word) ++ foldSlots q.word)).flatMap Tile.ranges
    ++ ((idxSlot (recOp q.word)).bind q.idx).elim [] Idx.ranges

def vecWrites (q : QEntry) : List (Nat × Nat) :=
  if recOp q.word = 0x5E then
    (q.idx 72).elim [] (fun t => [(t.dataBase, t.dataBase + t.rowLimit * t.rowStride)])
  else (q.tiles (dstSlots q.word)).flatMap Tile.ranges

/-- Two entries conflict (R157). -/
def vecConflict (a b : QEntry) : Bool :=
  rangesMeet (vecWrites a) (vecReads b ++ vecWrites b) || rangesMeet (vecWrites b) (vecReads a)

/-- The 4 oldest entries. -/
def vecWindow (s : State) (c : Nat) : List QEntry := (coreOf s c).vecQ.take 4

/-- May the entry at place `i` of the window fire: it and all older ones have read their descriptors, it conflicts with none,
and its tiles allow it? -/
def vecCanFire (s : State) (c : Nat) (w : List QEntry) (i : Nat) : Bool :=
  match w.drop i with
  | q :: _ => !q.fired && (w.take (i + 1)).all (fun o => o.arrived) && (w.take i).all (fun o => !vecConflict o q) && tilesReady s c q
  | [] => false

/-- Does a record draw at site 3? -/
def drawsSite3 (op : Nat) : Bool := op == 0x5C || op == 0x5D

/-- Does a record round by draws of site 2: a destination whose conversion is not exact, and SR (R158, R200)? -/
def drawsSite2 (q : QEntry) : Bool :=
  !vOutRne q.word && (q.tiles (dstSlots q.word)).any (fun t => match t.fmt with
    | .bf16 | .fp16 | .f8a | .f8b | .kb4 => true
    | _ => false)

/-- The draws a record is about to make: by the vector unit's source, or for site 3 by the stream engine's where that has failed (R115, R116, R162). -/
def vecDrawCheck (s : State) (c : Nat) (q : QEntry) : State :=
  let site3 := drawsSite3 (recOp q.word)
  let s := drawCheck s c 8 ((site3 || drawsSite2 q) && !reducedService s && !(coreOf s c).vecFail)
  drawCheck s c 9 (site3 && (coreOf s c).vecFail && !(coreOf s c).strFail)

/-- Rows of a scatter-add outside the issuing core's data region (R203). -/
def scatterOut (s : State) (c : Nat) (q : QEntry) : Bool :=
  recOp q.word == 0x5E && (match q.idx 72 with
    | some t => (targets (t.rowAddrs s)).any (fun g => !inData c (g.1, g.1 + t.rowBytes) || rangeRetired s c (g.1, g.1 + t.rowBytes))
    | none => false)

/-- The byte ranges that resolving an index tensor reads: its elements, and the page elements they select (R178). -/
def Idx.readRanges (t : Idx) (s : State) : List (Nat × Nat) :=
  (t.idxBase, t.idxBase + t.count * t.width) :: (if t.twoLevel then
    (List.range t.count).filterMap (fun i =>
      let x := codeAt (getCell s.mem) (t.idxBase + i * t.width) t.width
      let p := x / 2 ^ t.pageShift
      if isBad s.mem (t.idxBase + i * t.width) || x = 256 ^ t.width - 1 || decide (t.pageCount ≤ p) then none
      else some (t.pageBase + 4 * p, t.pageBase + 4 * p + 4))
  else [])

/-- The words with an error in byte ranges. -/
def rangeMarked (s : State) (rs : List (Nat × Nat)) : List Nat :=
  (marked s).filter (fun w => rs.any (fun r => decide (r.1 / 8 * 8 ≤ w) && decide (w < r.2)))

/-- The words with an error that a record reads (R213): its sources and folded regions up to the row reached, its index tensor, and the target rows of a
scatter-add. -/
def vecMarked (s : State) (q : QEntry) (rows : Nat) : List Nat :=
  let ix := (idxSlot (recOp q.word)).bind q.idx
  let used := fun (r : Nat) => match ix with
    | some t => usedRows (t.rowAddrs s) r
    | none => decide (r < rows)
  ((q.tiles (srcSlots (recOp q.word) ++ foldSlots q.word)).flatMap (fun t => tileMarked s t (fun r => used r || t.rows == 1))
    ++ (match ix with
        | some t => rangeMarked s (t.readRanges s ++ (targets (t.rowAddrs s)).map (fun g => (g.1, g.1 + t.rowBytes)))
        | none => [])).eraseDups

/-- The byte ranges of the lines of a tile that a vector record reads, in the copy it reads. -/
def lineRanges (t : Tile) : List (Nat × Nat) :=
  let y := if t.hasRow then 0 else 1
  (List.range (if y = 0 then t.rows else t.cols)).map (fun l =>
    let n := if y = 0 then t.elemNo 0 l 0 else t.elemNo 1 0 l
    let k := if y = 0 then t.cols else t.rows
    (t.addr y n, t.addr y (n + k - 1) + (t.fmt.nibbles + 1) / 2))

/-- A vector record fires: what it reads, computes and writes, and its counts; a row that is refused ends it (R204). -/
def vecFire (s : State) (c : Nat) (q0 : QEntry) : State :=
  let q := { q0 with fired := true, key := latchKey s (pgCore c) q0 }
  let out := vecCompute s c q
  let s := fireEntry s c q0
  let s := (vecMarked s q out.rows).foldl (fun s w => csWord s c w true) s
  let s := askBanks s 5 8 ((q.tiles (srcSlots (recOp q.word) ++ foldSlots q.word)).flatMap lineRanges)
  let s := askBanks s 3 8 (out.writes.map (fun w => (w.1, w.1 + w.2.length)))
  let s := countNum (engWrite s c q out.writes) (pgCore c) out.ev 0
  let s := bumpN s (pgCore c) R_IDX_ROWS_CNT out.index
  let s := bumpN s (pgCore c) R_IDX_SKIP_CNT out.skips
  let s := bumpN s (pgCore c) R_IDX_OOR_CNT out.oors
  let s := if out.oors = 0 then s else wrB s (kCore c R_CC_STATUS) 3 true
  let s := if drawsSite3 (recOp q.word) && (coreOf s c).vecFail then
      bumpN s (pgCore c) R_VEC_DRAW_BORROW_CNT ((q.tileD 56).rows * (q.tileD 56).cols) else s
  match out.stop with
  | none => s
  | some code => refuseEntry (q.dstBits.foldl (fun s b => fbGiveUp s b) s) c q code

/-- The oldest entry of the window with operation `op` that has not read its descriptors does so, and is refused where a check
fails (R156). -/
def vecArrive (s : State) (c op : Nat) : State :=
  match (vecWindow s c).find? (fun q => !q.arrived && recOp q.word == op) with
  | none => s
  | some q0 =>
    let q := fixScatter c (q0.arrive s)
    let s := descCheck s c 5 q0
    match vecCheck s c q with
    | some code => refuseEntry s c q code
    | none => modEntry s c q.id (fun _ => q)

/-- The oldest entry that can fire does so where it has operation `op`. The unit runs one command at a time. -/
def vecPick (s : State) (c op : Nat) : State :=
  let w := vecWindow s c
  if (coreOf s c).vecQ.any (fun q => q.fired) then s
  else match (List.range w.length).find? (vecCanFire s c w) with
    | none => s
    | some i =>
      match w.drop i with
      | [] => s
      | q :: _ =>
        if recOp q.word ≠ op then s
        else
          let s := vecDrawCheck s c q
          match firstCode [(scatterOut s c q, 0x02), (drawsSite3 op && (coreOf s c).vecFail && (coreOf s c).strFail, 0x23)] with
          | some code => refuseEntry s c q code
          | none => vecFire (if i = 0 then s else bump s (pgCore c) R_VEC_OOO_CNT) c q

/-- A command of the vector unit for operation `op`. -/
def vecStep (c : Core) (op : Nat) (s : State) : Out :=
  .next (if coreRuns s c then vecPick (vecArrive s c op) c op else s)

def execVecEw (c : Core) (s : State) : Out := vecStep c 0x50 s
def execVecFn (c : Core) (s : State) : Out := vecStep c 0x51 s
def execVecFnBwd (c : Core) (s : State) : Out := vecStep c 0x52 s
def execVecRowRed (c : Core) (s : State) : Out := vecStep c 0x53 s
def execVecColRed (c : Core) (s : State) : Out := vecStep c 0x54 s
def execVecNormStat (c : Core) (s : State) : Out := vecStep c 0x55 s
def execVecNormFwd (c : Core) (s : State) : Out := vecStep c 0x56 s
def execVecNormBwd (c : Core) (s : State) : Out := vecStep c 0x57 s
def execVecSmaxFold (c : Core) (s : State) : Out := vecStep c 0x58 s
def execVecSmaxApply (c : Core) (s : State) : Out := vecStep c 0x59 s
def execVecSmaxD (c : Core) (s : State) : Out := vecStep c 0x5A s
def execVecSmaxBwd (c : Core) (s : State) : Out := vecStep c 0x5B s
def execVecDropout (c : Core) (s : State) : Out := vecStep c 0x5C s
def execVecRand (c : Core) (s : State) : Out := vecStep c 0x5D s
def execVecScatterAdd (c : Core) (s : State) : Out := vecStep c 0x5E s

/-- VECTOR_COMPLETE: the running command, its writes made, ends (R153, R193, R199, R160). -/
def vectorComplete (s : State) (c : Nat) : State :=
  match (coreOf s c).vecQ.find? (fun q => q.fired) with
  | none => s
  | some q =>
    let los := (dstSlots q.word).filter (present q.word)
    if logPending s c q.id then s
    else if los.any q.owesShift then logShifts s c q (los.map (fun lo => (lo, 0)))
    else
      let s := los.foldl (fun s lo => writeShift s q lo 0) s
      finishEntry (q.dstBits.foldl (fun s b => fbComplete s b) s) c q

def execVectorComplete (c : Core) (s : State) : Out := .next (if coreRuns s c then vectorComplete s c else s)

end Sys2Proof.Machine
end

