-- ==== Sys2Proof/Machine/Stream.lean ====
section
/-! DEFINITION. The stream engines: records, requests, tags, the pseudo-channel cap, deadline arbitration, WATCHED regions, end of
stream, and the core store's software and fabric accesses (08_core_store_streaming.md R210 to R234, 05_forward_backward.md R126
to R129, 06_control_core.md R178 to R180, 07_command_encoding.md R205, R206). -/
namespace Sys2Proof.Machine

/-! ## Record fields (R205) -/

def strSid (r : Rec) : Nat := bits r 71 64
def strDclass (r : Rec) : Nat := bits r 73 72
def strRne (r : Rec) : Bool := bitAt r 74

/-- The master ID of a stream engine. -/
def strMid (c : Nat) : Nat := 0x20 + c

/-! ## Checks (R195, R206, R209, R214) -/

/-- Is a byte range populated memory a stream record may name: HBM, a core-store data region, scratchpad ways (R206, R214)? -/
def rangeServed (s : State) (r : Nat × Nat) : Bool :=
  decide (r.2 ≤ r.1) || (regionOf r.1 == regionOf (r.2 - 1) && (match regionOf r.1 with
    | .hbm => true
    | .data c => !rangeRetired s c r
    | .llcWin _ => (linesOf r.1 (r.2 - r.1)).all (scratchOk s)
    | _ => false))

/-- The data region of an index tensor (06_control_core.md R157). -/
def Idx.dataRange (t : Idx) : Nat × Nat := (t.dataBase, t.dataBase + t.rowLimit * t.rowStride)

/-- Formats that move by conversion; U16, U32 and STAT only copy (R191). -/
def copyOnly : Fmt → Bool
  | .u16 | .u32 | .stat => true
  | _ => false

/-- The rows tile of a gather or scatter. -/
def rowsTile (q : QEntry) : Option Tile := if recOp q.word = 0x82 then q.tile 40 else q.tile 32

/-- The byte ranges a record reads and writes. -/
def strReads (q : QEntry) : List (Nat × Nat) :=
  match recOp q.word with
  | 0x82 => (q.idx 48).elim [] (fun t => [t.dataRange])
  | _ => (q.tile 32).elim [] Tile.ranges

def strWrites (q : QEntry) : List (Nat × Nat) :=
  match recOp q.word with
  | 0x83 => (q.idx 48).elim [] (fun t => [t.dataRange])
  | _ => (q.tile 40).elim [] Tile.ranges

/-- The refusal of a stream record at the head of its queue, if it meets a cause. -/
def strCheck (s : State) (c : Nat) (q : QEntry) : Option Nat :=
  let op := recOp q.word
  let src := q.tile 32
  let dst := q.tile 40
  let ix := q.idx 48
  let move := op == 0x80
  let lin := op == 0x81
  let gs := op == 0x82 || op == 0x83
  let both := fun (f : Tile → Tile → Bool) => match src, dst with
    | some a, some b => f a b
    | _, _ => false
  let used := if op = 0x84 then [] else if move || lin then [src, dst] else [rowsTile q]
  let tiles := used.filterMap id
  if op = 0x84 then firstCode [(badBases c q, 0x02), (q.task && bitAt q.word 76 && src.any (fun t => t.fb.any (fun b => b.1 != c)), 0x09)]
  else firstCode [
    (badBases c q || tiles.any (fun t => !t.ranges.all (rangeServed s))
      || (gs && ix.any (fun t => !inData c (t.idxBase, t.idxBase + t.count * t.width) || !rangeServed s t.dataRange
          || (t.twoLevel && !inData c (t.pageBase, t.pageBase + 4 * t.pageCount)))), 0x02),
    (q.task && ((strWrites q).any (fun r => !inData c r) || (bitAt q.word 76 && src.any (fun t => t.fb.any (fun b => b.1 != c)))), 0x09),
    (tiles.any (fun t => (fmtOf t.fmtCode).isNone)
      || (move && both (fun a b => a.fmtCode != b.fmtCode && (copyOnly a.fmt || copyOnly b.fmt)))
      , 0x10),
    (tiles.any (fun t => !t.descOk), 0x11),
    ((lin && both (fun a b => !a.hasCol || !b.hasCol)) || (gs && (rowsTile q).any (fun t => !t.hasRow || t.hasCol)), 0x12),
    (lin && both (fun a b => a.fmtCode != b.fmtCode), 0x13),
    (used.any (fun t => t.isNone) || (move && both (fun a b => a.rows != b.rows || a.cols != b.cols))
      || (lin && both (fun a b => b.rows != a.cols || b.cols != a.rows)), 0x14),
    (rangesMeet (strReads q) (strWrites q), 0x17),
    (lin && src.any (fun t => decide (256 < t.rows)), 0x28),
    (lin && dst.any (fun t => t.fmt == .kb4 && t.rows % 16 != 0), 0x29),
    (gs && ix.any (fun t => !t.levelOk), 0x2A),
    (gs && (ix.isNone || ix.any (fun t => !t.descOk || (rowsTile q).any (fun x =>
      decide (x.rows < t.count) || x.cols * x.fmt.nibbles != 2 * t.rowBytes))), 0x2B)]

/-! ## Requests (R219, R231) -/

/-- Unit of a destination copy: 16 elements of KB4, else one. -/
def Tile.unit (t : Tile) : Nat := if t.fmt = .kb4 then 16 else 1

/-- The elements of line `l` of a copy whose units start in the `n` bytes at `lo`: first and one past the last. -/
def lineIn (t : Tile) (y l lo n : Nat) : Nat × Nat :=
  let st := t.addr y (l * t.pitch y)
  let up := fun (d : Nat) => (2 * d + t.fmt.nibbles * t.unit - 1) / (t.fmt.nibbles * t.unit) * t.unit
  (min (t.lineLen y) (up (lo - st)), min (t.lineLen y) (up (lo + n - st)))

/-- The elements of a copy in a byte range, as (line, place in the line). -/
def blockElems (t : Tile) (y lo n : Nat) : List (Nat × Nat) :=
  (List.range (t.lines y)).flatMap (fun l =>
    let r := lineIn t y l lo n
    (List.range (r.2 - r.1)).map (fun j => (l, r.1 + j)))

/-- Copies in increasing base address. -/
def Tile.copiesUp (t : Tile) : List Nat :=
  if t.hasRow && t.hasCol && decide (t.base1 < t.base0) then [1, 0] else t.copies

/-- Tile element (row, column) of place `j` of line `l` of a copy. -/
def lineElem (y l j : Nat) : Nat × Nat := if y = 0 then (l, j) else (j, l)

/-- The source element of a destination element: itself, or transposed for a Lining (R126). -/
def srcElem (op r c : Nat) : Nat × Nat := if op = 0x81 then (c, r) else (r, c)

/-- The source copy read for destination copy `y`: the same order where the source holds it (R206), and the column copy for a
Lining. -/
def srcCopy (op : Nat) (a : Tile) (y : Nat) : Nat :=
  if op = 0x81 then 1 else if a.holds y then y else 1 - y

/-- Bytes of an element of a source copy: its code, and its scale byte. -/
def elemSpans (a : Tile) (y r c : Nat) : List (Nat × Nat) :=
  let n := a.elemNo y r c
  (a.addr y n, (a.fmt.nibbles + 1) / 2) :: (if a.fmt = .kb4 then [(a.sbase y + n / 16, 1)] else [])

/-- Add a byte range to spans kept one per 128-byte line. -/
def addSpan (l : List (Nat × Nat)) (a e : Nat) : List (Nat × Nat) :=
  match l with
  | [] => [(a, e)]
  | (lo, hi) :: t => if lo / 128 = a / 128 then (min lo a, max hi e) :: t else (lo, hi) :: addSpan t a e

/-- A byte range cut at line boundaries and added. -/
def addSpans (l : List (Nat × Nat)) (a n : Nat) : List (Nat × Nat) :=
  let e := a + n
  let m := (a / 128 + 1) * 128
  if e ≤ m then addSpan l a e else addSpan (addSpan l a m) m e

/-- What a request reads, as spans within lines. -/
def reqReads (q : QEntry) (r : StrReq) : List (Nat × Nat) :=
  let op := recOp q.word
  if op = 0x82 ∨ op = 0x83 then addSpans [] r.lo r.len
  else match q.tile 32, q.tile 40 with
    | some a, some b =>
      ((blockElems b r.copy r.lo r.len).flatMap (fun e =>
        let d := lineElem r.copy e.1 e.2
        let x := srcElem op d.1 d.2
        elemSpans a (srcCopy op a r.copy) x.1 x.2)).foldl (fun l p => addSpans l p.1 p.2) []
    | _, _ => []

/-- The pseudo-channels a request uses (R223). -/
def reqPcs (q : QEntry) (r : StrReq) : List Nat :=
  let at' := fun (a : Nat) => if regionOf a = .hbm then [hbmPcAll a] else []
  let dst := if recOp q.word = 0x82 ∨ recOp q.word = 0x83 then r.target else r.lo
  ((reqReads q r).flatMap (fun p => at' p.1) ++ at' dst).eraseDups

/-- The granules of a row of `n` bytes at `a`, as (start, length). -/
def rowGranules (a n : Nat) : List (Nat × Nat) :=
  (List.range ((a + n + 63) / 64 - a / 64)).map (fun i =>
    let g := 64 * (a / 64 + i)
    let lo := max a g
    (lo, min (a + n) (g + 64) - lo))

/-- A unit of a destination copy: its address, its bytes, and the 512-byte blocks that its source bytes stand in. -/
def copyUnits (op : Nat) (a b : Tile) (y : Nat) : List (Nat × Nat × List Nat) :=
  let sy := srcCopy op a y
  (List.range (b.lines y)).flatMap (fun l => (List.range (b.lineLen y / b.unit)).map (fun i =>
    let at' := fun (j : Nat) =>
      let d := lineElem y l (i * b.unit + j)
      let x := srcElem op d.1 d.2
      a.addr sy (a.elemNo sy x.1 x.2)
    let lo := b.addr y (l * b.pitch y + i * b.unit)
    (lo, (b.fmt.nibbles * b.unit + 1) / 2,
      ((List.range b.unit).flatMap (fun j => [at' j / 512, (at' j + (a.fmt.nibbles + 1) / 2 - 1) / 512])).eraseDups)))

/-- The byte ranges that one request each writes: a request reads and writes inside one aligned 512-byte block (R219), so units join whose source stands in one
block and whose destinations stand in one. A unit whose own source bytes stand in several blocks is a request of its own (log entry 120). -/
def joinUnits : List (Nat × Nat × List Nat) → List (Nat × Nat × List Nat)
  | [] => []
  | u :: l => match joinUnits l with
    | [] => [u]
    | v :: t =>
      if u.2.2 = v.2.2 ∧ u.2.2.length = 1 ∧ u.1 / 512 = v.1 / 512 then (u.1, v.1 + v.2.1 - u.1, v.2.2) :: t else u :: v :: t

/-- Put a request behind those whose destination is not above its own. -/
def placeReq (r : StrReq) : List StrReq → List StrReq
  | [] => [r]
  | o :: l => if r.target < o.target then r :: o :: l else o :: placeReq r l

/-- The requests of a record, in increasing address order of their destinations (R219), before they are numbered. Requests of a scatter to one address stay in
increasing i (06_control_core.md R180). -/
def strRequests (s : State) (q : QEntry) : List StrReq :=
  let mk := fun (copy row lo len target : Nat) => (⟨q.id, 0, copy, row, lo, len, target, [], .none, false, false, 0⟩ : StrReq)
  let op := recOp q.word
  match op with
  | 0x80 | 0x81 => match q.tile 32, q.tile 40 with
    | some a, some b => b.copiesUp.flatMap (fun y => (joinUnits (copyUnits op a b y)).map (fun u => mk y 0 u.1 u.2.1 u.1))
    | _, _ => []
  | 0x82 | 0x83 =>
    match rowsTile q, q.idx 48 with
    | some x, some t =>
      List.foldl (fun l r => placeReq r l) [] <| (List.range t.count).flatMap (fun i => match t.rowAddr s i with
        | .at a =>
          let row := x.addr 0 (i * x.p0)
          (rowGranules a t.rowBytes).map (fun g =>
            if op = 0x82 then mk 0 i g.1 g.2 (row + (g.1 - a)) else mk 0 i (row + (g.1 - a)) g.2 g.1)
        | _ => [])
    | _, _ => []
  | _ => []

def numberReqs : Nat → List StrReq → List StrReq
  | _, [] => []
  | n, r :: l => { r with num := n } :: numberReqs (n + 1) l

/-! ## WATCHED regions (R228) -/

/-- The watch entries (16 * Panel + entry) that cover a byte range, with their versions. -/
def watchesAt (s : State) (a n : Nat) : List (Nat × Nat) :=
  let p := match regionOf a with
    | .hbm => hbmPanel a | .data c => c / 8 | .llcWin p => p | _ => 4
  if 4 ≤ p then [] else
  (List.range 16).filterMap (fun w =>
    let k := reg (pgPool p) (R_WATCH_BASE + 0x18 * w)
    if rdB s k 0 && decide (rdF s k 63 6 ≤ (a + n - 1) / 64) && decide (a / 64 ≤ rdF s (k + 8) 63 6) then
      some (16 * p + w, (rd s (k + 16)).toNat)
    else none)

/-- Does a record read a WATCHED region? -/
def readsWatched (s : State) (q : QEntry) : Bool :=
  (List.range 4).any (fun p => (List.range 16).any (fun w => rdB s (reg (pgPool p) (R_WATCH_BASE + 0x18 * w)) 0))
    && (strReads q ++ (q.idx 48).elim [] (fun t => t.readRanges s)).any (fun r => (linesOf r.1 (r.2 - r.1)).any (fun l =>
      watchesAt s (max l r.1) (min (l + 128) r.2 - max l r.1) != []))

/-- The oldest version carried for each watch entry. -/
def carry (vs : List (Nat × Nat)) (new : List (Nat × Nat)) : List (Nat × Nat) :=
  new.foldl (fun l n => if l.any (fun o => o.1 == n.1) then l.map (fun o => if o.1 = n.1 then (o.1, min o.2 n.2) else o)
                        else l ++ [n]) vs

/-! ## Slots, the cap and tags (R219, R220, R223, R226) -/

/-- Tags of a Panel held by requests to pseudo-channel `pc`. -/
def pcHeld (s : State) (p pc : Nat) : Nat :=
  (List.range 8).foldl (fun n i => n + (coreOf s (8 * p + i)).held.countP (fun r => r.pcs.contains pc)) 0

/-- The first pseudo-channel of a request at its cap. -/
def cappedPc (s : State) (c : Nat) (pcs : List Nat) : Option Nat := pcs.find? (fun pc => decide (64 ≤ pcHeld s (c / 8) pc))

/-- Is the parking place of pseudo-channel `pc` in an engine taken? -/
def parkTaken (k : CoreSt) (pc : Nat) : Bool := k.parked.any (fun r => r.pcs.head? == some pc)

def reservedHeld (k : CoreSt) : Nat := k.held.countP (fun r => r.tag == .reserved)
def sharedHeld (s : State) (p : Nat) : Nat :=
  (List.range 8).foldl (fun n i => n + (coreOf s (8 * p + i)).held.countP (fun r => r.tag == .shared)) 0

/-- The deadline of a stream: its class is that of its oldest running record (R225). -/
def runDeadline (s : State) (c sid : Nat) : Int :=
  deadline s c sid (((coreOf s c).runs.find? (fun r => r.sid == sid)).elim 0 (fun r => r.dclass))

/-- The oldest runs of each stream with requests still to be made. -/
def fillCandidates (k : CoreSt) : List StrRun :=
  k.runs.foldl (fun l r => if r.todo = [] ∨ l.any (fun o => o.sid == r.sid) then l else l ++ [r]) []

/-- Is the next request of a run held by a taken parking place? -/
def runBlocked (s : State) (c : Nat) (r : StrRun) : Bool :=
  match r.todo with
  | [] => false
  | t :: _ => match cappedPc s c (reqPcs r.cmd t) with
    | some pc => parkTaken (coreOf s c) pc
    | none => false

/-- The run served next: the smallest deadline, then the lower STREAM_ID (R226). -/
def bestRun (s : State) (c : Nat) (l : List StrRun) : Option StrRun :=
  l.foldl (fun b r => match b with
    | none => some r
    | some o =>
      let dr := runDeadline s c r.sid
      let d := runDeadline s c o.sid
      if dr < d ∨ (dr = d ∧ r.sid < o.sid) then some r else b) none

/-- CAP_BLOCKED: a record of the engine waits for a parking place, before its next request takes a slot or in it (R223). -/
def capBlocked (s : State) (c : Nat) : Bool :=
  let k := coreOf s c
  (fillCandidates k).any (runBlocked s c) || k.slots.any (fun r => match cappedPc s c r.pcs with
    | some pc => parkTaken k pc
    | none => false)

/-- Fill one free slot. -/
def fillSlot (s : State) (c : Nat) : State :=
  let k := coreOf s c
  if decide (16 ≤ k.slots.length) || frozen s (strMid c) then s
  else
    match bestRun s c ((fillCandidates k).filter (fun r => !runBlocked s c r)) with
    | none => s
    | some r => match r.todo with
      | [] => s
      | t :: rest =>
        modCore s c (fun k =>
          { k with slots := k.slots ++ [{ t with pcs := reqPcs r.cmd t }],
                   runs := k.runs.map (fun o => if o.id = r.id then { o with todo := rest } else o) })

/-- Fill the free slots. -/
def fillSlots (s : State) (c : Nat) : State := (List.range 16).foldl (fun s _ => fillSlot s c) s

/-- A request takes a tag, with the DL_RING_CNT of that moment (R221). -/
def hold (s : State) (c : Nat) (r : StrReq) (t : TagKind) : State :=
  let s := modCore s c (fun k => { k with held := k.held ++ [{ r with tag := t, taken := ringNow s c }] })
  if t = .shared then bump s (pgPool (c / 8)) R_POOL_GRANT_CNT else s

/-- Must the data of a request wait for the memory it goes to (R269, 02_handshake_time.md R52, R56)? -/
def requestWaits (s : State) (q : QEntry) (r : StrReq) : Bool :=
  (reqReads q r).any (fun p => memWaits s p.1) || memWaits s (if recOp q.word = 0x82 ∨ recOp q.word = 0x83 then r.target else r.lo)

/-- Can a request take no tag now: its engine frozen, the Panel's tag pool frozen under R24 (R220), or its memory taking no access, when it waits without a
tag (10_hbm_llc.md R269, R270, R279)? -/
def tagless (s : State) (c : Nat) (r : StrReq) : Bool :=
  frozen s (strMid c) || blockHeld s (pgPool (c / 8))
    || ((coreOf s c).runs.find? (fun o => o.id == r.cmd)).any (fun o => requestWaits s o.cmd r)

/-- Is a request held back because one parked for its pseudo-channel takes that pseudo-channel's next tag ahead of it (R223)? -/
def heldBack (s : State) (c : Nat) (pcs : List Nat) : Bool :=
  (List.range 8).any (fun i => (coreOf s (8 * (c / 8) + i)).parked.any (fun o => o.pcs.head?.any (fun pc => pcs.contains pc)))

/-- A tag that has just been returned: the engine that held it, its kind, and the pseudo-channels that returned it. -/
structure Returned where
  core : Nat
  kind : TagKind
  pcs : List Nat
  deriving DecidableEq, Repr

/-- The tag that a parked request takes: the one its pseudo-channel returned, where that is a shared one or one of its own engine's; else one of its engine's
free reserved tags, else a free shared one. -/
def parkTag (s : State) (c : Nat) (r : StrReq) (ret : Option Returned) : Option TagKind :=
  let own := decide (reservedHeld (coreOf s c) < 32)
  let pool := decide (sharedHeld s (c / 8) < 1792)
  if pool && ret.any (fun t => t.kind == .shared && r.pcs.any t.pcs.contains) then some .shared
  else if own then some .reserved
  else if pool then some .shared
  else none

/-- The parked requests of an engine take tags where their pseudo-channels are below the cap again (R223). While a request is parked, the first of its
pseudo-channels is the one it waits for. -/
def unpark (s : State) (c : Nat) (ret : Option Returned) : State :=
  (coreOf s c).parked.foldl (fun s r =>
    if tagless s c r || (cappedPc s c r.pcs).isSome then s
    else match parkTag s c r ret with
      | none => s
      | some t => hold (modCore s c (fun k => { k with parked := k.parked.filter (fun o => o.num != r.num) })) c r t) s

/-- Parked requests of every engine of a Panel. Where several engines have a request parked for one pseudo-channel, the spec does not say which takes the room
first: the engine of the lower core number does (DESIGN CHOICE, log entry 121). -/
def unparkAll (s : State) (p : Nat) (ret : Option Returned) : State := (List.range 8).foldl (fun s i => unpark s (8 * p + i) ret) s

/-- STREAM_REQUEST: the request in a slot leaves it with a reserved tag, parks, or asks for a shared tag. -/
def streamRequest (s0 : State) (c slot : Nat) : State :=
  let s := unpark s0 c none
  let k := coreOf s c
  match (k.slots.drop slot).head? with
  | none => s
  | some r =>
    if tagless s c r then s
    else
      let leave := fun (s : State) => modCore s c (fun k => { k with slots := k.slots.filter (fun o => o.num != r.num) })
      match cappedPc s c r.pcs with
      | some pc =>
        if parkTaken k pc then s
        else
          let s := modCore (leave s) c (fun k => { k with parked := k.parked ++ [{ r with pcs := pc :: r.pcs.filter (fun x => x != pc) }] })
          fillSlots (bump s (pgCore c) R_CAP_HIT_CNT) c
      | none =>
        if heldBack s c r.pcs then s
        else if reservedHeld k < 32 then
          if (k.slots.take slot).any (fun o => (cappedPc s c o.pcs).isNone && !tagless s c o && !heldBack s c o.pcs) then s
          else fillSlots (hold (leave s) c r .reserved) c
        else if r.asked then s
        else
          let s := modCore s c (fun k => { k with slots := k.slots.map (fun o => if o.num = r.num then { o with asked := true } else o) })
          if sharedHeld s (c / 8) < 1792 then s
          else bump (bump s (pgPool (c / 8)) R_POOL_EXHAUST_CNT) (pgCore c) R_STR_TAG_WAIT_CNT

def execStreamRequest (c : Core) (slot : Fin 16) (s : State) : Out :=
  .next (if coreRuns s c then streamRequest s c slot.val else s)

/-- TAG_GRANT: a free shared tag goes to the asking slot request with the smallest deadline; ties to the lower core, then the
lower STREAM_ID (R226). -/
def tagGrant (s : State) (p : Nat) : State :=
  if 1792 ≤ sharedHeld s p then s
  else
    let cands := (List.range 8).flatMap (fun i =>
      let c := 8 * p + i
      if !coreRuns s c then [] else
      ((coreOf s c).slots.filter (fun r => r.asked && (cappedPc s c r.pcs).isNone && !tagless s c r && !heldBack s c r.pcs)).filterMap (fun r =>
        ((coreOf s c).runs.find? (fun o => o.id == r.cmd)).map (fun o => (c, r, runDeadline s c o.sid, o.sid))))
    let best := cands.foldl (fun (b : Option (Nat × StrReq × Int × Nat)) x => match b with
      | none => some x
      | some o => if x.2.2.1 < o.2.2.1 ∨ (x.2.2.1 = o.2.2.1 ∧ x.1 = o.1 ∧ x.2.2.2 < o.2.2.2) then some x else b) none
    match best with
    | none => s
    | some b =>
      let c := b.1
      let s := modCore s c (fun k => { k with slots := k.slots.filter (fun o => o.num != b.2.1.num) })
      fillSlots (hold s c b.2.1 .shared) c

def execTagGrant (p : Panel) (s : State) : Out := .next (tagGrant s p)

/-! ## Moving the data of a request -/

/-- What has been read of a span: its first address and its bytes with their marks. -/
abbrev Fetched := List (Nat × List (Byte × Bool))

/-- Read the spans of a request: state, bytes, versions carried, HBM or LLC granules read poisoned. A span that ends in a bus
error reads as uncorrectable. -/
def fetchSpans (s : State) (spans : List (Nat × Nat)) : State × Fetched × List (Nat × Nat) × Nat :=
  spans.foldl (fun (acc : State × Fetched × List (Nat × Nat) × Nat) p =>
    let n := p.2 - p.1
    let vs := watchesAt acc.1 p.1 n
    let r := readMem acc.1 p.1 n false true
    let cells := if r.ok then r.cells else (List.range n).map (fun _ => ((0 : Byte), true))
    let pois := match regionOf p.1 with
      | .data _ => 0
      | _ => ((List.range n).filter (fun i => (nth (0, false) cells i).2)).foldl
          (fun (l : List Nat) i => if l.contains ((p.1 + i) / 64) then l else (p.1 + i) / 64 :: l) [] |>.length
    (r.st, acc.2.1 ++ [(p.1, cells)], carry acc.2.2.1 vs, acc.2.2.2 + pois)) (s, [], [], 0)

/-- The byte at an address, with its mark. -/
def fetched (f : Fetched) (a : Nat) : Byte × Bool :=
  match f.find? (fun p => decide (p.1 ≤ a) && decide (a < p.1 + p.2.length)) with
  | some p => nth (0, true) p.2 (a - p.1)
  | none => (0, true)

/-- The code an uncorrectable element is written as: the canonical NaN, or all ones (R213). -/
def badCode (f : Fmt) : Nat := match f.lay with
  | some l => l.nanCode
  | none => 2 ^ (4 * f.nibbles) - 1

/-- Does a MOVE or LINING convert: between formats, or into KB4 (R206)? -/
def strConverts (q : QEntry) : Bool :=
  match q.tile 32, q.tile 40 with
  | some a, some b => (recOp q.word == 0x80 || recOp q.word == 0x81) && (a.fmt != b.fmt || b.fmt == .kb4)
  | _, _ => false

/-- Do the stream engine's SR conversions draw (R116, R117)? -/
def strDraws (s : State) (c : Nat) (r : Rec) : Bool := !strRne r && !reducedService s && !(coreOf s c).strFail

/-- The rounding of a conversion at site 6: the destination row and column, or a Lining's input and output feature (R100,
05_forward_backward.md R128). -/
def strRnd (draws : Bool) (q : QEntry) (r c : Nat) : Rnd :=
  if draws then (if recOp q.word = 0x81 then .sr (draw q.key 6 c 0 r) else .sr (draw q.key 6 r 0 c)) else .rne

/-- Group a list into runs of 16. -/
def chunks16 : Nat → List (Nat × Nat) → List (List (Nat × Nat))
  | 0, _ => []
  | f + 1, l => if l = [] then [] else l.take 16 :: chunks16 f (l.drop 16)

/-- The writes of a MOVE or LINING request and its conversion counts. KB4 is decoded exactly and re-blocked under R91, whatever its source (R206). -/
def moveWrites (draws : Bool) (q : QEntry) (a b : Tile) (r : StrReq) (f : Fetched) : List (Nat × List Byte) × NumEv :=
  let op := recOp q.word
  let y := r.copy
  let sy := srcCopy op a y
  let get := fun (n : Nat) => (fetched f n).1
  let bad := fun (n : Nat) => (fetched f n).2
  let es := blockElems b y r.lo r.len
  let place := fun (e : Nat × Nat) =>
    let d := lineElem y e.1 e.2
    (d, srcElem op d.1 d.2)
  if b.fmt = .kb4 then
    let blocks := chunks16 (es.length / 16 + 1) es
    let one := fun (l : List (Nat × Nat)) =>
      match l with
      | [] => (([] : List (Nat × List Byte)), NumEv.zero)
      | e0 :: _ =>
        let n0 := e0.1 * b.pitch y + e0.2
        let vs := l.map (fun e =>
          let p := place e
          (a.elemAt get bad sy (a.elemNo sy p.2.1 p.2.2), strRnd draws q p.1.1 p.1.2))
        let k := kb4Block vs
        (kb4Writes b y n0 k.1 k.2.1, k.2.2)
    let rs := blocks.map one
    (rs.flatMap (fun x => x.1), sumEv (rs.map (fun x => x.2)))
  else
    let first := b.copies.head? == some y
    let one := fun (e : Nat × Nat) =>
      let p := place e
      let n := a.elemNo sy p.2.1 p.2.2
      let at' := b.addr y (b.elemNo y p.1.1 p.1.2)
      if a.fmt = b.fmt then
        let ad := a.addr sy n
        let bd := (List.range (a.fmt.nibbles / 2)).any (fun i => bad (ad + i))
        ((at', elemBytes b.fmt (if bd then badCode b.fmt else a.codeOf get sy n)), NumEv.zero)
      else
        let w := convElem b.fmt (strRnd draws q p.1.1 p.1.2) (a.elemAt get bad sy n) none
        ((at', elemBytes b.fmt w.1), if first then w.2 else .zero)
    let rs := es.map one
    (rs.map (fun x => x.1), sumEv (rs.map (fun x => x.2)))

/-- The bytes of a gather or scatter request: as read, each element with an uncorrectable byte replaced (R213). Elements of
KB4 have no NaN code of their own: their bytes are free values. -/
def rowWrites (s : State) (x : Tile) (rowStart : Nat) (r : StrReq) (f : Fetched) : List (Nat × List Byte) :=
  let sz := x.fmt.nibbles / 2
  let one := fun (i : Nat) =>
    let g := fetched f (r.lo + i)
    let o := r.lo + i - rowStart
    if x.fmt == Fmt.kb4 then (if g.2 then Config.freeValue 8 (s.free + i) else g.1)
    else if (List.range sz).any (fun j => let a := rowStart + o / sz * sz + j
        decide (r.lo ≤ a) && decide (a < r.lo + r.len) && (fetched f a).2) then
      nth 0 (elemBytes x.fmt (badCode x.fmt)) (o % sz)
    else g.1
  [(r.target, (List.range r.len).map one)]

/-- Join writes that stand one behind another. -/
def joinWrites : List (Nat × List Byte) → List (Nat × List Byte)
  | [] => []
  | (a, x) :: l => match joinWrites l with
    | (b, y) :: t => if b = a + x.length then (a, x ++ y) :: t else (a, x) :: (b, y) :: t
    | [] => [(a, x)]

/-- Write the data of a request: through the task log, or under the engine's master ID (R206). -/
def strWrite (s : State) (c : Nat) (q : QEntry) (ws : List (Nat × List Byte)) : State :=
  if q.task then engWrite s c q ws
  else ws.foldl (fun s w => (writeMem s (strMid c) w.1 w.2 false).st) s

/-! ## Completion of records (R228 to R230) -/

/-- Is a consumer held only by its tiles (R230): the head of an OPE or stream queue, or an entry of the vector window? -/
def heldConsumers (s : State) (c : Nat) : List QEntry :=
  let k := coreOf s c
  let ope := if arraysReady s c then ((k.opeQ.filter (fun q => !q.fired)).head?).toList else []
  let str := if k.runs.countP (fun r => !r.refetch) < 8 then ((k.strQ.filter (fun q => !q.fired)).head?).toList else []
  let vec := if k.vecQ.any (fun q => q.fired) then [] else
    let w := vecWindow s c
    ((List.range w.length).filter (fun i => (w.take (i + 1)).all (fun o => o.arrived)
      && (match w.drop i with
          | q :: _ => (w.take i).all (fun o => !vecConflict o q)
          | [] => false))).filterMap (fun i => (w.drop i).head?)
  (ope ++ str ++ vec).filter (fun q => q.arrived)

/-- Consumers that would fire in state `t` and cannot in state `s`. -/
def freedConsumers (s t : State) : Bool :=
  (List.range 32).any (fun c => (heldConsumers s c).any (fun q => !tilesReady s c q && tilesReady t c q))

/-- A destination of a stream record becomes FULL: the estimates and counters of R225 and R230, once per tile. -/
def tileFull (s : State) (c : Nat) (q : QEntry) (b : Nat × Nat) (bytes : Nat) : State :=
  let t := fbComplete s (some b)
  let e := fbOf t b.1 b.2
  if e.st ≠ .full then t
  else
    let sid := strSid q.word
    let late := !e.late && freedConsumers s t
    let u := if e.prefetch ≠ none then setFb t b.1 b.2 { e with late := e.late || late }
      else setFb (estFull t c sid bytes) b.1 b.2 { e with prefetch := some (256 * c + sid, bytes), read := false, late := e.late || late }
    if late then bump u (pgCore c) R_PF_LATE_CNT else u

/-- A refetch of a tile from the record retained (R228). -/
def startRefetch (s : State) (c : Nat) (q : QEntry) : State :=
  let n := (coreOf s c).nextReq
  let rs := numberReqs n (strRequests s q)
  fillSlots (modCore s c (fun k =>
    { k with nextReq := n + rs.length,
             runs := k.runs ++ [⟨q.id, q, strSid q.word, strDclass q.word, rs, [], false, true, true⟩] })) c

/-- RESULT_SHIFT that a stream record leaves with its destination: the source's, or 0 after a gather (07_command_encoding.md R193). -/
def strShift (q : QEntry) : Nat := if recOp q.word = 0x82 then 0 else (q.tile 32).elim 0 (fun t => t.shift)

/-- Completion of a run whose requests are done: its tile FULL, or refetched where it was invalidated; the record's releases and
queue entry (R193, R199, R228). -/
def finishRun (s : State) (c : Nat) (r : StrRun) : State :=
  let q := r.cmd
  let op := recOp q.word
  let fb := (q.tile 40).bind Tile.fb
  let s := modCore s c (fun k => { k with runs := k.runs.filter (fun o => o.id != r.id) })
  let s := modCore s c (fun k => { k with watch := k.watch.map (fun w => if w.cmd.id = q.id then { w with vers := r.vers } else w) })
  let s := if op = 0x83 ∨ r.refetch then s
    else writeShift s q 40 (strShift q)
  let s := if r.invalid && r.watched then startRefetch s c q
    else if op = 0x83 then s
    else match fb with
      | some b => tileFull s c q b ((q.tile 40).elim 0 Tile.bytes)
      | none => s
  if r.refetch then s else finishEntry s c q

/-- The outstanding requests of a run. -/
def runBusy (k : CoreSt) (id : Nat) : Bool :=
  k.slots.any (fun r => r.cmd == id) || k.held.any (fun r => r.cmd == id) || k.parked.any (fun r => r.cmd == id)

/-- End a run whose last request has ended; that of a task's record first puts its RESULT_SHIFT through the log (06_control_core.md R171). -/
def runSettle (s : State) (c id : Nat) : State :=
  match (coreOf s c).runs.find? (fun r => r.id == id) with
  | some r =>
    if r.todo = [] ∧ !runBusy (coreOf s c) id ∧ !logPending s c id then
      if recOp r.cmd.word ≠ 0x83 ∧ !r.refetch ∧ r.cmd.owesShift 40 then
        modCore (logShifts s c r.cmd [(40, strShift r.cmd)]) c (fun k => { k with runs := k.runs.map (fun o =>
          if o.id = id then { o with cmd := { o.cmd with shifted := o.cmd.shifted ++ [40] } } else o) })
      else finishRun s c r
    else s
  | none => s

/-- TASK_LOG_WRITE: a write of a task goes through the log; with its last one a stream record may end. -/
def execTaskLogWrite (c : Core) (s : State) : Out :=
  .next (if coreRuns s c then
    (match (coreOf s c).logQ with
      | [] => taskLogWrite s c
      | w :: _ => runSettle (taskLogWrite s c) c w.id)
  else s)

/-! ## Firing -/

/-- A gather's rows that resolve to SKIP or OUT_OF_RANGE are written +0 in every element (R179). -/
def zeroRows (q : QEntry) (x : Tile) (t : Idx) (rows : List (Nat × RowAddr)) : List (Nat × List Byte) :=
  if recOp q.word ≠ 0x82 then []
  else rows.filterMap (fun p => match p.2 with
    | .at _ => none
    | _ => some (x.addr 0 (p.1 * x.p0), (List.range t.rowBytes).map (fun _ => (0 : Byte))))

/-- A stream record fires: its bits, requests, index counts, zero rows. The index unit's reads are checked as it resolves the rows (R213). -/
def strFire (s : State) (c : Nat) (q0 : QEntry) : State :=
  let q := { q0 with fired := true, key := latchKey s (pgCore c) q0 }
  let reqs := numberReqs (coreOf s c).nextReq (strRequests s q)
  let fb := (q.tile 40).bind Tile.fb
  let watched := recOp q.word != 0x83 && fb.isSome && readsWatched s q
  let ixr := if recOp q.word = 0x82 ∨ recOp q.word = 0x83 then (q.idx 48).elim [] (fun t => t.readRanges s) else []
  let vers := ixr.foldl (fun v r => carry v (watchesAt s r.1 (r.2 - r.1))) []
  let rows := match q.idx 48 with
    | some t => if recOp q.word = 0x82 ∨ recOp q.word = 0x83 then t.rowAddrs s else []
    | none => []
  let s' := (rangeMarked s ixr).foldl (fun s w => csWord s c w true) (fireEntry s c q0)
  let s' := askBanks s' 6 8 ixr
  let s' := modCore s' c (fun k =>
    { k with nextReq := k.nextReq + reqs.length,
             runs := k.runs ++ [⟨q.id, q, strSid q.word, strDclass q.word, reqs, vers, false, false, watched⟩],
             watch := if watched then k.watch ++ [⟨(fb.getD (0, 0)).1, (fb.getD (0, 0)).2, q, []⟩] else k.watch })
  let s' := match rowsTile q, q.idx 48 with
    | some x, some t =>
      let ws := zeroRows q x t rows
      bumpN (strWrite s' c q ws) (pgCore c) R_STR_BYTES_CNT (ws.foldl (fun n w => n + w.2.length) 0)
    | _, _ => s'
  let s' := bumpN s' (pgCore c) R_IDX_ROWS_CNT rows.length
  let s' := bumpN s' (pgCore c) R_IDX_SKIP_CNT (countSkips rows)
  let s' := bumpN s' (pgCore c) R_IDX_OOR_CNT (countOors rows)
  let s' := if countOors rows = 0 then s' else wrB s' (kCore c R_CC_STATUS) 3 true
  runSettle (fillSlots s' c) c q.id

/-- The head of the stream queue comes to fire, waits, fires or is refused (R154, R156, R216, R229). -/
def strHead (s : State) (c op : Nat) : State :=
  if !coreRuns s c || frozen s (strMid c) then s
  else match ((coreOf s c).strQ.filter (fun q => !q.fired)).head? with
    | none => s
    | some q0 =>
      if recOp q0.word ≠ op then s
      else
        let q := if q0.arrived then q0 else q0.arrive s
        let s := if q0.arrived then s else descCheck s c 6 q0
        match (if q0.arrived then none else strCheck s c q) with
        | some code => refuseEntry s c q code
        | none =>
          let s := modEntry s c q.id (fun _ => q)
          let k := coreOf s c
          if !tilesReady s c q || decide (8 ≤ k.runs.countP (fun r => !r.refetch))
              || (decide (64 ≤ k.watch.length) && readsWatched s q) then s
          else strFire s c q

def execStrMove (c : Core) (s : State) : Out := .next (strHead s c 0x80)
def execStrLining (c : Core) (s : State) : Out := .next (strHead s c 0x81)
def execStrGather (c : Core) (s : State) : Out := .next (strHead s c 0x82)
def execStrScatter (c : Core) (s : State) : Out := .next (strHead s c 0x83)

/-! ## STREAM_REQUEST_DONE -/

/-- Must a scatter's request wait for an earlier one of its record that writes the same bytes (06_control_core.md R180)? -/
def scatterWaits (k : CoreSt) (r : StrReq) : Bool :=
  (k.held ++ k.slots ++ k.parked ++ k.runs.flatMap (fun o => o.todo)).any (fun o => o.cmd == r.cmd && decide (o.num < r.num)
    && decide (o.target < r.target + r.len) && decide (r.target < o.target + o.len))

/-- What the reads of a request do beside giving its bytes: their accesses to banks (R212), the fault its draws may find (04_numerics.md R116), the
poisoned granules counted, and the versions of watched regions carried to its record (R228). -/
def moveReads (s : State) (c : Nat) (run : StrRun) (reads vers : List (Nat × Nat)) (pois : Nat) : State :=
  let s := askBanks s 6 0 (reads.filter (fun p => regionOf p.1 == .data c))
  let s := askBanks s 8 0 (reads.filter (fun p => regionOf p.1 != .data c))
  let s := drawCheck s c 9 (strDraws s c run.cmd.word && strConverts run.cmd)
  let s := countNum s (pgCore c) ⟨0, pois, 0⟩ 0
  modCore s c (fun k => { k with runs := k.runs.map (fun o =>
    if o.id = run.id ∧ o.watched then { o with vers := carry o.vers vers } else o) })

/-- The writes of a request, made of the bytes it has fetched, and what their conversion counts. -/
def requestWrites (s : State) (c : Nat) (q : QEntry) (r : StrReq) (f : Fetched) : List (Nat × List Byte) × NumEv :=
  if recOp q.word = 0x82 ∨ recOp q.word = 0x83 then
    match rowsTile q with
    | some x =>
      let st := if recOp q.word = 0x83 then x.addr 0 (r.row * x.p0) else r.lo - (r.target - x.addr 0 (r.row * x.p0))
      (rowWrites s x st r f, .zero)
    | none => ([], .zero)
  else match q.tile 32, q.tile 40 with
    | some a, some b => moveWrites (strDraws s c q.word) q a b r f
    | _, _ => ([], .zero)

/-- Move the data of a request. -/
def moveRequest (s : State) (c : Nat) (run : StrRun) (r : StrReq) : State :=
  let q := run.cmd
  let f := fetchSpans s (reqReads q r)
  let s := moveReads f.1 c run (reqReads q r) f.2.2.1 f.2.2.2
  let w := requestWrites s c q r f.2.1
  let s := if f.2.1.any (fun p => p.2.any (fun b => b.2)) then { s with free := s.free + r.len } else s
  let s := strWrite (countNum s (pgCore c) w.2 0) c q (joinWrites w.1)
  let s := bumpN s (pgCore c) R_STR_BYTES_CNT (w.1.foldl (fun n x => n + x.2.length) 0)
  if recOp q.word = 0x82 ∨ recOp q.word = 0x83 then bump s (pgCore c) R_GATHER_GRAN_CNT else s

/-- STREAM_REQUEST_DONE: the destination write of the request numbered `num` is done and its tag returns; its latency in step times of
the core runs from the taking of the tag (R220, R221). A request of a task's record waits until its writes have gone through the log. -/
def requestDone (s : State) (c num : Nat) : State :=
  let k := coreOf s c
  match k.held.find? (fun r => r.num == num) with
  | none => s
  | some r => match k.runs.find? (fun o => o.id == r.cmd) with
    | none => s
    | some run =>
      if requestWaits s run.cmd r || (recOp run.cmd.word == 0x83 && scatterWaits k r) then s
      else
        let s := if r.moved then s else
          modCore (moveRequest s c run r) c (fun k =>
            { k with held := k.held.map (fun o => if o.num = num then { o with moved := true } else o) })
        if logPending s c r.cmd then s
        else
          let s := modCore s c (fun k => { k with held := k.held.filter (fun o => o.num != num) })
          let s := bump s (pgCore c) R_STR_REQ_CNT
          let s := bumpN s (pgCore c) R_STR_LAT_SUM (ringNow s c - r.taken)
          let s := unparkAll s (c / 8) (some ⟨c, r.tag, r.pcs⟩)
          runSettle (fillSlots s c) c r.cmd

def execStreamRequestDone (c : Core) (req : Nat) (s : State) : Out :=
  .next (if coreRuns s c then requestDone s c req else s)

/-! ## End of stream (R232) -/

/-- Has every stream record of a STREAM_ID issued before entry `id` completed, refetches of theirs under way included? -/
def streamDone (k : CoreSt) (sid id : Nat) : Bool :=
  !(k.strQ.any (fun q => decide (q.id < id) && recOp q.word != 0x84 && strSid q.word == sid))
    && !(k.runs.any (fun r => r.refetch && r.sid == sid && decide (r.id < id)))

def eosComplete (s : State) (c : Nat) (q : QEntry) : State := finishEntry (bump s (pgCore c) R_STR_EOS_CNT) c q

/-- STR_EOS at the head of the queue reads the descriptors it names, whose BASE is checked (07_command_encoding.md R188) and one of which a release bit may
name (R199), and fires; with no earlier record of its stream it completes at once. -/
def strEos (s : State) (c : Nat) : State :=
  if !coreRuns s c || frozen s (strMid c) then s
  else match ((coreOf s c).strQ.filter (fun q => !q.fired)).head? with
    | none => s
    | some q0 =>
      if recOp q0.word ≠ 0x84 then s
      else
        let q := q0.arrive s
        let s := descCheck s c 6 q0
        match strCheck s c q with
        | some code => refuseEntry s c q code
        | none =>
        let s := fireEntry (modEntry s c q.id (fun _ => q)) c q
        if streamDone (coreOf s c) (strSid q.word) q.id then eosComplete s c q else s

def execStrEos (c : Core) (s : State) : Out := .next (strEos s c)

/-- STR_EOS_COMPLETE: the oldest fired STR.EOS of a stream completes. -/
def strEosComplete (s : State) (c sid : Nat) : State :=
  match (coreOf s c).strQ.find? (fun q => q.fired && recOp q.word == 0x84 && strSid q.word == sid) with
  | none => s
  | some q => if streamDone (coreOf s c) sid q.id then eosComplete s c q else s

def execStrEosComplete (c : Core) (sid : Byte) (s : State) : Out :=
  .next (if coreRuns s c then strEosComplete s c sid.toNat else s)

/-! ## Software and fabric accesses (R212 to R218) -/

/-- A write of FB_CMD. -/
def fbCmdWrite (s : State) (c : Nat) (v : Word) : State :=
  match bits v 17 16 with
  | 1 => fbCmd s c (bits v 11 0) true
  | 2 => fbCmd s c (bits v 11 0) false
  | _ => s

def fbSetCmd (mid : Mid) (c : Core) (entry : BitVec 12) (op : Nat) (s : State) : Out :=
  let v := w64 (op * 2 ^ 16 + entry.toNat)
  .next (guardWrite s mid.toNat (pgCore c) R_FB_CMD v (fun s => fbCmdWrite s c v))

def execFbSetFull (mid : Mid) (c : Core) (entry : BitVec 12) (s : State) : Out := fbSetCmd mid c entry 1 s
def execFbSetEmpty (mid : Mid) (c : Core) (entry : BitVec 12) (s : State) : Out := fbSetCmd mid c entry 2 s

def execFbParity (c : Core) (entry : BitVec 12) (s : State) : Out :=
  .next (if domOn s c then fbParity s c entry.toNat else s)

/-- A write of WATCH_BASE or WATCH_LIMIT of entry `w`, which increments the version (R228). -/
def watchWrite (s : State) (p w : Nat) (limit : Bool) (v : Word) (own : Bool) : State :=
  let off := R_WATCH_BASE + 0x18 * w + (if limit then 8 else 0)
  let k := reg (pgPool p) (R_WATCH_BASE + 0x18 * w + 16)
  let s := fieldWrite s (pgPool p) off v own false
  wr s k (rd s k + 1)

def execWatchRegionWrite (mid : Mid) (p : Panel) (w : Fin 16) (limit : Bool) (value : Word) (s : State) : Out :=
  let off := R_WATCH_BASE + 0x18 * w.val + (if limit then 8 else 0)
  .next (guardWrite s mid.toNat (pgPool p) off value (fun s => watchWrite s p w.val limit value true))

/-- A report of watch entry `idx` at version `ver` to the engine of core `c` (R228): runs still reading become invalid; FULL tiles
not yet read return to FILLING and are refetched. -/
def watchReport (s : State) (c idx ver : Nat) : State :=
  let stale := fun (vs : List (Nat × Nat)) => vs.any (fun v => v.1 == idx && decide (v.2 < ver))
  let n := (coreOf s c).runs.countP (fun r => r.watched && !r.invalid && stale r.vers)
  let s := modCore s c (fun k => { k with runs := k.runs.map (fun r =>
    if r.watched && !r.invalid && stale r.vers then { r with invalid := true } else r) })
  let s := bumpN s (pgCore c) R_STALE_PREFETCH_CNT n
  ((coreOf s c).watch.filter (fun w => stale w.vers)).foldl (fun s w =>
    let e := fbOf s w.core w.entry
    if e.st = .full ∧ !e.read ∧ e.prefetch.isSome ∧ !((coreOf s c).runs.any (fun r => r.id == w.cmd.id)) then
      let s := setFb s w.core w.entry { e with st := .filling, writers := 1 }
      startRefetch (bump s (pgCore c) R_STALE_PREFETCH_CNT) c w.cmd
    else s) s

def execWatchVersionReport (c : Core) (p : Panel) (w : Fin 16) (s : State) : Out :=
  .next (if coreRuns s c then
    watchReport s c (16 * p.val + w.val) (rd s (reg (pgPool p) (R_WATCH_BASE + 0x18 * w.val + 16))).toNat else s)

/-- CS_FABRIC_ACCESS: an access to a data region from the Panel fabric (R212 to R214). -/
def csFabric (s : State) (mid a : Nat) (op : MemOp) (e : Ecc) : State :=
  match regionOf a with
  | .data c =>
    match op with
    | .read n =>
      if !oneRegion a n || !csAnswers s c a n || cloakDenies s mid true then setResp s .busError
      else
        let r := readMem (askBanks (csEcc s c a e) 8 0 [(a, a + n)]) a n false false
        setResp r.st (if r.anyBad then .busError else .bytes r.bytes)
    | .write bytes =>
      let w := writeMem s mid a bytes false
      setResp w.st w.resp
  | .sync _ => setResp s .busError
  | .hole _ => setResp s .busError
  | _ => s

def execCsFabricAccess (mid : Mid) (addr : Word) (op : MemOp) (ecc : Ecc) (s : State) : Out :=
  .next (if isMaster mid.toNat then csFabric s mid.toNat addr.toNat op ecc else s)

/-! ## Resynchronisation of a crossing (02_handshake_time.md R56, R57) -/

/-- The requests of stack `st` that a reset of its crossing aborts: each returns its tag (02_handshake_time.md R56). What the stream engine then does
with the request the spec does not say: the model puts it back at the front of its record and makes it again (DESIGN CHOICE, log entry 107). -/
def abortStack (s : State) (st : Nat) : State :=
  (List.range 32).foldl (fun s c =>
    let k := coreOf s c
    let gone := k.held.filter (fun r => r.pcs.any (fun pc => pc / 32 == st) && !r.moved)
    if gone = [] then s
    else fillSlots (unparkAll (setCore s c { k with
        held := k.held.filter (fun r => !gone.any (fun g => g.num == r.num)),
        runs := k.runs.map (fun run =>
          { run with todo := (gone.filter (fun g => g.cmd == run.id)).map (fun g => { g with tag := .none, asked := false }) ++ run.todo }) })
      (c / 8) none) c) s

/-- What a reset of a crossing does to what crosses it (R56): the requests of an HBM stack are returned ABORTED, and frames held at a port or at the
control port, which stand in its FIFO, are discarded. -/
def hemAbort (s : State) (h : Nat) : State :=
  if h < 8 then abortStack s h
  else if h < 24 then { s with wireHeld := s.wireHeld.filter (fun f => f.port != h - 8) }
  else if h = 24 then { s with cp := { s.cp with held := [] } }
  else s

/-- One side of a crossing is reset: the Hem's (`hemSide`) or the handshake side (R56, R57). -/
def execResync (h : HemId) (hemSide : Bool) (s : State) : Out :=
  .next (if !hemOn s h then s else resyncStart (hemAbort s h) h hemSide)

end Sys2Proof.Machine
end

