-- ==== Sys2Proof/Machine/Domain.lean ====
section
/-! DEFINITION. What a reset or OFF of a power domain does, and its return to ON (16_bringup_service.md R433 to R436; 01_module_at_work.md R24;
02_handshake_time.md R39; 03_outer_product_arrays.md R85; 06_control_core.md R149; 09_yoke_pockets.md R240, R241, R244, R254, R256, R258). -/
namespace Sys2Proof.Machine

/-! ## Registers -/

/-- Registers that a domain's reset leaves: BLK_OWNER (held for the Mantle, R473), the fuses, what the Mantle islands hold behind the power and
crypto pages (R417). -/
def keptReg (k : Nat) : Bool :=
  let off := k % 4096
  off == R_BLK_OWNER || match pageKind (k / 4096) with
    | some (.core _) => off == R_OPE_POS_MAP
    | some (.power _) => off == R_PWR_STATUS || decide (R_PWR_DOMAIN ≤ off)
    | some (.crypto _) => off == R_CRY_STATUS || off == R_CRY_EPOCH_COUNT || off == R_CRY_SWEEP_POS || off == R_CRY_EPOCH_ABANDON
    | _ => false

/-- The registers of a domain take their reset values (R473). -/
def resetRegs (s : State) (d : Nat) : State :=
  { s with regs := s.regs.filter (fun e => keptReg e.1 || pageDomain (e.1 / 4096) != d) }

/-- The masters with a page or a bit in Table: Pages and Panels of masters. -/
def freezeMids : List Nat := List.range 0x58

/-- A reset ends a freeze under R24; a freeze for a violation lasts, and its FROZEN stays set. -/
def resetFreeze (s : State) (d : Nat) : State :=
  let out := s.breached.filter (fun pg => pageDomain pg == d)
  let s := { s with breached := s.breached.filter (fun pg => pageDomain pg != d) }
  let s := out.foldl (fun s pg => (pageMids pg).foldl (fun s m => setFrozenBit s m false) s) s
  freezeMids.foldl (fun s m => match midPage m with
    | some pg => if pageDomain pg = d ∧ frozen s m then wrB s (reg pg R_BLK_STAT) 1 true else s
    | none => s) s

/-! ## Receivers (R254, R258) -/

/-- Every Pocket with GO set whose receiver is in the domain is returned ABORTED. -/
def pocketsDown (s : State) (d : Nat) : State :=
  (List.range 512).foldl (fun s k =>
    if pktGo s k ∧ pktValid s k ∧ midDomain (pktReceiver s k) = d then pktReturn s k else s) s

/-- Masters of a domain that have Buttons, outside its own pages. -/
def buttonsDown (s : State) (d : Nat) : State :=
  if d < 32 then wr s (reg (pgBtn d) R_BTN_PEND) 0
  else if d = 48 then wr s (reg (pgBtn 0x44) R_BTN_PEND) 0 else s

/-- Cells, marks and keys of the bytes `[lo, hi)` are gone. -/
def dropBytes (m : MemSt) (lo hi : Nat) : MemSt :=
  { m with cells := m.cells.filter (fun c => !(decide (lo ≤ c.1) && decide (c.1 < hi))),
           bad := m.bad.filter (fun c => !(decide (lo ≤ 8 * c.1) && decide (8 * c.1 < hi))),
           weak := m.weak.filter (fun c => !(decide (lo ≤ 8 * c.1) && decide (8 * c.1 < hi))),
           poison := m.poison.filter (fun c => !(decide (lo ≤ 64 * c.1) && decide (64 * c.1 < hi))) }

/-! ## Core domains (R85, R149, R215, R225, R240, R241, R244) -/

/-- Requests on their way stay on their way; every entry, registration, wake and release of the core's contexts goes (R240). -/
def coreSync (s : State) (c : Nat) : State :=
  let reqs := (List.range 8).filterMap (fun x => (ctxOf s c x).req.map (fun r => (8 * c + x, r)))
  let notices := (s.sync.filter (fun e => e.1 / 131072 == c && e.2.waited)).map (fun e => YokeMsg.notice (.word e.1))
  { s with
    orphans := s.orphans ++ reqs,
    toYoke := s.toYoke.filter (fun m => match m with
      | .reg k _ _ => k != c
      | _ => true) ++ notices,
    yokeWaits := s.yokeWaits.filter (fun i => i / 8 != c),
    wakes := s.wakes.filter (fun w => wakeCore w != c),
    releases := s.releases.filter (fun r => r.core != c),
    sync := s.sync.filter (fun e => e.1 / 131072 != c) }

/-- A core's reset: contexts, queues, accumulators, latches, full bits, log, streams and sync words; the setting that the island
keeps survives. -/
def coreReset (s : State) (c : Nat) : State :=
  let s := coreSync s c
  let old := coreOf s c
  let s := setCore s c { CoreSt.rst with keptDelay := old.keptDelay, keptValid := old.keptValid }
  { s with
    ctxs := s.ctxs.filter (fun e => e.1 / 8 != c),
    fb := s.fb.filter (fun e => e.1 / 4096 != c),
    est := s.est.filter (fun e => e.1 / 256 != c),
    katPages := s.katPages.filter (fun x => x != pgCore c),
    srFailed := s.srFailed.filter (fun x => x != pgCore c),
    banks := s.banks.filter (fun b => b.core != c),
    mem := dropBytes s.mem (csBase c) (csBase c + 0x100000),
    mnt := { s.mnt with spares := s.mnt.spares.filter (fun q => q.1 != c), loaded := s.mnt.loaded.filter (fun i => i != 6 + c) } }

/-! ## The other domains -/

/-- LLC slice `p` starts cold: every line invalid, every way a cache way (R433). -/
def llcReset (s : State) (p : Nat) : State :=
  let m := dropBytes s.mem (llcBase p) (llcBase p + 0x4000000)
  { s with mem := { m with llc := m.llc.filter (fun l => hbmPanel l.1 != p), flushing := m.flushing.filter (fun a => hbmPanel a != p) },
           mnt := { s.mnt with spares := s.mnt.spares.filter (fun q => q.1 != 0x80 + p) } }

/-- A sparing entry is lost: the granule reads from the stack's own cells again (R280). -/
def spareLost (m : MemSt) (e : Spare) : MemSt :=
  let m := clearBad (putCells m e.gran e.data) e.gran 64
  let m := { m with keyOf := tabSet (fun _ => 0) m.keyOf (e.gran / 64) e.key }
  setPoison ((List.range 8).foldl (fun m i => setBad m (e.gran + 8 * i) (nth false e.bad i)) m) e.gran e.pois

/-- The controllers of Panel `p` lose training, sparing entries and operations; the stacks keep their contents (R271, R280, R434). -/
def hbmReset (s : State) (p : Nat) : State :=
  let m := (s.mem.spared.filter (fun e => hbmPanel e.gran == p)).foldl spareLost s.mem
  { s with mem := { m with
      run1500 := m.run1500.filter (fun x => x.stack / 2 != p),
      repairing := m.repairing.filter (fun r => r.1 / 2 != p),
      spared := m.spared.filter (fun e => hbmPanel e.gran != p) } }

/-- Self refresh of both stacks of Panel `p` (R271). -/
def selfRefresh (s : State) (p : Nat) (on : Bool) : State :=
  wrB (wrB s (reg (pgHbm (2 * p)) R_HBM_STATUS) 3 on) (reg (pgHbm (2 * p + 1)) R_HBM_STATUS) 3 on

/-- HBM of Panel `p` is out of ON, so that its accesses are answered under R436. -/
def hbmGone (s : State) (p : Nat) : State :=
  { s with mem := { s.mem with wasOff := if s.mem.wasOff.contains p then s.mem.wasOff else s.mem.wasOff ++ [p] } }

/-- Link group `p`: entries, groups, ports and the frames on their way to or from them. -/
def linkReset (s : State) (p : Nat) : State :=
  { s with
    partners := s.partners.filter (fun e => e.1 / 1024 != p),
    groups := s.groups.filter (fun g => g.1 / 64 != p),
    toEngine := s.toEngine.filter (fun i => match i.src with
      | .entry e _ => e / 1024 != p
      | .group g => g / 64 != p),
    outbox := s.outbox.filter (fun o => if o.1 then o.2.1 / 64 != p else o.2.1 / 1024 != p),
    trainFails := s.trainFails.filter (fun t => t.1 / 4 != p),
    mirHeader := s.mirHeader.filter (fun h => h.1 / 1024 != p) }

/-- The Seam between Panels `n` and `n + 1` is down until both ends are ON. -/
def seamReset (s : State) (n : Nat) : State :=
  { wr (wr s (reg (pgSeam n) R_SEAM_STATUS) 0) (reg (pgSeam n) R_SEAM_GROUPS) 0 with
    seamRejects := s.seamRejects.filter (fun r => r.1 / 16 != n), seamTests := s.seamTests.filter (fun g => g / 16 != n) }

/-- Fabric domain of Panel `p`: arbiters, Seam ends, engines and the service processor; on Panel 0 the Yoke and the Pockets. -/
def fabReset (s : State) (p : Nat) : State :=
  let s := seamReset (seamReset s p) ((p + 3) % 4)
  let s := setBist { s with
      arbs := s.arbs.filter (fun a => a.1 % 4 != p),
      fab := s.fab.filter (fun m => !(fabPanels m).contains p),
      asleep := s.asleep.filter (fun m => m != 0x40 + p),
      coll := s.coll.filter (fun c => c.1 != p),
      optWritten := s.optWritten.filter (fun x => x / 4096 != p),
      optDue := s.optDue.filter (fun x => x != p),
      optWaited := s.optWaited.filter (fun x => x != p),
      sealDue := s.sealDue.filter (fun x => x != p),
      toEngine := s.toEngine.filter (fun i => midPanel i.mid != p),
      katPages := s.katPages.filter (fun x => x != pgColl p && x != pgOpt p),
      srFailed := s.srFailed.filter (fun x => x != pgColl p && x != pgOpt p),
      mnt := { s.mnt with loaded := s.mnt.loaded.filter (fun i => i != 2 + p) } } p
  if p = 0 then
    { s with slots := [], toYoke := [], yokeWaits := [], releases := [], closing := .rst, mirHeader := none,
             recov := .rst, svc := .rst, mnt := { s.mnt with order := [] } }
  else s
where
  /-- The BIST engine of a Panel at rest. -/
  setBist (s : State) (p : Nat) : State := { s with bist := s.bist.filter (fun b => b.1 != p) }

/-- A reset of the control port clears word Pockets 8 to 15 with GO set and sets ABORTED; the Mantle sends their words again (R256). -/
def cpReset (s : State) : State :=
  let s := (List.range 8).foldl (fun s i =>
    if wpGo s (8 + i) then
      let v := rd s (reg (pgWord (8 + i)) R_WP_WORD)
      let s := wr (wrB (wrB s (reg (pgWord (8 + i)) R_WP_STATUS) 0 false) (reg (pgWord (8 + i)) R_WP_STATUS) 3 true)
        (reg (pgWord (8 + i)) R_WP_WORD) 0
      { s with mnt := { s.mnt with out := (8 + i, v) :: s.mnt.out } }
    else s) s
  { s with cp := { CpSt.rst with wire := s.cp.wire } }

/-! ## Reset, OFF and ON of a domain -/

/-- PWR_DOMAIN.STATE takes a value. -/
def setState (s : State) (d st : Nat) : State := wrF s (kDom d) 5 4 st

/-- The Hems of a domain. -/
def domHems (d : Nat) : List Nat := (List.range 33).filter (fun h => pageDomain (pgHem h) == d)

/-- What a reset of domain `d` does (R433 to R435, DOMAIN_RESET_EFFECTS). Both sides of its Hems' crossings are reset with it: what crosses is returned
ABORTED or discarded, and the pointers are resynchronised (02_handshake_time.md R56, R57; 10_hbm_llc.md R271). -/
def domReset (s : State) (d : Nat) : State :=
  let s := (domHems d).foldl hemAbort s
  let s := buttonsDown (pocketsDown s d) d
  let s := if d < 32 then coreReset s d
    else if d < 36 then llcReset s (d - 32)
    else if d < 40 then hbmGone (hbmReset s (d - 36)) (d - 36)
    else if d < 44 then linkReset s (d - 40)
    else if d < 48 then fabReset s (d - 44) else cpReset s
  let s := { s with hemStopped := s.hemStopped.filter (fun h => pageDomain (pgHem h) != d),
                    srSick := s.srSick.filter (fun x => pageDomain x.1 != d) }
  let s := resetFreeze (resetRegs s d) d
  (domHems d).foldl (fun s h => resyncStart (resyncStart s h true) h false) s

/-- Domain `d` is OFF: a reset, and the contents are lost. A core shows CORE_OFFLINE (R435); link OFF takes its ports DOWN. -/
def domOff (s : State) (d : Nat) : State :=
  if domState s d = 0 then s
  else
  let s := if d < 32 then setDegraded s (pgCore d) 8 else s
  let s := setState (domReset s d) d 0
  if d < 32 then
    wrB { s with mem := dropBytes s.mem (csBase d) (csBase d + 0x2800000) } (reg (pgCore d) R_BLK_STAT) 8 true
  else if 36 ≤ d ∧ d < 40 then selfRefresh s (d - 36) true
  else s

/-- Domain `d` is in RETENTION: its contents stay. A core with a pending Button that its BTN_MASK enables is waken at once (09_yoke_pockets.md R259). -/
def domRetain (s : State) (d : Nat) : State :=
  let s := setState s d 1
  if 36 ≤ d ∧ d < 40 then selfRefresh (hbmGone s (d - 36)) (d - 36) true else if d < 32 then btnWake s d else s

/-- The calibrated setting that the island kept is restored (R39). -/
def restoreDelay (s : State) (c : Nat) : State :=
  let k := coreOf s c
  if k.keptValid then wrB (setCore s c { k with delay := .set k.keptDelay }) (kCore c R_DL_STATUS) 0 true else s

/-- The active image of a firmware. -/
def activeImg (s : State) (f : Nat) : FwImg :=
  let t := tabGet (fun _ => FwSlots.rst) s.mnt.fw f
  if t.useB then t.b else t.a

/-- The active image of firmware `f` is loaded and measured as entry `id`, where it verifies. -/
def loadFw (s : State) (f id : Nat) : State :=
  if (activeImg s f).ok ∧ !s.mnt.loaded.contains id then { s with mnt := { s.mnt with loaded := s.mnt.loaded ++ [id] } } else s

/-- The service Pockets: number, sender, receiver, RECV_BTN, ABORT_BTN, EMPTY_BTN, EMPTY_NOTIFY (Table: Service Pockets, R447). -/
def servicePockets : List (Nat × Nat × Nat × Nat × Nat × Nat × Nat) :=
  [(0, 0x44, 0x40, 0, 9, 10, 1), (1, 0x40, 0x44, 8, 1, 2, 1), (2, 0x40, 0xF0, 16, 3, 0, 0), (3, 0x41, 0xF0, 17, 3, 0, 0),
   (4, 0x42, 0xF0, 18, 3, 0, 0), (5, 0x43, 0xF0, 19, 3, 0, 0)]

/-- The service firmware of processor 0 binds the service Pockets at boot (R447). -/
def bindService (s : State) : State :=
  servicePockets.foldl (fun s b =>
    let v := w64 (b.2.1 + b.2.2.1 * 2 ^ 8 + b.2.2.2.1 * 2 ^ 16 + b.2.2.2.2.2.1 * 2 ^ 24 + b.2.2.2.2.1 * 2 ^ 32 + b.2.2.2.2.2.2 * 2 ^ 40 + 2 ^ 63)
    let off := R_PKT_BIND + 8 * b.1
    guardWrite s 0x40 (pgBind 0) off v (fun s => fieldWrite s (pgBind 0) off v true false)) s

/-- Service processor `p` loads its active image and starts it. -/
def bootFw (s : State) (p : Nat) : State :=
  let was := s.mnt.loaded.contains (2 + p)
  let s := loadFw s (1 + p) (2 + p)
  if p = 0 ∧ !was ∧ s.mnt.loaded.contains 2 then bindService s else s

/-- Domain `d` returns to ON from a reset or OFF: registers at reset, Hem counters at 0 (R45), known-answer tests start (R115), the
calibration is restored, firmware is loaded and measured again (R425). -/
def domFresh (s : State) (d : Nat) : State :=
  let s := setState s d 2
  if d < 32 then
    let s := loadFw (startKat (restoreDelay (clearFlag s (pgCore d) 8) d) d) (8 + d) (6 + d)
    if (railOf s (d / 8)).forced then limitPage true s (pgCore d) else s
  else if 36 ≤ d ∧ d < 40 then selfRefresh s (d - 36) false
  else if d < 44 then s
  else if d < 48 then
    let p := d - 44
    let s := seamTrain (seamTrain s p) ((p + 3) % 4)
    let s := bootFw (katStart (katStart s (pgColl p)) (pgOpt p)) p
    if (railOf s p).forced then limitPage true s (pgPwr p) else s
  else mntFlush (wrB s (reg pgCp R_CP_STATUS) 1 true)

/-- Domain `d` returns to ON from RETENTION with everything kept. -/
def domWake (s : State) (d : Nat) : State :=
  let s := setState s d 2
  if 36 ≤ d ∧ d < 40 then
    let p := d - 36
    let s := selfRefresh s p false
    if rdF s (reg (pgHbm (2 * p)) R_HBM_STATUS) 1 0 ≠ 0 ∧ rdF s (reg (pgHbm (2 * p + 1)) R_HBM_STATUS) 1 0 ≠ 0 then
      { s with mem := { s.mem with wasOff := s.mem.wasOff.filter (fun q => q != p) } }
    else s
  else if d < 32 ∧ (railOf s (d / 8)).forced then limitPage true s (pgCore d)
  else s

/-- Bring a domain to ON as the power-up sequence does (R429). -/
def domBring (s : State) (d : Nat) : State :=
  if domOn s d then s
  else wrF (domFresh (if domState s d = 1 then domReset s d else s) d) (kDom d) 1 0 2

end Sys2Proof.Machine
end

