-- ==== Sys2Proof/Machine/Bist.lean ====
section
/-! DEFINITION. The BIST engines and the Darn entries (16_bringup_service.md R457 to R465). -/
namespace Sys2Proof.Machine

/-! ## Requests (R457) -/

/-- A BIST engine's state, with BIST_STATUS. -/
def setBist (s : State) (p : Nat) (b : BistSt) : State :=
  wr { s with bist := tabSet (fun _ => BistSt.rst) s.bist p b } (reg (pgBist p) R_BIST_STATUS)
    (w64 (b.queue.length * 2 ^ 16 + (if b.run.isSome then 1 else 0)))

/-- A write of BIST_REQ: the request joins the queue. -/
def bistReqWrite (s : State) (p mid addr : Nat) : State :=
  let b := bistOf s p
  setBist s p { b with queue := b.queue ++ [(mid, addr)] }

def execBistReq (mid : Mid) (p : Panel) (addr : Word) (s : State) : Out :=
  .next (guardWrite s mid.toNat (pgBist p) R_BIST_REQ addr (fun s => bistReqWrite s p mid.toNat addr.toNat))

/-! ## Chunks (R458, R459) -/

/-- The domain of the memory at an address, and its Panel; none for what no engine tests. -/
def testDomain (a : Nat) : Option (Nat × Nat) :=
  match regionOf a with
  | .hbm => some (36 + hbmPanel a, hbmPanel a)
  | .data c | .sync c => some (c, c / 8)
  | .llcWin p => some (32 + p, p)
  | _ => none

/-- Is every granule of a region in Panel `p`'s testable memory, outside cache ways, retired segments and retired regions? -/
def testable (s : State) (p base len : Nat) : Bool :=
  oneRegion base (64 * len) && (testDomain base).any (fun d => d.2 == p) && (testDomain (base + 64 * len - 1)).any (fun d => d.2 == p)
    && (match regionOf base with
      | .hbm => (List.range ((base + 64 * len - 1) / 2 ^ 21 - base / 2 ^ 21 + 1)).all (fun i => !retired s ((base / 2 ^ 21 + i) * 2 ^ 21))
      | .data c => (linesOf base (64 * len)).all (fun a => !csRetired s c a)
      | .llcWin _ => (linesOf base (64 * len)).all (scratchOk s)
      | .sync c => (List.range (8 * len)).all (fun i => !syncRetired s c (base + 8 * i))
      | _ => true)

/-- The result that a request ends with before any chunk is tested, if any: WINDOW, RANGE, ABORTED. -/
def bistEarly (s : State) (p base len : Nat) : Option Nat :=
  if len = 0 then none
  else if !mayWrite s (0x54 + p) base (64 * len) then some 2
  else match testDomain base with
    | none => some 3
    | some d =>
      if d.2 ≠ p then some 3
      else if !domOn s d.1 then some 4
      else if testable s p base len then none else some 3

/-- The engine takes its oldest request and reads the record (Table: BIST request record). -/
def bistStart (s : State) (p : Nat) : State :=
  let b := bistOf s p
  match b.queue with
  | [] => s
  | (mid, a) :: rest =>
    if memWaits s a then s
    else
    let r := readMem s a 64 false false
    let f := fun (hi lo : Nat) => r.val / 2 ^ lo % 2 ^ (hi + 1 - lo)
    let run : BistRun :=
      if r.ok && !r.anyBad then
        { mid := mid, base := f 63 0, len := f 95 64, test := f 135 128, ring := if f 141 141 = 1 then some (f 140 136) else none,
          resAddr := f 255 192, tested := 0, fails := 0, first := none, result := bistEarly s p (f 63 0) (f 95 64) }
      else ⟨mid, 0, 0, 0, none, 0, 0, 0, none, some 3⟩
    setBist r.st p { queue := rest, run := some run }

/-- The granules of the next chunk of a run. -/
def chunkLen (r : BistRun) : Nat := min 64 (r.len - r.tested)

/-- A chunk is held, saved, tested, restored and released: its contents do not change. `fails` names the failing bits as 72 * word + bit, the
words counted from the chunk's first. -/
def chunkRun (r : BistRun) (fails : List Nat) : BistRun :=
  let fs := fails.filter (fun x => decide (x / 72 < 8 * chunkLen r))
  let ws := (fs.map (fun x => x / 72)).eraseDups
  let lo := fs.foldl (fun m x => match m with
    | none => some x
    | some y => some (min x y)) none
  { r with
    tested := r.tested + chunkLen r,
    fails := min (r.fails + ws.length) 0xFFFFFFFF,
    first := match r.first with
      | some x => some x
      | none => lo.map (fun x => (r.base + 64 * r.tested + 8 * (x / 72), x % 72)) }

/-- BIST_CHUNK. -/
def bistChunk (s : State) (p : Nat) (fails : List Nat) : State :=
  if !domOn s (44 + p) ∨ frozen s (0x54 + p) then s
  else
    let s := if (bistOf s p).run = none then bistStart s p else s
    let b := bistOf s p
    match b.run with
    | none => s
    | some r =>
      if r.result.isSome ∨ r.len ≤ r.tested then s
      else if (testDomain r.base).any (fun d => !domOn s d.1) then setBist s p { b with run := some { r with result := some 4 } }
      else setBist s p { b with run := some (chunkRun r fails) }

def execBistChunk (p : Panel) (fails : List Nat) (s : State) : Out := .next (bistChunk s p fails)

/-- The 64 bytes of a result record. -/
def resultBytes (r : BistRun) (res : Nat) : List Byte :=
  let first := r.first.getD (0, 0)
  valBytes 64 (first.1 + first.2 * 2 ^ 64 + res * 2 ^ 72 + r.fails * 2 ^ 96 + r.tested * 2 ^ 128 + r.mid * 2 ^ 192)

/-- BIST_RESULT: the request that runs has ended. -/
def bistResult (s : State) (p : Nat) : State :=
  let b := bistOf s p
  match b.run with
  | none => s
  | some r =>
    if !domOn s (44 + p) ∨ frozen s (0x54 + p) ∨ (r.result = none ∧ r.tested < r.len) ∨ memWaits s r.resAddr then s
    else
      let res := r.result.getD (if r.fails = 0 then 0 else 1)
      let s := setBist s p { b with run := none }
      let s := (writeMem s (0x54 + p) r.resAddr (resultBytes r res) false).st
      let s := bump s (pgBist p) R_BIST_REQ_CNT
      let s := if res = 1 then bump s (pgBist p) R_BIST_FAIL_CNT else s
      match r.ring with
      | some n => ringBtn s r.mid n false
      | none => s

def execBistResult (p : Panel) (s : State) : Out := .next (bistResult s p)

/-! ## Darn entries and retired segments (R460, R461, R465) -/

/-- The block of a page with Darn entries: core, or 0x80 + slice. -/
def darnInst (page : Nat) : Option Nat :=
  match pageKind page with
  | some (.core c) => some c
  | some (.llc p) => some (0x80 + p)
  | _ => none

/-- Bank and segment of a Darn entry, as 8 * bank + segment: 624 rows of a data bank, 128 of a sync bank, 2,048 lines of an LLC bank. -/
def darnSeg (inst : Nat) (v : Word) : Nat :=
  8 * bits v 47 40 + bits v 13 0 / (if 0x80 ≤ inst then 2048 else if 64 ≤ bits v 47 40 then 128 else 624)

/-- Is the spare that an entry names used already in its segment: by an entry since the reset, or by a fuse repair (R464)? -/
def spareTaken (s : State) (inst : Nat) (v : Word) : Bool :=
  s.mnt.spares.contains (inst, darnSeg inst v, bits v 51 50)
    || s.mnt.fuses.any (fun f => f.1 == inst && darnSeg inst f.2 == darnSeg inst v && bits f.2 51 50 == bits v 51 50)

/-- A write of Darn entry `off`: with VALID set the row is copied to its spare, whose accesses it then answers. -/
def darnWrite (s : State) (page off : Nat) (v : Word) (own : Bool) : State :=
  match darnInst page with
  | none => s
  | some i =>
    if !bitAt v 63 then fieldWrite s page off v own false
    else if spareTaken s i v then (if i < 32 then wrB s (reg page R_DARN_STATUS) 0 true else s)
    else
      let s := fieldWrite s page off v own false
      let s := { s with mnt := { s.mnt with spares := s.mnt.spares ++ [(i, darnSeg i v, bits v 51 50)] } }
      if i < 32 then bump s page R_DARN_REMAP_CNT else s

/-- The offset of Darn entry `k` of a page; none where the page has no such entry. -/
def darnOff (page k : Nat) : Option Nat :=
  match pageKind page with
  | some (.core _) => if k < 128 then some (R_DARN + 8 * k) else none
  | some (.llc _) => if k < 64 then some (R_LLC_DARN + 8 * k) else none
  | _ => none

def execDarnWrite (mid : Mid) (page : Nat) (k : Nat) (value : Word) (s : State) : Out :=
  .next (match darnOff page k with
    | none => s
    | some off => guardWrite s mid.toNat page off value (fun s => darnWrite s page off value true))

/-- A write of a SEG_RETIRED register: set bits stay (R465); each segment newly retired is counted in the core page. -/
def segRetireWrite (s : State) (page off : Nat) (v : Word) : State :=
  let k := reg page off
  let new := v &&& ~~~ rd s k
  let n := (List.range 64).countP (fun i => bitAt new i)
  let s := wrOr s k v
  if (pageKind page).any (fun x => match x with
      | .core _ => true
      | _ => false) then bumpN s page R_SEG_RETIRE_CNT n else s

end Sys2Proof.Machine
end

