-- ==== Sys2Proof/Machine/Image.lean ====
section
/-! DEFINITION. The container of job and firmware images: its header, its sections and the checks of IMAGE_LOAD
(16_bringup_service.md R449 to R451). -/
namespace Sys2Proof.Machine

/-- The number in `n` bytes at offset `o`. -/
def leAt (b : List Byte) (o n : Nat) : Nat := bytesVal ((b.drop o).take n)

/-- A section: TYPE, RANK, its index, offset and contents, whether it is encrypted. -/
structure Section where
  type : Nat
  rank : Nat
  index : Nat
  off : Nat
  body : List Byte
  enc : Bool
  deriving DecidableEq, Repr

def rankAll : Nat := 0xFFFFFFFF

/-- Are `n` bytes at offset `o` zero? -/
def zeroAt (b : List Byte) (o n : Nat) : Bool := ((b.drop o).take n).all (fun x => x == 0)

/-- Section table entry `i`, none where a field is out of its range. -/
def sectionAt (b : List Byte) (i : Nat) : Option Section :=
  let e := 0x200 + 32 * i
  let o := leAt b (e + 8) 8
  let n := leAt b (e + 16) 8
  let t := leAt b e 4
  if t = 0 ∨ 5 < t ∨ b.length < o + n ∨ 1 < leAt b (e + 24) 4 ∨ leAt b (e + 28) 4 ≠ 0 then none
  else some ⟨t, leAt b (e + 4) 4, i, o, (b.drop o).take n, leAt b (e + 24) 4 == 1⟩

/-- Do two spans of bytes overlap? -/
def overlaps (a b : Nat × Nat) : Bool := decide (a.1 < b.2) && decide (b.1 < a.2)

/-- The spans of a list are apart. -/
def apart : List (Nat × Nat) → Bool
  | [] => true
  | a :: l => l.all (fun b => !overlaps a b) && apart l

/-- An ACCESS section is 32 window records followed by whole owner records. -/
def accessOk (x : Section) : Bool := x.type != 1 || (decide (512 ≤ x.body.length) && (x.body.length - 512) % 16 == 0)

/-- The sections of a container whose format is right (R449, R451 FORMAT). -/
def formatOf (b : List Byte) (firmware : Bool) : Option (List Section) :=
  let n := leAt b 0x18 4
  let flags := leAt b 0xC 4
  if b.length < 0x200 + 32 * n ∨ n = 0 ∨ 64 < n ∨ leAt b 0 8 ≠ 0x4B4E4A49 ∨ leAt b 8 4 ≠ 1 ∨ 1 < flags ∨ leAt b 0x10 8 ≠ b.length
    ∨ !(zeroAt b 0x138 200) ∨ !(zeroAt b (0xB0 + 132) 4) ∨ !(firmware || zeroAt b (0x28 + 133) 3) then none
  else
    let xs := (List.range n).filterMap (sectionAt b)
    let spans := (0, 0x200 + 32 * n) :: (xs.filter (fun x => x.body != [])).map (fun x => (x.off, x.off + x.body.length))
    if xs.length = n ∧ apart spans ∧ xs.all accessOk ∧ (flags == 1) = xs.any (fun x => x.enc) then some xs else none

/-- The container with SIGNATURE set to zero. -/
def unsigned (b : List Byte) : List Byte := b.take 0xB0 ++ List.replicate 136 0 ++ b.drop (0xB0 + 136)

/-- Does the signature verify under a key (R450)? -/
def sigOk (b key : List Byte) : Bool := Config.ecdsaOk key (unsigned b) ((b.drop 0xB0).take 132)

/-- A firmware image: right in format, one FIRMWARE section, signed under the firmware key (R449, R450). -/
def firmwareOf (b : List Byte) : Option FwImg :=
  match formatOf b true with
  | some [x] => if x.type = 5 ∧ sigOk b Config.fwKey then some ⟨true, Config.sha512 b, leAt b 0x20 8⟩ else none
  | _ => none

/-- The staging region: its first byte and its bytes (R446). -/
def stageBase (s : State) : Nat := rdF s (reg pgCp R_CP_STAGE_BASE) 63 12 * 4096
def stageSize (s : State) : Nat := rdF s (reg pgCp R_CP_STAGE_SIZE) 31 0 * 4096

/-- Read the container staged at offset `off`, TOTAL_BYTES long where that lies in the staging region; what it read otherwise. -/
def readStaged (s : State) (off : Nat) : State × List Byte :=
  let h := readMem s (stageBase s + off) 0x200 false false
  let n := leAt h.bytes 0x10 8
  if !h.ok ∨ n < 0x220 ∨ stageSize s < off + n then (h.st, h.bytes)
  else
    let r := readMem h.st (stageBase s + off) n false false
    (r.st, r.bytes)

/-! ## Records -/

/-- The records of `n` bytes of a section, each as its 64-bit words. -/
def wordRecs (n : Nat) (b : List Byte) : List (List Nat) :=
  (List.range (b.length / n)).map (fun i => (List.range (n / 8)).map (fun j => leAt b (n * i + 8 * j) 8))

/-- The records of a DATA section: address and bytes; none where one does not fit. -/
def dataRecs : Nat → List Byte → Option (List (Nat × List Byte))
  | 0, _ => some []
  | f + 1, b =>
    if b = [] then some []
    else if b.length < 16 then none
    else
      let n := leAt b 8 8
      let pad := (n + 15) / 16 * 16
      if b.length < 16 + pad then none
      else (dataRecs f (b.drop (16 + pad))).map (fun l => (leAt b 0 8, (b.drop 16).take n) :: l)

/-- Does the body of a section hold whole records? -/
def bodyOk (x : Section) : Bool :=
  if x.type = 2 then x.body.length % 16 == 0
  else if x.type = 3 then (dataRecs x.body.length x.body).isSome
  else if x.type = 4 then x.body.length % 32 == 0 && (wordRecs 32 x.body).all (fun r => nth 0 r 3 == 0)
  else true

/-- The sections that apply to a rank, or to every rank alone (R449, R452). -/
def sectionsFor (xs : List Section) (rank : Option Nat) : List Section :=
  xs.filter (fun x => x.rank == rankAll || rank == some x.rank)

def regRecs (xs : List Section) : List (Nat × Nat) :=
  (xs.filter (fun x => x.type == 2)).flatMap (fun x => (wordRecs 16 x.body).map (fun r => (nth 0 r 0, nth 0 r 1)))
def dataOf (xs : List Section) : List (Nat × List Byte) :=
  (xs.filter (fun x => x.type == 3)).flatMap (fun x => (dataRecs x.body.length x.body).getD [])
def ptrRecs (xs : List Section) : List (Nat × Nat × Nat) :=
  (xs.filter (fun x => x.type == 4)).flatMap (fun x => (wordRecs 32 x.body).map (fun r => (nth 0 r 0, nth 0 r 1, nth 0 r 2)))

/-! ## The checks of IMAGE_LOAD after FORMAT (R451) -/

/-- Every element once. -/
def distinct : List Nat → Bool
  | [] => true
  | a :: l => !l.contains a && distinct l

/-- PARTNERS: at most 4,096 entries, no entry index or rank repeated. -/
def partnersOk (xs : List Section) : Bool :=
  let r := ptrRecs xs
  decide (r.length ≤ 4096) && r.all (fun q => decide (q.1 < 4096)) && distinct (r.map (fun q => q.1))
    && distinct (r.map (fun q => bits (w64 q.2.2) 55 40))

/-- May JOB_ARM set the owner of the page at an address? -/
def ownerSettable (a : Nat) : Bool :=
  match regionOf a with
  | .mmio pg => match pageKind pg with
    | none => false
    | some (.pocket _) | some (.wordPocket _) | some (.button _) | some (.mantle _) | some .mantleReq | some .mantleCert
    | some (.hem _) => false
    | some _ => mainPage pg == pg
  | _ => false

/-- May a REG record write this address? -/
def regTarget (a : Nat) : Bool :=
  match regionOf a with
  | .mmio pg =>
    let off := a % 4096
    match pageKind pg with
    | some (.mantle _) | some .mantleReq | some .mantleCert | some (.power _) => false
    | some (.binding 0) => !(off == R_PKT_LOCK || (decide (R_PKT_BIND ≤ off) && decide (off < R_PKT_BIND + 48)))
    | _ => true
  | .hbm | .data _ | .sync _ | .llcWin _ => true
  | _ => false

/-- May a DATA record write these bytes? -/
def dataTarget (a n : Nat) : Bool :=
  n == 0 || (let ok := fun x => match regionOf x with
      | .hbm | .data _ | .sync _ | .llcWin _ => true
      | _ => false
    ok a && ok (a + n - 1))

/-- ADDRESS. -/
def addressesOk (xs : List Section) : Bool :=
  (regRecs xs).all (fun r => regTarget r.1) && (dataOf xs).all (fun r => dataTarget r.1 r.2.length)
    && (xs.filter (fun x => x.type == 1)).all (fun x => (wordRecs 16 (x.body.drop 512)).all (fun r => ownerSettable (nth 0 r 0)))

/-- Is this the address of SH_CFG of a shard entry? -/
def isShCfg (a : Nat) : Bool :=
  match regionOf a with
  | .mmio pg => match pageKind pg with
    | some (.optShard _ _) => decide (R_SH_CFG ≤ a % 4096) && (a % 4096 - R_SH_CFG) % 64 == 0
    | _ => false
  | _ => false

/-- The values that a list of register writes leaves, by address. -/
def lastWrites : List (Nat × Nat) → Tab Nat
  | l => l.foldl (fun t r => tabSet (fun _ => 0) t r.1 r.2) []

/-- TAG_DUP: the tags of the valid shard entries are distinct. -/
def tagsOk (xs : List Section) : Bool :=
  distinct ((((lastWrites ((regRecs xs).filter (fun r => isShCfg r.1))).map (fun r => w64 r.2)).filter (fun v => bitAt v 63)).map
    (fun v => bits v 47 32))

/-- RESOURCES: the grants of each Panel within 8,192 and within its replay size as the image leaves it. -/
def resourcesOk (s : State) (xs : List Section) : Bool :=
  (List.range 4).all (fun p =>
    let grants := ((ptrRecs xs).filter (fun q => q.1 / 1024 == p)).foldl (fun a q =>
      a + (List.range 4).foldl (fun b c => b + bits (w64 q.2.2) (10 * c + 9) (10 * c)) 0) 0
    let a := mmioBase + kLnk p R_LNK_REPLAY_SIZE
    let size := match ((regRecs xs).filter (fun r => r.1 == a)).reverse with
      | r :: _ => r.2 % 65536
      | [] => rdF s (kLnk p R_LNK_REPLAY_SIZE) 15 0
    decide (grants ≤ 8192) && decide (grants ≤ size))

/-- Every set of sections that one rank, or a spare, would be given. -/
def rankViews (xs : List Section) : List (List Section) :=
  sectionsFor xs none :: ((xs.map (fun x => x.rank)).eraseDups.filter (fun r => r != rankAll)).map (fun r => sectionsFor xs (some r))

/-- An encrypted section in the clear: nonce, ciphertext and tag of R450; none where the tag fails. -/
def openSection (key : Nat) (x : Section) : Option (List Byte) :=
  if !x.enc then some x.body
  else Config.gcmOpen key (valBytes 4 x.index ++ List.replicate 8 0) x.body

/-- Every section in the clear; none where one does not decrypt. -/
def openAll (key : Nat) : List Section → Option (List Section)
  | [] => some []
  | x :: l => match openSection key x, openAll key l with
    | some b, some m => some ({ x with body := b } :: m)
    | _, _ => none

/-- The first check of IMAGE_LOAD that an image fails, as the answer's status, or its sections in the clear. -/
def imageCheck (s : State) (b : List Byte) : Nat × List Section :=
  match formatOf b false with
  | none => (0x11, [])
  | some xs =>
    if !sigOk b ((b.drop 0x28).take 133) then (0x10, [])
    else match (match s.mnt.imageKey with
        | some k => openAll k xs
        | none => if xs.any (fun x => x.enc) then none else some xs) with
      | none => (0x16, [])
      | some ys =>
        let v := rankViews ys
        if !ys.all bodyOk then (0x11, [])
        else if !v.all partnersOk then (0x12, [])
        else if !v.all addressesOk then (0x13, [])
        else if !v.all tagsOk then (0x14, [])
        else if !v.all (resourcesOk s) then (0x17, [])
        else (0, ys)

end Sys2Proof.Machine
end

