-- ==== Sys2Proof/Machine/Power.lean ====
section
/-! DEFINITION. Power-up, RESET_N, reduced service, power-domain requests, and the voltage, thermal and power loops
(16_bringup_service.md R429 to R442, R466; 18_module_hardware.md R488, R489, R497 to R499). -/
namespace Sys2Proof.Machine

/-! ## Requests (R434, R435) -/

/-- Has a domain the state a request asks for (Table: Power domains)? REQ 3 asks for a reset and ON. -/
def takesState (d req : Nat) : Bool :=
  if req = 2 ∨ req = 3 then true else if req = 1 then decide (d < 40) else decide (d < 48)

/-- The domains of Panel `p` that depend on its fabric. -/
def panelDoms (p : Nat) : List Nat := (List.range 8).map (fun i => 8 * p + i) ++ [32 + p, 36 + p, 40 + p]

/-- Does a request break a constraint of Table: Power domains? -/
def breaksConstraint (s : State) (d req : Nat) : Bool :=
  let p := domPanel d
  if d < 32 then req != 0 && !domOn s (44 + p)
  else if d < 36 then req != 2 && domOn s d && domOn s (36 + p)
  else if 44 ≤ d ∧ d < 48 then
    req == 0 && (!(panelDoms p).all (fun x => domState s x == 0) || (d == 44 && domOn s 48))
  else false

/-- Is a core drained: every context IDLE, its queues empty, no open accumulation? -/
def coreDrained (s : State) (c : Nat) : Bool :=
  let k := coreOf s c
  (List.range 8).all (fun x => (ctxOf s c x).st == .idle) && k.opeQ == [] && k.vecQ == [] && k.strQ == [] && k.accOwner == none

/-- The RESULT of a request that is refused, in the order of R435. -/
def reqRefusal (s : State) (d req : Nat) : Option Nat :=
  if !takesState d req then some 4
  else if breaksConstraint s d req then some 3
  else if d < 32 ∧ req = 0 ∧ !coreDrained s d then some 2 else none

/-- Must the Panel's LLC slice be flushed before the domain leaves ON (R436)? -/
def flushFirst (s : State) (d req : Nat) : Bool :=
  decide (36 ≤ d) && decide (d < 40) && req != 2 && domOn s d && domOn s (d - 4)

/-- A request is accepted: a transition runs, unless the domain is in the state already. REQ 3 resets the domain at once; OFF and
RETENTION come at the end of the transition. -/
def reqAccept (s : State) (d req : Nat) : State :=
  let k := kDom d
  let s := wrF (wrF s k 11 8 0) k 1 0 req
  if req = domState s d then s
  else
    let s := wrF s k 7 7 1
    if flushFirst s d req then flushStart s (d - 36)
    else if req = 3 then setState (domReset s d) d 3 else s

/-- A request of a state of domain `d` (R435). -/
def pwrRequest (s : State) (d req : Nat) : State :=
  let k := kDom d
  if rdB s k 7 then wrF (wrB s k 6 true) k 11 8 1
  else match reqRefusal s d req with
    | some n => wrF s k 11 8 n
    | none => reqAccept s d req

/-- A write of PWR_DOMAIN in a power page: in another Panel's page and for PD_49 it is ignored (R466). -/
def pwrDomainWrite (s : State) (p d : Nat) (v : Word) : State :=
  if domPanel d ≠ p ∨ 49 ≤ d then s
  else
    let s := if bitAt v 6 then wrB s (kDom d) 6 false else s
    pwrRequest s d (bits v 1 0)

/-- PWR_DOMAIN.REQ of a master. -/
def pwrReqCmd (mid : Mid) (d : Fin 50) (req : Nat) (s : State) : Out :=
  let p := domPanel d
  .next (guardWrite s mid.toNat (pgPwr p) (R_PWR_DOMAIN + 8 * d) (w64 req) (fun s => pwrDomainWrite s p d (w64 req)))

def execPwrReqOff (mid : Mid) (d : Fin 50) (s : State) : Out := pwrReqCmd mid d 0 s
def execPwrReqRetention (mid : Mid) (d : Fin 50) (s : State) : Out := pwrReqCmd mid d 1 s
def execPwrReqOn (mid : Mid) (d : Fin 50) (s : State) : Out := pwrReqCmd mid d 2 s
def execPwrReqReset (mid : Mid) (d : Fin 50) (s : State) : Out := pwrReqCmd mid d 3 s

/-- PWR_TRANSITION_DONE: the running transition of a domain ends in the state requested. One that flushes the LLC slice waits for FLUSH_BUSY
to clear (R436). -/
def transitionDone (s : State) (d : Nat) : State :=
  let k := kDom d
  if 49 ≤ d ∨ !rdB s k 7 then s
  else
    let req := rdF s k 1 0
    if flushFirst s d req ∧ rdB s (reg (pgLlc (d - 36)) R_LLC_STATUS) 17 then s
    else
      if req = 0 then wrF (domOff s d) k 7 7 0
      else if req = 1 then domRetain (wrF s k 7 7 0) d
      else if req = 3 then wrF (domFresh (if domState s d = 3 then s else domReset s d) d) k 7 7 0
      else if domState s d = 1 then domWake (wrF s k 7 7 0) d
      else domFresh (wrF s k 7 7 0) d

def execPwrTransitionDone (d : Fin 50) (s : State) : Out := .next (transitionDone s d)

/-! ## Pins (R498, R499) -/

def setPwr (s : State) (f : PwrSt → PwrSt) : State := { s with pwr := f s.pwr }

/-- The STATUS byte of the low-speed header (18_module_hardware.md R500). -/
def smbCauses (s : State) : Nat :=
  (if s.pwr.phase = 1 then 1 else 0) + (if s.pwr.tripped then 2 else 0) + (if s.pwr.inputLow then 4 else 0)
    + (if s.pwr.pwrGood then 8 else 0) + (if s.pwr.imgFail then 16 else 0)

/-- Is a cause set that asserts ALERT_N? PWR_GOOD is no cause. -/
def alertCause (s : State) : Bool := s.pwr.phase == 1 || s.pwr.tripped || s.pwr.inputLow || s.pwr.imgFail

/-- A cause has been set: ALERT_N is asserted (R499). -/
def alertOn (s : State) : State := setPwr s (fun q => { q with alert := true, seen := false })

/-- ALERT_N is released once every cause has cleared and STATUS has been read since the last one was set (R499). -/
def alertSettle (s : State) : State :=
  if s.pwr.alert ∧ s.pwr.seen ∧ !alertCause s then setPwr s (fun q => { q with alert := false }) else s

/-! ## Power-up (R429 to R433) -/

/-- Every transition in progress ends where it stands. -/
def endTransitions (s : State) : State := (List.range 49).foldl (fun s d => wrF s (kDom d) 7 7 0) s

/-- REDUCED_SERVICE in the four island pages (R431). -/
def setReduced (s : State) (on : Bool) : State :=
  (List.range 4).foldl (fun s p => if on then setDegraded s (pgMnt p) 9 else clearFlag s (pgMnt p) 9) s

/-- The rails start from their seeds (R433). -/
def seedRails (s : State) : State :=
  (List.range 4).foldl (fun s p =>
    setRail (setCause (setVfab (setVcore s p 600) p 750) p 0) p RailSt.rst) s

/-- The island discards the kept calibration settings (R39). -/
def dropSettings (s : State) : State :=
  (List.range 32).foldl (fun s c => modCore s c (fun k => { k with keptValid := false, keptDelay := 0, delay := .fused })) s

/-- A draw of the DRBG. -/
def drawKey (s : State) : State := { s with mnt := { s.mnt with draws := s.mnt.draws + 1 } }

/-- A memory key, named by its draw, goes into slot `k` of Panel `p`; 0 is no key. -/
def setKey (s : State) (p k n : Nat) : State :=
  { s with mem := { s.mem with slotKey := tabSet (fun _ => 0) s.mem.slotKey (2 * p + k) n } }

/-- A fresh memory key in slot 0 of Panel `p`, no key in slot 1 (15_mantle_cloak.md R411, R416). -/
def freshSlots (s : State) (p : Nat) : State :=
  let s := drawKey s
  wrF (setKey (setKey s p 0 s.mnt.draws) p 1 0) (reg (pgCry p) R_CRY_STATUS) 2 0 0

/-- Fresh memory keys in slot 0 of every Panel, every region on slot 0. -/
def freshMemory (s : State) : State :=
  let s := (List.range 4).foldl freshSlots s
  { s with mem := { s.mem with epoch := [] } }

/-- Steps 1 and 2 of Table: Power-up sequence: a Mantle image verifies or NO_IMAGE stops the sequence; fuses, entropy test, and a memory key in
slot 0 of each Panel with every epoch table cleared. -/
def mantleStart (s : State) : State :=
  let t := tabGet (fun _ => FwSlots.rst) s.mnt.fw 0
  if !(t.a.ok || t.b.ok) then alertOn (setPwr s (fun q => { q with phase := 1 }))
  else
    let use := if (if t.useB then t.b.ok else t.a.ok) then t.useB else !t.useB
    let s := { s with mnt := { s.mnt with fw := tabSet (fun _ => FwSlots.rst) s.mnt.fw 0 { t with useB := use } } }
    let s := freshMemory s
    let s := if s.mnt.scrubOwed then wrF s (reg (pgMnt 0) R_MNT_STATUS) 9 8 2 else s
    setPwr s (fun q => { q with phase := 3 })
/-- Step 4: the fabric domains at 0.75 V with the Seams, service firmware, PD_48 (R429). -/
def powerStep4 (s : State) : State :=
  let s := seedRails s
  let s := [44, 45, 46, 47, 48].foldl domBring s
  setPwr s (fun q => { q with phase := 4 })

/-- STANDBY_POWER_ON: PD_49 leaves reset, with the counters of its Hems cleared (02_handshake_time.md R45). -/
def execStandbyPowerOn (s : State) : Out :=
  .next (if s.pwr.phase ≠ 0 then s
    else mantleStart ([29, 30, 31, 32].foldl (fun s h => wr s (reg (pgHem h) R_HEM_REFCNT) 0) s))

/-- STANDBY_POWER_LOSS: the standby converter stops; only the fuses, the Mantle flash (firmware, records, coefficients) and the level of RESET_N
outlast it, and a scrub still owed (R25, R416, R488). -/
def standbyLoss (s : State) : State :=
  let r := State.reset
  { r with
    pending := s.pending, trace := s.trace, wire := s.wire, ticks := s.ticks, free := s.free, portCoef := s.portCoef, hellos := s.hellos,
    stepMsgs := s.stepMsgs,
    regs := s.regs.filter (fun e => e.1 % 4096 == R_OPE_POS_MAP && (e.1 / 4096 / 1024 == 1 && decide (e.1 / 4096 % 1024 < 32))),
    pwr := { PwrSt.rst with resetHeld := s.pwr.resetHeld },
    cp := { CpSt.rst with wire := s.cp.wire },
    mnt := { MntSt.rst with draws := s.mnt.draws, scrubOwed := s.mnt.scrubOwed || rdF s (reg (pgMnt 0) R_MNT_STATUS) 9 8 == 2,
                            flash := s.mnt.flash, fw := s.mnt.fw, fuses := s.mnt.fuses } }

def execStandbyPowerLoss (s : State) : Out := .next (standbyLoss s)

/-- MAIN_POWER_GOOD: the input has held 46.0 V for 10 ms. Step 4 starts unless RESET_N holds it (R489, R497). -/
def execMainPowerGood (s : State) : Out :=
  .next (if s.pwr.phase = 0 ∨ s.pwr.mainGood then s
    else
      let s := alertSettle (setPwr s (fun q => { q with mainGood := true, inputLow := false }))
      if s.pwr.phase = 3 ∧ !s.pwr.resetHeld then powerStep4 s else s)

/-- CP_TRAIN_DONE: the control port is UP and sends a HELLO. At power-up that ends step 4: PWR_GOOD is released, step 5 switches on PD_32 to PD_43
and core 8p of each Panel at SAFE, and sets REDUCED_SERVICE (R429, R444, R498). -/
def cpTrainDone (s : State) : State :=
  let k := reg pgCp R_CP_STATUS
  if !domOn s 48 ∨ !rdB s k 1 then s
  else
    let s := cpHello (wrB (wrB s k 1 false) k 0 true)
    if s.pwr.phase = 4 ∧ !s.pwr.tripped then
      let s := setPwr s (fun q => { q with pwrGood := true, phase := 6 })
      let s := ((List.range 12).map (fun i => 32 + i) ++ [0, 8, 16, 24]).foldl domBring s
      setReduced s true
    else s
where
  /-- The module's HELLO: RESTART in the first one after the port's reset, then the next SEQ and ACK_SEQ of each class (R445). -/
  cpHello (s : State) : State :=
    let st := fun c => tabGet (fun _ => CpStream.rst) s.cp.streams c
    let pay := (List.range 3).foldl (fun l c => l ++ valBytes 8 (st c).next ++ valBytes 8 (st c).ack) []
    let f : CpFrame := ⟨0, 2, 0, if s.cp.restart then 1 else 0, 48, 0, 0, 0, pay⟩
    bump (cpPut { s with cp := { s.cp with restart := false, helloed := s.cp.restart } } f) pgCp R_CP_TX_FRAME_CNT

def execCpTrainDone (s : State) : Out := .next (cpTrainDone s)

/-- The conditions under which REDUCED_SERVICE clears (R432); the repairs reapplied are the firmware's before it rings. -/
def fullService (s : State) : Bool :=
  (List.range 32).all (fun c => domState s c == 0 || rdB s (kCore c R_DL_STATUS) 0)
  && (List.range 8).all (fun st => rdF s (reg (pgHbm st) R_HBM_STATUS) 1 0 == 2
      || (rdB s (reg (pgHbm st) R_BLK_ERR_LOG) 63 && rdF s (reg (pgHbm st) R_BLK_ERR_LOG) 15 0 == 0x205))
  && (List.range 4).all (fun n => rdB s (reg (pgSeam n) R_SEAM_STATUS) 0)
  && (List.range 16).all (fun p => !rdB s (kPort p R_LINK_CTL) 0 || [2, 4, 5].contains (portState s p))

/-- REDUCED_SERVICE_EXIT: Mantle Button 12 is pending. -/
def reducedExit (s : State) : State :=
  if !rdB s (reg (pgBtn 0xF0) R_BTN_PEND) 12 then s
  else
    let s := mntBtnClear s 12
    if !reducedService s then s
    else if fullService s then setReduced (setPwr s (fun q => { q with phase := if q.phase = 6 then 7 else q.phase })) false
    else ringBtn s 0x40 30 true

def execReducedServiceExit (s : State) : Out := .next (reducedExit s)

/-- INPUT_LOW: the input has stayed below 45.0 V for 100 us while main power is good: PD_00 to PD_48 go OFF and HBM loses its contents (R489). -/
def inputLow (s : State) : State :=
  if !s.pwr.mainGood then s
  else
    let s := endTransitions ((List.range 49).foldl domOff s)
    let s := setReduced (dropSettings s) false
    let m := dropBytes s.mem 0 0x8000000000
    let s := { s with mem := { m with keyOf := [], wasOff := [] } }
    alertOn (setPwr s (fun q => { q with mainGood := false, inputLow := true, pwrGood := false, phase := min q.phase 3 }))

def execInputLow (s : State) : Out := .next (inputLow s)

/-- RESET_N takes every domain but PD_49 OFF at once, with what a domain reset does to it; the memory's record of what was off is spent. -/
def domsOff (s : State) : State :=
  let s := endTransitions ((List.range 49).foldl (fun s d => setState (domReset s d) d 3) s)
  { s with mem := { s.mem with wasOff := [] } }

/-- RESET_N takes effect: PD_00 to PD_48 are held in reset, the kept settings are discarded, PWR_GOOD falls and TRIP clears (R39, R430, R497, R499).
HBM keeps its contents (R271). -/
def resetAssert (s : State) : State :=
  if s.pwr.resetHeld then s
  else
    let s := alertSettle (setPwr s (fun q => { q with resetHeld := true, tripped := false, pwrGood := false }))
    if s.pwr.phase < 4 then s
    else
      setPwr (setReduced (dropSettings (domsOff s)) false) (fun q => { q with phase := 3 })

def execResetNAssert (s : State) : Out := .next (resetAssert s)

/-- RESET_N is released: the sequence repeats from step 4 (R430). -/
def execResetNRelease (s : State) : Out :=
  .next (if !s.pwr.resetHeld then s
    else
      let s := setPwr s (fun q => { q with resetHeld := false })
      if s.pwr.phase = 3 ∧ s.pwr.mainGood then powerStep4 s else s)

/-! ## The loops (R438 to R442) -/

/-- Do the loops of Panel `p` act: the rails are up. -/
def railsUp (s : State) (p : Nat) : Bool := decide (4 ≤ s.pwr.phase) && domOn s (44 + p) && !s.pwr.tripped

/-- RATE_LOOP_TICK: `measured` is the step rate, in units of 100 k steps/s, of the lowest-numbered calibrated core of the Panel. Target 0 selects
SAFE (R438). -/
def rateTick (s : State) (p measured : Nat) : State :=
  let r := railOf s p
  let t := 100 * rdF s (reg (pgPwr p) R_PWR_RATE_TARGET) 7 0
  if !railsUp s p ∨ vcore s p < r.want ∨ r.crit ≠ []
    ∨ !(List.range 8).any (fun i => domOn s (8 * p + i) && rdB s (kCore (8 * p + i) R_DL_STATUS) 0) then s
  else
    let move := fun (w : Nat) => setVcore (setRail s p { r with want := w }) p w
    if t = 0 then (if 600 < r.want then move (r.want - 5) else s)
    else if measured * 100 < t * 99 ∧ r.want < 850 then move (r.want + 5)
    else if t * 102 < measured * 100 ∧ 600 < r.want then move (r.want - 5)
    else s

def execRateLoopTick (p : Panel) (measured : Nat) (s : State) : Out := .next (rateTick s p measured)

/-- THERMAL_TRIP: PD_00 to PD_47 go OFF; Button 30 of the control port (R441, R498). -/
def thermalTrip (s : State) : State :=
  let s := endTransitions ((List.range 48).foldl domOff s)
  let s := alertOn (setPwr s (fun q => { q with tripped := true, pwrGood := false }))
  ringBtn s 0x44 30 true

/-- THERMAL_READING: the hottest of island p's 16 sensors (R439, R441). -/
def thermalReading (s : State) (p tj : Nat) : State :=
  if !railsUp s p then s
  else
    let s := wrF s (reg (pgPwr p) R_PWR_STATUS) 39 32 tj
    let throttle := rdF s (reg (pgPwr p) R_PWR_THR_CFG) 7 0
    let now := refcnt s (29 + p)
    if rdF s (reg (pgPwr p) R_PWR_THR_CFG) 15 8 ≤ tj then thermalTrip s
    else if throttle ≤ tj then
      (if 600 < vcore s p then lowerVcore s p 10 1 else if 600 < vfab s p then lowerVfab s p 10 1 else s)
    else if tj + 3 < throttle ∧ (railOf s p).forced ∧ (railOf s p).raised + 1000000 ≤ now then raiseRails s p now
    else s

def execThermalReading (p : Panel) (tj : Byte) (s : State) : Out := .next (thermalReading s p tj.toNat)

/-- The mean of the readings of the last 10 ms. -/
def meanWatts (l : List Nat) : Nat := if l = [] then 0 else l.foldl (· + ·) 0 / l.length

/-- POWER_MEASUREMENT: a reading of the module's input power, with the energy since the last one (R440, R466). -/
def powerReading (s : State) (watts mJ : Nat) : State :=
  if s.pwr.phase = 0 then s
  else
    let l := (watts :: s.pwr.watts).take 100
    let mean := meanWatts l
    let limit := rdF s (reg (pgPwr 0) R_PWR_MODULE) 43 32
    let high := decide (limit * l.length < l.foldl (· + ·) 0)
    let s := setPwr s (fun q => { q with watts := l, overPower := high || decide (2000 < watts) })
    let s := if domOn s 44 then bumpN (wrF s (reg (pgPwr 0) R_PWR_MODULE) 11 0 (min mean 4095)) (pgPwr 0) R_PWR_ENERGY_CNT mJ else s
    let mv := (if high then 5 else 0) + (if 2000 < watts then 50 else 0)
    if mv = 0 then s
    else (List.range 4).foldl (fun s p => if railsUp s p ∧ 600 < vcore s p then lowerVcore s p mv 2 else s) s

def execPowerMeasurement (watts mJ : Nat) (s : State) : Out := .next (powerReading s watts mJ)

end Sys2Proof.Machine
end

