-- ==== Sys2Proof/Machine/Mantle.lean ====
section
/-! DEFINITION. The Mantle's word-Pocket commands: freezing, ports, binding, the job's rights, sessions, keys, rotation, attestation and firmware
update (15_mantle_cloak.md R397 to R428; 16_bringup_service.md R447, R455, R456, R464). -/
namespace Sys2Proof.Machine

/-! ## Taking a command (R405) -/

/-- Change the Mantle's state. -/
def setMnt (s : State) (f : MntSt → MntSt) : State := { s with mnt := f s.mnt }

/-- The command word in word Pocket `w`. -/
def mntWord (s : State) (w : Nat) : Word := rd s (reg (pgWord w) R_WP_WORD)

/-- Is the command of word Pocket `w` the next one taken, with this OP? Commands are taken in order of GO; one of a word Pocket whose
SESSION_END is not answered waits for that answer. While the clock of island 0's Hem is stopped, what goes to the Mantle waits (02_handshake_time.md R52). -/
def mntNext (s : State) (w op : Nat) : Bool :=
  !hemHeld s 29 && s.mnt.order.head? == some w && bits (mntWord s w) 63 56 == op && (s.mnt.endCmd.all (fun e => e.1 != w))

/-- The Mantle takes the command of word Pocket `w` and performs it; `f` is given the command word. -/
def mntCmd (w : Fin 8) (op : Nat) (s : State) (f : State → Word → State) : Out :=
  .next (if mntNext s w op then mntPump 8 (f (bump (mntTake s w) (pgMnt 0) R_MNT_CMD_CNT) (mntWord s w)) else s)

/-- The answer to command word `v` of word Pocket `w`. -/
def reply (s : State) (w : Nat) (v : Word) (status value : Nat) : State :=
  mntAnswer s w (bits v 63 56) (bits v 55 48) status value

/-! ## Freezing, ports and the log (R404, R406) -/

/-- The STATUS of UNFREEZE of a master. -/
def unfreezeStatus (s : State) (mid : Nat) : Nat :=
  if !isMaster mid ∨ isMantle mid then 4
  else if s.breached.any (fun pg => (pageMids pg).contains mid) then 3 else 0

/-- The control port writes the takes it owes (16_bringup_service.md R446). -/
def cpTakes (s : State) : State :=
  if frozen s 0x44 then s
  else s.cp.owed.foldl (fun s k =>
    if k < 512 then guardWrite s 0x44 (pgPocket k) R_PKT_TAKE 1 (fun s => pktTakeWrite s k)
    else guardWrite s 0x44 (pgWord (k - 512)) R_WP_TAKE 1 (fun s => wpTakeWrite s (k - 512))) { s with cp := { s.cp with owed := [] } }

/-- End a master's freeze: its bit, FROZEN unless the page's other master is frozen too, the wakes its core kept (R240), the contexts that waited on
its stream engine's closed queue (06_control_core.md R147), Button 28. -/
def unfreezeMid (s : State) (mid : Nat) : State :=
  if !frozen s mid then s
  else
    let s := setFrozenBit s mid false
    let s := match midPage mid with
      | some pg => if (pageMids pg).any (frozen s) then s else wrB s (reg pg R_BLK_STAT) 1 false
      | none => s
    let s := if mid < 0x20 then thawWakes s mid else if mid < 0x40 then settle s (mid - 0x20) else if mid = 0x44 then cpTakes s else s
    ringBtn s (0x40 + midPanel mid) 28 true

def execUnfreeze (w : Fin 8) (s : State) : Out :=
  mntCmd w 0x01 s (fun s v =>
    let st := unfreezeStatus s (bits v 7 0)
    reply (if st = 0 then unfreezeMid s (bits v 7 0) else s) w v st 0)

/-- End the freeze of a partner's ingress context. -/
def unfreezePtr (s : State) (e : Nat) : State :=
  if !ptrFrozen s e then s else ringBtn (wrB s (kPtr e R_PTR_STATE) 3 false) (0x40 + ptrPanel e) 28 true

def execUnfreezePartner (w : Fin 8) (s : State) : Out :=
  mntCmd w 0x02 s (fun s v =>
    let e := bits v 11 0
    if !ptrValid s e then reply s w v 4 0
    else if s.breached.contains (pgLink (ptrPanel e)) then reply s w v 3 0
    else reply (unfreezePtr s e) w v 0 0)

/-- The ports of a mask. -/
def maskPorts (v : Word) : List Nat := (List.range 16).filter (fun p => bitAt v p)

/-- ENABLE of a port goes to 0 and stays there (R406). -/
def disablePort (s : State) (p : Nat) : State :=
  let s := { s with portDisabled := if s.portDisabled.contains p then s.portDisabled else s.portDisabled ++ [p] }
  let was := rdB s (kPort p R_LINK_CTL) 0
  let s := wrB s (kPort p R_LINK_CTL) 0 false
  if was then portTo s p 0 else s

def execPortDisable (w : Fin 8) (s : State) : Out :=
  mntCmd w 0x03 s (fun s v => reply ((maskPorts v).foldl disablePort s) w v 0 0)

def execPortRelease (w : Fin 8) (s : State) : Out :=
  mntCmd w 0x04 s (fun s v =>
    reply { s with portDisabled := s.portDisabled.filter (fun p => !bitAt v p) } w v 0 0)

def execLogClear (w : Fin 8) (s : State) : Out :=
  mntCmd w 0x05 s (fun s v =>
    reply ((List.range 16).foldl (fun s i => wrB s (reg (pgMnt 0) (R_MNT_VIOL_LOG_word_0 + 16 * i)) 63 false) s) w v 0 0)

/-- Is every context of every core IDLE? -/
def allIdle (s : State) : Bool := (List.range 256).all (fun i => (ctxOf s (i / 8) (i % 8)).st == .idle)

def execBindUnlock (w : Fin 8) (s : State) : Out :=
  mntCmd w 0x06 s (fun s v =>
    if !allIdle s then reply s w v 3 0 else reply (wrB s (reg (pgBind 0) R_PKT_LOCK) 0 false) w v 0 0)

/-! ## The job's rights (R399, R400, R480) -/

/-- The write windows of an access section. -/
def setWindows (s : State) (acc : List Byte) : State :=
  (List.range 32).foldl (fun s w =>
    let k := reg (pgMnt 0) (R_MNT_WIN_word_0 + 16 * w)
    wr (wr s k (w64 (leAt acc (16 * w) 8))) (k + 8) (w64 (leAt acc (16 * w + 8) 8) &&& ~~~ maskHL 11 1)) s

/-- The owners of an access section. -/
def setOwners (s : State) (acc : List Byte) : State :=
  (wordRecs 16 (acc.drop 512)).foldl (fun s r =>
    match regionOf (nth 0 r 0) with
    | .mmio pg => if ownerSettable (nth 0 r 0) then wr s (reg pg R_BLK_OWNER) (w64 (nth 0 r 1 % 256)) else s
    | _ => s) s

def execJobArm (w : Fin 8) (s : State) : Out :=
  mntCmd w 0x08 s (fun s v =>
    match s.mnt.job with
    | none => reply s w v 3 0
    | some j =>
      let s := match j.access with
        | some acc => setOwners (setWindows s acc) acc
        | none => s
      let s := if rdB s (reg (pgMnt 0) R_MNT_STATUS) 14 then report s 6 0 else s
      reply (setMnt s (fun m => { m with armed := true })) w v 0 0)

/-! ## Sessions and keys (R407 to R416) -/

abbrev kMnt (off : Nat) : Nat := reg (pgMnt 0) off
/-- MNT_STATUS.SESSION: 0 NONE, 1 OPEN, 2 ENDING. -/
def session (s : State) : Nat := rdF s (kMnt R_MNT_STATUS) 9 8
def rngFail (s : State) : Bool := rdB s (kMnt R_MNT_STATUS) 15
def setStat (s : State) (b : Nat) (v : Bool) : State := wrB s (kMnt R_MNT_STATUS) b v
def setSession (s : State) (n : Nat) : State := wrF s (kMnt R_MNT_STATUS) 9 8 n
def epochCount (s : State) (p : Nat) : Nat := rdF s (reg (pgCry p) R_CRY_EPOCH_COUNT) 16 0

/-- A rotation that runs is abandoned: the regions not yet swept are counted (R421). -/
def abandonSweep (s : State) : State :=
  let one := fun (s : State) (p : Nat) =>
    let n := epochCount s p
    let k := reg (pgCry p) R_CRY_EPOCH_ABANDON
    wr (wr (wr s k (rd s k + w64 n)) (reg (pgCry p) R_CRY_EPOCH_COUNT) 0) (reg (pgCry p) R_CRY_SWEEP_POS) 0
  setStat ((List.range 4).foldl one s) 13 false

/-- The STATUS of SESSION_OPEN. -/
def openStatus (s : State) : Nat :=
  if session s ≠ 0 then 3 else if rdB s (kMnt R_MNT_STATUS) 13 then 5 else if rngFail s then 7 else 0

/-- SESSION_OPEN (R411). -/
def sessionOpen (s : State) (cloak : Bool) : State :=
  let s := drawKey s
  let s := setMnt s (fun m => { m with sessionKey := some m.draws, imageKey := none, job := none, armed := false })
  let s := wr s (kMnt R_MNT_SESSION_SEQ) (rd s (kMnt R_MNT_SESSION_SEQ) + 1)
  let s := freshMemory s
  setSession (setStat (setStat { s with linkSecret := 0 } 14 true) 0 cloak) 1

def execSessionOpen (w : Fin 8) (s : State) : Out :=
  mntCmd w 0x10 s (fun s v =>
    let st := openStatus s
    if st ≠ 0 then reply s w v st 0
    else
      let s := sessionOpen s (bitAt v 0)
      reply s w v 0 (rd s (kMnt R_MNT_SESSION_SEQ)).toNat)

/-- The first `n` bytes at offset 0x100 of the request buffer page. -/
def reqBytes (s : State) (n : Nat) : List Byte :=
  ((List.range ((n + 7) / 8)).flatMap (fun i => valBytes 8 (rd s (reg pgMntReq (0x100 + 8 * i))).toNat)).take n

/-- The fleet link secret and the image key in the blob of the request buffer, under the session's private key and MNT_SESSION_SEQ; none where the tag
fails (R412). The unwrapping is an uninterpreted function (log entry 8). -/
def keyBlob (s : State) : Option (BitVec 256 × BitVec 256) :=
  s.mnt.sessionKey.bind (fun k => Config.unwrapKeys k (rd s (kMnt R_MNT_SESSION_SEQ)).toNat (reqBytes s 213))

/-- The STATUS of KEY_LOAD of `n` bytes. -/
def keyLoadStatus (s : State) (n : Nat) : Nat :=
  if session s ≠ 1 then 3
  else if n ≠ 213 then 4
  else if keyBlob s = none then 6 else 0

/-- The unwrapped keys are loaded, and KEYLESS clears. -/
def keysLoaded (s : State) : State :=
  match keyBlob s with
  | none => s
  | some b => setStat (setMnt { s with linkSecret := b.1.toNat } (fun m => { m with imageKey := some b.2.toNat })) 14 false

def execKeyLoad (w : Fin 8) (s : State) : Out :=
  mntCmd w 0x11 s (fun s v =>
    let st := keyLoadStatus s (bits v 15 0)
    reply (if st = 0 then keysLoaded s else s) w v st 0)

/-- The deferred ATTEST, if any, is answered with a status (R416, R424). -/
def endAttest (s : State) (status value : Nat) : State :=
  match s.mnt.att with
  | none => s
  | some a => mntAnswer (setStat (setMnt s (fun m => { m with att := none })) 12 false) a.1 0x20 a.2.1 status value

def execSessionEnd (w : Fin 8) (s : State) : Out :=
  mntCmd w 0x12 s (fun s v =>
    if session s ≠ 1 then reply s w v 3 0
    else
      let s := endAttest (setMnt (setSession s 2) (fun m => { m with endCmd := some (w.val, bits v 55 48) })) 3 0
      (List.range 4).foldl (fun s p => ringBtn s (0x40 + p) 29 true) s)

/-- SESSION_SCRUB: service processor `p` resets its cores, writes zero over their stores, its LLC ways and its replay region, and rings Mantle
Button 8 + p (R416 step 2). -/
def scrub (s : State) (p : Nat) : State :=
  if session s ≠ 2 ∨ !domOn s (44 + p) ∨ frozen s (0x40 + p) then s
  else
    let core := fun (s : State) (c : Nat) =>
      if domState s c = 0 then s
      else
        let s := wrF (wrF (domFresh (domReset s c) c) (kDom c) 1 0 3) (kDom c) 11 7 0
        { s with mem := dropBytes s.mem (csBase c + 0x100000) (csBase c + 0x2800000) }
    let s := ((List.range 8).map (fun i => 8 * p + i)).foldl core s
    let n := 512 * rdF s (kLnk p R_LNK_REPLAY_SIZE) 15 0
    let b := rdF s (kLnk p R_LNK_REPLAY_BASE) 63 12 * 4096
    let s := if n ≠ 0 ∧ domOn s (40 + p) then (writeMem s (0x40 + p) b (List.replicate n 0) false).st else s
    let s := if domOn s (32 + p) then
        let ls := (s.mem.llc.filter (fun l => hbmPanel l.1 == p)).map (fun l => l.1)
        let s := ls.foldl llcDrop (writeBackLines s ls)
        { wr s (reg (pgLlc p) R_LLC_WAY_MODE) 0 with mem := dropBytes s.mem (llcBase p) (llcBase p + 0x4000000) }
      else s
    let s := wrB s (reg (pgBtn (0x40 + p)) R_BTN_PEND) 29 false
    guardWrite s (0x40 + p) (pgBtn 0xF0) R_BTN_RING (w64 (2 ^ (8 + p))) (fun s => btnRingWrite s 0xF0 (w64 (2 ^ (8 + p))) false)

def execSessionScrub (p : Panel) (s : State) : Out := .next (scrub s p)

/-- The keys of R416 step 3: every session, link, image and memory key is zeroised, a rotation is abandoned, and a new memory key selected
everywhere. -/
def zeroise (s : State) : State :=
  let s := { s with
    linkSecret := 0,
    partners := (s.partners.map (fun e => (e.1, { e.2 with key := none }))).filter (fun e => e.2 != Partner.rst),
    groups := (s.groups.map (fun g => (g.1, { g.2 with key := none }))).filter (fun g => g.2 != GroupSt.rst) }
  let s := setMnt s (fun m => { m with sessionKey := none, imageKey := none })
  freshMemory (abandonSweep (setStat s 14 true))

/-- The Buttons of the four scrubs. -/
def scrubRung (s : State) : Bool := (List.range 4).all (fun p => rdB s (reg (pgBtn 0xF0) R_BTN_PEND) (8 + p))

/-- The SESSION_END command, if one waits, is answered. -/
def endReply (s : State) (status : Nat) : State :=
  match s.mnt.endCmd with
  | none => s
  | some e => mntPump 8 (mntAnswer (setMnt s (fun m => { m with endCmd := none })) e.1 0x12 e.2 status 0)

/-- SESSION_END_COMPLETE (R416 step 3). -/
def sessionComplete (s : State) : State :=
  if session s ≠ 2 ∨ s.mnt.scrubOwed ∨ !scrubRung s then s
  else
    let s := (List.range 4).foldl (fun s p => mntBtnClear s (8 + p)) s
    let s := zeroise s
    let s := wrB s (reg (pgBind 0) R_PKT_LOCK) 0 false
    let s := setSession (setStat s 0 false) 0
    endReply (setMnt s (fun m => { m with job := none, armed := false })) 0

def execSessionEndComplete (s : State) : Out := .next (sessionComplete s)

/-- SCRUB_FAIL: 100 ms have passed. SESSION stays ENDING and CLOAK stays set until PD_49 is reset and a scrub completes (R416). -/
def scrubFail (s : State) : State :=
  if session s ≠ 2 ∨ s.mnt.endCmd = none ∨ scrubRung s then s
  else endReply (setMnt (zeroise s) (fun m => { m with scrubOwed := true })) 9

def execScrubFail (s : State) : Out := .next (scrubFail s)

/-! ## Rotation (R417 to R421) -/

/-- The STATUS of KEY_ROTATE. -/
def rotateStatus (s : State) : Nat :=
  if (List.range 4).any (fun p => epochCount s p != 0) then 5 else if rngFail s then 7 else 0

/-- A new key into the free slot of Panel `p`; the sweep starts at region 0. -/
def rotatePanel (s : State) (p : Nat) : State :=
  let s := drawKey s
  let k := reg (pgCry p) R_CRY_STATUS
  let new := 1 - rdF s k 1 1
  let s := setKey s p new s.mnt.draws
  let s := wr s k (w64 (5 + 2 * new))
  wr (wr s (reg (pgCry p) R_CRY_EPOCH_COUNT) 65536) (reg (pgCry p) R_CRY_SWEEP_POS) 0

def execKeyRotate (w : Fin 8) (s : State) : Out :=
  mntCmd w 0x13 s (fun s v =>
    let st := rotateStatus s
    if st ≠ 0 then reply s w v st 0
    else reply (setStat ((List.range 4).foldl rotatePanel s) 13 true) w v 0 0)

/-- Region `r` of Panel `p` is done: its bit flips, the count falls, the cursor moves on; the last region ends the Panel's sweep, and the last
Panel the rotation (R418, R419). -/
def regionDone (s : State) (p r : Nat) : State :=
  let st := reg (pgCry p) R_CRY_STATUS
  let i := 65536 * p + r
  let old := tabGet (fun _ => false) s.mem.epoch i
  let s := { s with mem := { s.mem with epoch := tabSet (fun _ => false) s.mem.epoch i (!old) } }
  let n := epochCount s p - 1
  let s := wr s (reg (pgCry p) R_CRY_EPOCH_COUNT) (w64 n)
  let s := wr s (reg (pgCry p) R_CRY_SWEEP_POS) (w64 ((r + 1) % 65536 * 65536))
  if n ≠ 0 then s
  else
    let s := wrF (wrF (setKey s p (1 - rdF s st 1 1) 0) st 2 2 0) st 0 0 0
    if (List.range 4).all (fun q => epochCount s q == 0) then ringBtn (setStat s 13 false) 0x40 29 true else s

/-- The granule at `a` read, written under the new key, and counted (R481). -/
def sweepCopy (s : State) (p a : Nat) : State :=
  let x := granRead s a
  let m := putCells x.1.mem a x.2.1
  let new := tabGet (fun _ => 0) m.slotKey (2 * p + rdF s (reg (pgCry p) R_CRY_STATUS) 1 1)
  let m := setPoison (clearBad { m with keyOf := tabSet (fun _ => 0) m.keyOf (a / 64) new } a 64) a x.2.2
  bumpN (bumpN { x.1 with mem := m } (pgHbm (hbmStack a)) R_HBM_WR_BYTES_CNT 64) (pgCry p) R_CRY_SWEEP_BYTES_CNT 64

/-- One step of Panel `p`'s sweep. -/
def sweepStep (s : State) (p : Nat) : State :=
  let pos := reg (pgCry p) R_CRY_SWEEP_POS
  let r := rdF s pos 31 16
  let g := rdF s pos 14 0
  let a := p * 2 ^ 37 + r * 2 ^ 21 + 64 * g
  if !rdB s (reg (pgCry p) R_CRY_STATUS) 0 ∨ !domOn s (44 + p) ∨ !hbmUp s a ∨ memWaits s a ∨ s.breached.contains (pgCry p) then s
  else if retired s a then regionDone s p r
  else
    let s := wrF (sweepCopy s p a) pos 14 0 (min 32767 (g + 1))
    if g = 32767 then regionDone s p r else s

def execKeySweepGranule (p : Panel) (s : State) : Out := .next (sweepStep s p)

/-! ## Attestation (R422 to R426) -/

/-- A measurement entry (R423). -/
def entryBytes (id st : Nat) (d : BitVec 512) (ver : Nat) : List Byte :=
  valBytes 2 id ++ valBytes 1 st ++ List.replicate 5 0 ++ valBytes 64 (if st = 0 then d.toNat else 0) ++ valBytes 8 ver

/-- STATE of an entry: 0 MEASURED, 1 NOT_MEASURED, 2 ABSENT (R423, R425). A core's microcode is ABSENT only where the core is offlined, a service firmware where
it is not loaded. -/
def entryState (s : State) (id : Nat) : Nat :=
  if id = 1 then 0
  else if id = 38 then (if s.mnt.job.isSome then 0 else 2)
  else
    let d := if id < 6 then 42 + id else id - 6
    if domState s d = 3 then 1
    else if s.mnt.loaded.contains id then
      (if s.mnt.upd.any (fun u => u.target == 2 && 6 + u.inst == id) then 1 else 0)
    else if 6 ≤ id ∧ domState s d ≠ 0 then 1
    else 2

/-- The image of an entry: digest and version. -/
def entryImage (s : State) (id : Nat) : BitVec 512 × Nat :=
  if id = 38 then (s.mnt.job.elim (0, 0) (fun j => (j.digest, j.version)))
  else
    let i := activeImg s (if id = 1 then 0 else if id < 6 then id - 1 else id + 2)
    (i.digest, i.version)

/-- The certificate up to its signature (Table: Session certificate). -/
def certBody (s : State) (nonce : List Byte) : List Byte :=
  let ids := (List.range 38).map (fun i => i + 1)
  let flags := (if cloaked s then 1 else 0) + (if rdB s (kMnt R_MNT_STATUS) 14 then 2 else 0)
    + (if ids.any (fun i => entryState s i == 1) then 4 else 0)
  valBytes 8 (1 + 0x0D50 * 2 ^ 16 + 38 * 2 ^ 32 + flags * 2 ^ 40)
    ++ valBytes 8 (rd s (kMnt R_MNT_LOT_CLASS)).toNat
    ++ valBytes 8 (rd s (kMnt R_MNT_SESSION_SEQ)).toNat
    ++ valBytes 8 (rdF s (kCore 0 R_OPE_POS_MAP) 49 40)
    ++ nonce.take 64
    ++ (match s.mnt.sessionKey with
        | some n => ((Config.publicPoint (Config.drbg n)) ++ List.replicate 133 0).take 133
        | none => List.replicate 133 0) ++ List.replicate 3 0
    ++ ids.flatMap (fun i => entryBytes i (entryState s i) (entryImage s i).1 (if entryState s i = 0 then (entryImage s i).2 else 0))

/-- The certificate is written to the certificate page. -/
def issueCert (s : State) (nonce : List Byte) : State :=
  let b := certBody s nonce
  let s := drawKey s
  let c := b ++ ((Config.attestSign b s.mnt.draws) ++ List.replicate 132 0).take 132 ++ List.replicate 4 0
  let s := (List.range 426).foldl (fun s i => wr s (reg pgMntCert (0x100 + 8 * i)) (w64 (leAt c (8 * i) 8))) s
  bump s (pgMnt 0) R_MNT_ATTEST_CNT

/-- The 64-byte nonce in the request buffer. -/
def reqNonce (s : State) : List Byte := reqBytes s 64

def execAttest (w : Fin 8) (s : State) : Out :=
  mntCmd w 0x20 s (fun s v =>
    if session s ≠ 1 then reply s w v 3 0
    else if s.mnt.att.isSome then reply s w v 8 0
    else if s.mnt.upd.isSome then
      reply (setStat (setMnt s (fun m => { m with att := some (w.val, bits v 55 48, reqNonce s) })) 12 true) w v 1 0
    else reply (issueCert s (reqNonce s)) w v 0 0x0D50)

/-- A deferral ends: the certificate is issued and READY answered (R424). -/
def readyAttest (s : State) : State :=
  match s.mnt.att with
  | none => s
  | some a => endAttest (issueCert s a.2.2) 2 0x0D50

/-- RNG_HEALTH_FAIL (R407). -/
def execRngHealthFail (s : State) : Out := .next (if s.pwr.phase = 0 then s else setStat s 15 true)

/-! ## Firmware (R455, R456) -/

/-- The firmware that TARGET and INSTANCE name: 0 Mantle, 1 + p service, 8 + c microcode. -/
def fwIndex (target inst : Nat) : Option Nat :=
  if target = 0 then some 0
  else if target = 1 ∧ inst < 4 then some (1 + inst)
  else if target = 2 ∧ inst < 32 then some (8 + inst) else none

/-- Write an image to the inactive slot. -/
def toInactive (s : State) (f : Nat) (i : FwImg) : State :=
  let t := tabGet (fun _ => FwSlots.rst) s.mnt.fw f
  setMnt s (fun m => { m with fw := tabSet (fun _ => FwSlots.rst) m.fw f (if t.useB then { t with a := i } else { t with b := i }) })

def setUpdate (s : State) (n : Nat) : State := wrF s (kMnt R_MNT_STATUS) 19 16 n

def execFwUpdate (w : Fin 8) (s : State) : Out :=
  mntCmd w 0x30 s (fun s v =>
    let t := bits v 47 40
    let n := bits v 39 32
    match fwIndex t n with
    | none => reply s w v 4 0
    | some f =>
      if s.mnt.upd.isSome then reply s w v 8 0
      else if t = 2 ∧ !coreDrained s n then reply s w v 3 0
      else
        let r := readStaged s (bits v 31 0 * 4096)
        match firmwareOf r.2 with
        | none => reply r.1 w v 6 0
        | some i =>
          let s := setUpdate (toInactive r.1 f i) (t + 1)
          reply (setMnt s (fun m => { m with upd := some ⟨t, n, i, w.val, bits v 55 48⟩ })) w v 0 0)

/-- The update ends; a deferred ATTEST is answered with what is then active. -/
def endUpdate (s : State) : State := readyAttest (setUpdate (setMnt s (fun m => { m with upd := none })) 0)

/-- FW_ACTIVATE: at the drain point of Table: Live update the new image is active and measured. -/
def fwActivate (s : State) : State :=
  match s.mnt.upd with
  | none => s
  | some u =>
    if u.target = 2 ∧ !coreDrained s u.inst then s
    else match fwIndex u.target u.inst with
      | none => s
      | some f =>
        let t := tabGet (fun _ => FwSlots.rst) s.mnt.fw f
        let s := setMnt s (fun m => { m with fw := tabSet (fun _ => FwSlots.rst) m.fw f { t with useB := !t.useB } })
        let s := if u.target = 1 ∧ domOn s (44 + u.inst) then bootFw s u.inst
          else if u.target = 2 ∧ domOn s u.inst then loadFw s (8 + u.inst) (6 + u.inst) else s
        endUpdate s

def execFwActivate (s : State) : Out := .next (fwActivate s)

/-- FW_START_TIMEOUT: the image has not started in its new slot within 1 s; the previous slot stays active and AUTH_FAIL is answered on the
command's word Pocket. -/
def execFwStartTimeout (s : State) : Out :=
  .next (match s.mnt.upd with
    | none => s
    | some u => endUpdate (mntAnswer s u.w 0x30 u.seq 6 0))

def execFwAbort (w : Fin 8) (s : State) : Out :=
  mntCmd w 0x31 s (fun s v => if s.mnt.upd = none then reply s w v 3 0 else endUpdate (reply s w v 0 0))

/-! ## Fuses and flash records (R447, R464) -/

/-- The page and the number of Darn entries of a block: core, or 0x80 + slice. -/
def darnBlock (i : Nat) : Option (Nat × Nat × Nat) :=
  if i < 32 then some (kCore i R_DARN, 128, 32)
  else if 0x80 ≤ i ∧ i < 0x84 then some (reg (pgLlc (i - 0x80)) R_LLC_DARN, 64, 16) else none

/-- The valid Darn entries of a block. -/
def validDarns (s : State) (k n : Nat) : List Word := ((List.range n).map (fun j => rd s (k + 8 * j))).filter (fun v => bitAt v 63)

/-- The fuse repairs that a command would leave: the block's valid entries beside those already burnt. -/
def burn (old : List (Nat × Word)) (i : Nat) (vs : List Word) : List (Nat × Word) :=
  old ++ (vs.filter (fun v => !old.contains (i, v))).map (fun v => (i, v))

def execFuseDarn (w : Fin 8) (s : State) : Out :=
  mntCmd w 0x34 s (fun s v =>
    let i := bits v 39 32
    if !reducedService s then reply s w v 3 0
    else match darnBlock i with
      | none => reply s w v 4 0
      | some b =>
        let f := burn s.mnt.fuses i (validDarns s b.1 b.2.1)
        if b.2.2 < (f.filter (fun x => x.1 == i)).length then reply s w v 4 0
        else reply (setMnt s (fun m => { m with fuses := f })) w v 0 0)

/-- FLASH_RECORD: the Mantle takes the record on Pocket 2 + p; a full flash does not store it and rings ABORT_BTN (R447). -/
def flashRecord (s : State) (p : Nat) : State :=
  let k := 2 + p
  if !pktOn s k ∨ hemHeld s 29 ∨ !pktGo s k ∨ !pktValid s k ∨ pktReceiver s k ≠ 0xF0 then s
  else
    let ws := pktWords s k 16
    let s := mntBtnClear s (16 + p)
    let s := guardWrite s 0xF0 (pgPocket k) R_PKT_TAKE 1 (fun s => pktTakeWrite s k)
    if s.mnt.flash.length < 4096 then setMnt s (fun m => { m with flash := m.flash ++ [ws] })
    else ringBtn s (pktSender s k) (bits (pktBind s k) 36 32) true

def execFlashRecord (p : Panel) (s : State) : Out := .next (flashRecord s p)

end Sys2Proof.Machine
end

