-- ==== Sys2Proof/Machine/Registers.lean ====
section
/-! DEFINITION. Reads and writes of registers, and the commands over them (00_scope.md R9 to R11; 17_register_pages.md R470 to R484, R506;
the register tables of every chapter). -/
namespace Sys2Proof.Machine

/-! ## Registers that show state held elsewhere -/

/-- The sum of `2 ^ i` over the numbers below `n` that `p` accepts. -/
def bitSet (n : Nat) (p : Nat → Bool) : Nat := (List.range n).foldl (fun a i => if p i then a + 2 ^ i else a) 0

/-- The sum of a count over the numbers below `n`. -/
def sumUpTo (n : Nat) (f : Nat → Nat) : Nat := (List.range n).foldl (fun a i => a + f i) 0

/-- Code of Table: Context states; HALTED stands over the state beneath. -/
def ctxCode (k : Ctx) : Nat :=
  if k.halted then 5
  else match k.st with
    | .idle => 0
    | .ready => 1
    | .waitQueue => 2
    | .waitSync => 3
    | .waitLocal => 4
    | .error => 6

/-- CTX_STATUS.WAIT_CAUSE; the wait of a HALT record has no code of its own (log entry 80). -/
def waitCause (k : Ctx) : Nat :=
  if ctxCode k ≠ 4 then 0
  else match k.lw with
    | .fence _ => 1
    | .mem _ => 2
    | .task => 3
    | .refetch => 4
    | _ => 0

def ctxStatus (s : State) (c x : Nat) : Nat :=
  let k := ctxOf s c x
  k.err * 2 ^ 32 + k.depth * 2 ^ 24 + (if k.task.isSome then 2 ^ 16 else 0) + waitCause k * 2 ^ 8 + ctxCode k

def taskStatus (s : State) (c x : Nat) : Nat :=
  let k := ctxOf s c x
  k.taskAbort * 2 ^ 32 + ((coreOf s c).log.countP (fun l => l.ctx == x)) % 2 ^ 16 * 2 ^ 16 + k.taskCause * 2 ^ 8
    + (if k.task.isSome then 1 else 0)

/-- CC_STATUS beside its W1C bit. VEC_BORROW stands while the vector unit's source has failed and the stream engine's, which makes its draws, has not (R162). -/
def ccStatus (s : State) (c : Nat) : Nat :=
  let k := coreOf s c
  bitSet 8 (fun x => (ctxOf s c x).st == .error) * 2 ^ 24 + bitSet 8 (fun x => (ctxOf s c x).halted) * 2 ^ 16
    + bitSet 8 (fun x => ctxCode (ctxOf s c x) != 0) * 2 ^ 8
    + (if k.vecFail && !k.strFail then 4 else 0) + (if logIsFull k then 2 else 0) + (if rdB s (kCore c R_CC_CTL) 0 then 1 else 0)

/-- OPE_STATUS beside its W1C bit. ARRAY_FED shows the arrays fed by the products in their steps, of which there can be more than one (log entry 108). -/
def opeStatus (s : State) (c : Nat) : Nat :=
  let k := coreOf s c
  k.arrFail * 2 ^ 24 + bitSet 8 (latchBusy k) * 2 ^ 16 + bitSet 8 (fun a => k.prods.any (fun r => r.fed.testBit a)) * 2 ^ 8
    + (if k.accOwner.isSome then 16 else 0) + k.accOwner.getD 0

/-- CS_STATUS beside its W1C bits. RUNNING counts the records of which at most 8 run, so not a fired STR.EOS, which EOS_WAIT shows (DEDUCED, log entry 128). -/
def csStatus (s : State) (c : Nat) : Nat :=
  let k := coreOf s c
  let fired := k.strQ.filter (fun q => q.fired)
  k.held.countP (fun r => r.tag != .none) * 2 ^ 16 + fired.countP (fun q => recOp q.word != 0x84) * 2 ^ 8 + (if capBlocked s c then 2 else 0)
    + (if fired.any (fun q => recOp q.word == 0x84) then 1 else 0)

/-- SYNC_WAITx: the record that context `x` waits on. -/
def syncWait (s : State) (c x : Nat) : Nat :=
  let k := ctxOf s c x
  let g := fun (b : Bool) => if b then 2 ^ 16 else 0
  match k.wait with
  | none => 0
  | some w =>
    (match w with
      | .full w => w * 2 ^ 8 + 1
      | .empty w => w * 2 ^ 8 + 2
      | .barrier n b => g b + n * 2 ^ 8 + 3
      | .overrun n b => g b + n * 2 ^ 8 + 4
      | .pocket n => n * 2 ^ 8 + 5
      | .button m => m * 2 ^ 8 + 6) + (if k.wakePending then 16 else 0)

def poolStatus (s : State) (p : Nat) : Nat :=
  (1792 - sharedHeld s p) * 2 ^ 32 + sumUpTo 8 (fun i => (coreOf s (8 * p + i)).held.countP (fun r => r.tag != .none)) * 2 ^ 16

def yokeStatus (s : State) : Nat := s.yokeWaits.length * 2 ^ 16 + s.slots.countP (fun t => t.2.en)

def slotState (s : State) (k : Nat) : Nat :=
  let t := slotOf s k
  (if t.gen then 2 ^ 48 else 0) + slotExpected s k * 2 ^ 32 + t.ahead * 2 ^ 16 + t.arrived

/-- RECV_ASLEEP and RECV_IN_RESET of a Pocket whose entry is valid (09_yoke_pockets.md R255). -/
def pktDown (s : State) (k : Nat) : Nat :=
  let m := pktReceiver s k
  let d := domState s (midDomain m)
  if !pktValid s k then 0 else if d = 0 ∨ d = 3 then 2 else if d = 1 ∨ s.asleep.contains m then 4 else 0

/-- LNK_STATUS: slots that hold frames, slots reserved, frames in the replay region (12_wyist_links.md R327, R332). -/
def lnkStatus (s : State) (p : Nat) : Nat :=
  let es := s.partners.filter (fun e => ptrPanel e.1 == p)
  let gs := s.groups.filter (fun g => grpPanel g.1 == p)
  (es.foldl (fun a e => a + e.2.unacked.length) 0 + retainedSum s p) * 2 ^ 32 + grantSum s p 4096 * 2 ^ 16
    + es.foldl (fun a e => a + e.2.held.length) 0 + gs.foldl (fun a g => a + g.2.held.length) 0

/-- PTR_STATE with STATE and AVAIL. -/
def ptrStatus (s : State) (e : Nat) : Word :=
  let v := setBits (rd s (kPtr e R_PTR_STATE)) 2 0 (ptrStateRead s e)
  if !ptrValid s e then v
  else (List.range 4).foldl (fun v c => setBits v (10 * c + 33) (10 * c + 24) (avail s e c)) v

def grpStatus (s : State) (g : Nat) : Nat :=
  let t := grpOf s g
  t.retained.length * 2 ^ 32 + t.legs.countP (fun l => !l.attached) * 2 ^ 8 + t.legs.countP (fun l => l.attached)

/-- The enabled root group that leg entry `l` belongs to, with the leg's place in it. -/
def legGroup (s : State) (l : Nat) : Option (Nat × Nat) :=
  ((List.range 64).map (fun i => 64 * (l / 1024) + i)).findSome? (fun g =>
    let first := 1024 * (l / 1024) + rdF s (kGrp g R_GRP_CFG) 51 40 % 1024
    if grpValid s g && grpRoot s g && decide (first ≤ l) && decide (l < first + rdF s (kGrp g R_GRP_CFG) 39 32) then some (g, l - first)
    else none)

/-- A leg entry with ATTACHED and LAG. -/
def legStatus (s : State) (l : Nat) : Word :=
  let v := rd s (kLeg l)
  match legGroup s l with
  | none => v
  | some (g, i) => match (grpOf s g).legs[i]? with
    | none => v
    | some z => setBits (setBit v 63 z.attached) 47 16 (legLag (grpOf s g) z)

def collStatus (s : State) (p : Nat) : Word :=
  setBits (setBits (rd s (kColl p R_COLL_STATUS)) 15 8 (collOf s p).length) 7 4 ((collOf s p).countP (fun c => c.started))

/-- OPT_STATUS with PENDING and VOTE_PENDING. -/
def optStatus (s : State) (p : Nat) : Word :=
  let es := shEntries s p
  let n := es.countP (fun k => shLedger s p k != 2)
  setBit (setBits (rd s (kOpt p R_OPT_STATUS)) 28 16 n) 4 (es != [] && n == 0)

/-! ## Reads -/

/-- BLK_ID, BLK_CAP and BLK_POWER (R476, R506, R480). -/
def blkId (page : Nat) : Nat := 2 ^ 32 + pagePanel page * 2 ^ 24 + page
def blkCap (page : Nat) : Nat := classPages (page / 1024) * 2 ^ 32 + (pageRun page).1 * 2 ^ 16 + (pageRun page).2
def blkPower (s : State) (page : Nat) : Nat := domState s (pageDomain page) * 2 ^ 8 + pageDomain page

/-- A header register of a page: a sub-page shows its main page's (R475). -/
def readHdr (s : State) (page off : Nat) : Word :=
  if off = R_BLK_ID then w64 (blkId page)
  else if off = R_BLK_CAP then w64 (blkCap page)
  else if off = R_BLK_OWNER then w64 (ownerOf s page)
  else if off = R_BLK_POWER then w64 (blkPower s page)
  else
    let v := rd s (reg (mainPage page) off)
    match pageKind page with
    | some (.port p) => if off = R_BLK_STAT then setBit v 6 (portState s p != 4) else v
    | _ => v

/-- A block-specific register of a page, as stored or as it shows the state. -/
def readBlock (s : State) (k : PageKind) (page off : Nat) : Word :=
  let v := rd s (reg page off)
  match k with
  | .core c =>
    if off = R_OPE_STATUS then v ||| w64 (opeStatus s c)
    else if off = R_CC_STATUS then v ||| w64 (ccStatus s c)
    else if off = R_TASK_LOG_USED then w64 (coreOf s c).log.length
    else if off = R_CS_STATUS then v ||| w64 (csStatus s c)
    else if R_SYNC_WAIT ≤ off ∧ off < R_SYNC_WAIT + 64 then w64 (syncWait s c ((off - R_SYNC_WAIT) / 8))
    else if R_FB_STATE ≤ off then fbStateWord s c ((off - R_FB_STATE) / 8)
    else v
  | .ctx c x =>
    if off = R_CTX_STATUS then w64 (ctxStatus s c x)
    else if off = R_TASK_STATUS then w64 (taskStatus s c x)
    else if cloaked s ∧ (off < R_CTX_PC ∨ (R_LOOP_PC ≤ off ∧ off < R_TASK_STATUS)) then 0
    else v
  | .tagpool p => if off = R_POOL_STATUS then w64 (poolStatus s p) else v
  | .yoke => if off = R_YOKE_STATUS then w64 (yokeStatus s) else v
  | .yokeSlots k =>
    if (off - R_SLOT_MASK0) % 64 = 0x28 ∧ R_SLOT_MASK0 ≤ off then w64 (slotState s (32 * k + (off - R_SLOT_MASK0) / 64)) else v
  | .pocket k => if off = R_PKT_STATUS then v ||| w64 (pktDown s k) else v
  | .hbm st => if R_HBM_RETIRE ≤ off then rd s (reg (pgHbm (st / 2 * 2)) off) else v
  | .link p => if off = R_LNK_STATUS then w64 (lnkStatus s p) else v
  | .partner k => if (off - 0x800) % 128 = 0x10 ∧ 0x800 ≤ off then ptrStatus s (16 * k + (off - 0x800) / 128) else v
  | .group k => if (off - 0x800) % 64 = 0x18 ∧ 0x800 ≤ off then w64 (grpStatus s (16 * k + (off - 0x800) / 64)) else v
  | .leg k => if 0x800 ≤ off then legStatus s (256 * k + (off - 0x800) / 8) else v
  | .coll p => if off = R_COLL_STATUS then collStatus s p else v
  | .opt p => if off = R_OPT_STATUS then optStatus s p else v
  | .power p => if p = 0 ∧ off = R_PWR_DOMAIN + 8 * 49 then 0x20 else v
  | .mantle _ => if R_MNT_FROZEN ≤ off ∧ off < R_MNT_FROZEN + 32 then rd s (reg (pgMnt 0) off) else v
  | _ => v

/-- What Cloak hides from a reader (15_mantle_cloak.md R414). -/
def cloakHides (s : State) (mid : Nat) (k : PageKind) (off : Nat) : Bool :=
  cloaked s && (match k with
    | .core _ | .coll _ | .opt _ => off == R_NUM_SEED
    | .recov _ => decide (R_REC_DIGEST ≤ off) && decide (off < R_REC_DIGEST + 64)
    | .pocket _ => decide (R_PKT_MSG ≤ off) && decide (off < R_PKT_GO) && ownerOf s (pgBind 0) == mid
    | _ => false)

/-- May a master read a Pocket page (09_yoke_pockets.md R251)? -/
def pocketReader (s : State) (mid k : Nat) : Bool :=
  ownerOf s (pgBind 0) == mid || (pktValid s k && (pktSender s k == mid || pktReceiver s k == mid))

/-- Does a read of a register return its contents, so that its RC fields clear? -/
def readSees (s : State) (mid page off : Nat) : Bool :=
  match pageKind page with
  | none => false
  | some k => pageOn s page && regFlds page off != [] && !cloakHides s mid k off
      && (match k with
        | .pocket n => pocketReader s mid n
        | _ => true)

/-- The value of a read (R472, R473). -/
def regValue (s : State) (mid page off : Nat) : Word :=
  match pageKind page with
  | none => 0
  | some k =>
    if !pageOn s page then
      (if off = R_BLK_ID ∨ off = R_BLK_CAP ∨ off = R_BLK_OWNER ∨ off = R_BLK_POWER then readHdr s page off
       else match k with
        | .core _ => if off = R_OPE_POS_MAP then rd s (reg page off) else 0
        | _ => 0)
    else if !readSees s mid page off then 0
    else if off < 0x100 then readHdr s page off else readBlock s k page off

/-- RC fields clear when read (R9, R481). -/
def readClears (s : State) (mid page off : Nat) : State :=
  if !readSees s mid page off then s
  else
    let m := fldsMask .rc (regFlds page off)
    if m = 0 then s
    else let k := reg (if off < 0x100 then mainPage page else page) off; wr s k (rd s k &&& ~~~ m)

/-- A read of the register at offset `off` of a page (R471, R472). -/
def regRead (s : State) (mid page off : Nat) : State :=
  if off % 8 ≠ 0 ∨ pageKind page = none ∨ cloakDenies s mid false then setResp s .busError
  else
    let v := regValue s mid page off
    let t := readClears s mid page off
    setResp (if pageOn s page then bumpHdr t page R_BLK_RD_CNT else t) (.data v)

/-! ## Writes -/

/-- Do a page's RW and W1C fields act for a master (R9)? -/
def ownsPage (s : State) (mid page : Nat) : Bool :=
  match pageKind page with
  | some (.button m) => mid == m || (isMantle m && isMantle mid)
  | some (.pocket _) | some (.wordPocket _) => true
  | some (.mantle _) | some .mantleCert => isMantle mid
  | some (.hem h) => ownerOf s page == mid || (decide (29 ≤ h) && isMantle mid)
  | some (.binding _) => ownerOf s page == mid || isMantle mid
  | _ => ownerOf s page == mid

/-- A write of a header register. -/
def writeHdr (s : State) (page off : Nat) (v : Word) (own mantle : Bool) : State :=
  if off = R_BLK_OWNER then
    (match pageKind page with
      | some (.pocket _) | some (.wordPocket _) => s
      | _ => fieldWrite s (ownerPage page) off v false mantle)
  else if off = R_BLK_ERR_LOG then
    (if own && bitAt v 63 then wr (wr s (reg (mainPage page) R_BLK_ERR_LOG) 0) (reg (mainPage page) R_BLK_ERR_ADDR) 0 else s)
  else fieldWrite s (mainPage page) off v own mantle

/-- A write in a core page. -/
def writeCore (s : State) (c page off : Nat) (v : Word) (own : Bool) : State :=
  if off = R_DL_CTL then (if bitAt v 0 then recalStart s c else s)
  else if off = R_NUM_CTL then numCtlWrite s page v own
  else if off = R_NUM_STEP then numStepSet s c v
  else if off = R_CC_CTL then ccCtlWrite s c v
  else if off = R_FB_CMD then fbCmdWrite s c v
  else if R_SEG_RETIRED ≤ off ∧ off < R_SEG_RETIRED + 72 then segRetireWrite s page off v
  else if R_DARN ≤ off ∧ off < R_DARN + 1024 then darnWrite s page off v own
  else if off = R_OPE_STATUS ∧ bitAt v 5 then wrB (fieldWrite s page off v own false) (reg page R_OPE_ERR_LOC) 15 false
  else fieldWrite s page off v own false

/-- Registers of a context that a write changes only in IDLE, HALTED or ERROR (06_control_core.md R148). -/
def ctxOnlyStopped (off : Nat) : Bool := decide (off ≤ R_CTX_PC) || off == R_CTX_SEQ || (decide (R_LOOP_PC ≤ off) && decide (off < R_TASK_STATUS))

/-- A write in a context page. -/
def writeCtx (s : State) (c x page off : Nat) (v : Word) (own : Bool) : State :=
  let n := ctxCode (ctxOf s c x)
  if off = R_CTX_CTL then ctxCtlWrite s c x v
  else if ctxOnlyStopped off ∧ n ≠ 0 ∧ n ≠ 5 ∧ n ≠ 6 then s
  else if cloaked s ∧ (off = R_BP_CTL ∨ off = R_BP_CMD_COUNT ∨ off = R_BP_TAG) then s
  else fieldWrite s page off v own false

/-- A write of BTN_MASK: a pending Button that it enables raises the BTN event and wakes an asleep receiver (09_yoke_pockets.md R259). -/
def btnMaskWrite (s : State) (page : Nat) (v : Word) (own : Bool) : State :=
  let was := rd s (reg page R_BTN_MASK)
  let s := fieldWrite s page R_BTN_MASK v own false
  btnWake (if rd s (reg page R_BTN_MASK) &&& ~~~ was &&& rd s (reg page R_BTN_PEND) = 0 then s else wrB s (reg page R_BLK_EVT) 5 true) (page % 1024)

/-- A write in a binding page. -/
def writeBind (s : State) (b page off : Nat) (v : Word) (own mantle : Bool) : State :=
  if off = R_PKT_LOCK ∧ b = 0 then pktLockWrite s v mantle
  else if off = R_PKT_CLEAR ∧ b = 0 then pktClearWrite s (bits v 8 0)
  else fieldWrite s page off v own false

/-- A write in an HBM page. -/
def writeHbm (s : State) (st page off : Nat) (v : Word) (own mantle : Bool) : State :=
  if off = R_HBM_REPAIR_CMD then repairWrite s st v .clean
  else if off = R_HBM_1500_CTL then ieeeWrite s st v own
  else if R_HBM_RETIRE ≤ off then retireWrite s st ((off - R_HBM_RETIRE) / 8) v own
  else if off = R_HBM_CTL then hbmClip (fieldWrite s page off v own false) st
  else fieldWrite s page off v own mantle

/-- A write in an LLC page. -/
def writeLlc (s : State) (p page off : Nat) (v : Word) (own : Bool) : State :=
  if off = R_LLC_WAY_MODE then wayModeWrite s p v
  else if off = R_LLC_CTL then (if bitAt v 0 then flushStart s p else s)
  else if R_LLC_SEG_RETIRED ≤ off ∧ off < R_LLC_SEG_RETIRED + 32 then segRetireWrite s page off v
  else if R_LLC_DARN ≤ off then darnWrite s page off v own
  else fieldWrite s page off v own false

/-- A write in a link block page. The replay region moves only while no entry of the Panel is valid. -/
def writeLink (s : State) (p page off : Nat) (v : Word) (own : Bool) : State :=
  if off = R_LNK_SELF_RANK then selfRankWrite s p v
  else if off = R_PARTNER_CMD then partnerCmdWrite s p v
  else if (off = R_LNK_REPLAY_BASE ∨ off = R_LNK_REPLAY_SIZE) ∧ panelEntries s p ≠ [] then s
  else fieldWrite s page off v own false

/-- A write in a group page: GRP_ADDR only while the group is not valid (12_wyist_links.md R349). -/
def writeGroup (s : State) (k page off : Nat) (v : Word) (own : Bool) : State :=
  let g := 16 * k + (off - 0x800) / 64
  if off < 0x800 then s
  else if (off - 0x800) % 64 = 0 then grpCfgWrite s g v
  else if grpValid s g then s
  else fieldWrite s page off v own false

/-- A write in a power page. -/
def writePower (s : State) (p page off : Nat) (v : Word) (own mantle : Bool) : State :=
  if R_PWR_DOMAIN ≤ off then (if off < R_PWR_DOMAIN + 400 then pwrDomainWrite s p ((off - R_PWR_DOMAIN) / 8) v else s)
  else fieldWrite s page off v own mantle

/-- The effect of a write of a block-specific register that is performed. -/
def writeBlock (s : State) (k : PageKind) (mid page off : Nat) (v : Word) (own mantle : Bool) : State :=
  match k with
  | .core c => writeCore s c page off v own
  | .ctx c x => writeCtx s c x page off v own
  | .tagpool p =>
    if R_WATCH_BASE ≤ off ∧ (off - R_WATCH_BASE) % 0x18 < 16 ∧ off < R_WATCH_BASE + 16 * 0x18 then
      watchWrite s p ((off - R_WATCH_BASE) / 0x18) ((off - R_WATCH_BASE) % 0x18 == 8) v own
    else fieldWrite s page off v own false
  | .yokeSlots b =>
    let slot := 32 * b + (off - R_SLOT_MASK0) / 64
    if (off - R_SLOT_MASK0) % 64 = 0x20 ∧ slot < 32 * b + 32 then slotCtlWrite s slot (bitAt v 0)
    else if (slotOf s slot).en ∧ (off - R_SLOT_MASK0) % 64 < 0x20 then s
    else fieldWrite s page off v own false
  | .pocket n =>
    if off = R_PKT_GO then (if bitAt v 0 then pktGoWrite s n else s)
    else if off = R_PKT_TAKE then (if bitAt v 0 then pktTakeWrite s n else s)
    else fieldWrite s page off v own false
  | .wordPocket w =>
    if off = R_WP_GO then (if bitAt v 0 then wpGoWrite s w else s)
    else if off = R_WP_TAKE then (if bitAt v 0 then wpTakeWrite s w else s)
    else fieldWrite s page off v own false
  | .binding b => writeBind s b page off v own mantle
  | .button m =>
    if off = R_BTN_RING then btnRingWrite s m v mantle
    else if off = R_BTN_MASK then btnMaskWrite s page v own
    else fieldWrite s page off v own false
  | .hbm st => writeHbm s st page off v own mantle
  | .llc p => writeLlc s p page off v own
  | .fabric p => if off = R_ARB_COMMIT then arbCommitWrite s p v else fieldWrite s page off v own false
  | .port p =>
    if off = R_LINK_CTL then linkCtlWrite s p v own
    else if off = R_LINK_MAC then linkMacWrite s p v
    else fieldWrite s page off v own false
  | .link p => writeLink s p page off v own
  | .group b => writeGroup s b page off v own
  | .leg b => if (legGroup s (256 * b + (off - 0x800) / 8)).isSome then s else fieldWrite s page off v own false
  | .coll _ => if off = R_NUM_CTL then numCtlWrite s page v own else fieldWrite s page off v own false
  | .opt p =>
    if off = R_NUM_CTL then numCtlWrite s page v own
    else if off = R_OPT_LOSS then optLossWrite s p v
    else fieldWrite s page off v own false
  | .optShard p b =>
    if 0x800 ≤ off then shardWrite s p (32 * b + (off - 0x800) / 64) (0x800 + (off - 0x800) % 64) v else s
  | .recov p => if off = R_REC_CMD then recCmdWrite s p v else fieldWrite s page off v own false
  | .power p => writePower s p page off v own mantle
  | .bist p => if off = R_BIST_REQ then bistReqWrite s p mid v.toNat else fieldWrite s page off v own mantle
  | _ => fieldWrite s page off v own mantle

/-- The effect of a performed write on the register it names; a write at an offset that holds no register is ignored (R472). -/
def writeReg (s : State) (mid page off : Nat) (v : Word) : State :=
  let own := ownsPage s mid page
  let mantle := isMantle mid
  if regFlds page off = [] then s
  else if off < 0x100 then writeHdr s page off v own mantle
  else match pageKind page with
    | none => s
    | some k => writeBlock s k mid page off v own mantle

/-- A write of a register by a master. -/
def regWrite (s : State) (mid page off : Nat) (v : Word) : State :=
  guardWrite s mid page off v (fun t => writeReg t mid page off v)

/-! ## An access to any address -/

/-- A read of the 64-bit word at `a` by a master. -/
def readWord (s : State) (mid a : Nat) : State :=
  match regionOf a with
  | .mmio page => regRead s mid page (a % 4096)
  | _ =>
    if cloakDenies s mid true then setResp s .busError
    else
    let s := askBanks s (if mid < 0x20 ∧ regionOf a = .data mid ∨ regionOf a = .sync mid then 7 else 8) 0 [(a, a + 8)]
    let r := readMem s a 8 (decide (mid < 0x20)) false
    setResp r.st (if !r.ok then .busError else if r.anyBad then .poison r.bytes else .data (w64 r.val))

/-- A write of a 64-bit word at `a` by a master. -/
def writeWord (s : State) (mid a : Nat) (v : Word) : State :=
  match regionOf a with
  | .mmio page => regWrite s mid page (a % 4096) v
  | _ => let r := writeMem s mid a (valBytes 8 v.toNat) false; setResp r.st r.resp

/-! ## The commands -/

/-- READ_CLEAR: a read of a register; its RC fields clear. -/
def execReadClear (mid : Mid) (addr : Word) (s : State) : Out :=
  .next (match regionOf addr.toNat with
    | .mmio page => if isMaster mid.toNat then regRead s mid.toNat page (addr.toNat % 4096) else s
    | _ => s)

/-- REGISTER_WRITE. -/
def execRegisterWrite (mid : Mid) (addr value : Word) (s : State) : Out :=
  .next (match regionOf addr.toNat with
    | .mmio page => regWrite s mid.toNat page (addr.toNat % 4096) value
    | _ => s)

/-- ACCOUNTING_UE: the block of a page freezes itself (01_module_at_work.md R24). -/
def execAccountingUe (page : Nat) (addr : Word) (s : State) : Out :=
  .next (if pageKind page = none ∨ !pageOn s page then s
    else breach s (mainPage page) (pageMids (mainPage page)) addr)

/-- Must the write of a scalar store in a task be logged first (06_control_core.md R171)? -/
def storeLog (s : State) (c x a : Nat) : State :=
  if inTask s c x then
    let g := a / 64 * 64
    modCore s c (fun k => { k with log := k.log ++ [⟨x, g, (List.range 64).map (fun i => getCell s.mem (g + i))⟩] })
  else s

/-- A scalar access ends: the record completes, or is refused with MEM_ERROR (R208). -/
def scalarEnd (s : State) (c x : Nat) (sd : Option Nat) : State :=
  match s.resp with
  | .busError | .poison _ => refuse s c x 0x0B (ctxPc s c x) (recTag (ctxOf s c x).cur)
  | .data v => execDone (readyCtx (match sd with
      | some n => setScalar s c x n v
      | none => s) c x) c x
  | _ => execDone (readyCtx s c x) c x

/-- SCALAR_ACCESS_RESPONSE: the access of SC.LD or SC.ST is performed and answered. -/
def scalarResponse (s : State) (c x : Nat) : State :=
  match (ctxOf s c x).st, (ctxOf s c x).lw with
  | .waitLocal, .mem (.ld a sd) => if memWaits s a then s else scalarEnd (readWord s c a) c x (some sd)
  | .waitLocal, .mem (.st a v) =>
    if memWaits s a ∨ (inTask s c x ∧ logIsFull (coreOf s c)) then s
    else scalarEnd (writeWord (storeLog s c x a) c a v) c x none
  | _, _ => s

def execScalarAccessResponse (c : Core) (x : CtxId) (s : State) : Out :=
  .next (if domOn s c then scalarResponse s c x else s)

end Sys2Proof.Machine
end

