-- ==== Sys2Proof/Machine/Ingress.lean ====
section
/-! DEFINITION. The operations of accepted frames at the receiver (12_wyist_links.md R322, R326, R347). -/
namespace Sys2Proof.Machine

/-- The master ID that the frames of a port write under. -/
def portMid (p : Nat) : Nat := 0x60 + p

/-- A bus error in a frame's write is counted (R322). -/
def frameBusErr (s : State) (e : Nat) : State :=
  match s.resp with
  | .busError => bump s (pgLink (ptrPanel e)) R_LNK_BUS_ERR_CNT
  | _ => s

/-- The register writes of a WRITE frame into MMIO, in increasing address order; they stop at a violation. -/
def frameWords : Nat → State → Nat → Nat → Nat → List Byte → State
  | 0, s, _, _, _, _ => s
  | n + 1, s, e, mid, a, b =>
    if b = [] then s
    else
      let t := frameBusErr (writeWord s mid a (w64 (bytesVal (b.take 8)))) e
      if t.resp = .violation then t else frameWords n t e mid (a + 8) (b.drop 8)

/-- The write of a WRITE frame of the partner at entry `e`; the answer is left in `resp`. -/
def frameWrite (s : State) (e port : Nat) (f : WFrame) : State :=
  let b := f.payload.take f.len
  let isMmio : Bool := match regionOf f.addr with
    | .mmio _ => true
    | _ => false
  if b = [] then setResp s .ok
  else if isMmio then
    (if f.len % 8 ≠ 0 then frameBusErr (setResp s .busError) e else frameWords (f.len / 8) s e (portMid port) f.addr b)
  else
    let r := writeMem s (portMid port) f.addr b false
    frameBusErr (setResp r.st r.resp) e

/-- Is a frame handed to a collective or recovery engine (R322; the frames of 13_collectives_optimizer.md and log entry 76)? -/
def toEngineMid (f : WFrame) : Option Nat :=
  let m := f.attr % 256
  if f.opc ≠ 1 then none
  else if 0x48 ≤ m ∧ m < 0x4C then some m
  else if 0x50 ≤ m ∧ m < 0x54 ∧ attrKind f.attr < 2 then some m
  else none

/-- Mark a held frame of a stream as handed to an engine. -/
def markHanded (s : State) (src : RxStream) (seq : Nat) : State :=
  let f := fun (l : List RxSlot) (p : RxSlot → Bool) => l.map (fun h => if p h then { h with handed := true } else h)
  match src with
  | .entry e c => modPtr s e (fun q => { q with held := f q.held (fun h => h.f.cls == c && h.f.seq == seq) })
  | .group g => modGrp s g (fun q => { q with held := f q.held (fun h => h.f.seq == seq) })

/-- FRAME_WRITES_START: the next frame of a stream. Nothing of a partner whose ingress context is frozen starts. -/
def frameStart (s : State) (src : RxStream) : State :=
  let e := srcEntry s src
  if !linkUp s (ptrPanel e) ∨ ptrFrozen s e then s
  else match nextRx s src with
    | none => s
    | some h =>
      match toEngineMid h.f with
      | some m => { markHanded s src h.f.seq with toEngine := s.toEngine ++ [⟨m, src, h.f, false⟩] }
      | none =>
        if h.f.opc ≠ 0 then freeSlot s src h.f.seq true
        else if memWaits s h.f.addr ∨ memWaits s (h.f.addr + h.f.len - 1) then s
        else
          let t := frameWrite s e h.port h.f
          if t.resp = .violation then ingressFreeze t src h.f.seq else freeSlot t src h.f.seq true

def execFrameWritesStart (src : RxStream) (s : State) : Out := .next (frameStart s src)

end Sys2Proof.Machine
end

