-- ==== Sys2Proof/Machine/CtlPort.lean ====
section
/-! DEFINITION. The control port: its frames, streams, Pockets, image writes and telemetry (16_bringup_service.md R443 to R446, R467;
15_mantle_cloak.md R403, R414). -/
namespace Sys2Proof.Machine

abbrev kCp (off : Nat) : Nat := reg pgCp off

/-- Is the link of the control port UP, and the port not frozen under R24? -/
def cpUp (s : State) : Bool := domOn s 48 && rdB s (kCp R_CP_STATUS) 0 && !blockHeld s pgCp

def cpStream (s : State) (c : Nat) : CpStream := tabGet (fun _ => CpStream.rst) s.cp.streams c
def setCpStream (s : State) (c : Nat) (v : CpStream) : State :=
  { s with cp := { s.cp with streams := tabSet (fun _ => CpStream.rst) s.cp.streams c v } }

/-- Does the control port receive: its link is UP and the clock of its Hem runs (02_handshake_time.md R52; log entry 125)? -/
def cpHears (s : State) : Bool := cpUp s && !hemHeld s 24

/-- A frame goes onto the fibre. -/
def cpEmit (s : State) (f : CpFrame) : State := bump (cpPut s f) pgCp R_CP_TX_FRAME_CNT

/-- May another DATA frame of a class be sent: 64 unacknowledged frames at most (R444). -/
def cpRoom (s : State) (c : Nat) : Bool := decide ((cpStream s c).unacked.length < 64)

/-- A new DATA frame of a class. -/
def cpSend (s : State) (c opc aux addr : Nat) (payload : List Byte) : State :=
  let st := cpStream s c
  let f : CpFrame := ⟨c, 0, opc, aux, payload.length, st.next, st.ack, addr, payload⟩
  cpEmit (setCpStream s c { st with next := st.next + 1, unacked := st.unacked ++ [(st.next, f)] }) f

/-- An ACK frame of a class. -/
def cpSendAck (s : State) (c : Nat) : State :=
  let st := cpStream s c
  cpEmit (setCpStream s c { st with since := 0 }) ⟨c, 1, 0, 0, 0, 0, st.ack, 0, []⟩

/-- Every unacknowledged frame of a class is sent again with its SEQ. -/
def cpResend (s : State) (c : Nat) : State :=
  let st := cpStream s c
  st.unacked.foldl (fun s q => bump (cpEmit s { q.2 with ackSeq := st.ack }) pgCp R_CP_RETX_CNT) s

/-- A frame of the node's acknowledgement: the take of its Pocket is owed, or the ring's tail moves (R446). -/
def cpAcked (s : State) (f : CpFrame) : State :=
  if f.cls = 0 then
    { s with cp := { s.cp with sending := s.cp.sending.filter (fun k => k != f.aux), owed := s.cp.owed ++ [f.aux] } }
  else if f.cls = 2 ∧ f.opc = 2 then
    let n := rdF s (kCp R_CP_TELE_SIZE) 31 0
    wr s (kCp R_CP_TELE_TAIL) (w64 (if n = 0 then 0 else (f.addr + f.len) % n))
  else s

/-- ACK_SEQ `n` of a class arrives: earlier frames are freed and what waited for their acknowledgement is done. -/
def cpAckIn (s : State) (c n : Nat) : State :=
  let st := cpStream s c
  let gone := st.unacked.filter (fun q => decide (q.1 < n))
  let s := setCpStream s c { st with unacked := st.unacked.filter (fun q => !decide (q.1 < n)) }
  cpTakes (gone.foldl (fun s q => cpAcked s q.2) s)

/-- A DATA frame of class `c` arrives: dropped where its CRC fails or its SEQ is not the next one; performed, counted and, every eighth time,
acknowledged otherwise (R443, R444). -/
def cpReceive (s : State) (c : Nat) (f : CpFrame) (crcOk : Bool) (act : State → State) : State :=
  if !cpHears s then s
  else if !crcOk then bump s pgCp R_CP_CRC_CNT
  else if f.type ≠ 0 ∨ f.cls ≠ c then s
  else
    let s := cpAckIn s c f.ackSeq
    if f.seq ≠ (cpStream s c).ack then bump s pgCp R_CP_SEQ_DROP_CNT
    else
      let s := bump (act s) pgCp R_CP_RX_FRAME_CNT
      let st := cpStream s c
      let s := setCpStream s c { st with ack := st.ack + 1, since := st.since + 1 }
      if 8 ≤ st.since + 1 then cpSendAck s c else s

/-! ## Frames to the module -/

/-- May a POCKET frame write at an address? Frozen, only word Pockets 0 to 7 are (R403). -/
def cpTarget (s : State) (a : Nat) : Bool :=
  match regionOf a with
  | .mmio pg => match pageKind pg with
    | some (.pocket _) | some (.button _) => !frozen s 0x44
    | some (.wordPocket w) => decide (w < 8) || !frozen s 0x44
    | _ => false
  | _ => false

/-- The register writes of a POCKET frame, in increasing address order. -/
def cpWords : Nat → State → Nat → List Byte → State
  | 0, s, _, _ => s
  | n + 1, s, a, b =>
    cpWords n (if cpTarget s a then writeWord s 0x44 a (w64 (bytesVal (b.take 8))) else s) (a + 8) (b.drop 8)

def execCpPocketWrite (f : CpFrame) (crcOk : Bool) (s : State) : Out :=
  .next (cpReceive s 0 f crcOk (fun s => if f.opc = 0 then cpWords ((f.len + 7) / 8) s f.addr f.payload else s))

/-- Must an access to a span of HBM wait? -/
def spanWaits (s : State) (a n : Nat) : Bool := (List.range (n / 64 + 1)).any (fun i => memWaits s (a + min (64 * i) (n - 1)))

/-- An IMAGE frame's write into the staging region; outside it the frame is dropped. -/
def cpStage (s : State) (off : Nat) (b : List Byte) : State :=
  if stageSize s < off + b.length then bump s pgCp R_CP_STAGE_ERR_CNT
  else if b = [] then s
  else let r := writeMem s 0x44 (stageBase s + off) b false; setResp r.st r.resp

def execCpImageWrite (f : CpFrame) (crcOk : Bool) (s : State) : Out :=
  .next (if frozen s 0x44 ∨ (f.addr + f.len ≤ stageSize s ∧ spanWaits s (stageBase s + f.addr) f.len) then s
    else cpReceive s 1 f crcOk (fun s => if f.opc = 0 then cpStage s f.addr (f.payload.take f.len) else s))

/-- Registers read in increasing address order, up to a bus error. -/
def cpRegs : Nat → State → Nat → State × Option (List Byte)
  | 0, s, _ => (s, some [])
  | n + 1, s, a =>
    let s := readWord s 0x44 a
    match s.resp with
    | .data v =>
      let r := cpRegs n s (a + 8)
      (r.1, r.2.map (fun l => valBytes 8 v.toNat ++ l))
    | _ => (s, none)

/-- The bytes a TELEMETRY READ finds, none on a bus error or a read that R414 refuses. -/
def cpRead (s : State) (a n : Nat) : State × Option (List Byte) :=
  if n % 8 ≠ 0 ∨ 4096 < n then (s, none)
  else match regionOf a with
    | .mmio _ => cpRegs (n / 8) s a
    | _ =>
      if cloakDenies s 0x44 true then (s, none)
      else
        let r := readMem s a n false false
        (r.st, if r.ok && !r.anyBad then some r.bytes else none)

/-- The answer to a TELEMETRY READ. -/
def cpAnswer (s : State) (a n : Nat) : State :=
  let r := cpRead s a n
  match r.2 with
  | some b => cpSend r.1 2 1 0 a b
  | none => cpSend r.1 2 1 1 a []

def execCpTelemetryRead (f : CpFrame) (crcOk : Bool) (s : State) : Out :=
  .next (if frozen s 0x44 ∨ !cpRoom s 2 ∨ spanWaits s f.addr (min f.aux 4096) then s
    else cpReceive s 2 f crcOk (fun s => if f.opc = 0 then cpAnswer s f.addr f.aux else s))

/-! ## Frames to the node -/

/-- The message of a Pocket, or of word Pocket `k - 512`. -/
def cpMessage (s : State) (k : Nat) : List Byte :=
  if k < 512 then (pktWords s k 16).flatMap (fun v => valBytes 8 v.toNat) else valBytes 8 (rd s (reg (pgWord (k - 512)) R_WP_WORD)).toNat

/-- The port's Button of an outgoing Pocket: 8 for Pocket 1, w - 8 for word Pocket w (R446). -/
def cpButton (k : Nat) : Option Nat := if k = 1 then some 8 else if 520 ≤ k ∧ k < 528 then some (k - 520) else none

def cpWaiting (s : State) (k : Nat) : Bool := if k < 512 then pktGo s k else wpGo s (k - 512)

/-- A DELIVER frame of Pocket `k`. -/
def cpDeliverFrame (s : State) (k : Nat) : State :=
  let s := { s with cp := { s.cp with sending := if s.cp.sending.contains k then s.cp.sending else s.cp.sending ++ [k] } }
  cpSend s 0 1 k 0 (cpMessage s k)

/-- Does a Pocket that was sent before a restart have to be sent again (R445)? -/
def cpAgain (s : State) (k : Nat) : Bool := s.cp.sending.contains k && !(cpStream s 0).unacked.any (fun q => q.2.aux == k)

/-- CP_DELIVER: the Button is cleared and the message is sent; the take follows at the acknowledgement. -/
def cpDeliver (s : State) (k : Nat) : State :=
  match cpButton k with
  | none => s
  | some b =>
    let rung := rdB s (reg (pgBtn 0x44) R_BTN_PEND) b
    if !cpUp s ∨ frozen s 0x44 ∨ !cpRoom s 0 ∨ !(rung || cpAgain s k) then s
    else
      let s := if rung then
          guardWrite s 0x44 (pgBtn 0x44) R_BTN_PEND (w64 (2 ^ b)) (fun s => wrB s (reg (pgBtn 0x44) R_BTN_PEND) b false)
        else s
      if !cpWaiting s k ∨ s.cp.owed.contains k ∨ (s.cp.sending.contains k ∧ !cpAgain s k) then s else cpDeliverFrame s k

def execCpDeliver (k : Nat) (s : State) : Out := .next (cpDeliver s k)

/-- CP_REPORT: the next frame of the telemetry ring. -/
def cpReport (s : State) : State :=
  let size := rdF s (kCp R_CP_TELE_SIZE) 31 0
  let head := (rd s (kCp R_CP_TELE_HEAD)).toNat % max size 1
  let from_ := s.cp.teleSent
  let a := rdF s (kCp R_CP_TELE_BASE) 63 12 * 4096 + from_
  let n := min 4096 (if from_ ≤ head then head - from_ else size - from_)
  if !cpUp s ∨ frozen s 0x44 ∨ !cpRoom s 2 ∨ size = 0 ∨ n = 0 ∨ cloakDenies s 0x44 true ∨ spanWaits s a n then s
  else
    let r := readMem s a n false false
    if !r.ok ∨ r.anyBad then r.st
    else cpSend { r.st with cp := { r.st.cp with teleSent := (from_ + n) % size } } 2 2 0 from_ r.bytes

def execCpReport (s : State) : Out := .next (cpReport s)

/-! ## Acknowledgement, timers, HELLO and link drop (R444, R445) -/

/-- CP_ACK_RX. -/
def execCpAckRx (f : CpFrame) (crcOk : Bool) (s : State) : Out :=
  .next (if !cpHears s then s
    else if !crcOk then bump s pgCp R_CP_CRC_CNT
    else if f.type ≠ 1 ∨ 3 ≤ f.cls then s
    else cpAckIn s f.cls f.ackSeq)

/-- CP_RETX_TIMEOUT: the oldest unacknowledged frame of a class and every later one are sent again. -/
def execCpRetxTimeout (cls : Fin 3) (s : State) : Out :=
  .next (if !cpUp s ∨ frozen s 0x44 then s else cpResend s cls)

/-- CP_ACK_DELAY: what was accepted and not acknowledged is acknowledged. -/
def execCpAckDelay (cls : Fin 3) (s : State) : Out :=
  .next (if !cpUp s ∨ (cpStream s cls).since = 0 then s else cpSendAck s cls)

/-- Every stream restarts at SEQ 0; a Pocket not taken and the ring from its tail are sent again. -/
def cpRestart (s : State) : State :=
  let s := { s with cp := { s.cp with streams := [], teleSent := (rd s (kCp R_CP_TELE_TAIL)).toNat } }
  if frozen s 0x44 then s else (s.cp.sending.filter (cpWaiting s)).foldl cpDeliverFrame s

/-- Every stream continues from the node's ACK_SEQ. -/
def cpContinue (s : State) (f : CpFrame) : State :=
  (List.range 3).foldl (fun s c =>
    let s := cpAckIn s c (leAt f.payload (16 * c + 8) 8)
    if frozen s 0x44 then s else cpResend s c) s

/-- CP_HELLO_RX: the streams restart where either HELLO carries RESTART, and continue otherwise. -/
def cpHelloIn (s : State) (f : CpFrame) : State :=
  let again := s.cp.helloed || f.aux.testBit 0
  let s := { s with cp := { s.cp with helloed := false } }
  if again then cpRestart s else cpContinue s f

def execCpHelloRx (f : CpFrame) (crcOk : Bool) (s : State) : Out :=
  .next (if !cpHears s then s
    else if !crcOk then bump s pgCp R_CP_CRC_CNT
    else if f.type ≠ 2 then s
    else cpHelloIn s f)

/-- CP_LINK_DROP: the link trains again; the streams keep what they hold. -/
def execCpLinkDrop (s : State) : Out :=
  .next (if cpUp s then wrB (wrB s (kCp R_CP_STATUS) 0 false) (kCp R_CP_STATUS) 1 true else s)

end Sys2Proof.Machine
end

