-- ==== Sys2Proof/Machine/Service.lean ====
section
/-! DEFINITION. The service firmware of processor 0: the commands of Pocket 0 (16_bringup_service.md R447 to R452; 14_recovery.md R386), and the
sleep instruction (09_yoke_pockets.md R255). -/
namespace Sys2Proof.Machine

/-! ## Taking a command and writing for it (R448) -/

/-- Is the message on Pocket 0 the next command of service processor 0, with this OP? While the clock of its Hem is stopped, what goes to it waits
(02_handshake_time.md R52). -/
def svcNext (s : State) (op : Nat) : Bool :=
  svcRuns s && s.mnt.loaded.contains 2 && !s.asleep.contains 0x40
    && pktOn s 0 && pktGo s 0 && pktValid s 0 && pktReceiver s 0 == 0x40
    && bits (rd s (reg (pgPocket 0) R_PKT_MSG)) 63 56 == op

/-- The message is taken: Button 0 cleared, the take written. -/
def svcTake (s : State) : State :=
  let s := guardWrite s 0x40 (pgBtn 0x40) R_BTN_PEND 1 (fun s => wrB s (reg (pgBtn 0x40) R_BTN_PEND) 0 false)
  guardWrite s 0x40 (pgPocket 0) R_PKT_TAKE 1 (fun s => pktTakeWrite s 0)

/-- A service command: taken and performed; `f` is given the message and answers a state and the STATUS, none where the answer comes later. -/
def svcCmd (op : Nat) (s : State) (f : State → List Word → State × Option Nat) : Out :=
  .next (if !svcNext s op then s
    else
      let ws := pktWords s 0 16
      let r := f (svcTake s) ws
      match r.2 with
      | some n => svcAnswer r.1 (nth 0 ws 0) n
      | none => r.1)

/-- The service processor that writes a page or a place in memory: the page's owner where that is one, else that of its Panel. -/
def svcMid (s : State) (a : Nat) : Nat :=
  match regionOf a with
  | .mmio pg => let m := ownerOf s pg; if 0x40 ≤ m ∧ m < 0x44 then m else 0x40 + pagePanel pg
  | .data c | .sync c => 0x40 + c / 8
  | .llcWin p => 0x40 + p
  | .hbm => 0x40 + hbmStack a / 2
  | _ => 0x40

/-- A register write of the service firmware; a frozen processor writes nothing further. -/
def svcWrite (s : State) (a : Nat) (v : Word) : State := if frozen s 0x40 then s else writeWord s (svcMid s a) a v

/-- The byte address of a register of a page. -/
def svcReg (page off : Nat) : Nat := mmioBase + page * 4096 + off

/-! ## IMAGE_LOAD (R450, R451) -/

/-- The bytes of a section in its container: an encrypted one without its tag. -/
def clearBody (x : Section) : List Byte := if x.enc then x.body.take (x.body.length - 16) else x.body

/-- A container with the sections decrypted in place. -/
def clearImage (b : List Byte) (ys : List Section) : List Byte :=
  (ys.filter (fun y => y.enc)).foldl (fun b y => b.take y.off ++ y.body ++ b.drop (y.off + y.body.length)) b

/-- The image staged at `off` is checked, measured for entry 38 and, where it is accepted, decrypted in place and kept. -/
def imageLoad (s : State) (off : Nat) : State × Nat :=
  let r := readStaged s off
  let b := r.2
  let c := imageCheck r.1 b
  let acc := if c.1 = 0 then (c.2.find? (fun x => x.type == 1)).map (fun x => x.body) else none
  let s := setMnt r.1 (fun m => { m with job := some ⟨stageBase s + off, Config.sha512 b, leAt b 0x20 8, acc⟩ })
  if c.1 ≠ 0 then (s, c.1)
  else
    let s := (c.2.filter (fun y => y.enc)).foldl (fun s y => (writeMem s (svcMid s (stageBase s + off)) (stageBase s + off + y.off) y.body false).st) s
    ({ s with svc := { s.svc with image := some (clearImage b c.2) } }, 0)

def execImageLoad (s : State) : Out :=
  if memWaits s (stageBase s + bits (rd s (reg (pgPocket 0) R_PKT_MSG)) 31 0 * 4096) then .next s
  else svcCmd 0x01 s (fun s ws =>
    let r := imageLoad s (bits (nth 0 ws 0) 31 0 * 4096)
    (r.1, some r.2))

/-! ## RANK_ASSIGN and JOB_LOAD (R452) -/

/-- The rank or a spare is chosen, and LNK_SELF_RANK of the four link blocks written. -/
def execRankAssign (s : State) : Out :=
  svcCmd 0x02 s (fun s ws =>
    let v := nth 0 ws 0
    let w := w64 (bits v 31 24 * 2 ^ 16 + bits v 15 0)
    let s := { s with svc := { s.svc with rank := some (bits v 15 0), spare := bitAt v 16 } }
    ((List.range 4).foldl (fun s p => svcWrite s (svcReg (pgLink p) R_LNK_SELF_RANK) w) s, some 0))

/-- The sections of a kept image. -/
def imageSections (b : List Byte) : List Section :=
  ((List.range (leAt b 0x18 4)).filterMap (sectionAt b)).map (fun x => { x with body := clearBody x })

/-- One section applied: register writes, memory writes, partner entries (Table: Section types). -/
def applySection (s : State) (x : Section) : State :=
  if x.type = 2 then (wordRecs 16 x.body).foldl (fun s r => svcWrite s (nth 0 r 0) (w64 (nth 0 r 1))) s
  else if x.type = 3 then
    ((dataRecs x.body.length x.body).getD []).foldl (fun s r =>
      if frozen s 0x40 ∨ r.2 = [] then s else (writeMem s (svcMid s r.1) r.1 r.2 false).st) s
  else if x.type = 4 then
    (wordRecs 32 x.body).foldl (fun s r =>
      let pg := pgLink (nth 0 r 0 / 1024)
      let s := svcWrite s (svcReg pg R_LNK_STAGE_CFG0) (w64 (nth 0 r 1))
      let s := svcWrite s (svcReg pg R_LNK_STAGE_CFG1) (w64 (nth 0 r 2))
      svcWrite s (svcReg pg R_PARTNER_CMD) (partnerCmd 1 (nth 0 r 0))) s
  else s

/-- The context whose CTX_PC an address names (8 * core + context). -/
def pcContext (a : Nat) : Option Nat :=
  match regionOf a with
  | .mmio pg => match pageKind pg with
    | some (.ctx c x) => if a % 4096 = R_CTX_PC then some (8 * c + x) else none
    | _ => none
  | _ => none

/-- The sections that apply to the module: those of every rank and, unless it is a spare, of its rank. -/
def jobSections (s : State) : List Section :=
  sectionsFor (imageSections (s.svc.image.getD [])) (if s.svc.spare then none else s.svc.rank)

/-- May JOB_LOAD proceed (R448)? -/
def jobReady (s : State) : Bool :=
  !reducedService s && (s.svc.rank.isSome || s.svc.spare) && !rdB s (reg (pgBind 0) R_PKT_LOCK) 0 && s.svc.image.isSome

/-- The sections applied in the order of the section table, then LOCK_SET. -/
def jobLoad (s : State) : State :=
  let xs := jobSections s
  let s := svcWrite (xs.foldl applySection s) (svcReg (pgBind 0) R_PKT_LOCK) 2
  { s with svc := { s.svc with loaded := true, starts := ((regRecs xs).filterMap (fun r => pcContext r.1)).eraseDups } }

def execJobLoad (s : State) : Out :=
  if (dataOf (jobSections s)).any (fun r => spanWaits s r.1 r.2.length) then .next s
  else svcCmd 0x03 s (fun s _ => if jobReady s then (jobLoad s, some 0) else (s, some 0x15))

/-! ## JOB_START and JOB_STOP (R386) -/

/-- The contexts start and the first step-start is sent. -/
def jobStart (s : State) : State :=
  let s := s.svc.starts.foldl (fun s i => svcWrite s (svcReg (pgCtx (i / 8) (i % 8)) R_CTX_CTL) 1) s
  stepStart { s with svc := { s.svc with stopped := false } }

def execJobStart (s : State) : Out :=
  svcCmd 0x04 s (fun s _ => if s.svc.loaded ∧ s.mnt.armed then (jobStart s, some 0) else (s, some 0x15))

/-- The stop of the fleet: no step-start, PD_00 to PD_31 reset, every slot disabled, ABANDON. -/
def jobStop (s : State) : State :=
  let s := { s with svc := { s.svc with stopped := true } }
  let s := (List.range 32).foldl (fun s d => svcWrite s (svcReg (pgPwr (d / 8)) (R_PWR_DOMAIN + 8 * d)) 3) s
  let s := (List.range 256).foldl (fun s k =>
    if (slotOf s k).en then svcWrite s (svcReg (pgSlots (k / 32)) (R_SLOT_CTL + 64 * (k % 32))) 0 else s) s
  svcWrite s (svcReg (pgRec 0) R_REC_CMD) 6

/-- JOB_STOP; it waits while a transition of PD_00 to PD_31 runs, which would refuse the reset (R435). -/
def execJobStop (s : State) : Out :=
  if (List.range 32).any (fun d => rdB s (kDom d) 7) then .next s
  else svcCmd 0x05 s (fun s _ => (jobStop s, some 0))

/-! ## REC, REDRAW, POWER, TELEMETRY_CFG -/

/-- REC: answered at the command's completion; a command that is not started is answered at once, STATE where one runs. -/
def execRecv (s : State) : Out :=
  svcCmd 0x06 s (fun s ws =>
    let v := nth 0 ws 0
    if s.recov.op ≠ 0 then (s, some 0x15)
    else
      let s := svcWrite s (svcReg (pgRec 0) R_REC_ARG0) (nth 0 ws 1)
      let s := svcWrite s (svcReg (pgRec 0) R_REC_ARG1) (nth 0 ws 2)
      let s := svcWrite s (svcReg (pgRec 0) R_REC_CMD) (w64 (bits v 3 0 + (if bitAt v 8 then 0x100 else 0)))
      if s.recov.op = 0 then (s, some 0) else ({ s with svc := { s.svc with recCmd := some v } }, none))

/-- REDRAW: the values staged and PARTNER_CMD REDRAW written in the page of the entry's Panel (12_wyist_links.md R344). -/
def execRedraw (s : State) : Out :=
  svcCmd 0x07 s (fun s ws =>
    let e := (nth 0 ws 1).toNat
    if 4096 ≤ e then (s, some 0x11)
    else
      let pg := pgLink (e / 1024)
      let s := svcWrite s (svcReg pg R_LNK_STAGE_CFG0) (nth 0 ws 2)
      let s := svcWrite s (svcReg pg R_LNK_STAGE_CFG1) (nth 0 ws 3)
      (svcWrite s (svcReg pg R_PARTNER_CMD) (partnerCmd 2 e), some 0))

/-- POWER: a request of a domain's state, or a Panel's step-rate target. -/
def execPowerCmd (s : State) : Out :=
  svcCmd 0x08 s (fun s ws =>
    let v := nth 0 ws 0
    if bitAt v 40 then
      (if 4 ≤ bits v 39 32 then (s, some 0x11)
       else (svcWrite s (svcReg (pgPwr (bits v 39 32)) R_PWR_RATE_TARGET) (w64 (bits v 15 0)), some 0))
    else
      let d := bits v 5 0
      if 50 ≤ d then (s, some 0x11)
      else (svcWrite s (svcReg (pgPwr (domPanel d)) (R_PWR_DOMAIN + 8 * d)) (w64 (bits v 9 8)), some 0))

def execTelemetryCfg (s : State) : Out :=
  svcCmd 0x09 s (fun s ws => ({ s with svc := { s.svc with period := bits (nth 0 ws 0) 15 0 } }, some 0))

/-! ## Sleep (09_yoke_pockets.md R255) -/

/-- SLEEP_INSTRUCTION: a service processor with no enabled Button pending goes to sleep (R259). -/
def execSleepInstruction (p : Panel) (s : State) : Out :=
  let m := 0x40 + p.val
  .next (if !domOn s (44 + p) ∨ frozen s m ∨ s.asleep.contains m
      ∨ rd s (reg (pgBtn m) R_BTN_PEND) &&& rd s (reg (pgBtn m) R_BTN_MASK) ≠ 0 then s
    else { s with asleep := s.asleep ++ [m] })

end Sys2Proof.Machine
end

