-- ==== Sys2Proof/Machine/Header.lean ====
section
/-! DEFINITION. The low-speed header: SMBus, the TAP and the debug port (18_module_hardware.md R495 to R504; 15_mantle_cloak.md R414). -/
namespace Sys2Proof.Machine

/-! ## SMBus (R499 to R502) -/

/-- Does the header work: from standby power on (R495)? -/
def headerOn (s : State) : Bool := s.pwr.phase != 0

/-- The answer of an SMBus transaction: the bytes read, no byte for a write that is acknowledged, none where it is not. -/
def smbAnswer (s : State) (b : Option (List Byte)) : State := setPwr s (fun q => { q with smbAns := b })

/-- STATUS: the cause bits; ALERT_N is released where no cause is left. -/
def execSmbStatus (s : State) : Out :=
  .next (if !headerOn s then s
    else alertSettle (smbAnswer (setPwr s (fun q => { q with seen := true })) (some [BitVec.ofNat 8 (smbCauses s)])))

/-- REG_ADDR. -/
def execRegAddr (addr : Word) (s : State) : Out :=
  .next (if headerOn s then smbAnswer (setPwr s (fun q => { q with regAddr := addr })) (some []) else s)

/-- May REG_READ read a page (R501)? -/
def smbPage (page : Nat) : Bool :=
  match pageKind page with
  | some (.power _) | some (.hbm _) | some (.mantle _) => true
  | _ => false

/-- REG_READ, as master 0xF0: byte 0 says done, refused or bus error. -/
def smbRegRead (s : State) : State :=
  match regionOf s.pwr.regAddr.toNat with
  | .mmio pg =>
    if !smbPage pg then smbAnswer s (some (1 :: List.replicate 8 0))
    else
      let t := regRead s 0xF0 pg (s.pwr.regAddr.toNat % 4096)
      smbAnswer t (some (match t.resp with
        | .data v => 0 :: valBytes 8 v.toNat
        | _ => 2 :: List.replicate 8 0))
  | _ => smbAnswer s (some (1 :: List.replicate 8 0))

def execRegRead (s : State) : Out := .next (if headerOn s then smbRegRead s else s)

/-- POWER_LIMIT: PWR_MODULE.LIMIT_W. -/
def execPowerLimit (watts : BitVec 16) (s : State) : Out :=
  .next (if !headerOn s then s
    else if 600 ≤ watts.toNat ∧ watts.toNat ≤ 2000 then
      smbAnswer (wrF s (reg (pgPwr 0) R_PWR_MODULE) 43 32 watts.toNat) (some [])
    else smbAnswer s none)

/-- The image commands act only while NO_IMAGE is set. -/
def imgCmd (s : State) (f : State → State) : Out :=
  .next (if !headerOn s then s else if s.pwr.phase = 1 then f (smbAnswer s (some [])) else smbAnswer s none)

/-- IMG_OFFSET: the offset in 32-byte units; IMG_FAIL clears. -/
def execImgOffset (off : BitVec 32) (s : State) : Out :=
  imgCmd s (fun s => alertSettle (setPwr s (fun q => { q with imgOff := 32 * off.toNat, imgFail := false })))

/-- A byte of the image held for SMBus. -/
def imgByte (l : List Host.Cell) (a : Nat) : Byte := tabGet (fun _ => 0) l a

/-- IMG_DATA: 32 bytes at the offset, which moves on. -/
def execImgData (bytes : List Byte) (s : State) : Out :=
  imgCmd s (fun s =>
    let o := s.pwr.imgOff
    let buf := (List.zip (List.range 32) bytes).foldl (fun m p => tabSet (fun _ => 0) m (o + p.1) p.2) s.pwr.imgBuf
    setPwr s (fun q => { q with imgBuf := buf, imgOff := o + 32 }))

/-- The container held for SMBus: TOTAL_BYTES bytes, as far as bytes were written. -/
def imgContainer (l : List Host.Cell) : List Byte :=
  let n := bytesVal ((List.range 8).map (fun i => imgByte l (0x10 + i)))
  let top := l.foldl (fun a c => max a (c.1 + 1)) 0
  (List.range (min n top)).map (imgByte l)

/-- IMG_COMMIT: an image that verifies goes to slot A and the Mantle starts from it; one that fails sets IMG_FAIL (R502). -/
def imgCommit (s : State) : State :=
  match firmwareOf (imgContainer s.pwr.imgBuf) with
  | none => alertOn (setPwr s (fun q => { q with imgFail := true }))
  | some i =>
    let t := tabGet (fun _ => FwSlots.rst) s.mnt.fw 0
    let s := setMnt s (fun m => { m with fw := tabSet (fun _ => FwSlots.rst) m.fw 0 { t with a := i, useB := false } })
    let s := alertSettle (mantleStart (setPwr s (fun q => { q with imgBuf := [], imgOff := 0 })))
    if s.pwr.phase = 3 ∧ s.pwr.mainGood ∧ !s.pwr.resetHeld then powerStep4 s else s

def execImgCommit (s : State) : Out := imgCmd s imgCommit

/-! ## The TAP (R503, R504) -/

/-- A TAP instruction is selected and its register captured. `tap`: 0 IDCODE, 1 BYPASS, 2 SAMPLE/PRELOAD, 3 EXTEST, 4 DBG_ACCESS. -/
def tapSelect (s : State) (n : Nat) (v : Word) : State := setPwr s (fun q => { q with tap := n, tdo := v })

/-- Does the TAP take boundary-scan instructions: no domain of PD_00 to PD_48 is ON? -/
def scanAllowed (s : State) : Bool := (List.range 49).all (fun d => !domOn s d)

/-- The levels of J2 B2 RESET_N, B3 ALERT_N and B4 PWR_GOOD as the module sees or drives them. -/
def pinLevels (s : State) : List Bool := [!s.pwr.resetHeld, !s.pwr.alert, s.pwr.pwrGood]

/-- Bits of a list of levels, the first as bit 0. -/
def levelBits : List Bool → Nat
  | [] => 0
  | b :: l => (if b then 1 else 0) + 2 * levelBits l

def execIdcode (s : State) : Out := .next (if headerOn s then tapSelect s 0 0x0A710D2F else s)
def execBypass (s : State) : Out := .next (if headerOn s then tapSelect s 1 0 else s)

/-- A boundary-scan instruction: the pins are captured and the cells loaded; BYPASS where it is not taken. -/
def boundary (s : State) (n : Nat) (cells : List Bool) : State :=
  if !headerOn s then s
  else if !scanAllowed s then tapSelect s 1 0
  else setPwr (tapSelect s n (w64 (levelBits (pinLevels s)))) (fun q => { q with cells := cells.take 3 })

def execSamplePreload (pins : List Bool) (s : State) : Out := .next (boundary s 2 pins)
def execExtest (cells : List Bool) (s : State) : Out := .next (boundary s 3 cells)

/-- What the header's outputs ALERT_N and PWR_GOOD show: EXTEST drives them from the cells. -/
def headerPins (s : State) : Bool × Bool :=
  if s.pwr.tap = 3 ∧ scanAllowed s then (nth true s.pwr.cells 1, nth true s.pwr.cells 2) else (!s.pwr.alert, s.pwr.pwrGood)

/-- DBG_ACCESS: a 64-bit read or write as master 0x45, which starts no access while frozen (R403); what it shifts out after a bus error is a
free value (log entry 12). -/
def dbgAccess (s : State) (write : Bool) (a : Nat) (v : Word) : State :=
  if !headerOn s ∨ frozen s 0x45 then s
  else if memWaits s a then s
  else if write then
    let t := writeWord s 0x45 a v
    tapSelect t 4 v
  else
    let t := readWord s 0x45 a
    match t.resp with
    | .data d => tapSelect t 4 d
    | .poison b => tapSelect t 4 (w64 (bytesVal b))
    | _ => { tapSelect t 4 (Config.freeValue 64 t.free) with free := t.free + 1 }

def execDbgAccess (write : Bool) (addr value : Word) (s : State) : Out := .next (dbgAccess s write addr.toNat value)

end Sys2Proof.Machine
end

