-- ==== Sys2Proof/Machine/Dispatch.lean ====
section
/-! DEFINITION. One arm per command. -/
namespace Sys2Proof.Machine

def exec (i : Instr) (s : State) : Host.Outcome State Fault Refusal :=
  match i with
  | .accountingUe page addr => Sys2Proof.Machine.execAccountingUe page addr s
  | .readClear mid addr => Sys2Proof.Machine.execReadClear mid addr s
  | .registerWrite mid addr value => Sys2Proof.Machine.execRegisterWrite mid addr value s
  | .dlMarginLow c margin => Sys2Proof.Machine.execDlMarginLow c margin s
  | .recal mid c => Sys2Proof.Machine.execRecal mid c s
  | .dlRecalDone c replica margin => Sys2Proof.Machine.execDlRecalDone c replica margin s
  | .hemClockStop h => Sys2Proof.Machine.execHemClockStop h s
  | .hemClockRun h => Sys2Proof.Machine.execHemClockRun h s
  | .hemClockLoss h => Sys2Proof.Machine.execHemClockLoss h s
  | .overrun h => Sys2Proof.Machine.execOverrun h s
  | .resync h hemSide => Sys2Proof.Machine.execResync h hemSide s
  | .resyncReady h hemSide => Sys2Proof.Machine.execResyncReady h hemSide s
  | .engineRecordIssue c x => Sys2Proof.Machine.execEngineRecordIssue c x s
  | .opeProduct c => Sys2Proof.Machine.execOpeProduct c s
  | .feederRefill c f => Sys2Proof.Machine.execFeederRefill c f s
  | .cellGroupFire c g => Sys2Proof.Machine.execCellGroupFire c g s
  | .drainCopy c a => Sys2Proof.Machine.execDrainCopy c a s
  | .drainRow c a => Sys2Proof.Machine.execDrainRow c a s
  | .drainDone c ope => Sys2Proof.Machine.execDrainDone c ope s
  | .scaledRetry c => Sys2Proof.Machine.execScaledRetry c s
  | .accClose c => Sys2Proof.Machine.execAccClose c s
  | .srKatRun mid block value => Sys2Proof.Machine.execSrKatRun mid block value s
  | .srKatDone block source pass => Sys2Proof.Machine.execSrKatDone block source pass s
  | .numStepWrite mid c value => Sys2Proof.Machine.execNumStepWrite mid c value s
  | .start mid c x => Sys2Proof.Machine.execStart mid c x s
  | .stop mid c x => Sys2Proof.Machine.execStop mid c x s
  | .resume mid c x => Sys2Proof.Machine.execResume mid c x s
  | .stepCtx mid c x => Sys2Proof.Machine.execStepCtx mid c x s
  | .haltAll mid c => Sys2Proof.Machine.execHaltAll mid c s
  | .resumeAll mid c => Sys2Proof.Machine.execResumeAll mid c s
  | .nop c x => Sys2Proof.Machine.execNop c x s
  | .mark c x => Sys2Proof.Machine.execMark c x s
  | .halt c x => Sys2Proof.Machine.execHalt c x s
  | .fence c x => Sys2Proof.Machine.execFence c x s
  | .ctxSeq c x => Sys2Proof.Machine.execCtxSeq c x s
  | .scAlu c x => Sys2Proof.Machine.execScAlu c x s
  | .scLi c x => Sys2Proof.Machine.execScLi c x s
  | .scLd c x => Sys2Proof.Machine.execScLd c x s
  | .scSt c x => Sys2Proof.Machine.execScSt c x s
  | .scalarAccessResponse c x => Sys2Proof.Machine.execScalarAccessResponse c x s
  | .aSet c x => Sys2Proof.Machine.execASet c x s
  | .predCmp c x => Sys2Proof.Machine.execPredCmp c x s
  | .predLogic c x => Sys2Proof.Machine.execPredLogic c x s
  | .predFull c x => Sys2Proof.Machine.execPredFull c x s
  | .predTask c x => Sys2Proof.Machine.execPredTask c x s
  | .br c x => Sys2Proof.Machine.execBr c x s
  | .loopBegin c x => Sys2Proof.Machine.execLoopBegin c x s
  | .loopEnd c x => Sys2Proof.Machine.execLoopEnd c x s
  | .loopBreak c x => Sys2Proof.Machine.execLoopBreak c x s
  | .refetchDone c x => Sys2Proof.Machine.execRefetchDone c x s
  | .taskBegin c x => Sys2Proof.Machine.execTaskBegin c x s
  | .taskCommit c x => Sys2Proof.Machine.execTaskCommit c x s
  | .taskCommitApply c x => Sys2Proof.Machine.execTaskCommitApply c x s
  | .taskAbort c x => Sys2Proof.Machine.execTaskAbort c x s
  | .taskLogWrite c => Sys2Proof.Machine.execTaskLogWrite c s
  | .logFull c => Sys2Proof.Machine.execLogFull c s
  | .taskDiscard c x => Sys2Proof.Machine.execTaskDiscard c x s
  | .taskDiscardDone c x => Sys2Proof.Machine.execTaskDiscardDone c x s
  | .vecEw c => Sys2Proof.Machine.execVecEw c s
  | .vecFn c => Sys2Proof.Machine.execVecFn c s
  | .vecFnBwd c => Sys2Proof.Machine.execVecFnBwd c s
  | .vecRowRed c => Sys2Proof.Machine.execVecRowRed c s
  | .vecColRed c => Sys2Proof.Machine.execVecColRed c s
  | .vecNormStat c => Sys2Proof.Machine.execVecNormStat c s
  | .vecNormFwd c => Sys2Proof.Machine.execVecNormFwd c s
  | .vecNormBwd c => Sys2Proof.Machine.execVecNormBwd c s
  | .vecSmaxFold c => Sys2Proof.Machine.execVecSmaxFold c s
  | .vecSmaxApply c => Sys2Proof.Machine.execVecSmaxApply c s
  | .vecSmaxD c => Sys2Proof.Machine.execVecSmaxD c s
  | .vecSmaxBwd c => Sys2Proof.Machine.execVecSmaxBwd c s
  | .vecDropout c => Sys2Proof.Machine.execVecDropout c s
  | .vecRand c => Sys2Proof.Machine.execVecRand c s
  | .vecScatterAdd c => Sys2Proof.Machine.execVecScatterAdd c s
  | .vectorComplete c => Sys2Proof.Machine.execVectorComplete c s
  | .strMove c => Sys2Proof.Machine.execStrMove c s
  | .strLining c => Sys2Proof.Machine.execStrLining c s
  | .strGather c => Sys2Proof.Machine.execStrGather c s
  | .strScatter c => Sys2Proof.Machine.execStrScatter c s
  | .strEos c => Sys2Proof.Machine.execStrEos c s
  | .strEosComplete c sid => Sys2Proof.Machine.execStrEosComplete c sid s
  | .streamRequest c slot => Sys2Proof.Machine.execStreamRequest c slot s
  | .tagGrant p => Sys2Proof.Machine.execTagGrant p s
  | .streamRequestDone c req => Sys2Proof.Machine.execStreamRequestDone c req s
  | .fbSetFull mid c entry => Sys2Proof.Machine.execFbSetFull mid c entry s
  | .fbSetEmpty mid c entry => Sys2Proof.Machine.execFbSetEmpty mid c entry s
  | .fbParity c entry => Sys2Proof.Machine.execFbParity c entry s
  | .watchRegionWrite mid p w limit value => Sys2Proof.Machine.execWatchRegionWrite mid p w limit value s
  | .watchVersionReport c p w => Sys2Proof.Machine.execWatchVersionReport c p w s
  | .csFabricAccess mid addr op ecc => Sys2Proof.Machine.execCsFabricAccess mid addr op ecc s
  | .feTake c x => Sys2Proof.Machine.execFeTake c x s
  | .fePeek c x => Sys2Proof.Machine.execFePeek c x s
  | .fePut c x => Sys2Proof.Machine.execFePut c x s
  | .feSet c x => Sys2Proof.Machine.execFeSet c x s
  | .feClear c x => Sys2Proof.Machine.execFeClear c x s
  | .syncBankAccess c x ecc => Sys2Proof.Machine.execSyncBankAccess c x ecc s
  | .yokeRegistration c x => Sys2Proof.Machine.execYokeRegistration c x s
  | .changeNotice n => Sys2Proof.Machine.execChangeNotice n s
  | .syncWake c => Sys2Proof.Machine.execSyncWake c s
  | .syncAnswer c x => Sys2Proof.Machine.execSyncAnswer c x s
  | .barArrive c x => Sys2Proof.Machine.execBarArrive c x s
  | .yokeArrival c x => Sys2Proof.Machine.execYokeArrival c x s
  | .releaseArrival c slot => Sys2Proof.Machine.execReleaseArrival c slot s
  | .slotEnable mid slot => Sys2Proof.Machine.execSlotEnable mid slot s
  | .slotDisable mid slot => Sys2Proof.Machine.execSlotDisable mid slot s
  | .pktSend c x => Sys2Proof.Machine.execPktSend c x s
  | .pktRecv c x => Sys2Proof.Machine.execPktRecv c x s
  | .pktGo src k => Sys2Proof.Machine.execPktGo src k s
  | .pktTake src k => Sys2Proof.Machine.execPktTake src k s
  | .pktClear mid k => Sys2Proof.Machine.execPktClear mid k s
  | .lockSet mid => Sys2Proof.Machine.execLockSet mid s
  | .wpGo mid w => Sys2Proof.Machine.execWpGo mid w s
  | .wpTake mid w => Sys2Proof.Machine.execWpTake mid w s
  | .btnRing src => Sys2Proof.Machine.execBtnRing src s
  | .btnWait c x => Sys2Proof.Machine.execBtnWait c x s
  | .hbmAccess addr op ecc => Sys2Proof.Machine.execHbmAccess addr op ecc s
  | .hbmTrainDone st full ok => Sys2Proof.Machine.execHbmTrainDone st full ok s
  | .hbm1500Go mid st ctl => Sys2Proof.Machine.execHbm1500Go mid st ctl s
  | .hbm1500Done st out => Sys2Proof.Machine.execHbm1500Done st out s
  | .hbmScrubGranule st addr ecc last => Sys2Proof.Machine.execHbmScrubGranule st addr ecc last s
  | .hbmTempReading st temp riseAllowed => Sys2Proof.Machine.execHbmTempReading st temp riseAllowed s
  | .throttleWindow st => Sys2Proof.Machine.execThrottleWindow st s
  | .softRepair mid st addr => Sys2Proof.Machine.execSoftRepair mid st addr s
  | .softRepairDone st resource => Sys2Proof.Machine.execSoftRepairDone st resource s
  | .sparingEntry mid st addr ecc => Sys2Proof.Machine.execSparingEntry mid st addr ecc s
  | .retireWrite mid st e value => Sys2Proof.Machine.execRetireWrite mid st e value s
  | .llcAccess mid addr op ecc => Sys2Proof.Machine.execLlcAccess mid addr op ecc s
  | .llcWayModeWrite mid p value => Sys2Proof.Machine.execLlcWayModeWrite mid p value s
  | .wayChangeDone p => Sys2Proof.Machine.execWayChangeDone p s
  | .flush mid p => Sys2Proof.Machine.execFlush mid p s
  | .flushDone p => Sys2Proof.Machine.execFlushDone p s
  | .arbiterGrant p x y out during => Sys2Proof.Machine.execArbiterGrant p x y out during s
  | .arbCommit mid p => Sys2Proof.Machine.execArbCommit mid p s
  | .arbCommitDone p => Sys2Proof.Machine.execArbCommitDone p s
  | .seamCrcReject n dirB g k => Sys2Proof.Machine.execSeamCrcReject n dirB g k s
  | .seamLaneTestEnd n dirB g failing => Sys2Proof.Machine.execSeamLaneTestEnd n dirB g failing s
  | .enable mid p value => Sys2Proof.Machine.execEnable mid p value s
  | .retrain mid p => Sys2Proof.Machine.execRetrain mid p s
  | .linkTrainDone p ok => Sys2Proof.Machine.execLinkTrainDone p ok s
  | .linkDown p remoteFault => Sys2Proof.Machine.execLinkDown p remoteFault s
  | .lldpCapture p bytes => Sys2Proof.Machine.execLldpCapture p bytes s
  | .linkMacWrite mid p addr => Sys2Proof.Machine.execLinkMacWrite mid p addr s
  | .hello p addr => Sys2Proof.Machine.execHello p addr s
  | .pfcReceived p classes time => Sys2Proof.Machine.execPfcReceived p classes time s
  | .pfcPauseEnd p => Sys2Proof.Machine.execPfcPauseEnd p s
  | .dataFrameRx p f chk => Sys2Proof.Machine.execDataFrameRx p f chk s
  | .frameWritesStart src => Sys2Proof.Machine.execFrameWritesStart src s
  | .ackFrameRx p f chk => Sys2Proof.Machine.execAckFrameRx p f chk s
  | .nackFrameRx p f chk => Sys2Proof.Machine.execNackFrameRx p f chk s
  | .keepaliveRx p f chk => Sys2Proof.Machine.execKeepaliveRx p f chk s
  | .dataFrameTx e f => Sys2Proof.Machine.execDataFrameTx e f s
  | .ackDelay src => Sys2Proof.Machine.execAckDelay src s
  | .retxTimeout dst => Sys2Proof.Machine.execRetxTimeout dst s
  | .probeKeepalive e p => Sys2Proof.Machine.execProbeKeepalive e p s
  | .livenessWindow e => Sys2Proof.Machine.execLivenessWindow e s
  | .groupFrameTx g f => Sys2Proof.Machine.execGroupFrameTx g f s
  | .load mid link e => Sys2Proof.Machine.execLoad mid link e s
  | .partnerRedraw mid link e => Sys2Proof.Machine.execPartnerRedraw mid link e s
  | .remove mid link e => Sys2Proof.Machine.execRemove mid link e s
  | .creditAudit e => Sys2Proof.Machine.execCreditAudit e s
  | .groupValidWrite mid g value => Sys2Proof.Machine.execGroupValidWrite mid g value s
  | .selfRankWrite mid link value => Sys2Proof.Machine.execSelfRankWrite mid link value s
  | .collCommandTake p => Sys2Proof.Machine.execCollCommandTake p s
  | .allGather p => Sys2Proof.Machine.execAllGather p s
  | .reduceScatter p => Sys2Proof.Machine.execReduceScatter p s
  | .allReduce p => Sys2Proof.Machine.execAllReduce p s
  | .collFrameRx p => Sys2Proof.Machine.execCollFrameRx p s
  | .collFold p collId frame => Sys2Proof.Machine.execCollFold p collId frame s
  | .collCommandComplete p => Sys2Proof.Machine.execCollCommandComplete p s
  | .closingPhase => Sys2Proof.Machine.execClosingPhase s
  | .close1Merged => Sys2Proof.Machine.execClose1Merged s
  | .close2Merged => Sys2Proof.Machine.execClose2Merged s
  | .optUpdate p k => Sys2Proof.Machine.execOptUpdate p k s
  | .optUpdateDone p k => Sys2Proof.Machine.execOptUpdateDone p k s
  | .optCommit p => Sys2Proof.Machine.execOptCommit p s
  | .stepStart => Sys2Proof.Machine.execStepStart s
  | .localSlotSealed p => Sys2Proof.Machine.execLocalSlotSealed p s
  | .mirrorHeaderWrite => Sys2Proof.Machine.execMirrorHeaderWrite s
  | .snapshot mid => Sys2Proof.Machine.execSnapshot mid s
  | .restoreMirror mid => Sys2Proof.Machine.execRestoreMirror mid s
  | .restoreReplica mid => Sys2Proof.Machine.execRestoreReplica mid s
  | .restoreLocal mid => Sys2Proof.Machine.execRestoreLocal mid s
  | .verify mid => Sys2Proof.Machine.execVerify mid s
  | .abandon mid => Sys2Proof.Machine.execAbandon mid s
  | .adopt mid outcome => Sys2Proof.Machine.execAdopt mid outcome s
  | .rollback mid => Sys2Proof.Machine.execRollback mid s
  | .purge mid => Sys2Proof.Machine.execPurge mid s
  | .restorePullRequest p => Sys2Proof.Machine.execRestorePullRequest p s
  | .recCommandComplete => Sys2Proof.Machine.execRecCommandComplete s
  | .unfreeze w => Sys2Proof.Machine.execUnfreeze w s
  | .unfreezePartner w => Sys2Proof.Machine.execUnfreezePartner w s
  | .portDisable w => Sys2Proof.Machine.execPortDisable w s
  | .portRelease w => Sys2Proof.Machine.execPortRelease w s
  | .logClear w => Sys2Proof.Machine.execLogClear w s
  | .bindUnlock w => Sys2Proof.Machine.execBindUnlock w s
  | .jobArm w => Sys2Proof.Machine.execJobArm w s
  | .sessionOpen w => Sys2Proof.Machine.execSessionOpen w s
  | .keyLoad w => Sys2Proof.Machine.execKeyLoad w s
  | .sessionEnd w => Sys2Proof.Machine.execSessionEnd w s
  | .sessionScrub p => Sys2Proof.Machine.execSessionScrub p s
  | .sessionEndComplete => Sys2Proof.Machine.execSessionEndComplete s
  | .scrubFail => Sys2Proof.Machine.execScrubFail s
  | .keyRotate w => Sys2Proof.Machine.execKeyRotate w s
  | .keySweepGranule p => Sys2Proof.Machine.execKeySweepGranule p s
  | .attest w => Sys2Proof.Machine.execAttest w s
  | .rngHealthFail => Sys2Proof.Machine.execRngHealthFail s
  | .fwUpdate w => Sys2Proof.Machine.execFwUpdate w s
  | .fwActivate => Sys2Proof.Machine.execFwActivate s
  | .fwStartTimeout => Sys2Proof.Machine.execFwStartTimeout s
  | .fwAbort w => Sys2Proof.Machine.execFwAbort w s
  | .fuseDarn w => Sys2Proof.Machine.execFuseDarn w s
  | .standbyPowerOn => Sys2Proof.Machine.execStandbyPowerOn s
  | .standbyPowerLoss => Sys2Proof.Machine.execStandbyPowerLoss s
  | .mainPowerGood => Sys2Proof.Machine.execMainPowerGood s
  | .cpTrainDone => Sys2Proof.Machine.execCpTrainDone s
  | .reducedServiceExit => Sys2Proof.Machine.execReducedServiceExit s
  | .inputLow => Sys2Proof.Machine.execInputLow s
  | .resetNAssert => Sys2Proof.Machine.execResetNAssert s
  | .resetNRelease => Sys2Proof.Machine.execResetNRelease s
  | .pwrReqOff mid d => Sys2Proof.Machine.execPwrReqOff mid d s
  | .pwrReqRetention mid d => Sys2Proof.Machine.execPwrReqRetention mid d s
  | .pwrReqOn mid d => Sys2Proof.Machine.execPwrReqOn mid d s
  | .pwrReqReset mid d => Sys2Proof.Machine.execPwrReqReset mid d s
  | .pwrTransitionDone d => Sys2Proof.Machine.execPwrTransitionDone d s
  | .rateLoopTick p measured => Sys2Proof.Machine.execRateLoopTick p measured s
  | .thermalReading p tj => Sys2Proof.Machine.execThermalReading p tj s
  | .powerMeasurement watts mJ => Sys2Proof.Machine.execPowerMeasurement watts mJ s
  | .cpPocketWrite f crcOk => Sys2Proof.Machine.execCpPocketWrite f crcOk s
  | .cpImageWrite f crcOk => Sys2Proof.Machine.execCpImageWrite f crcOk s
  | .cpTelemetryRead f crcOk => Sys2Proof.Machine.execCpTelemetryRead f crcOk s
  | .cpAckRx f crcOk => Sys2Proof.Machine.execCpAckRx f crcOk s
  | .cpHelloRx f crcOk => Sys2Proof.Machine.execCpHelloRx f crcOk s
  | .cpDeliver k => Sys2Proof.Machine.execCpDeliver k s
  | .cpReport => Sys2Proof.Machine.execCpReport s
  | .cpRetxTimeout cls => Sys2Proof.Machine.execCpRetxTimeout cls s
  | .cpAckDelay cls => Sys2Proof.Machine.execCpAckDelay cls s
  | .flashRecord p => Sys2Proof.Machine.execFlashRecord p s
  | .imageLoad => Sys2Proof.Machine.execImageLoad s
  | .rankAssign => Sys2Proof.Machine.execRankAssign s
  | .jobLoad => Sys2Proof.Machine.execJobLoad s
  | .jobStart => Sys2Proof.Machine.execJobStart s
  | .jobStop => Sys2Proof.Machine.execJobStop s
  | .recv => Sys2Proof.Machine.execRecv s
  | .redraw => Sys2Proof.Machine.execRedraw s
  | .powerCmd => Sys2Proof.Machine.execPowerCmd s
  | .telemetryCfg => Sys2Proof.Machine.execTelemetryCfg s
  | .bistReq mid p addr => Sys2Proof.Machine.execBistReq mid p addr s
  | .bistChunk p fails => Sys2Proof.Machine.execBistChunk p fails s
  | .bistResult p => Sys2Proof.Machine.execBistResult p s
  | .darnWrite mid page k value => Sys2Proof.Machine.execDarnWrite mid page k value s
  | .smbStatus => Sys2Proof.Machine.execSmbStatus s
  | .regAddr addr => Sys2Proof.Machine.execRegAddr addr s
  | .regRead => Sys2Proof.Machine.execRegRead s
  | .powerLimit watts => Sys2Proof.Machine.execPowerLimit watts s
  | .imgOffset off => Sys2Proof.Machine.execImgOffset off s
  | .imgData bytes => Sys2Proof.Machine.execImgData bytes s
  | .imgCommit => Sys2Proof.Machine.execImgCommit s
  | .dbgAccess write addr value => Sys2Proof.Machine.execDbgAccess write addr value s
  | .idcode => Sys2Proof.Machine.execIdcode s
  | .bypass => Sys2Proof.Machine.execBypass s
  | .samplePreload pins => Sys2Proof.Machine.execSamplePreload pins s
  | .extest cells => Sys2Proof.Machine.execExtest cells s
  | .cpLinkDrop => Sys2Proof.Machine.execCpLinkDrop s
  | .sleepInstruction p => Sys2Proof.Machine.execSleepInstruction p s
  | .verifyDigestRequest => Sys2Proof.Machine.execVerifyDigestRequest s

end Sys2Proof.Machine
end

