-- ==== Sys2Proof/Machine/Firmware.lean ====
section
/-! DEFINITION. What the service firmware of processor 0 does unasked: it acts on a failed module and on a job that is to stop, advances the ingest cursor and
writes reports (01_module_at_work.md R25; 05_forward_backward.md R144; 13_collectives_optimizer.md R352, R373; 14_recovery.md R385; 16_bringup_service.md R446). -/
namespace Sys2Proof.Machine

/-- The module is judged failed: LINK_CTL.ENABLE 0 on all 16 ports, and the cause reported (R385). -/
def failAct (s : State) (code : Nat) : State :=
  let s := { s with svc := { s.svc with failing := none, failed := true } }
  report ((List.range 16).foldl (fun s i => svcWrite s (svcReg (pgPort i) R_LINK_CTL) (rd s (reg (pgPort i) R_LINK_CTL) &&& ~~~ 1)) s) 0 code

/-- The job is stopped, and the code reported to the control node (R144, R352). -/
def stopAct (s : State) (code : Nat) : State :=
  report (jobStop { s with svc := { s.svc with stopFor := none } }) 1 code

/-- Bytes into the telemetry ring at offset `o` of `size`. -/
def telePut : State → Nat → Nat → Nat → List Byte → State
  | s, _, _, _, [] => s
  | s, base, size, o, b :: bs => telePut (writeMem s (svcMid s (base + o % size)) (base + o % size) [b] false).st base size (o + 1) bs

/-- The next report goes into the telemetry ring where it has room, and CP_TELE_HEAD moves past it (R446; the bytes of a report are free, log entry 111). -/
def sendReport (s : State) : State :=
  match s.svc.unsent with
  | [] => s
  | r :: rest =>
    let b := Config.reportBytes r.1 r.2 s.free
    let size := rdF s (kCp R_CP_TELE_SIZE) 31 0
    let base := rdF s (kCp R_CP_TELE_BASE) 63 12 * 4096
    let head := (rd s (kCp R_CP_TELE_HEAD)).toNat % max size 1
    let tail := (rd s (kCp R_CP_TELE_TAIL)).toNat % max size 1
    let used := if tail ≤ head then head - tail else head + size - tail
    if size ≤ used + b.length ∨ spanWaits s base size then s
    else
      let s := { s with free := s.free + 1, svc := { s.svc with unsent := rest } }
      svcWrite (telePut s base size head b) (svcReg pgCp R_CP_TELE_HEAD) (w64 ((head + b.length) % size))

/-- A telemetry report is due every `period` milliseconds (TELEMETRY_CFG, R448), by the clock of processor 0's Hem. -/
def periodReport (s : State) : State :=
  if s.svc.period ≠ 0 ∧ refcnt s 25 ≠ 0 ∧ refcnt s 25 % (s.svc.period * 1000000) = 0 then report s 9 (refcnt s 25) else s

/-- What the firmware does in an idle step of the model. -/
def svcDuty (s : State) : State :=
  if !svcRuns s ∨ !s.mnt.loaded.contains 2 then s
  else
    let s := match s.svc.failing with
      | some code => if s.svc.failed then s else failAct s code
      | none => s
    let s := match s.svc.stopFor with
      | some code => if (List.range 32).any (fun d => rdB s (kDom d) 7) then s else stopAct s code
      | none => s
    let s := if memWaits s (cursorAt s) then s else advanceCursor s
    sendReport (periodReport s)

end Sys2Proof.Machine
end

