-- ==== Sys2Proof/Machine/Tick.lean ====
section
/-! DEFINITION. What passes with time when no command waits: Hem and ring counters and the counters of step times (02_handshake_time.md R45, R47;
03_outer_product_arrays.md R86; 06_control_core.md R184; log entries 1 and 6). -/
namespace Sys2Proof.Machine

/-- The counter of a step time in which no group of cells of core `c` fired: the first cause of R86 that holds. OPE_STALL_DRAIN_CNT counts where a fed array waits
under R79: it has done the last update of a product with DRAIN, and its latches hold rows of an earlier one. -/
def stallCounter (s : State) (c : Nat) : Option Nat :=
  let en := enabledPos s c
  let ps := prodsOf s c
  let lacks := fun (f : Feeder) (e : OpeRun × QEntry × Prod) (g : Nat × Nat × Nat × Nat) => (linkEntry e.1 f (groupDone e.1 g)).isNone
  let some' := fun (f : Nat × Nat × Nat × Nat → Feeder) => (List.range 256).any (fun i =>
    let g := (i / 128, i / 32 % 4, i / 4 % 8, i % 4)
    (groupNext s c g).any (fun e => arrayMine en (prodsBefore s c e.1.id) e (g.1 * 4 + g.2.1) && lacks (f g) e g))
  if ps = [] then some R_OPE_IDLE_CNT
  else if (List.range 8).any (fun arr => latchBusy (coreOf s c) arr && (copyNext s c arr).isSome) then some R_OPE_STALL_DRAIN_CNT
  else if some' (fun g => .col (Fin.ofNat 2 g.1) (Fin.ofNat 4 g.2.2.2)) then some R_OPE_STALL_B_CNT
  else if some' (fun g => .row (Fin.ofNat 4 g.2.1) (Fin.ofNat 8 g.2.2.1)) then some R_OPE_STALL_A_CNT
  else none

/-- The step times since the last tick in which a group of cells fired. A group fires at most one step in a step time (R63), so they are the steps of the
group that fired most. -/
def fireTimes (k : CoreSt) : Nat := k.fires.foldl (fun m e => max m e.2) 0

/-- `n` step times of core `c` pass. -/
def tickCore (s : State) (c n : Nat) : State :=
  if !domOn s c then s
  else
    let k := coreOf s c
    let s := wr s (kCore c R_DL_RING_CNT) (rd s (kCore c R_DL_RING_CNT) + w64 n)
    let s := tickBanks s c n
    let s := match stallCounter s c with
      | some off => bumpN s (pgCore c) off (n - fireTimes k)
      | none => s
    let queued := (List.range 8).any (fun x => (ctxOf s c x).st == .waitQueue)
    let s := bumpN s (pgCore c) (if queued then R_CC_STALL_QUEUE_CNT else R_CC_IDLE_CNT) (n - k.took)
    let s := if (List.range 8).any (waitsOnLog s c) then bumpN s (pgCore c) R_TASK_LOG_STALL_CNT n else s
    modCore s c (fun k => { k with fires := [], took := 0 })

/-- A nanosecond of Hem `h`. The spec does not say whether a Hem's clock runs between its domain's coming ON and its first lock: here it does, HEM_REFCNT counts
and transfers pass while LOCKED reads 0, until HEM_CLOCK_STOP (DESIGN CHOICE, log entry 104). -/
def tickHem (s : State) (h : Nat) : State :=
  if hemOn s h ∧ !s.hemStopped.contains h then wr s (reg (pgHem h) R_HEM_REFCNT) (rd s (reg (pgHem h) R_HEM_REFCNT) + 1) else s

/-- An error strikes a word of memory, an LLC line, an accumulator or a drain latch, or the two copies of a random source come to disagree (log entry 102): the
free value names the kind (its remainder by 16) and the place. -/
def strike (s : State) (n : Nat) : State :=
  let a := n / 16
  let word := match regionOf a with
    | .hbm | .sync _ | .data _ | .llcWin _ => true
    | _ => false
  let line := fun (f : LlcLine → LlcLine) => match llcGet s (lineOf a) with
    | some l => llcPut s (lineOf a) (f l)
    | none => s
  match n % 16 with
  | 1 => if word then { s with mem := setWeak s.mem a true } else s
  | 2 => if word then { s with mem := setBad s.mem a true } else s
  | 3 => line (fun l => { l with err := if l.err = .uncorrectable then .uncorrectable else .corrected })
  | 4 => line (fun l => { l with err := .uncorrectable })
  | 5 => line (fun l => { l with tag := if l.tag = .uncorrectable then .uncorrectable else .corrected })
  | 6 => line (fun l => { l with tag := .uncorrectable })
  | 7 => modCore s (a / 8192 % 32) (fun k => { k with accBad := if k.accBad.contains (a % 8192) then k.accBad else k.accBad ++ [a % 8192] })
  | 8 => modCore s (a / 8192 % 32) (fun k => { k with latch := tabSet (fun _ => LatchCell.rst) k.latch (a % 8192) { latchOf k (a % 8192) with bad := true } })
  | 9 => if s.srSick.contains (a / 16, a % 16) then s else { s with srSick := s.srSick ++ [(a / 16, a % 16)] }
  | _ => s

/-- The idle step of the model: a nanosecond of every Hem, Config.ringStep step times of every core, what crosses the Seams, what strikes the module, what its service firmware does. -/
def idle (s : State) : State :=
  let s := (List.range 33).foldl tickHem s
  let s := (List.range 32).foldl (fun s c => tickCore s c (Config.ringStep c s.ticks)) s
  let s := svcDuty (strike (tickSeams s) (Config.strike s.ticks))
  { s with ticks := s.ticks + 1 }

end Sys2Proof.Machine
end

