-- ==== Sys2Proof/Safety.lean ====
section
/-! DEFINITION. What statements about the module are made of: what a command answers, what it leaves alone, and the invariants that
every step keeps. -/
namespace Sys2Proof.Machine

/-- The command is performed and the next state has the property. -/
def Runs (c : Instr) (s : State) (P : State → Prop) : Prop := ∃ t, exec c s = .next t ∧ P t

/-- `t` is `s` but for registers, and of them only those at the listed keys. -/
def OnlyRegs (s t : State) (keys : List Nat) : Prop := { t with regs := s.regs } = s ∧ ∀ k, k ∉ keys → rd t k = rd s k

/-- What events may do beside the listed registers: BLK_STAT, BLK_EVT, the Buttons, the domains they wake. -/
def EventRegs (s t : State) (keys : List Nat) : Prop := ∀ k, plainKey k → k ∉ keys → rd t k = rd s k

/-- `t` is `s` but for the listed registers and what events do. -/
def OnlyEvents (s t : State) (keys : List Nat) : Prop :=
  { t with regs := s.regs, wakes := s.wakes, asleep := s.asleep } = s ∧ EventRegs s t keys

/-- A write of `v` by `mid` at offset `off` of a page is performed (00_scope.md R9; 17_register_pages.md R471 to R473). -/
def MayWrite (s : State) (mid page off : Nat) (v : Word) : Prop := isMaster mid = true ∧ verdict s mid page off v = .perform

/-- A write of `v` at the block-specific offset `off` of a page has no effect but on the register's fields (00_scope.md R9, R10): the register starts nothing, and nothing holds it
as it is. -/
def fieldsOnly (s : State) (k : PageKind) (off : Nat) (v : Word) : Bool :=
  match k with
  | .core _ => off ∉ [R_DL_CTL, R_NUM_CTL, R_NUM_STEP, R_CC_CTL, R_FB_CMD] && (off < R_SEG_RETIRED || R_SEG_RETIRED + 72 ≤ off) && (off < R_DARN || R_DARN + 1024 ≤ off)
      && !(off == R_OPE_STATUS && bitAt v 5)
  | .ctx c x => off != R_CTX_CTL && (!ctxOnlyStopped off || ctxCode (ctxOf s c x) ∈ [0, 5, 6]) && !(cloaked s && off ∈ [R_BP_CTL, R_BP_CMD_COUNT, R_BP_TAG])
  | .tagpool _ => off < R_WATCH_BASE || 0x10 ≤ (off - R_WATCH_BASE) % 0x18 || R_WATCH_BASE + 0x180 ≤ off
  | .yokeSlots b => (off - R_SLOT_MASK0) % 64 < 0x20 && !(slotOf s (32 * b + (off - R_SLOT_MASK0) / 64)).en
  | .pocket _ => off ∉ [R_PKT_GO, R_PKT_TAKE]
  | .wordPocket _ => off ∉ [R_WP_GO, R_WP_TAKE]
  | .binding b => b != 0 || off ∉ [R_PKT_LOCK, R_PKT_CLEAR]
  | .button _ => off ∉ [R_BTN_RING, R_BTN_MASK]
  | .hbm _ => off ∉ [R_HBM_REPAIR_CMD, R_HBM_1500_CTL, R_HBM_CTL] && off < R_HBM_RETIRE
  | .llc _ => off ∉ [R_LLC_WAY_MODE, R_LLC_CTL] && (off < R_LLC_SEG_RETIRED || R_LLC_SEG_RETIRED + 32 ≤ off) && off < R_LLC_DARN
  | .fabric _ => off != R_ARB_COMMIT
  | .port _ => off ∉ [R_LINK_CTL, R_LINK_MAC]
  | .link p => off ∉ [R_LNK_SELF_RANK, R_PARTNER_CMD] && (off ∉ [R_LNK_REPLAY_BASE, R_LNK_REPLAY_SIZE] || panelEntries s p == [])
  | .group b => 0x800 ≤ off && (off - 0x800) % 64 != 0 && !grpValid s (16 * b + (off - 0x800) / 64)
  | .leg b => (legGroup s (256 * b + (off - 0x800) / 8)).isNone
  | .coll _ => off != R_NUM_CTL
  | .opt _ => off ∉ [R_NUM_CTL, R_OPT_LOSS]
  | .optShard p b => 0x800 < off && (off - 0x800) % 64 != 0 && !shValid s p (32 * b + (off - 0x800) / 64)
  | .recov _ => off != R_REC_CMD
  | .power _ => off < R_PWR_DOMAIN
  | .bist _ => off != R_BIST_REQ
  | _ => true

/-- Context `x` of core `c` takes the record `r` at its PC and the record acts (06_control_core.md R151, R166, R175, R181; 07_command_encoding.md
R186). -/
structure Acts (s : State) (c x : Nat) (r : Rec) : Prop where
  runs : coreRuns s c = true
  free : frozen s c = false
  turn : turnOf s c = some x
  goes : (ctxOf s c x).stepping = true ∨ (rdB s (kCore c R_CC_CTL) 0 = false ∧ (ctxOf s c x).haltNext = false)
  place : offInData (ctxPc s c x) = true
  inUse : csRetired s c (csBase c + ctxPc s c x) = false
  good : (wordsOf (csBase c + ctxPc s c x) 32).any (isBad s.mem) = false
  here : ctxRec s c x = r
  noBreak : (ctxOf s c x).stepping = true ∨ (ctxOf s c x).bpSkip = true ∨ tagHit s c x r = false
  legal : decodeOk r = true
  acts : predOf s c x (bits r 10 8) ≠ bitAt r 11

/-- Context `x` after it has taken the record `r`: a single step ends (R182). -/
def ctxTook (k : Ctx) (r : Rec) : Ctx := { k with bpSkip := false, stepping := false, halted := k.halted || k.stepping, cur := r }

/-- `t` is `s` after core `c` has read words in which no uncorrectable error stands: every byte of memory is as before; a correctable error read is corrected and
counted in CS_CE_CNT; the banks have been asked (08_core_store_streaming.md R212, R213). -/
structure FetchedFrom (s t : State) (c : Nat) : Prop where
  rest : { t with regs := s.regs, wakes := s.wakes, asleep := s.asleep, banks := s.banks, mem := s.mem } = s
  marks : { t.mem with weak := s.mem.weak } = s.mem
  regs : EventRegs s t [kCore c R_CS_CE_CNT]

/-- The record is executed with no wait: the PC is at the next record, CC_EXEC_CNT counts it, the turn passes on; of the plain registers only
these, the count of errors corrected in the fetch and the listed ones change, and nothing else of the machine does (R150, R151, R184; 08_core_store_streaming.md R212,
R213). -/
structure Executed (s t : State) (c x : Nat) (k : Ctx) (keys : List Nat) : Prop where
  pc : rd t (kCtx c x R_CTX_PC) = w64 ((ctxPc s c x + 32) % 2 ^ 26)
  count : rd t (kCore c R_CC_EXEC_CNT) = w64 (min ((rd s (kCore c R_CC_EXEC_CNT)).toNat + 1) maxWord)
  ctx : ctxOf t c x = k
  core : coreOf t c = { coreOf s c with rr := x, took := (coreOf s c).took + 1 }
  ctxs : ∀ i, i ≠ 8 * c + x → tabGet (fun _ => Ctx.rst) t.ctxs i = tabGet (fun _ => Ctx.rst) s.ctxs i
  cores : ∀ i, i ≠ c → coreOf t i = coreOf s i
  rest : { t with regs := s.regs, wakes := s.wakes, asleep := s.asleep, ctxs := s.ctxs, cores := s.cores, banks := s.banks, mem := s.mem } = s
  marks : { t.mem with weak := s.mem.weak } = s.mem
  regs : EventRegs s t (kCtx c x R_CTX_PC :: kCore c R_CC_EXEC_CNT :: kCore c R_CS_CE_CNT :: keys)

/-- Vector record `q` as it stands once it has read its descriptors (06_control_core.md R156). -/
def vecSeen (s : State) (c : Nat) (q : QEntry) : QEntry := fixScatter c (q.arrive s)

/-- Core `c` after vector record `q` has read its descriptors, with their check (06_control_core.md R156; 08_core_store_streaming.md R213). -/
def vecHere (s : State) (c : Nat) (q : QEntry) : State := modEntry (descCheck s c 5 q) c q.id (fun _ => vecSeen s c q)

/-- ... and after the two copies of the random source it draws from have been compared (04_numerics.md R115). -/
def vecAt (s : State) (c : Nat) (q : QEntry) : State := vecDrawCheck (vecHere s c q) c (vecSeen s c q)

/-- Vector record `q` as it fires: its draw inputs latched (04_numerics.md R99). -/
def vecLatched (s : State) (c : Nat) (q : QEntry) : QEntry :=
  { vecSeen s c q with fired := true, key := latchKey (vecAt s c q) (pgCore c) (vecSeen s c q) }

/-- The oldest vector record of core `c`, with operation `op`, comes to fire: the core runs, no vector record is fired, no check refuses
it, its tiles are ready; a source serves the draws of site 3; the target rows of a scatter-add are in the data region (06_control_core.md R156, R157, R162;
07_command_encoding.md R193, R203). -/
structure VecReady (s : State) (c op : Nat) (q : QEntry) (rest : List QEntry) : Prop where
  runs : coreRuns s c = true
  head : (coreOf s c).vecQ = q :: rest
  fresh : q.arrived = false
  quiet : ∀ o ∈ q :: rest, o.fired = false
  alone : ∀ o ∈ (coreOf s c).opeQ ++ rest ++ (coreOf s c).strQ, o.id ≠ q.id
  isOp : recOp q.word = op
  checked : vecCheck (descCheck s c 5 q) c (vecSeen s c q) = none
  tiles : tilesReady (vecHere s c q) c (vecSeen s c q) = true
  source : op = 0x5C ∨ op = 0x5D → (coreOf (vecAt s c q) c).vecFail = false ∨ (coreOf (vecAt s c q) c).strFail = false
  inside : scatterOut (vecAt s c q) c (vecSeen s c q) = false

/-- No row of the record `v` is refused: the STAT records it reads have the KIND it wants, no position record it reads is a poisoned one, and no row's keys count
above 1,048,576 (05_forward_backward.md R131, R133; 07_command_encoding.md R204). -/
def VecRowsOk (s : State) (v : QEntry) : Prop :=
  let x := v.tileD 32
  let kind := fun lo r => (statRead s (v.tileD lo) r).kind
  let more := fun (k : Nat) => vOpen v.word = true ∧ x.cols ≤ 1048576
    ∨ vOpen v.word = false ∧ ∀ r, r < x.rows → kind 64 r = k ∧ (statRead s (v.tileD 64) r).count + x.cols ≤ 1048576
  match recOp v.word with
  | 0x56 => ∀ r, r < x.rows → kind 64 r = if (v.tile 48).isSome then 1 else 2
  | 0x57 => ∀ r, r < (v.tileD 40).rows → kind 64 r = 1 ∨ kind 64 r = 2
  | 0x58 => keysBad s (v.tile 40) = false ∧ more 3 ∧ (vOpen v.word = true → ∀ t, v.tile 48 = some t → ∀ r, r < x.rows → (posWord s t r 0).2.1 = false)
  | 0x59 => keysBad s (v.tile 40) = false ∧ ∀ r, r < x.rows → kind 64 r = 3
  | 0x5A => more 4
  | 0x5B => keysBad s (v.tile 48) = false ∧ ∀ r, r < x.rows → kind 64 r = 3 ∧ kind 72 r = 4
  | _ => True

/-- The byte at `a` after writes made in order, where it was `old`. -/
def written (ws : List (Nat × List Byte)) (a : Nat) (old : Byte) : Byte :=
  match ws.reverse.find? (fun w => decide (w.1 ≤ a) && decide (a < w.1 + w.2.length)) with
  | some w => nth 0 w.2 (a - w.1)
  | none => old

/-- Every byte of memory reads as before. -/
def SameBytes (s t : State) : Prop := ∀ a, getCell t.mem a = getCell s.mem a

/-- Every byte of memory outside `n` bytes from `a` on reads as before. -/
def SameBytesBut (s t : State) (a n : Nat) : Prop := ∀ b, b < a ∨ a + n ≤ b → getCell t.mem b = getCell s.mem b

/-- `t` is `s` after vector record `q` has fired with the outcome `out` and no row refused: it is fired; outside a task its writes into the data region stand in memory,
inside one they wait for the log; no register of a context page changes, and of the rest of the machine only registers, full bits, the deadline
estimates of streams, the banks' queues and a source's fault that has been found may. -/
structure VecFired (s t : State) (c : Nat) (q : QEntry) (rest : List QEntry) (out : VecOut) : Prop where
  fired : (coreOf t c).vecQ = vecLatched s c q :: rest
  stored : q.task = false → (∀ w ∈ out.writes, regionOf w.1 = .data c) → ∀ a, getCell t.mem a = written out.writes a (getCell s.mem a)
  logged : q.task = true → SameBytes s t ∧ (coreOf t c).logQ = (coreOf s c).logQ
    ++ (byGranule out.writes).map (fun g => ⟨q.id, q.ctx, g.1, g.2⟩)
  contexts : ∀ d x off, d < 32 → x < 8 → off < 4096 → rd t (kCtx d x off) = rd s (kCtx d x off)
  rest : { t with regs := s.regs, wakes := s.wakes, asleep := s.asleep, mem := s.mem, cores := s.cores, fb := s.fb, ctxs := s.ctxs, est := s.est,
                  banks := s.banks, srSick := s.srSick } = s

/-- Core `c` after stream record `q` has read its descriptors, with their check (06_control_core.md R156; 08_core_store_streaming.md R213). -/
def strHere (s : State) (c : Nat) (q : QEntry) : State := modEntry (descCheck s c 6 q) c q.id (fun _ => q.arrive s)

/-- The oldest stream record of core `c` that has not fired, with operation `op`, comes to fire: the core runs, its engine is not frozen, no check
refuses it, its tiles are ready, fewer than 8 records run, and refetch state is left where it reads a WATCHED region
(08_core_store_streaming.md R216, R219, R229; 15_mantle_cloak.md R403). -/
structure StrReady (s : State) (c op : Nat) (q : QEntry) : Prop where
  runs : coreRuns s c = true
  free : frozen s (0x20 + c) = false
  head : ((coreOf s c).strQ.filter (fun o => !o.fired)).head? = some q
  fresh : q.arrived = false
  isOp : recOp q.word = op
  checked : strCheck (descCheck s c 6 q) c (q.arrive s) = none
  tiles : tilesReady (strHere s c q) c (q.arrive s) = true
  room : (coreOf s c).runs.countP (fun r => !r.refetch) < 8
  unwatched : readsWatched (strHere s c q) (q.arrive s) = false ∨ (coreOf s c).watch.length < 64
  alone : (∀ o ∈ (coreOf s c).entries, o.id = q.id → o = q) ∧ (∀ o ∈ (coreOf s c).runs, o.id ≠ q.id)
    ∧ (∀ r ∈ (coreOf s c).slots ++ (coreOf s c).held ++ (coreOf s c).parked, r.cmd ≠ q.id) ∧ ∀ w ∈ (coreOf s c).logQ, w.id ≠ q.id

/-- Request `r` of core `c`, of a stream whose deadline is `d`, asks Panel `p` for a shared tag and may take one (08_core_store_streaming.md R220, R223, R226). -/
def AsksTag (s : State) (p c : Nat) (r : StrReq) (d : Int) : Prop :=
  c / 8 = p ∧ coreRuns s c = true ∧ r ∈ (coreOf s c).slots ∧ r.asked = true ∧ cappedPc s c r.pcs = none ∧ tagless s c r = false ∧ heldBack s c r.pcs = false
    ∧ ∃ run, (coreOf s c).runs.find? (fun o => o.id == r.cmd) = some run ∧ d = runDeadline s c run.sid

/-- Frame `f` arrives at port `p`, which is UP and whose Hem is not held, and passes every check: it is of entry `e` and addressed to `to` (12_wyist_links.md R321, R323, R342). -/
structure FrameOk (s : State) (p : Nat) (f : WFrame) (chk : RxCheck) (e : Nat) (dest : RxTo) : Prop where
  up : portHears s p = true
  clean : chk.fecUncorrectable = false ∧ headOk s p chk.head f = true ∧ (rdB s (kPort p R_LINK_STATUS) 3 = true ∨ chk.fcsOk = true)
  form : f.ver = 1 ∧ f.type < 4 ∧ f.len ≤ 512 ∧ (f.type ≠ 0 → f.len = 0) ∧ f.payload.length = f.len
  sender : entryOf s f.srcRank = some e
  live : linkUp s (ptrPanel e) = true ∧ ptrState s e ≠ 3 ∧ ptrState s e ≠ 4
  aimed : rxTo s e f = some dest
  epoch : (f.mcast = true ∧ headOwn s p chk.head = false) ∨ f.epoch = ptrEpoch s e
  tag : tagOk (rxKey s dest) f = true

/-- Frame `w` leaves on port `i` for the address `dest`; before a Hem that is held it waits (02_handshake_time.md R52; 12_wyist_links.md R320). -/
def Leaves (s t : State) (i dest : Nat) (w : WFrame) : Prop :=
  let k : WirePkt := ⟨i, wireHead s i dest w, w⟩
  if hemHeld s (8 + i) then t.wireHeld = s.wireHeld ++ [k] ∧ t.wire = s.wire else t.wire = s.wire ++ [k] ∧ t.wireHeld = s.wireHeld

/-- The payload of a new frame of Panel `p` stands in the replay slot it takes, where LNK_REPLAY_BASE names scratchpad of the Panel; every other byte of memory is as
before (12_wyist_links.md R332, R339). -/
def ReplayKept (s t : State) (p : Nat) (b : List Byte) : Prop :=
  let a := replayAddr s p (replaySlot s p)
  if b ≠ [] ∧ replayIn s p a b.length then (∀ i, i < b.length → getCell t.mem (a + i) = nth 0 b i) ∧ SameBytesBut s t a b.length else SameBytes s t

/-- Frames of the control port go onto the fibre; before a Hem that is held they wait (02_handshake_time.md R52). -/
def CpLeaves (s t : State) (fs : List CpFrame) : Prop :=
  if hemHeld s 24 then t.cp.held = s.cp.held ++ fs ∧ t.cp.wire = s.cp.wire else t.cp.wire = s.cp.wire ++ fs ∧ t.cp.held = s.cp.held

/-- The frames held for a stream (12_wyist_links.md R326, R327). -/
def heldOf (s : State) : RxStream → List RxSlot
  | .entry e c => heldCls s e c
  | .group g => (grpOf s g).held

/-- The state in which a performed REC_CMD is carried out: the write counted and answered, the command under way, BUSY set (14_recovery.md R392). -/
def recBegun (s : State) (op : Nat) (outcome : Bool) : State :=
  let s := setResp (bumpHdr s (pgRec 0) R_BLK_WR_CNT) .ok
  let s := { s with recov := ⟨op, outcome, none, 0, 0, s.recov.restored⟩ }
  wrB (wrB s (kRec 0 R_REC_STATUS) 0 true) (kRec 0 R_REC_CMD_STAT) 0 true

/-- The Mantle's next command is that of word Pocket `w`, with this OP, none of OP in no table follows it, and the answer can leave at once: the
answer Pocket is free, none waits before it, the control port's receiver is up (15_mantle_cloak.md R405); the clock of the Mantle's Hem runs (02_handshake_time.md R52). -/
structure MntReady (s : State) (w : Fin 8) (op : Nat) : Prop where
  clock : hemHeld s 29 = false
  head : s.mnt.order.head? = some w.val
  isOp : bits (mntWord s w) 63 56 = op
  free : ∀ e, s.mnt.endCmd = some e → e.1 ≠ w.val
  known : ∀ x, (s.mnt.order.filter (fun x => x != w.val)).head? = some x → bits (mntWord s x) 63 56 ∈ mntOps
  pocket : wpGo s (8 + w) = false ∧ ∀ a ∈ s.mnt.out, a.1 ≠ 8 + w.val
  receiver : domOn s 44 = true ∧ domOn s 48 = true

/-- Word Pocket `8 + w` carries the answer to command word `v`: OP and SEQ echoed, STATUS, and VALUE where the spec states one (15_mantle_cloak.md R405). -/
def Answers (t : State) (w : Fin 8) (v : Word) (status : Nat) (value : Option Nat) : Prop :=
  wpGo t (8 + w) = true ∧ bits (mntWord t (8 + w)) 63 56 = bits v 63 56 ∧ bits (mntWord t (8 + w)) 55 48 = bits v 55 48
    ∧ bits (mntWord t (8 + w)) 47 40 = status ∧ ∀ n, value = some n → bits (mntWord t (8 + w)) 39 0 = n

/-- The next command of service processor 0 is on Pocket 0, with this OP; its writes that take the message and send the answer are admitted,
Pockets 0 and 1 are bound as Table: Service Pockets, Pocket 1 is free and no answer waits before (16_bringup_service.md R447, R448). -/
structure SvcReady (s : State) (op : Nat) : Prop where
  next : svcNext s op = true
  button : MayWrite s 0x40 (pgBtn 0x40) R_BTN_PEND 1
  take : MayWrite s 0x40 (pgPocket 0) R_PKT_TAKE 1
  from0 : pktSender s 0 = 0x44
  bound : pktValid s 1 = true ∧ pktSender s 1 = 0x40 ∧ pktReceiver s 1 = 0x44
  room : pktGo s 1 = false ∧ pktOn s 1 = true ∧ s.svc.out = []
  receiver : domOn s 48 = true

/-- Word 0 of Pocket 0: OP, SEQ, ARG; and its further words (16_bringup_service.md R448). -/
def svcWord (s : State) (n : Nat) : Word := rd s (reg (pgPocket 0) (R_PKT_MSG + 8 * n))

/-- The message of Pocket 0 is taken: GO and Button 0 clear (09_yoke_pockets.md R253; 16_bringup_service.md R447). -/
def SvcTaken (t : State) : Prop := pktGo t 0 = false ∧ rdB t (reg (pgBtn 0x40) R_BTN_PEND) 0 = false

/-- Pocket 1 carries the answer to the command whose word 0 is `v`: OP and SEQ echoed, STATUS (16_bringup_service.md R448). -/
def SvcAnswers (t : State) (v : Word) (status : Nat) : Prop :=
  pktGo t 1 = true ∧ bits (rd t (reg (pgPocket 1) R_PKT_MSG)) 63 48 = bits v 63 48 ∧ bits (rd t (reg (pgPocket 1) R_PKT_MSG)) 47 40 = status

/-- The registers that taking a service command and answering it write beside events and Buttons. -/
def svcKeys : List Nat :=
  [reg (pgPocket 0) R_PKT_STATUS, reg (pgPocket 0) R_BLK_WR_CNT, reg (pgBtn 0x40) R_BLK_WR_CNT, reg (pgPocket 1) R_PKT_STATUS,
    reg (pgPocket 1) R_BLK_WR_CNT, reg (pgPocket 1) R_PKT_MSG, reg (pgPocket 1) R_PKT_SENT_CNT]

/-- Beside the message taken and the answer sent, only the listed registers, events, and the firmware's own record change. -/
def SvcOnly (s t : State) (keys : List Nat) : Prop :=
  { t with regs := s.regs, wakes := s.wakes, asleep := s.asleep, svc := s.svc, free := s.free, toYoke := s.toYoke, resp := s.resp } = s
    ∧ EventRegs s t (svcKeys ++ keys)

/-- Power-up and the pins agree (16_bringup_service.md R429, R430; 18_module_hardware.md R489, R497, R498, R499): the phase is one of
Table: Power-up sequence; PWR_GOOD is high only in the phases of a module whose domains are up, not after a thermal trip; main power is not good
while the input is low; from step 4 on main power is good and RESET_N is released; ALERT_N is asserted while a cause of STATUS is set. -/
structure PinsAgree (s : State) : Prop where
  phases : s.pwr.phase ∈ [0, 1, 3, 4, 6, 7]
  good : s.pwr.pwrGood = true → (s.pwr.phase = 6 ∨ s.pwr.phase = 7) ∧ s.pwr.tripped = false
  main : s.pwr.mainGood = true → s.pwr.inputLow = false
  powered : 4 ≤ s.pwr.phase → s.pwr.mainGood = true ∧ s.pwr.resetHeld = false
  alert : alertCause s = true → s.pwr.alert = true

/-- The lines the LLC slices hold (10_hbm_llc.md R284, R285): each is a whole line of HBM, 128 bytes long, in one of 16 ways, and no two lines of a set
stand in one way. -/
structure LinesOk (s : State) : Prop where
  place : ∀ e ∈ s.mem.llc, e.1 % 128 = 0 ∧ e.1 < 0x8000000000
  whole : ∀ e ∈ s.mem.llc, e.2.data.length = 128 ∧ e.2.way < 16
  apart : ∀ e ∈ s.mem.llc, ∀ f ∈ s.mem.llc, llcSet e.1 = llcSet f.1 → hbmPanel e.1 = hbmPanel f.1 → e.2.way = f.2.way → e.1 = f.1

end Sys2Proof.Machine
end

