-- ==== Sys2Proof/Certificates/Slice0/Obligations.lean ====
section
/-! DEFINITION. What the spec says the module does, stated of the model. -/
open Sys2Proof Sys2Proof.Machine

/-- The model's queue (log entry 1): a step with `c` at the front of the queue is `exec c` with the queue's rest. -/
def Obligations.StepRunsFrontCommand : Prop :=
  (∀ (c : Instr) (s : State), step { s with pending := c :: s.pending } = exec c s)
  ∧ ∀ s : State, s.pending = [] → step s = .next (idle s)

/-- Every command answers a next state, whose queue is as it was; so does the idle step (log entry 1). -/
def Obligations.ExecLeavesQueue : Prop :=
  (∀ (c : Instr) (s : State), Runs c s (fun t => t.pending = s.pending)) ∧ ∀ s : State, (idle s).pending = s.pending

/-- R9, R27, R472, R481: a register read that is performed. -/
def Obligations.RegisterReadAnswersAndClears : Prop :=
  ∀ (mid : Mid) (addr : Word) (page : Nat) (s : State), regionOf addr.toNat = .mmio page → isMaster mid.toNat = true →
    addr.toNat % 4096 % 8 = 0 → pageKind page ≠ none → cloakDenies s mid.toNat false = false → pageOn s page = true →
    let off := addr.toNat % 4096
    let key := reg (if off < 0x100 then mainPage page else page) off
    Runs (.readClear mid addr) s (fun t =>
      t.resp = .data (regValue s mid.toNat page off)
      ∧ (plainKey key → key ≠ reg (mainPage page) R_BLK_RD_CNT →
          rd t key = if readSees s mid.toNat page off then rd s key &&& ~~~ fldsMask .rc (regFlds page off) else rd s key)
      ∧ (rd t (reg (mainPage page) R_BLK_RD_CNT)).toNat
          = min ((if key = reg (mainPage page) R_BLK_RD_CNT ∧ readSees s mid.toNat page off = true then 0
              else (rd s (reg (mainPage page) R_BLK_RD_CNT)).toNat) + 1) maxWord
      ∧ { t with regs := s.regs, wakes := s.wakes, asleep := s.asleep, resp := s.resp } = s
      ∧ EventRegs s t [key, reg (mainPage page) R_BLK_RD_CNT])

/-- R9, R10: one write acts on every field of the register, each by its own code; a write of a register that starts something is that command. -/
def Obligations.RegisterWriteActsFieldByField : Prop :=
  (∀ (mid : Mid) (addr value : Word) (page : Nat) (k : PageKind) (s : State), regionOf addr.toNat = .mmio page → pageKind page = some k →
    fieldsOnly s k (addr.toNat % 4096) value = true → 0x100 ≤ addr.toNat % 4096 → MayWrite s mid.toNat page (addr.toNat % 4096) value →
    let off := addr.toNat % 4096
    let key := reg page off
    let own := ownsPage s mid.toNat page
    let mantle := isMantle mid.toNat
    Runs (.registerWrite mid addr value) s (fun t =>
      t.resp = .ok
      ∧ (plainKey key ∨ (rd s (reg (mainPage page) R_BLK_WR_CNT)).toNat + 1 < maxWord →
          ∀ f ∈ regFlds page off, ∀ i, f.lo ≤ i → i ≤ f.hi → (rd t key).getLsbD i =
            match f.acc with
            | .rw => if own then value.getLsbD i else (rd s key).getLsbD i
            | .mw => if mantle then value.getLsbD i else (rd s key).getLsbD i
            | .w1c => (rd s key).getLsbD i && !(own && value.getLsbD i)
            | _ => (rd s key).getLsbD i)
      ∧ { t with regs := s.regs, wakes := s.wakes, asleep := s.asleep, resp := s.resp } = s
      ∧ EventRegs s t [key, reg (mainPage page) R_BLK_WR_CNT]))
  ∧ ∀ (mid : Mid) (c : Core) (x : CtxId) (p : Panel) (e : BitVec 12) (s : State),
    exec (.registerWrite mid (mmioAddr (pgCtx c x) R_CTX_CTL) 1) s = exec (.start mid c x) s
    ∧ exec (.registerWrite mid (mmioAddr (pgCore c) R_DL_CTL) 1) s = exec (.recal mid c) s
    ∧ exec (.registerWrite mid (mmioAddr (pgCore c) R_FB_CMD) (w64 (0x10000 + e.toNat))) s = exec (.fbSetFull mid c e) s
    ∧ exec (.registerWrite mid (mmioAddr (pgFab p) R_ARB_COMMIT) 1) s = exec (.arbCommit mid p) s

/-- R401, R402: what a violating write does in place of its own effect. -/
def Obligations.ViolatingWriteFreezesItsMaster : Prop :=
  ∀ (mid : Mid) (addr value : Word) (page cause : Nat) (s : State), regionOf addr.toNat = .mmio page → isMaster mid.toNat = true →
    mid.toNat < 0x60 → verdict s mid.toNat page (addr.toNat % 4096) value = .violation cause →
    let n := rdF s (reg (pgMnt 0) R_MNT_VIOL_NEXT) 3 0
    let k := reg (pgMnt 0) (R_MNT_VIOL_LOG_word_0 + 16 * n)
    Runs (.registerWrite mid addr value) s (fun t =>
      t.resp = .violation
      ∧ frozen t mid.toNat = true
      ∧ rd t k = w64 (2 ^ 63 + cause * 2 ^ 48 + mid.toNat * 2 ^ 40 + refcnt s 29 % 2 ^ 40)
      ∧ rd t (k + 8) = mmioAddr page (addr.toNat % 4096)
      ∧ rdF t (reg (pgMnt 0) R_MNT_VIOL_NEXT) 3 0 = (n + 1) % 16
      ∧ { t with regs := s.regs, wakes := s.wakes, asleep := s.asleep, resp := s.resp } = s
      ∧ EventRegs s t ([k, k + 8, reg (pgMnt 0) R_MNT_FROZEN, reg (pgMnt 0) (R_MNT_FROZEN + 8), reg (pgMnt 0) R_MNT_VIOL_NEXT,
          reg (pgMnt 0) R_MNT_VIOL_OVF_CNT, reg (pgMnt (midPanel mid.toNat)) R_MNT_VIOL_CNT]
          ++ (midPage mid.toNat).toList.map (fun p => reg (mainPage p) R_BLK_FREEZE_CNT)))

/-- R39, R41, R454: the delay line of a core. -/
def Obligations.DelayLineCommands : Prop :=
  (∀ (c : Core) (m : Byte) (s : State), domOn s c = true → m.toNat < 16 →
    Runs (.dlMarginLow c m) s (fun t => rdB t (kCore c R_DL_STATUS) 1 = true ∧ rdF t (kCore c R_DL_STATUS) 15 8 = m.toNat
      ∧ OnlyEvents s t [kCore c R_DL_STATUS]))
  ∧ (∀ (mid : Mid) (c : Core) (s : State), MayWrite s mid.toNat (pgCore c) R_DL_CTL 1 →
    Runs (.recal mid c) s (fun t => (coreOf t c).recal = true ∧ rd t (kCore c R_DL_STATUS) = rd s (kCore c R_DL_STATUS)
      ∧ ((coreOf s c).recal = true → coreOf t c = coreOf s c) ∧ ((coreOf s c).recal = false → (coreOf t c).katRunning = List.range 10)
      ∧ (∀ d, d ≠ c.val → coreOf t d = coreOf s d) ∧ t.mem = s.mem ∧ EventRegs s t [kCore c R_BLK_WR_CNT]))
  ∧ ∀ (c : Core) (replica : Nat) (m : Byte) (s : State), domOn s c = true →
    ((coreOf s c).recal = true ∨ rdB s (kCore c R_DL_STATUS) 0 = false) →
    Runs (.dlRecalDone c replica m) s (fun t => (coreOf t c).recal = false ∧ (coreOf t c).delay = .set (110 * replica)
      ∧ (coreOf t c).keptDelay = 110 * replica ∧ (coreOf t c).keptValid = true ∧ rdB t (kCore c R_DL_STATUS) 0 = true
      ∧ t.mem = s.mem ∧ EventRegs s t [kCore c R_DL_STATUS])

/-- R52 to R57: the clock and the crossings of a Hem. -/
def Obligations.HemClockCommands : Prop :=
  ∀ (h : HemId) (s : State), hemOn s h = true →
    let go := fun (t : State) =>
      (8 ≤ h.val → h.val < 24 → t.wire = s.wire ++ s.wireHeld.filter (fun f => f.port == h.val - 8) ∧ ∀ f ∈ t.wireHeld, f.port ≠ h.val - 8)
      ∧ (h.val = 24 → t.cp.wire = s.cp.wire ++ s.cp.held ∧ t.cp.held = [])
    (s.hemStopped.contains h.val = false →
      Runs (.hemClockStop h) s (fun t => rdB t (kXing h) 0 = false ∧ h.val ∈ t.hemStopped ∧ hemHeld t h = true
        ∧ { t with regs := s.regs, hemStopped := s.hemStopped } = s ∧ ∀ k, k ≠ kXing h → rd t k = rd s k))
    ∧ Runs (.hemClockRun h) s (fun t => rdB t (kXing h) 0 = true ∧ h.val ∉ t.hemStopped ∧ (rdB s (kXing h) 3 = false → hemHeld t h = false ∧ go t)
        ∧ { t with regs := s.regs, hemStopped := s.hemStopped, wire := s.wire, wireHeld := s.wireHeld, cp := s.cp } = s ∧ ∀ k, k ≠ kXing h → rd t k = rd s k)
    ∧ (rdB s (kXing h) 0 = false →
      Runs (.hemClockLoss h) s (fun t => rdB t (kXing h) 4 = true
        ∧ rdB t (reg (mainPage (hemOwnerPage h)) R_BLK_ERR_LOG) 63 = true
        ∧ OnlyEvents s t [kXing h, reg (mainPage (hemOwnerPage h)) R_BLK_ERR_LOG, reg (mainPage (hemOwnerPage h)) R_BLK_ERR_ADDR,
            reg (mainPage (hemOwnerPage h)) R_BLK_ERR_CNT]))
    ∧ ((8 ≤ h.val ∧ h.val < 25) →
      Runs (.overrun h) s (fun t => rdB t (kXing h) 1 = true
        ∧ rd t (reg (pgHem h) R_HEM_OVERRUN_CNT) = w64 (min ((rd s (reg (pgHem h) R_HEM_OVERRUN_CNT)).toNat + 1) maxWord)
        ∧ OnlyEvents s t [kXing h, reg (pgHem h) R_HEM_OVERRUN_CNT]))
    ∧ (¬(8 ≤ h.val ∧ h.val < 25) → Runs (.overrun h) s (fun t => hemOwnerPage h ∈ t.breached ∧ t.mem = s.mem))
    ∧ ∀ side : Bool,
      Runs (.resync h side) s (fun t => rdB t (kXing h) 3 = true ∧ (h.val, side) ∈ t.resync ∧ hemHeld t h = true ∧ t.mem = s.mem
        ∧ rd t (reg (pgHem h) R_HEM_RESYNC_CNT)
            = (if rdB s (kXing h) 3 then rd s (reg (pgHem h) R_HEM_RESYNC_CNT) else w64 (min ((rd s (reg (pgHem h) R_HEM_RESYNC_CNT)).toNat + 1) maxWord))
        ∧ (8 ≤ h.val → h.val < 24 → ∀ f ∈ t.wireHeld, f.port ≠ h.val - 8))
      ∧ ((h.val, side) ∈ s.resync → Runs (.resyncReady h side) s (fun t => (h.val, side) ∉ t.resync
          ∧ ((∀ r ∈ s.resync, r.1 = h.val → r = (h.val, side)) → rdB t (kXing h) 3 = false ∧ (s.hemStopped.contains h.val = false → hemHeld t h = false ∧ go t))
          ∧ ((∃ r ∈ s.resync, r.1 = h.val ∧ r ≠ (h.val, side)) → rdB t (kXing h) 3 = rdB s (kXing h) 3)
          ∧ { t with regs := s.regs, resync := s.resync, wire := s.wire, wireHeld := s.wireHeld, cp := s.cp } = s ∧ ∀ k, k ≠ kXing h → rd t k = rd s k))

/-- R63, R65, R69, R75, R76: the step phase of a product. -/
def Obligations.ProductFiresFeedsAndSteps : Prop :=
  ∀ (c : Core) (s : State), coreRuns s c = true → ((coreOf s c).prods.map (fun r => r.id)).Nodup →
    let en := enabledPos s c
    (∀ q p, ((coreOf s c).opeQ.filter (fun q => !q.fired)).head? = some q → q.arrived = true → prodOf q = some p →
      (∀ e ∈ (coreOf s c).entries, e.id = q.id → e = q) → (∀ r ∈ (coreOf s c).prods, r.id ≠ q.id) →
      arraysReady s c = true → tilesReady s c q = true → (accNow (coreOf s c) = none ∨ accNow (coreOf s c) = some q.ctx) →
      (p.keep = true → accNow (coreOf s c) = some q.ctx) → 0 < p.steps → fedGroups p en ≠ [] →
      Runs (.opeProduct c) s (fun t => ∃ r ∈ (coreOf t c).prods, r.id = q.id ∧ r.steps = p.steps ∧ r.attempt = 0 ∧ r.shift = retryShift s c p
        ∧ r.groups = [] ∧ r.fetched = [] ∧ r.links = [] ∧ r.copied = []))
    ∧ (∀ (f : Feeder) r q p, feedsNext s c f = some (r, q, p) →
      let key := feederKey f
      let done := tabGet (fun _ => 0) r.fetched key
      let n := min 2 (min (r.steps - done) (4 - linkFill s c f))
      Runs (.feederRefill c f) s (fun t => SameBytes s t ∧ ∃ r' ∈ (coreOf t c).prods, r'.id = r.id ∧ r'.groups = r.groups
        ∧ tabGet (fun _ => 0) r'.fetched key = done + n
        ∧ ∃ l, tabGet (fun _ => []) r'.links key = tabGet (fun _ => []) r.links key ++ l ∧ l.length = n
          ∧ ∀ i, i < n → l[i]? = some ((feedEntry s p en f (done + i)).map (fun x => x.1))))
    ∧ ∀ (g : CellGroup) r q p (re ce : List (List FVal)),
      let id := (g.ope.val, g.pos.val, g.rs.val, g.cs.val)
      let arr := g.ope.val * 4 + g.pos.val
      let n := groupDone r id
      groupNext s c id = some (r, q, p) → arrayMine en (prodsBefore s c r.id) (r, q, p) arr = true →
      linkEntry r (.row g.pos g.rs) n = some re → linkEntry r (.col g.ope g.cs) n = some ce →
      (n + 1 < r.steps ∨ ∃ o ∈ fedGroups p en, o ≠ id ∧ groupDone r o < r.steps) →
      let draws := arrDraws (drawCheck s c arr (!p.accRne && arrDraws s c arr)) c arr
      let u := (groupUpdate s c r q p en id.1 id.2.1 id.2.2.1 id.2.2.2 n draws re ce).1
      Runs (.cellGroupFire c g) s (fun t => (∃ r' ∈ (coreOf t c).prods, r'.id = r.id ∧ groupDone r' id = n + 1)
        ∧ rd t (kCore c R_OPE_CELL_UPD_CNT) = w64 (min ((rd s (kCore c R_OPE_CELL_UPD_CNT)).toNat + u.length) maxWord)
        ∧ ((coreOf s c).prods = [r] → (p.keep = true ∨ ∀ i ∈ p.fedArrays en, i ∈ r.zeroed) →
            (∀ w ∈ u, (u.map Prod.fst).count w.1 = 1 → accOf (coreOf t c) w.1 = w.2) ∧ (∀ k, k ∉ u.map Prod.fst → accOf (coreOf t c) k = accOf (coreOf s c) k)
            ∧ t.mem = s.mem))

/-- R71, R78, R79, R84, R107, R108: drains, retries, and the end of an accumulation. -/
def Obligations.DrainsRetriesAndCloses : Prop :=
  ∀ (c : Core) (s : State),
    let en := enabledPos s c
    let k := coreOf s c
    (coreRuns s c = true → (k.prods.map (fun r => r.id)).Nodup → (k.drains.map (fun d => d.id)).Nodup →
      (∀ (a : ArrayId) r q p, let arr := a.ope.val * 4 + a.pos.val
        copyNext s c arr = some (r, q, p) → latchBusy k arr = false →
        Runs (.drainCopy c a) s (fun t => (∀ ij ∈ fedCells p en arr, let key := cellKey arr ij.1 ij.2
            latchOf (coreOf t c) key = ⟨accOf k key, k.accBad.contains key, false⟩ ∧ accOf (coreOf t c) key = 0 ∧ key ∉ (coreOf t c).accBad)
          ∧ (∃ d ∈ (coreOf t c).drains, d.id = r.id ∧ (arr, p.posRows en (arr % 4)) ∈ d.left)))
      ∧ (∀ (a : ArrayId) d q p row rest tile, let arr := a.ope.val * 4 + a.pos.val
        k.drains.find? (fun d => d.left.any (fun l => l.1 == arr && l.2 != [])) = some d → d.left.find? (fun l => l.1 == arr) = some (arr, row :: rest) →
        findEntry s c d.id = some q → prodOf q = some p → p.d (arr / 4) = some tile → logPending s c q.id = false →
        let u := latchCheck s c arr (rowReads p tile arr row (p.posRows en (arr % 4)))
        let v := drawCheck u c arr (!p.outRne && tile.fmt != .w40 && arrDraws u c arr)
        let ws := (drainWrites v c q p tile arr row (64 * (posBand en (arr % 4)).getD 0 + row) (p.posRows en (arr % 4)) (arrDraws v c arr)).1
        Runs (.drainRow c a) s (fun t => (∃ e ∈ (coreOf t c).drains, e.id = d.id ∧ e.left = d.left.map (fun l => if l.1 = arr then (arr, rest) else l))
          ∧ (q.task = false → t.mem = (ws.foldl (fun u w => storeMem u w.1 w.2 false) v).mem)
          ∧ (q.task = true → t.mem = s.mem ∧ (coreOf t c).logQ = k.logQ ++ (byGranule ws).map (fun g => ⟨q.id, q.ctx, g.1, g.2⟩))))
      ∧ (∀ (ope : Fin 2) d q p, let slot := if ope.val = 0 then 56 else 64
        let last := (p.d (1 - ope.val)).isNone || d.opes.contains (1 - ope.val)
        k.drains.find? (fun d => !d.opes.contains ope.val) = some d → findEntry s c d.id = some q → prodOf q = some p → logPending s c q.id = false → opeDrained p en d ope.val = true →
        (p.retry = true → (∀ r ∈ k.prods, r.id ≠ d.id) ∧ opeDrained p en d 0 = true ∧ opeDrained p en d 1 = true ∧ retryable p d = false) →
        ((p.d ope.val).isNone ∨ q.owesShift slot = false →
          (last = true → (∀ r ∈ k.prods, r.id ≠ d.id) → Runs (.drainDone c ope) s (fun t => (∀ e ∈ (coreOf t c).drains, e.id ≠ d.id) ∧ findEntry t c q.id = none))
          ∧ (last = false ∨ (∃ r ∈ k.prods, r.id = d.id) → Runs (.drainDone c ope) s (fun t => ∃ e ∈ (coreOf t c).drains, e.id = d.id ∧ e.opes = d.opes ++ [ope.val]
              ∧ findEntry t c q.id = some q)))
        ∧ ((p.d ope.val).isSome → q.owesShift slot = true → Runs (.drainDone c ope) s (fun t => t.mem = s.mem
            ∧ (coreOf t c).logQ = k.logQ ++ (byGranule [(q.baseOf slot + 49, [BitVec.ofNat 8 (d.shift * d.attempt)])]).map (fun g => ⟨q.id, q.ctx, g.1, g.2⟩))))
      ∧ ∀ d q p, k.drains.find? (fun d => match findEntry s c d.id with
            | some q => bitAt q.word 95
            | none => false) = some d → findEntry s c d.id = some q → prodOf q = some p → p.keep = false → k.prods = [] →
        opeDrained p en d 0 = true → opeDrained p en d 1 = true → retryable p d = true → logPending s c q.id = false → 0 < p.steps → fedGroups p en ≠ [] →
        Runs (.scaledRetry c) s (fun t => (∃ r, (coreOf t c).prods = [r] ∧ r.id = q.id ∧ r.steps = p.steps ∧ r.attempt = d.attempt + 1 ∧ r.shift = d.shift ∧ r.groups = []
            ∧ r.fetched = [] ∧ r.links = [])
          ∧ (∀ e ∈ (coreOf t c).drains, e.id ≠ d.id) ∧ (∀ i ∈ p.fedArrays en, ∀ n, n < 1024 → accOf (coreOf t c) (1024 * i + n) = 0) ∧ t.mem = s.mem))
    ∧ ∀ x, domOn s c = true → k.accOwner = some x → k.accClosing = true → (∀ q ∈ k.opeQ, q.fired = true → q.ctx ≠ x) →
      Runs (.accClose c) s (fun t => coreOf t c = { k with acc := [], accBad := [], accOwner := none, accClosing := false, accTask := false }
        ∧ (∀ d, d ≠ c.val → coreOf t d = coreOf s d) ∧ { t with cores := s.cores } = s)

/-- R101, R106, R115, R116: the random sources and the step index. -/
def Obligations.RandomSourceTests : Prop :=
  (∀ (mid : Mid) (b : SrBlock) (v : Word) (s : State), MayWrite s mid.toNat (srPage b) R_NUM_CTL v → bitAt v 16 = true →
    Runs (.srKatRun mid b v) s (fun t => rdF t (reg (srPage b) R_NUM_CTL) 3 0 = (if bits v 3 0 = 0 then 4 else bits v 3 0)
      ∧ t.mem = s.mem ∧ EventRegs s t [reg (srPage b) R_NUM_CTL, reg (srPage b) R_BLK_WR_CNT]
      ∧ match b with
        | .core c => (coreOf t c).katRunning = List.range 10 ∧ t.katPages = s.katPages
        | _ => srPage b ∈ t.katPages ∧ t.cores = s.cores))
  ∧ (∀ (c : Core) (source : Nat) (pass : Bool) (s : State), pageOn s (pgCore c) = true → source ∈ (coreOf s c).katRunning → source < 10 →
    let left := (coreOf s c).katRunning.filter (fun i => i != source)
    let failed := fun t => (coreOf t c).arrFail ≠ 0 ∨ (coreOf t c).vecFail = true ∨ (coreOf t c).strFail = true
    Runs (.srKatDone (.core c) source pass) s (fun t => (coreOf t c).katRunning = left ∧ t.mem = s.mem
      ∧ (source < 8 → (coreOf t c).arrFail.testBit source = !pass) ∧ (source = 8 → (coreOf t c).vecFail = !pass) ∧ (source = 9 → (coreOf t c).strFail = !pass)
      ∧ (∀ i, i ≠ source → (coreOf t c).arrFail.testBit i = (coreOf s c).arrFail.testBit i)
      ∧ (left = [] → (rdB t (kCore c R_NUM_CTL) 4 = true ↔ ¬ failed t)) ∧ (pass = true → ¬ failed t → rdB t (kCore c R_BLK_STAT) 7 = false)
      ∧ (pass = false → rdB t (kCore c R_NUM_CTL) 4 = false ∧ rdB t (kCore c R_BLK_STAT) 7 = true
          ∧ rd t (kCore c R_NUM_SR_FAIL_CNT) = w64 (min ((rd s (kCore c R_NUM_SR_FAIL_CNT)).toNat + 1) maxWord))
      ∧ EventRegs s t ([kCore c R_NUM_CTL] ++ if pass then [] else [kCore c R_NUM_SR_FAIL_CNT, kCore c R_BLK_DEGRADE_CNT])))
  ∧ (∀ (b : SrBlock) (pass : Bool) (s : State), (∀ c, b ≠ .core c) → pageOn s (srPage b) = true → srPage b ∈ s.katPages →
    let pg := srPage b
    Runs (.srKatDone b 0 pass) s (fun t => t.katPages = s.katPages.filter (fun x => x != pg) ∧ t.mem = s.mem
      ∧ rdB t (reg pg R_NUM_CTL) 4 = pass ∧ rdB t (reg pg R_BLK_STAT) 7 = (!pass) ∧ (pg ∈ t.srFailed ↔ pass = false)
      ∧ (pass = false → rd t (reg pg R_NUM_SR_FAIL_CNT) = w64 (min ((rd s (reg pg R_NUM_SR_FAIL_CNT)).toNat + 1) maxWord))
      ∧ EventRegs s t ([reg pg R_NUM_CTL] ++ if pass then [] else [reg pg R_NUM_SR_FAIL_CNT, reg pg R_BLK_DEGRADE_CNT])))
  ∧ ∀ (mid : Mid) (c : Core) (v : Word) (s : State), MayWrite s mid.toNat (pgCore c) R_NUM_STEP v →
    Runs (.numStepWrite mid c v) s (fun t => rd t (kCore c R_NUM_STEP) = v ∧ (∀ x, x < 8 → rd t (kCtx c x R_CTX_SEQ) = 0) ∧ t.mem = s.mem
      ∧ EventRegs s t (kCore c R_NUM_STEP :: kCore c R_BLK_WR_CNT :: (List.range 8).map (fun x => kCtx c x R_CTX_SEQ)))

/-- R167, R176, R188, R208: executed records that complete at once. -/
def Obligations.ExecutedRecords : Prop :=
  ∀ (c : Core) (x : CtxId) (r : Rec) (s : State), Acts s c x r →
    let k := ctxTook (ctxOf s c x) r
    let scalar := fun n => kCtx c x (R_S + 8 * n)
    let src := fun hi lo => scalarSrc s c x (bits r hi lo)
    let pred := fun (t : State) (b : Bool) => if bits r 34 32 = 0 then rd t (kCtx c x R_CTX_PRED) = rd s (kCtx c x R_CTX_PRED)
      else rd t (kCtx c x R_CTX_PRED) = setBit (rd s (kCtx c x R_CTX_PRED)) (bits r 34 32) b
    (recOp r = 0x00 → Runs (.nop c x) s (fun t => Executed s t c x k []))
    ∧ (recOp r = 0x04 → Runs (.ctxSeq c x) s (fun t => rd t (kCtx c x R_CTX_SEQ) = w64 (if bitAt r 40 then bits r 60 48 else (src 39 32).toNat % 8192)
        ∧ Executed s t c x k [kCtx c x R_CTX_SEQ]))
    ∧ (recOp r = 0x09 → Runs (.scLi c x) s (fun t => rd t (scalar (bits r 37 32)) = w64 (bits r 127 64) ∧ Executed s t c x k [scalar (bits r 37 32)]))
    ∧ (recOp r = 0x08 → Runs (.scAlu c x) s (fun t =>
        rd t (scalar (bits r 37 32)) = aluOp (bits r 61 57) (src 47 40) (if bitAt r 56 then imm64 (bits r 95 64) else src 55 48)
        ∧ Executed s t c x k [scalar (bits r 37 32)]))
    ∧ (recOp r = 0x0C → Runs (.aSet c x) s (fun t =>
        let a := kCtx c x (R_A_BASE + 16 * bits r 35 32)
        rd t a = (if bitAt r 48 then w64 (bits r 191 128) else src 47 40)
        ∧ rd t (a + 8) = (if bitAt r 49 then w64 (bits r 95 64) else rd s (a + 8)) ∧ Executed s t c x k [a, a + 8]))
    ∧ (recOp r = 0x10 → Runs (.predCmp c x) s (fun t =>
        let b := if bitAt r 56 then (if bitAt r 60 then imm64 (bits r 95 64) else w64 (bits r 95 64)) else src 55 48
        pred t (cmpOp (bits r 59 57) (bitAt r 60) (src 47 40) b) ∧ Executed s t c x k [kCtx c x R_CTX_PRED]))
    ∧ (recOp r = 0x11 → Runs (.predLogic c x) s (fun t =>
        let a := predOf s c x (bits r 38 36)
        let b := predOf s c x (bits r 42 40)
        pred t (match bits r 45 44 with | 0 => a && b | 1 => a || b | 2 => a != b | _ => !a) ∧ Executed s t c x k [kCtx c x R_CTX_PRED]))
    ∧ (recOp r = 0x13 → Runs (.predTask c x) s (fun t => pred t (ctxOf s c x).taskCommitted ∧ Executed s t c x k [kCtx c x R_CTX_PRED]))
    ∧ (recOp r = 0x12 → ∀ b, opndBases s c x r = [b] → baseOk c b = true → (wordsOf b 64).any (isBad s.mem) = false → Runs (.predFull c x) s (fun t =>
        let a := kCtx c x (R_A_BASE + 16 * bits r 43 40)
        pred t (fullSeen s (if (ctxOf s c x).task.isSome then some (8 * c.val + x.val) else none) (tileOf (descAt s b)).fb)
        ∧ Executed s t c x k [kCtx c x R_CTX_PRED, a]))

/-- R171, R208, R213: scalar loads and stores, and the bytes a store writes. -/
def Obligations.ScalarAccesses : Prop :=
  ∀ (c : Core) (x : CtxId) (s : State),
    (∀ r, Acts s c x r →
      let a := offAddr (scalarSrc s c x (bits r 47 40)) (bits r 95 64)
      let k := ctxTook (ctxOf s c x) r
      scalarPlace s a = true →
      (recOp r = 0x0A → Runs (.scLd c x) s (fun t => ctxOf t c x = { k with st := .waitLocal, lw := .mem (.ld a (bits r 37 32)) }
        ∧ SameBytes s t ∧ EventRegs s t [kCore c R_CS_CE_CNT]))
      ∧ (recOp r = 0x0B → (ctxOf s c x).task = none ∨ regionOf a = .data c → Runs (.scSt c x) s (fun t =>
          ctxOf t c x = { k with st := .waitLocal, lw := .mem (.st a (scalarSrc s c x (bits r 39 32))) }
          ∧ SameBytes s t ∧ EventRegs s t [kCore c R_CS_CE_CNT])))
    ∧ (∀ a sd, (ctxOf s c x).st = .waitLocal → (ctxOf s c x).lw = .mem (.ld a sd) → sd < 64 →
        regionOf a = .data c.val → a % 8 = 0 → csAnswers s c a 8 = true → isBad s.mem a = false →
        Runs (.scalarAccessResponse c x) s (fun t => (∀ i, i < 8 → bits (rd t (kCtx c x (R_S + 8 * sd))) (8 * i + 7) (8 * i) = (getCell s.mem (a + i)).toNat)
          ∧ rd t (kCtx c x R_CTX_PC) = w64 ((ctxPc s c x + 32) % 2 ^ 26)
          ∧ (ctxOf t c x).st = .ready ∧ (ctxOf t c x).lw = .none ∧ SameBytes s t
          ∧ EventRegs s t [kCtx c x (R_S + 8 * sd), kCtx c x R_CTX_PC, kCore c R_CC_EXEC_CNT, kCore c R_CS_CE_CNT]))
    ∧ ∀ a (v : Word), (ctxOf s c x).st = .waitLocal → (ctxOf s c x).lw = .mem (.st a v) →
        regionOf a = .data c.val → a % 8 = 0 → csAnswers s c a 8 = true → (inTask s c x = true → logIsFull (coreOf s c) = false) →
        Runs (.scalarAccessResponse c x) s (fun t => (∀ i, i < 8 → (getCell t.mem (a + i)).toNat = bits v (8 * i + 7) (8 * i))
          ∧ SameBytesBut s t a 8 ∧ (ctxOf t c x).st = .ready ∧ (ctxOf t c x).lw = .none
          ∧ rd t (kCtx c x R_CTX_PC) = w64 ((ctxPc s c x + 32) % 2 ^ 26)
          ∧ (coreOf t c).log = (coreOf s c).log ++ (if inTask s c x then
              [⟨x, a / 64 * 64, (List.range 64).map (fun i => getCell s.mem (a / 64 * 64 + i))⟩] else []))

/-- R150, R154, R155, R163, R165, R168: control flow and issue. -/
def Obligations.FlowRecordsAndIssue : Prop :=
  ∀ (c : Core) (x : CtxId) (s : State),
    (coreRuns s c = true → (ctxOf s c x).st = .waitLocal → (ctxOf s c x).lw = .refetch →
      Runs (.refetchDone c x) s (fun t => ctxOf t c x = { ctxOf s c x with st := .ready, lw := .none } ∧ { t with ctxs := s.ctxs } = s))
    ∧ ∀ r, Acts s c x r →
      let k := ctxTook (ctxOf s c x) r
      let pc := ctxPc s c x
      let at' := fun (t : State) (d : Nat) (k : Ctx) (keys : List Nat) => rd t (kCtx c x R_CTX_PC) = w64 (d % 2 ^ 26 / 32 * 32) ∧ SameBytes s t
        ∧ ctxOf t c x = (if d = pc + 32 then k else { k with st := .waitLocal, lw := .refetch })
        ∧ rd t (kCore c R_CC_EXEC_CNT) = w64 (min ((rd s (kCore c R_CC_EXEC_CNT)).toNat + 1) maxWord)
        ∧ EventRegs s t ([kCtx c x R_CTX_PC, kCore c R_CC_EXEC_CNT, kCore c R_CS_CE_CNT] ++ keys)
      let lev := fun d o => kCtx c x (R_LOOP_PC + 0x18 * d + o)
      (recOp r = 0x18 → ∀ d : Nat, (d : Int) = (pc : Int) + 32 * sext 24 (bits r 55 32) → offInData d = true →
        ((ctxOf s c x).depth = 0 ∨ (loopStart s c x ((ctxOf s c x).depth - 1) ≤ d ∧ d ≤ loopEndOff s c x ((ctxOf s c x).depth - 1))) →
        Runs (.br c x) s (fun t => at' t d k []))
      ∧ (recOp r = 0x19 →
        let n := if bitAt r 40 then bits r 127 96 else (scalarSrc s c x (bits r 39 32)).toNat
        let e := 32 * bits r 84 64
        let d := (ctxOf s c x).depth
        offInData e = true →
        (n ≠ 0 → d < 4 → Runs (.loopBegin c x) s (fun t => rd t (lev d 0) = w64 (e * 2 ^ 32 + (pc + 32) % 2 ^ 26) ∧ rd t (lev d 8) = w64 n ∧ rd t (lev d 16) = 0
          ∧ Executed s t c x { k with depth := d + 1 } [lev d 0, lev d 8, lev d 16]))
        ∧ (n = 0 → Runs (.loopBegin c x) s (fun t => at' t (e + 32) k [])))
      ∧ (∀ d, (ctxOf s c x).depth = d + 1 → d < 4 →
        let i := rd s (lev d 16) + 1
        let mayPop := ∀ k', (ctxOf s c x).task = some k' → k'.depth ≤ d
        (recOp r = 0x1A → i.ult (rd s (lev d 8)) = true →
          Runs (.loopEnd c x) s (fun t => rd t (lev d 16) = i ∧ at' t (loopStart s c x d) k [lev d 16]))
        ∧ (recOp r = 0x1A → i.ult (rd s (lev d 8)) = false → mayPop →
          Runs (.loopEnd c x) s (fun t => at' t (loopEndOff s c x d + 32) { k with depth := d } [lev d 16]))
        ∧ (recOp r = 0x1B → mayPop → Runs (.loopBreak c x) s (fun t => at' t (loopEndOff s c x d + 32) { k with depth := d } [])))
      ∧ (recOp r = 0x02 → (ctxOf s c x).task = none → hasEntries s c x = false → (coreOf s c).accOwner ≠ some x.val →
        Runs (.halt c x) s (fun t => Executed s t c x { k with st := .idle, lw := .none, halted := false } []))
      ∧ (recOp r = 0x03 →
        let ids := (List.range 3).flatMap (fun n => if bitAt r (32 + n) then (((coreOf s c).queue n).filter (fun q => q.ctx == x.val)).map (fun q => q.id) else [])
        Runs (.fence c x) s (fun t => Executed s t c x (if ids = [] then k else { k with st := .waitLocal, lw := .fence ids }) []))
      ∧ ∀ n, opQueue (recOp r) = some n → ((ctxOf s c x).stepping = true ∨ (ctxOf s c x).bpSkip = true ∨ cmdHit s c x = false) → queueRoom s c n = true →
        Runs (.engineRecordIssue c x) s (fun t => (coreOf t c).queue n = (coreOf s c).queue n ++ [issueEntry s c x r]
          ∧ (∀ m, m < 3 → m ≠ n → (coreOf t c).queue m = (coreOf s c).queue m)
          ∧ (coreOf t c).nextId = (coreOf s c).nextId + 1 ∧ ctxOf t c x = { k with cur := (ctxOf s c x).cur }
          ∧ rd t (kCtx c x R_CTX_SEQ) = w64 (((rd s (kCtx c x R_CTX_SEQ)).toNat + 1) % 8192)
          ∧ rd t (kCtx c x R_CTX_CMD_CNT) = rd s (kCtx c x R_CTX_CMD_CNT) + 1
          ∧ rd t (kCtx c x R_CTX_PC) = w64 ((pc + 32) % 2 ^ 26) ∧ SameBytes s t)

/-- R148, R182, R183, R184: contexts started, stopped, halted and resumed by register writes. -/
def Obligations.ContextControl : Prop :=
  ∀ (mid : Mid) (c : Core) (x : CtxId) (s : State),
    (MayWrite s mid.toNat (pgCtx c x) R_CTX_CTL 1 → (ctxOf s c x).st = .idle → (ctxOf s c x).halted = false →
      Runs (.start mid c x) s (fun t => ctxOf t c x = { ctxOf s c x with st := .ready, haltNext := false } ∧ t.mem = s.mem))
    ∧ (MayWrite s mid.toNat (pgCtx c x) R_CTX_CTL 2 → ((ctxOf s c x).st = .error ∨ ((ctxOf s c x).halted = true ∧ (ctxOf s c x).task = none)) →
        (ctxOf s c x).halted = true ∧ (ctxOf s c x).task = none ∨ (ctxOf s c x).halted = false →
      Runs (.stop mid c x) s (fun t => ctxOf t c x = { ctxOf s c x with st := .idle, lw := .none, wait := none, wakePending := false, woken := false, req := none,
                                                                         ans := none, halted := false, stepping := false, bpSkip := false, haltNext := false } ∧ t.mem = s.mem))
    ∧ (MayWrite s mid.toNat (pgCtx c x) R_CTX_CTL 4 → (ctxOf s c x).halted = true → (ctxOf s c x).wakePending = false →
      Runs (.resume mid c x) s (fun t => ctxOf t c x = { ctxOf s c x with halted := false, bpSkip := true, stepping := false, haltNext := false }
        ∧ t.mem = s.mem))
    ∧ (MayWrite s mid.toNat (pgCtx c x) R_CTX_CTL 8 → (ctxOf s c x).halted = true → (ctxOf s c x).wakePending = false →
      Runs (.stepCtx mid c x) s (fun t => ctxOf t c x = { ctxOf s c x with halted := false, bpSkip := true, stepping := true, haltNext := false }
        ∧ t.mem = s.mem))
    ∧ (MayWrite s mid.toNat (pgCore c) R_CC_CTL 1 →
      Runs (.haltAll mid c) s (fun t => rdB t (kCore c R_CC_CTL) 0 = (if cloaked s then rdB s (kCore c R_CC_CTL) 0 else true) ∧ t.mem = s.mem
        ∧ ∀ y, y < 8 → ctxOf t c y = ctxOf s c y))
    ∧ (MayWrite s mid.toNat (pgCore c) R_CC_CTL 2 →
      Runs (.resumeAll mid c) s (fun t => rdB t (kCore c R_CC_CTL) 0 = false ∧ t.mem = s.mem ∧ ∀ y, y < 8 → (ctxOf t c y).halted = false))

/-- R169 to R173: tasks that open, write and commit. -/
def Obligations.TasksOpenAndCommit : Prop :=
  ∀ (c : Core) (x : CtxId) (s : State),
    (∀ r, Acts s c x r → recOp r = 0x1C → offInData (32 * bits r 84 64) = true → (ctxOf s c x).task = none →
      Runs (.taskBegin c x) s (fun t =>
        ctxOf t c x = { ctxTook (ctxOf s c x) r with
                          task := some ⟨(coreOf s c).taskOrder, (ctxOf s c x).depth, savedOffs.map (fun o => (o, rd s (kCtx c x o))), [], none, false⟩,
                          taskAbort := 32 * bits r 84 64 }
        ∧ (coreOf t c).taskOrder = (coreOf s c).taskOrder + 1 ∧ rd t (kCtx c x R_CTX_PC) = w64 ((ctxPc s c x + 32) % 2 ^ 26) ∧ SameBytes s t
        ∧ EventRegs s t [kCtx c x R_CTX_PC, kCore c R_CC_EXEC_CNT, kCore c R_CS_CE_CNT]))
    ∧ (∀ w rest, coreRuns s c = true → (coreOf s c).logQ = w :: rest → logIsFull (coreOf s c) = false → (∀ p ∈ w.parts, regionOf p.1 = .data c.val) →
      Runs (.taskLogWrite c) s (fun t =>
        (coreOf t c).log = (coreOf s c).log ++ [⟨w.ctx, 64 * w.gran, (List.range 64).map (fun i => getCell s.mem (64 * w.gran + i))⟩] ∧ (coreOf t c).logQ = rest
        ∧ ∀ a, getCell t.mem a = written w.parts a (getCell s.mem a)))
    ∧ (∀ r k, Acts s c x r → recOp r = 0x1D → (ctxOf s c x).task = some k → (ctxOf s c x).depth = k.depth →
      Runs (.taskCommit c x) s (fun t =>
        ctxOf t c x = { ctxTook (ctxOf s c x) r with st := .waitLocal, lw := .task, task := some { k with closing := some .commit } }
        ∧ rd t (kCtx c x R_CTX_PC) = w64 ((ctxPc s c x + 32) % 2 ^ 26) ∧ SameBytes s t
        ∧ EventRegs s t [kCtx c x R_CTX_PC, kCore c R_CC_EXEC_CNT, kCore c R_CS_CE_CNT]))
    ∧ ∀ k, coreRuns s c = true → (ctxOf s c x).task = some k → k.closing = some .commit → taskBusy s c x = false →
      Runs (.taskCommitApply c x) s (fun t =>
        ctxOf t c x = { ctxOf s c x with task := none, taskCommitted := true, taskCause := 0, st := .ready, lw := .none }
        ∧ (coreOf t c).log = (coreOf s c).log.filter (fun e => e.ctx != x.val) ∧ t.mem = s.mem
        ∧ rd t (kCore c R_TASK_COMMIT_CNT) = w64 (min ((rd s (kCore c R_TASK_COMMIT_CNT)).toNat + 1) maxWord)
        ∧ EventRegs s t [kCore c R_TASK_COMMIT_CNT])

/-- R171, R172, R174: a discarded task leaves memory and the context's registers as the task found them. -/
def Obligations.TasksDiscardAndRestore : Prop :=
  ∀ (c : Core) (x : CtxId) (s : State),
    (∀ r k, Acts s c x r → recOp r = 0x1E → (ctxOf s c x).task = some k → k.closing = none → (ctxOf s c x).depth = k.depth →
      Runs (.taskAbort c x) s (fun t => (ctxOf t c x).task = some { k with closing := some (.discard 1) } ∧ SameBytes s t
        ∧ rd t (kCtx c x R_CTX_PC) = w64 ((ctxPc s c x + 32) % 2 ^ 26)))
    ∧ (∀ k, coreRuns s c = true → (ctxOf s c x).task = some k → logIsFull (coreOf s c) = true → x.val ∈ holders s c →
      (∀ y k', y < 8 → (ctxOf s c y).task = some k' → k'.closing = none ∧ (y ∈ holders s c → y ≠ x.val → k'.order < k.order)) →
      (∀ y ∈ holders s c, waitsOnLog s c y = true) →
      Runs (.logFull c) s (fun t => (ctxOf t c x).task = some { k with closing := some (.discard 2) } ∧ (ctxOf t c x).st = .waitLocal
        ∧ (ctxOf t c x).lw = .task ∧ t.mem = s.mem))
    ∧ (∀ k, coreRuns s c = true → (ctxOf s c x).task = some k → discarding k = true → k.writing = false → logIsFull (coreOf s c) = false →
      taskBusy s c x = false → (∀ e ∈ (coreOf s c).log, regionOf e.addr = .data c.val ∧ e.old.length = 64) →
      Runs (.taskDiscard c x) s (fun t =>
        (∀ a, getCell t.mem a = match ((coreOf s c).log.filter (fun e => e.ctx == x.val)).find? (fun e => decide (e.addr ≤ a) && decide (a < e.addr + 64)) with
          | some e => nth 0 e.old (a - e.addr)
          | none => getCell s.mem a)
        ∧ (ctxOf t c x).task = some { k with writing := true }))
    ∧ ∀ k cause, coreRuns s c = true → (ctxOf s c x).task = some k → k.writing = true → k.closing = some (.discard cause) → (cause = 1 ∨ cause = 2) →
      (ctxOf s c x).st ≠ .error → k.saved.map Prod.fst = savedOffs →
      Runs (.taskDiscardDone c x) s (fun t =>
        (∀ p ∈ k.saved, rd t (kCtx c x p.1) = p.2) ∧ rd t (kCtx c x R_CTX_PC) = w64 ((ctxOf s c x).taskAbort % 2 ^ 26 / 32 * 32)
        ∧ ctxOf t c x = { ctxOf s c x with task := none, taskCommitted := false, taskCause := cause, st := .waitLocal, lw := .refetch, depth := k.depth }
        ∧ (coreOf t c).log = (coreOf s c).log.filter (fun e => e.ctx != x.val) ∧ t.mem = s.mem
        ∧ rd t (kCore c R_TASK_DISCARD_CNT) = w64 (min ((rd s (kCore c R_TASK_DISCARD_CNT)).toNat + 1) maxWord))

/-- R156 to R161, R179, R201 to R204: vector records that fire. -/
def Obligations.VectorRecordsFire : Prop :=
  ∀ (c : Core) (s : State) (q : QEntry) (rest : List QEntry),
    let v := vecLatched s c q
    let u := vecAt s c q
    let fires := fun (i : Instr) (op : Nat) (out : VecOut) => VecReady s c op q rest →
      (VecRowsOk u v → Runs i s (fun t => VecFired s t c q rest out))
      ∧ ∀ code, out.stop = some code → Runs i s (fun t => (ctxOf t c q.ctx).st = .error ∧ (ctxOf t c q.ctx).err = code)
    fires (.vecEw c) 0x50 (vecEw u c v) ∧ fires (.vecFn c) 0x51 (vecFn u c v) ∧ fires (.vecFnBwd c) 0x52 (vecFnBwd u c v)
    ∧ fires (.vecRowRed c) 0x53 (vecRowRed u c v) ∧ fires (.vecColRed c) 0x54 (vecColRed u c v)
    ∧ fires (.vecNormStat c) 0x55 (vecNormStat u v) ∧ fires (.vecNormFwd c) 0x56 (vecNormFwd u c v)
    ∧ fires (.vecNormBwd c) 0x57 (vecNormBwd u c v) ∧ fires (.vecSmaxFold c) 0x58 (vecSmaxFold u v)
    ∧ fires (.vecSmaxApply c) 0x59 (vecSmaxApply u c v) ∧ fires (.vecSmaxD c) 0x5A (vecSmaxD u v)
    ∧ fires (.vecSmaxBwd c) 0x5B (vecSmaxBwd u c v) ∧ fires (.vecDropout c) 0x5C (vecDropout u c v)
    ∧ fires (.vecRand c) 0x5D (vecRand v) ∧ fires (.vecScatterAdd c) 0x5E (vecScatterAdd u c v)

/-- R132, R133: masked keys, and rows of which everything is masked. -/
def Obligations.MaskedSoftmaxRow : Prop :=
  ∀ (pos tag : Nat) (first : List (FVal × Bool)) (more : List (List (FVal × Bool))),
    let x := more.foldl (fun x b => smaxFold x false b) (smaxFold ⟨3, false, pos, tag, 0, .zero, .inf true⟩ true first)
    x.count = first.length + (more.map List.length).sum ∧ x.kind = 3 ∧ x.pos = pos ∧ x.tag = tag
    ∧ ((∀ b ∈ first :: more, ∀ p ∈ b, p.2 = false) → x.empty = true ∧ x.stat0 = .inf true ∧ x.stat1 = .zero ∧ ∀ v vis, smaxP x v vis = .zero)
    ∧ ((∃ b ∈ first :: more, ∃ p ∈ b, p.2 = true) → x.empty = false
      ∧ ∀ v, (x.stat0.isFinite = true → x.stat1.isFinite = true → x.stat1.isZero = false → (smaxP x v false).isZero = true)
        ∧ (x.stat0 = .nan ∨ x.stat1 = .nan → smaxP x v false = .nan))

/-- R24, R48, R156, R193, R199. -/
def Obligations.VectorRecordsEnd : Prop :=
  (∀ (c : Core) (s : State) (q : QEntry) (rest : List QEntry), coreRuns s c = true → (coreOf s c).vecQ = q :: rest → q.fired = true →
    logPending s c q.id = false → (∀ o ∈ rest, o.id ≠ q.id) →
    let los := (dstSlots q.word).filter (present q.word)
    let ended := fun (t : State) => (coreOf t c).vecQ = rest
      ∧ ∀ d e, some (d, e) ∈ q.dstBits → d < 32 → e < 4096 → (fbOf s d e).writers = 1 → (fbOf s d e).st = .filling → (fbOf s d e).parity = false →
          some (d, e) ∉ releaseBits q → (fbOf t d e).st = .full
    (q.task = false → (∀ lo ∈ los, regionOf (q.baseOf lo + 49) = .data c) → Runs (.vectorComplete c) s (fun t => ended t
        ∧ ∀ a, getCell t.mem a = if los.any (fun lo => a == q.baseOf lo + 49) then 0 else getCell s.mem a))
    ∧ (q.task = true → (∀ lo ∈ los, lo ∈ q.shifted) → Runs (.vectorComplete c) s (fun t => ended t ∧ SameBytes s t))
    ∧ (q.task = true → (∃ lo ∈ los, lo ∉ q.shifted) → Runs (.vectorComplete c) s (fun t => SameBytes s t
        ∧ (coreOf t c).vecQ = { q with shifted := q.shifted ++ los } :: rest
        ∧ (coreOf t c).logQ = (coreOf s c).logQ ++ los.flatMap (fun lo => (byGranule [(q.baseOf lo + 49, [(0 : Byte)])]).map (fun g => ⟨q.id, q.ctx, g.1, g.2⟩)))))
  ∧ (∀ (c : Core) (x : CtxId) (r : Rec) (s : State), Acts s c x r → recOp r = 0x01 →
    Runs (.mark c x) s (fun t => Executed s { t with trace := s.trace } c x (ctxTook (ctxOf s c x) r) []
      ∧ t.trace = if cloaked s then s.trace else s.trace ++ [(c.val, recTag r, bits r 63 32, ringNow s c)]))
  ∧ ∀ (page : Nat) (addr : Word) (s : State), pageKind page ≠ none → pageOn s page = true → rdB s (reg (mainPage page) R_BLK_ERR_LOG) 63 = false →
    (∀ m ∈ pageMids (mainPage page), m < 0xF0) →
    Runs (.accountingUe page addr) s (fun t => (∀ m ∈ pageMids (mainPage page), frozen t m = true)
      ∧ rdB t (reg (mainPage page) R_BLK_STAT) 1 = true ∧ rdF t (reg (mainPage page) R_BLK_ERR_LOG) 15 0 = 0x8001
      ∧ rdB t (reg (mainPage page) R_BLK_ERR_LOG) 63 = true ∧ rd t (reg (mainPage page) R_BLK_ERR_ADDR) = addr ∧ t.mem = s.mem)

/-- R156, R178, R179, R205, R206, R216, R219, R231. -/
def Obligations.StreamRecordsFire : Prop :=
  ∀ (c : Core) (s : State) (q : QEntry),
    let v := q.arrive s
    let u := strHere s c q
    let reqs := numberReqs (coreOf s c).nextReq (strRequests u v)
    let rows := match v.idx 48 with
      | some t => if recOp q.word = 0x82 ∨ recOp q.word = 0x83 then t.rowAddrs u else []
      | none => []
    let counts := fun (t : State) (off n : Nat) => rd t (kCore c off) = w64 (min ((rd s (kCore c off)).toNat + n) maxWord)
    let fires := fun (i : Instr) (op : Nat) => StrReady s c op q → Runs i s (fun t =>
      (reqs ≠ [] → ∃ run ∈ (coreOf t c).runs, run.id = q.id ∧ run.sid = strSid q.word ∧ run.dclass = strDclass q.word
        ∧ (((coreOf t c).slots.filter (fun r => r.cmd == q.id)).map (fun r => r.num) ++ run.todo.map (fun r => r.num)) = reqs.map (fun r => r.num)
        ∧ (coreOf t c).nextReq = (coreOf s c).nextReq + reqs.length
        ∧ ∀ d e, some (d, e) ∈ v.dstBits → d < 32 → e < 4096 → (fbOf t d e).st = .filling)
      ∧ (reqs = [] → q.task = false → ∀ o ∈ (coreOf t c).strQ, o.id ≠ q.id)
      ∧ counts t R_IDX_ROWS_CNT rows.length ∧ counts t R_IDX_SKIP_CNT (countSkips rows) ∧ counts t R_IDX_OOR_CNT (countOors rows)
      ∧ (op ≠ 0x82 → reqs ≠ [] → SameBytes s t))
    fires (.strMove c) 0x80 ∧ fires (.strLining c) 0x81 ∧ fires (.strGather c) 0x82 ∧ fires (.strScatter c) 0x83

/-- R219, R220, R221, R223, R226, R231. -/
def Obligations.StreamRequestsAndTags : Prop :=
  (∀ (c : Core) (slot : Fin 16) (s : State) (r : StrReq), coreRuns s c = true →
    let u := unpark s c none
    ((coreOf u c).slots.drop slot.val).head? = some r → tagless u c r = false →
    (cappedPc u c r.pcs = none → heldBack u c r.pcs = false → reservedHeld (coreOf u c) < 32 →
      (∀ o ∈ (coreOf u c).slots.take slot.val, cappedPc u c o.pcs ≠ none ∨ tagless u c o = true ∨ heldBack u c o.pcs = true) →
      Runs (.streamRequest c slot) s (fun t => (coreOf t c).held = (coreOf u c).held ++ [{ r with tag := .reserved, taken := ringNow s c }]
        ∧ (∃ new, (coreOf t c).slots = (coreOf u c).slots.filter (fun o => o.num != r.num) ++ new) ∧ t.mem = s.mem))
    ∧ (cappedPc u c r.pcs = none → heldBack u c r.pcs = false → 32 ≤ reservedHeld (coreOf u c) → r.asked = false →
      Runs (.streamRequest c slot) s (fun t => (coreOf t c).held = (coreOf u c).held
        ∧ (coreOf t c).slots = (coreOf u c).slots.map (fun o => if o.num = r.num then { o with asked := true } else o) ∧ t.mem = s.mem))
    ∧ ∀ pc, cappedPc u c r.pcs = some pc → parkTaken (coreOf u c) pc = false →
      Runs (.streamRequest c slot) s (fun t => (coreOf t c).held = (coreOf u c).held
        ∧ (coreOf t c).parked = (coreOf u c).parked ++ [{ r with pcs := pc :: r.pcs.filter (fun x => x != pc) }]
        ∧ rd t (kCore c R_CAP_HIT_CNT) = w64 (min ((rd s (kCore c R_CAP_HIT_CNT)).toNat + 1) maxWord) ∧ t.mem = s.mem))
  ∧ (∀ (p : Panel) (s : State), sharedHeld s p < 1792 → (∃ c r d, AsksTag s p c r d) →
    Runs (.tagGrant p) s (fun t => ∃ c r d, AsksTag s p c r d ∧ (∀ c' r' d', AsksTag s p c' r' d' → d < d' ∨ (d = d' ∧ c ≤ c'))
      ∧ (coreOf t c).held = (coreOf s c).held ++ [{ r with tag := .shared, taken := ringNow s c }]
      ∧ rd t (reg (pgPool p) R_POOL_GRANT_CNT) = w64 (min ((rd s (reg (pgPool p) R_POOL_GRANT_CNT)).toNat + 1) maxWord) ∧ t.mem = s.mem))
  ∧ ∀ (c d : Core) (num : Nat) (s : State) (r : StrReq) (run : StrRun), coreRuns s c = true →
    (coreOf s c).held.find? (fun o => o.num == num) = some r → (coreOf s c).runs.find? (fun o => o.id == r.cmd) = some run →
    r.moved = false → recOp run.cmd.word = 0x82 → run.cmd.task = false → run.refetch = false → run.invalid = false → rowsTile run.cmd ≠ none →
    logPending s c r.cmd = false →
    0 < r.len → r.lo % 64 + r.len ≤ 64 → r.target % 64 + r.len ≤ 64 →
    regionOf r.lo = .data d.val → csAnswers s d r.lo r.len = true → (∀ i, i < r.len → isBad s.mem (r.lo + i) = false) →
    regionOf r.target = .data c.val → csAnswers s c r.target r.len = true → regionOf (run.cmd.baseOf 40 + 49) = .data c.val →
    (run.cmd.baseOf 40 + 49 < r.target ∨ r.target + r.len ≤ run.cmd.baseOf 40 + 49) →
    Runs (.streamRequestDone c num) s (fun t => (∀ i, i < r.len → getCell t.mem (r.target + i) = getCell s.mem (r.lo + i))
      ∧ (∀ a, a < r.target ∨ r.target + r.len ≤ a → a ≠ run.cmd.baseOf 40 + 49 → getCell t.mem a = getCell s.mem a)
      ∧ (∀ o ∈ (coreOf t c).held, o.num = num → ∃ w ∈ (coreOf s c).parked, w.num = num)
      ∧ rd t (kCore c R_STR_REQ_CNT) = w64 (min ((rd s (kCore c R_STR_REQ_CNT)).toNat + 1) maxWord)
      ∧ rd t (kCore c R_STR_LAT_SUM) = w64 (min ((rd s (kCore c R_STR_LAT_SUM)).toNat + (ringNow s c - r.taken)) maxWord))

/-- R215, R217, R218, R232. -/
def Obligations.StreamsEndAndFullBits : Prop :=
  (∀ (c : Core) (s : State) (q : QEntry), coreRuns s c = true → frozen s (0x20 + c.val) = false →
    ((coreOf s c).strQ.filter (fun o => !o.fired)).head? = some q → recOp q.word = 0x84 → (∀ o ∈ (coreOf s c).entries, o.id = q.id → o = q) →
    strCheck (descCheck s c 6 q) c (q.arrive s) = none →
    Runs (.strEos c) s (fun t => SameBytes s t ∧ if streamDone (coreOf s c) (strSid q.word) q.id = true
      then (coreOf t c).strQ = (coreOf s c).strQ.filter (fun o => o.id != q.id)
        ∧ rd t (kCore c R_STR_EOS_CNT) = w64 (min ((rd s (kCore c R_STR_EOS_CNT)).toNat + 1) maxWord)
      else ∃ o ∈ (coreOf t c).strQ, o.id = q.id ∧ o.fired = true))
  ∧ (∀ (c : Core) (sid : Byte) (s : State) (q : QEntry), coreRuns s c = true →
    (coreOf s c).strQ.find? (fun q => q.fired && recOp q.word == 0x84 && strSid q.word == sid.toNat) = some q → streamDone (coreOf s c) sid.toNat q.id = true →
    Runs (.strEosComplete c sid) s (fun t => (coreOf t c).strQ = (coreOf s c).strQ.filter (fun o => o.id != q.id) ∧ t.mem = s.mem
      ∧ rd t (kCore c R_STR_EOS_CNT) = w64 (min ((rd s (kCore c R_STR_EOS_CNT)).toNat + 1) maxWord)))
  ∧ (∀ (mid : Mid) (c : Core) (entry : BitVec 12) (s : State),
    let sets := fun (i : Instr) (op : Nat) (dest : FbState) => MayWrite s mid.toNat (pgCore c) R_FB_CMD (w64 (op * 2 ^ 16 + entry.toNat)) →
      Runs i s (fun t => t.mem = s.mem ∧ (∀ d e, d < 32 → e < 4096 → (d, e) ≠ (c.val, entry.toNat) → fbOf t d e = fbOf s d e)
        ∧ if fbSeen s c entry.toNat none = .filling ∧ (fbOf s c entry.toNat).parity = false
          then rdB t (kCore c R_CS_STATUS) 4 = true ∧ fbOf t c entry.toNat = fbOf s c entry.toNat
          else (fbOf t c entry.toNat).st = dest ∧ (fbOf t c entry.toNat).writers = 0 ∧ (fbOf t c entry.toNat).parity = false)
    sets (.fbSetFull mid c entry) 1 .full ∧ sets (.fbSetEmpty mid c entry) 2 .empty)
  ∧ ∀ (c : Core) (entry : BitVec 12) (s : State), domOn s c = true → rdB s (kCore c R_BLK_ERR_LOG) 63 = false →
    Runs (.fbParity c entry) s (fun t => (fbOf t c entry.toNat).st = .filling ∧ (fbOf t c entry.toNat).writers = 0 ∧ (fbOf t c entry.toNat).parity = true
      ∧ rdB t (kCore c R_CS_STATUS) 3 = true ∧ rdF t (kCore c R_BLK_ERR_LOG) 15 0 = 0x203 ∧ rd t (kCore c R_BLK_ERR_ADDR) = w64 entry.toNat
      ∧ (∀ d e, d < 32 → e < 4096 → (d, e) ≠ (c.val, entry.toNat) → fbOf t d e = fbOf s d e) ∧ t.mem = s.mem)

/-- R213, R214, R228, R400. -/
def Obligations.WatchedRegionsAndFabricReads : Prop :=
  (∀ (mid : Mid) (p : Panel) (w : Fin 16) (limit : Bool) (v : Word) (s : State),
    let off := R_WATCH_BASE + 0x18 * w.val + (if limit then 8 else 0)
    let k := reg (pgPool p) (R_WATCH_BASE + 0x18 * w.val + 16)
    MayWrite s mid.toNat (pgPool p) off v →
    Runs (.watchRegionWrite mid p w limit v) s (fun t => rd t k = rd s k + 1
      ∧ (let m := fldsMask .rw (regFlds (pgPool p) off); rd t (reg (pgPool p) off) = (rd s (reg (pgPool p) off) &&& ~~~ m) ||| (v &&& m)) ∧ t.mem = s.mem
      ∧ EventRegs s t [k, reg (pgPool p) off, reg (pgPool p) R_BLK_WR_CNT]))
  ∧ (∀ (c : Core) (p : Panel) (w : Fin 16) (s : State), coreRuns s c = true →
    let ver := (rd s (reg (pgPool p) (R_WATCH_BASE + 0x18 * w.val + 16))).toNat
    let stale := fun (r : StrRun) => r.watched = true ∧ ∃ v ∈ r.vers, v.1 = 16 * p.val + w.val ∧ v.2 < ver
    Runs (.watchVersionReport c p w) s (fun t => t.mem = s.mem ∧ ∀ r ∈ (coreOf s c).runs, ∃ r' ∈ (coreOf t c).runs, r'.id = r.id
      ∧ (r'.invalid = true ↔ r.invalid = true ∨ stale r)))
  ∧ ∀ (mid : Mid) (c : Core) (a : Word) (s : State), isMaster mid.toNat = true →
    (∀ n, regionOf a.toNat = .data c.val → oneRegion a.toNat n = true → csAnswers s c a.toNat n = true → cloakDenies s mid.toNat true = false →
      (∀ i, i < n → isBad s.mem (a.toNat + i) = false) →
      Runs (.csFabricAccess mid a (.read n) .clean) s (fun t => t.resp = .bytes ((List.range n).map (fun i => getCell s.mem (a.toNat + i))) ∧ SameBytes s t))
    ∧ (∀ b, regionOf a.toNat = .data c.val → oneRegion a.toNat b.length = true → csAnswers s c a.toNat b.length = true → cloakDenies s mid.toNat false = false →
      (mayWrite s mid.toNat a.toNat b.length = true → Runs (.csFabricAccess mid a (.write b) .clean) s (fun t => t.resp = .ok
        ∧ (∀ i, i < b.length → getCell t.mem (a.toNat + i) = nth 0 b i) ∧ SameBytesBut s t a.toNat b.length))
      ∧ (mayWrite s mid.toNat a.toNat b.length = false → mid.toNat < 0x60 → Runs (.csFabricAccess mid a (.write b) .clean) s (fun t =>
          t.resp = .violation ∧ SameBytes s t ∧ frozen t mid.toNat = true)))
    ∧ ∀ op e, (regionOf a.toNat = .sync c.val ∨ regionOf a.toNat = .hole c.val) →
      Runs (.csFabricAccess mid a op e) s (fun t => t.resp = .busError ∧ t.mem = s.mem)

/-- R207, R235, R258, R260: synchronisation records. -/
def Obligations.SyncRecordsSend : Prop :=
  ∀ (c : Core) (x : CtxId) (r : Rec) (s : State), Acts s c x r →
    let k := ctxTook (ctxOf s c x) r
    let word := syncWord (offAddr (scalarSrc s c x (bits r 47 40)) (bits r 95 64))
    let val := scalarSrc s c x (bits r 39 32)
    let sends := fun (i : Instr) (q : SyncReq) => Runs i s (fun t => ctxOf t c x = { k with st := .waitSync, req := some q, ans := none, wait := none }
      ∧ (∀ n, n ≠ 8 * c.val + x.val → tabGet (fun _ => Ctx.rst) t.ctxs n = tabGet (fun _ => Ctx.rst) s.ctxs n)
      ∧ coreOf t c = { coreOf s c with rr := x, took := (coreOf s c).took + 1 } ∧ (∀ d, d ≠ c.val → coreOf t d = coreOf s d)
      ∧ FetchedFrom s { t with ctxs := s.ctxs, cores := s.cores } c)
    (∀ w, word = some w → (recOp r = 0x22 → sends (.fePeek c x) (.peek w (bits r 37 32)))
      ∧ ((ctxOf s c x).task = none → (recOp r = 0x21 → sends (.feTake c x) (.take w (bits r 37 32))) ∧ (recOp r = 0x23 → sends (.fePut c x) (.put w val))
          ∧ (recOp r = 0x24 → sends (.feSet c x) (.set w val)) ∧ (recOp r = 0x25 → sends (.feClear c x) (.clear w))))
    ∧ ((ctxOf s c x).task = none →
      (recOp r = 0x20 → sends (.barArrive c x) (.arrive (bits r 39 32) (bitAt r 40)))
      ∧ (recOp r = 0x28 → sends (.pktSend c x)
          (.send (bits r 40 32) ((List.range (bits r 58 54)).map (fun i => rd s (kCtx c x (R_S + 8 * (bits r 53 48 + i))))) (bits r 62 60)))
      ∧ (recOp r = 0x29 → sends (.pktRecv c x) (.recv (bits r 40 32) (bits r 53 48) (bits r 58 54) (bits r 62 60)))
      ∧ (recOp r = 0x2A → hasButtons (bits r 39 32) = true → (∀ o ∈ s.orphans, o.1 ≠ 8 * c.val + x.val) → (ctxOf s c x).req = none →
          sends (.btnRing (.ctx c x)) (.ring (bits r 39 32) (bits r 44 40)))
      ∧ (recOp r = 0x2B →
        let m := bits r 95 64
        let pend := reg (pgBtn c) R_BTN_PEND
        let got := Nat.land (rd s pend).toNat m
        ((wordsOf (csBase c + ctxPc s c x) 32).any (isWeak s.mem) = false ∨ (rd s (kCore c R_CS_CE_CNT)).toNat + 4 < maxWord) →
        ((m = 0 ∨ got ≠ 0 → Runs (.btnWait c x) s (fun t => rd t (kCtx c x (R_S + 8 * bits r 37 32)) = w64 got
          ∧ ((rd s (kCore c R_CC_EXEC_CNT)).toNat + 1 < maxWord → rd t pend = rd s pend &&& ~~~ w64 got)
          ∧ Executed s t c x { k with st := .ready, wait := none, ans := none, req := none, wakePending := false, woken := false, released := false } [kCtx c x (R_S + 8 * bits r 37 32)]))
        ∧ (m ≠ 0 → got = 0 → Runs (.btnWait c x) s (fun t =>
            ctxOf t c x = { k with st := .waitSync, wait := some (.button m), woken := false } ∧ SameBytes s t
            ∧ rd t (kCtx c x R_CTX_PC) = rd s (kCtx c x R_CTX_PC))))))

/-- R241, R242: full/empty words. -/
def Obligations.FullEmptyWords : Prop :=
  ∀ (c : Core) (x : CtxId) (s : State) (q : SyncReq) (w : Nat), w < 32 * 131072 → (ctxOf s c x).req = some q → feWord q = some w →
    (∀ o ∈ s.orphans, o.1 ≠ 8 * c.val + x.val) → domOn s (w / 131072) = true → isBad s.mem (syncAddr w) = false →
    let k := ctxOf s c x
    let full := (syncOf s w).full
    let others := fun (t : State) => ∀ u, u ≠ w → syncOf t u = syncOf s u
    let answers := fun (a : SyncAns) (b : Bool) => Runs (.syncBankAccess c x .clean) s (fun t => ctxOf t c x = { k with req := none, ans := some a }
      ∧ (syncOf t w).full = b ∧ (syncOf t w).waited = ((syncOf s w).waited && full == b)
      ∧ t.toYoke = s.toYoke ++ (if (syncOf s w).waited && full != b then [.notice (.word w)] else []) ∧ others t
      ∧ rd t (kCore c R_FE_OP_CNT) = w64 (min ((rd s (kCore c R_FE_OP_CNT)).toNat + 1) maxWord)
      ∧ match q with
        | .put _ v => syncVal t w = v ∧ SameBytesBut s t (syncAddr w) 8
        | .set _ v => syncVal t w = v ∧ SameBytesBut s t (syncAddr w) 8
        | _ => t.mem = s.mem)
    let waits := fun (cond : WaitCond) => Runs (.syncBankAccess c x .clean) s (fun t => ctxOf t c x = { k with req := none, wait := some cond, woken := false }
      ∧ syncOf t w = { syncOf s w with waited := true } ∧ t.toYoke = s.toYoke ++ [.reg c x cond] ∧ others t ∧ t.mem = s.mem
      ∧ let cnt := kCore c (if k.woken then R_SPURIOUS_WAKE_CNT else R_FE_WAIT_CNT); rd t cnt = w64 (min ((rd s cnt).toNat + 1) maxWord))
    match q with
    | .take _ sd => if full then answers (.value sd (syncVal s w)) false else waits (.full w)
    | .peek _ sd => if full then answers (.value sd (syncVal s w)) true else waits (.full w)
    | .put _ _ => if full then waits (.empty w) else answers .done true
    | .set _ _ => answers .done true
    | _ => answers .done false

/-- R238 to R242. -/
def Obligations.YokeWaitsAndWakes : Prop :=
  (∀ (c : Core) (x : CtxId) (cond : WaitCond) (pre post : List YokeMsg) (s : State), yokeOn s = true → s.toYoke = pre ++ .reg c x cond :: post →
    (∀ m ∈ pre, msgSubject m ≠ condSubject cond ∧ ∀ d, m ≠ .reg c x d) →
    Runs (.yokeRegistration c x) s (fun t => t.toYoke = pre ++ post
      ∧ t.yokeWaits = (if (ctxOf s c x).wait = some cond ∧ 8 * c.val + x.val ∉ s.yokeWaits then s.yokeWaits ++ [8 * c.val + x.val] else s.yokeWaits)
      ∧ { t with toYoke := s.toYoke, yokeWaits := s.yokeWaits } = s))
  ∧ (∀ (n : Notice) (pre post : List YokeMsg) (s : State), yokeOn s = true → s.toYoke = pre ++ .notice n :: post → (∀ m ∈ pre, msgSubject m ≠ some n) →
    Runs (.changeNotice n) s (fun t => t.toYoke = pre ++ post ∧ t.yokeWaits = s.yokeWaits.filter (fun k => !(waitersOf s n).contains k)
      ∧ (∀ k ∈ waitersOf s n, k / 8 < 32 → ∃ xs, Wake.ctxs (k / 8) xs n ∈ t.wakes ∧ k % 8 ∈ xs) ∧ t.mem = s.mem ∧ t.ctxs = s.ctxs
      ∧ rd t (reg pgYoke R_YOKE_WAKE_CNT) = w64 (min ((rd s (reg pgYoke R_YOKE_WAKE_CNT)).toNat + (waitersOf s n).length) maxWord)))
  ∧ (∀ (c : Core) (w : Wake) (s : State), domOn s c = true → s.wakes.find? (fun w => wakeCore w == c.val) = some w →
    Runs (.syncWake c) s (fun t => (∀ x, x < 8 → ctxOf t c x =
        if wakeHits s c x w = true then
          (if (ctxOf s c x).halted = true ∨ frozen s c = true then { ctxOf s c x with wakePending := true }
           else { ctxOf s c x with st := .ready, wait := none, woken := true })
        else ctxOf s c x)
      ∧ t.wakes = dropFirst (fun w => wakeCore w == c.val) s.wakes ∧ { t with ctxs := s.ctxs, wakes := s.wakes } = s))
  ∧ ∀ (c : Core) (x : CtxId) (a : SyncAns) (s : State), domOn s c = true → (ctxOf s c x).ans = some a →
    (∀ code, a = .refuse code → Runs (.syncAnswer c x) s (fun t => (ctxOf t c x).st = .error ∧ (ctxOf t c x).err = code ∧ t.mem = s.mem))
    ∧ ((∀ code, a ≠ .refuse code) → Runs (.syncAnswer c x) s (fun t =>
        ctxOf t c x = { ctxOf s c x with st := .ready, wait := none, ans := none, req := none, wakePending := false, woken := false, released := false }
        ∧ rd t (kCtx c x R_CTX_PC) = w64 ((ctxPc s c x + 32) % 2 ^ 26) ∧ t.mem = s.mem
        ∧ match a with
          | .value sd v => sd < 64 → rd t (kCtx c x (R_S + 8 * sd)) = v
          | .outcome pd ok sb ws => (pd ≠ 0 → pd < 8 → rdB t (kCtx c x R_CTX_PRED) pd = ok)
              ∧ (sb + ws.length ≤ 64 → ∀ i, i < ws.length → rd t (kCtx c x (R_S + 8 * (sb + i))) = nth 0 ws i)
          | _ => True))

/-- R245 to R248: barriers. -/
def Obligations.BarrierSlots : Prop :=
  (∀ (c : Core) (x : CtxId) (s : State) (slot : Nat) (wait : Bool), slot < 256 → yokeOn s = true → (ctxOf s c x).req = some (.arrive slot wait) →
    (∀ o ∈ s.orphans, o.1 ≠ 8 * c.val + x.val) →
    let z := slotOf s slot
    let me := 8 * c.val + x.val
    let b := 2 ^ me
    let part := z.en = true ∧ (slotMask s slot).testBit me = true
    let accepted := fun (t : State) (g : Bool) => t.mem = s.mem ∧ ctxOf t c x = (if wait
      then { ctxOf s c x with req := none, wait := some (.barrier slot g), woken := false } else { ctxOf s c x with req := none, ans := some .done })
      ∧ rd t (kCore c R_BAR_ARRIVE_CNT) = w64 (min ((rd s (kCore c R_BAR_ARRIVE_CNT)).toNat + 1) maxWord)
    (part → z.lead1.testBit me = false → z.lead2.testBit me = false → z.arrived + 1 ≠ slotExpected s slot →
      Runs (.yokeArrival c x) s (fun t => accepted t z.gen ∧ slotOf t slot = { z with arrived := z.arrived + 1, lead1 := z.lead1 + b } ∧ t.releases = s.releases))
    ∧ (part → z.lead1.testBit me = false → z.lead2.testBit me = false → z.arrived + 1 = slotExpected s slot → z.ahead < slotExpected s slot →
      Runs (.yokeArrival c x) s (fun t => accepted t z.gen ∧ slotOf t slot = ⟨true, !z.gen, z.ahead, 0, z.lead2, 0⟩
        ∧ t.releases = s.releases ++ (slotCores s slot).map (fun d => ⟨d, slot, z.gen, false⟩)))
    ∧ (part → z.lead1.testBit me = true → z.lead2.testBit me = false → z.arrived ≠ slotExpected s slot →
      Runs (.yokeArrival c x) s (fun t => accepted t (!z.gen)
        ∧ slotOf t slot = { z with ahead := z.ahead + 1, lead1 := z.lead1 - b, lead2 := z.lead2 + b } ∧ t.releases = s.releases))
    ∧ (part → z.lead2.testBit me = true →
      Runs (.yokeArrival c x) s (fun t => ctxOf t c x = { ctxOf s c x with req := none, wait := some (.overrun slot z.gen), woken := false } ∧ slotOf t slot = z
        ∧ rd t (kCore c R_BAR_OVERRUN_CNT) = w64 (min ((rd s (kCore c R_BAR_OVERRUN_CNT)).toNat + 1) maxWord) ∧ t.mem = s.mem))
    ∧ (¬ part → Runs (.yokeArrival c x) s (fun t => ctxOf t c x = { ctxOf s c x with req := none, ans := some (.refuse 0x0A) } ∧ { t with ctxs := s.ctxs } = s)))
  ∧ (∀ (c : Core) (slot : Byte) (r : Release) (s : State), domOn s c = true → s.releases.find? (fun r => r.core == c.val && r.slot == slot.toNat) = some r →
    r.disable = false →
    Runs (.releaseArrival c slot) s (fun t => t.mem = s.mem ∧ t.releases = dropFirst (fun r => r.core == c.val && r.slot == slot.toNat) s.releases
      ∧ ∀ x, x < 8 → ((ctxOf s c x).wait = some (.barrier slot.toNat r.gen) → if (ctxOf s c x).halted = true ∨ frozen s c = true
            then ctxOf t c x = { ctxOf s c x with wakePending := true, released := true } ∧ rd t (kCtx c x R_CTX_PC) = rd s (kCtx c x R_CTX_PC)
            else (ctxOf t c x).st = .ready ∧ (ctxOf t c x).wait = none ∧ rd t (kCtx c x R_CTX_PC) = w64 ((ctxPc s c x + 32) % 2 ^ 26))
        ∧ ((ctxOf s c x).wait = some (.overrun slot.toNat r.gen) → rd t (kCtx c x R_CTX_PC) = rd s (kCtx c x R_CTX_PC)
          ∧ if (ctxOf s c x).halted = true ∨ frozen s c = true then ctxOf t c x = { ctxOf s c x with wakePending := true }
            else (ctxOf t c x).st = .ready ∧ (ctxOf t c x).wait = none)))
  ∧ ∀ (mid : Mid) (slot : Byte) (s : State), let n := slot.toNat
    blockHeld s pgYoke = false →
    ((MayWrite s mid.toNat (pgSlots (n / 32)) (R_SLOT_CTL + 64 * (n % 32)) 1 → (slotOf s n).en = false → slotMask s n ≠ 0 →
      Runs (.slotEnable mid slot) s (fun t => slotOf t n = ⟨true, false, 0, 0, 0, 0⟩ ∧ t.mem = s.mem))
    ∧ (MayWrite s mid.toNat (pgSlots (n / 32)) (R_SLOT_CTL + 64 * (n % 32)) 0 → (slotOf s n).en = true →
      Runs (.slotDisable mid slot) s (fun t => (slotOf t n).en = false ∧ t.releases = s.releases ++ (slotCores s n).map (fun d => ⟨d, n, (slotOf s n).gen, true⟩)
        ∧ rd t (reg pgYoke R_YOKE_DISCARD_CNT) = w64 (min ((rd s (reg pgYoke R_YOKE_DISCARD_CNT)).toNat + ((slotOf s n).arrived + (slotOf s n).ahead)) maxWord)
        ∧ t.mem = s.mem)))

/-- R249 to R254: Pockets. -/
def Obligations.PocketsSendTakeAndClear : Prop :=
  ∀ (k : Fin 512) (s : State), let st := reg (pgPocket k) R_PKT_STATUS
    let msg := fun (i : Nat) => reg (pgPocket k) (R_PKT_MSG + 8 * i)
    let up := recvUp s (pktReceiver s k)
    let sent := fun (t : State) => rdB t st 0 = true ∧ rdB t st 3 = false ∧ t.mem = s.mem
    let back := fun (t : State) => rdB t st 0 = false ∧ rdB t st 3 = true ∧ t.mem = s.mem
    (∀ (c : Core) (x : CtxId), pktOn s k = true → (∀ o ∈ s.orphans, o.1 ≠ 8 * c.val + x.val) →
      let ans := fun (t : State) (a : SyncAns) => ctxOf t c x = { ctxOf s c x with req := none, ans := some a }
      (∀ ws pd, (ctxOf s c x).req = some (.send k.val ws pd) → ws.length ≤ 16 →
        (pktValid s k = true → pktSender s k = c.val →
          (pktGo s k = false → up = true → Runs (.pktGo (.ctx c x) k) s (fun t => sent t ∧ ans t (.outcome pd true 0 [])
            ∧ (∀ i, i < 16 → rd t (msg i) = if i < ws.length then nth 0 ws i else rd s (msg i)) ∧ .notice (.pocket k.val) ∈ t.toYoke))
          ∧ (pktGo s k = true → Runs (.pktGo (.ctx c x) k) s (fun t => ans t (.outcome pd false 0 []) ∧ rd t st = rd s st ∧ t.mem = s.mem ∧ ∀ i, i < 16 → rd t (msg i) = rd s (msg i)))
          ∧ (pktGo s k = false → up = false → Runs (.pktGo (.ctx c x) k) s (fun t => back t ∧ ans t (.outcome pd false 0 []))))
        ∧ (pktValid s k = false ∨ pktSender s k ≠ c.val → Runs (.pktGo (.ctx c x) k) s (fun t => ans t (.outcome pd false 0 []) ∧ frozen t c = true ∧ rd t st = rd s st ∧ t.mem = s.mem)))
      ∧ ∀ sb n pd, (ctxOf s c x).req = some (.recv k.val sb n pd) →
        (pktValid s k = true → pktReceiver s k = c.val →
          (pktGo s k = true → Runs (.pktTake (.ctx c x) k) s (fun t => ans t (.outcome pd true sb ((List.range n).map (fun i => rd s (msg i)))) ∧ t.mem = s.mem
            ∧ (k.val ≠ 1 ∨ s.svc.out = [] → rdB t st 0 = false)))
          ∧ (pktGo s k = false → Runs (.pktTake (.ctx c x) k) s (fun t => t.toYoke = s.toYoke ++ [.reg c x (.pocket k.val)] ∧ t.mem = s.mem
            ∧ ctxOf t c x = { ctxOf s c x with req := none, wait := some (.pocket k.val), woken := false } ∧ rd t st = rd s st)))
        ∧ (pktValid s k = false ∨ pktReceiver s k ≠ c.val → Runs (.pktTake (.ctx c x) k) s (fun t => ans t (.outcome pd false 0 []) ∧ frozen t c = true ∧ rd t st = rd s st ∧ t.mem = s.mem)))
    ∧ ∀ (mid : Mid),
      (MayWrite s mid.toNat (pgPocket k) R_PKT_GO 1 → blockHeld s (pgPocket k) = false → Runs (.pktGo (.fabric mid) k) s (fun t => (if up then sent t else back t) ∧ ∀ i, i < 16 → rd t (msg i) = rd s (msg i)))
      ∧ (MayWrite s mid.toNat (pgPocket k) R_PKT_TAKE 1 → blockHeld s (pgPocket k) = false → pktGo s k = true → (k.val ≠ 1 ∨ s.svc.out = []) → Runs (.pktTake (.fabric mid) k) s (fun t => rdB t st 0 = false ∧ t.mem = s.mem))
      ∧ (MayWrite s mid.toNat (pgBind 0) R_PKT_CLEAR (w64 k.val) → pktGo s k = true → Runs (.pktClear mid k) s (fun t => back t ∧ (∀ i, i < 16 → rd t (msg i) = 0)
          ∧ ∀ c x, c < 32 → x < 8 → (ctxOf s c x).wait = some (.pocket k.val) →
            (ctxOf t c x).wait = none ∧ (ctxOf t c x).ans = some (.outcome (bits (ctxOf s c x).cur 62 60) false 0 [])))
      ∧ (MayWrite s mid.toNat (pgBind 0) R_PKT_LOCK (if rdB s (reg (pgBind 0) R_PKT_LOCK) 0 then 3 else 2) →
          Runs (.lockSet mid) s (fun t => rdB t (reg (pgBind 0) R_PKT_LOCK) 0 = true ∧ t.mem = s.mem))

/-- R256 to R258, R405. -/
def Obligations.WordPocketsAndButtons : Prop :=
  (∀ (mid : Mid) (w : Fin 16) (s : State), let st := reg (pgWord w) R_WP_STATUS
    let op := fun (v : Nat) => bits (rd s (reg (pgWord v) R_WP_WORD)) 63 56
    (MayWrite s mid.toNat (pgWord w) R_WP_GO 1 →
      (w.val < 8 → (∀ v ∈ s.mnt.order, op v ∈ mntOps) → op w.val ∈ mntOps →
        Runs (.wpGo mid w) s (fun t => rdB t st 0 = true ∧ rdB t st 3 = false ∧ t.mnt.order = s.mnt.order ++ [w.val] ∧ t.mem = s.mem))
      ∧ (w.val < 8 → s.mnt.order = [] → op w.val ∉ mntOps → domOn s 44 = true →
        Runs (.wpGo mid w) s (fun t => rdB t st 0 = false ∧ t.mnt.order = []
          ∧ rd t (reg (pgMnt 0) R_MNT_CMD_CNT) = w64 (min ((rd s (reg (pgMnt 0) R_MNT_CMD_CNT)).toNat + 1) maxWord) ∧ t.mem = s.mem))
      ∧ (8 ≤ w.val → recvUp s 0x44 = true → Runs (.wpGo mid w) s (fun t => rdB t st 0 = true ∧ rdB t st 3 = false ∧ t.mem = s.mem)))
    ∧ (MayWrite s mid.toNat (pgWord w) R_WP_TAKE 1 → (∀ p ∈ s.mnt.out, p.1 ≠ w.val) → Runs (.wpTake mid w) s (fun t => rdB t st 0 = false ∧ t.mem = s.mem)))
  ∧ ∀ (mid receiver : Mid) (ring : BitVec 32) (s : State), MayWrite s mid.toNat (pgBtn receiver.toNat) R_BTN_RING (w64 ring.toNat) →
    let pend := reg (pgBtn receiver.toNat) R_BTN_PEND
    let up := domState s (midDomain receiver.toNat) ≠ 0 ∧ domState s (midDomain receiver.toNat) ≠ 3
    Runs (.btnRing (.fabric mid receiver ring)) s (fun t => t.mem = s.mem ∧ ∀ b, b < 32 →
      (rdB t pend b = true ↔ rdB s pend b = true ∨ (up ∧ ring.toNat.testBit b = true ∧ (b < 28 ∨ isMantle mid.toNat = true))))

/-- R267, R273, R281, R436: granules of HBM. -/
def Obligations.HbmGranules : Prop :=
  ∀ (addr : Word) (s : State), regionOf addr.toNat = .hbm → memWaits s addr.toNat = false →
    let a := addr.toNat
    let g := a / 64 * 64
    let pg := pgHbm (hbmStack g)
    let counts := fun (t : State) (k : Nat) => rd t k = w64 (min ((rd s k).toNat + 1) maxWord)
    let off := reg (pgFab (hbmPanel g)) R_FAB_HBM_OFF_CNT
    (hbmUp s g = true → retired s g = false →
      (∀ n, isPoison s.mem g = false → granBad s.mem g = false → Runs (.hbmAccess addr (.read n) .clean) s (fun t => t.resp = .bytes (hbmGranBytes s g) ∧ SameBytes s t
        ∧ rd t (reg pg R_HBM_RD_BYTES_CNT) = w64 (min ((rd s (reg pg R_HBM_RD_BYTES_CNT)).toNat + 64) maxWord)
        ∧ (granWeak s.mem g = true → counts t (reg pg R_HBM_CE_CNT) ∧ granWeak t.mem g = false)))
      ∧ (∀ n, isPoison s.mem g = true ∨ granBad s.mem g = true → Runs (.hbmAccess addr (.read n) .clean) s (fun t => t.resp = .poison (hbmGranBytes s g) ∧ SameBytes s t
        ∧ counts t (reg pg R_HBM_UE_CNT)))
      ∧ ∀ b e, a % 64 + b.length ≤ 64 → Runs (.hbmAccess addr (.write b) e) s (fun t => t.resp = .ok ∧ SameBytesBut s t g 64
        ∧ ∀ i, i < 64 → hbmByte t (g + i) = if a % 64 ≤ i ∧ i < a % 64 + b.length then nth 0 b (i - a % 64) else hbmByte s (g + i)))
    ∧ (hbmUp s g = true → retired s g = true → (∀ n e, Runs (.hbmAccess addr (.read n) e) s (fun t => t.resp = .poison (hbmGranBytes s g)
          ∧ counts t (reg pg R_HBM_RETIRED_HIT_CNT) ∧ t.mem = s.mem))
        ∧ ∀ b e, Runs (.hbmAccess addr (.write b) e) s (fun t => t.resp = .ok ∧ counts t (reg pg R_HBM_RETIRED_HIT_CNT) ∧ t.mem = s.mem))
    ∧ (hbmUp s g = false → (∀ n e, Runs (.hbmAccess addr (.read n) e) s (fun t => t.resp = .poison (hbmGranBytes s g) ∧ counts t off ∧ t.mem = s.mem))
        ∧ ∀ b e, Runs (.hbmAccess addr (.write b) e) s (fun t => t.resp = .ok ∧ counts t off ∧ t.mem = s.mem))

/-- R269, R270. -/
def Obligations.HbmTrainingAndPort : Prop :=
  (∀ (st : Stack) (s : State), domOn s (36 + st.val / 2) = true →
    let k := reg (pgHbm st) R_HBM_STATUS
    (∀ ok, rdF s k 1 0 = 0 → Runs (.hbmTrainDone st false ok) s (fun t => rdF t k 1 0 = 1 ∧ SameBytes s t))
    ∧ (rdF s k 1 0 = 1 → Runs (.hbmTrainDone st true true) s (fun t => rdF t k 1 0 = 2 ∧ OnlyRegs s t [k])
      ∧ (rdB s (reg (pgHbm st) R_BLK_ERR_LOG) 63 = false → Runs (.hbmTrainDone st true false) s (fun t => rdF t k 1 0 = 1
        ∧ rdF t (reg (pgHbm st) R_BLK_ERR_LOG) 15 0 = 0x205 ∧ t.mem = s.mem))))
  ∧ (∀ (mid : Mid) (st : Stack) (ctl : Word) (s : State), MayWrite s mid.toNat (pgHbm st) R_HBM_1500_CTL (setBit ctl 63 true) →
    let k := reg (pgHbm st) R_HBM_1500_CTL
    let set := fun (t : State) => rdF t k 7 0 = bits ctl 7 0 ∧ rdF t k 15 8 = bits ctl 15 8 ∧ rdF t k 22 16 = bits ctl 22 16 ∧ rdB t k 60 = bitAt ctl 60
    if s.mem.run1500.any (fun r => r.stack == st.val) = true then Runs (.hbm1500Go mid st ctl) s (fun t => set t ∧ rdB t k 62 = rdB s k 62 ∧ rdB t k 61 = rdB s k 61 ∧ t.mem = s.mem)
    else if reducedService s = true ∨ bits ctl 7 0 = Config.tempInstr.toNat
    then Runs (.hbm1500Go mid st ctl) s (fun t => t.mem.run1500 = s.mem.run1500 ++ [⟨st.val, bits ctl 15 8, bits ctl 22 16⟩] ∧ rdB t k 62 = false ∧ rdB t k 61 = false
      ∧ set t ∧ SameBytes s t)
    else Runs (.hbm1500Go mid st ctl) s (fun t => rdB t k 62 = true ∧ rdB t k 61 = true ∧ set t ∧ t.mem = s.mem))
  ∧ ∀ (st : Stack) (out : Word) (op : Op1500) (s : State), s.mem.run1500.find? (fun r => r.stack == st.val) = some op →
    Runs (.hbm1500Done st out) s (fun t => (∀ i, i < (if op.len = 0 then 64 else min op.len 64) → (rd t (reg (pgHbm st) R_HBM_1500_DATA)).getLsbD i = out.getLsbD i) ∧ rdB t (reg (pgHbm st) R_HBM_1500_CTL) 62 = true
      ∧ (∀ r ∈ t.mem.run1500, r.stack ≠ st.val) ∧ SameBytes s t ∧ ∀ k, k ≠ reg (pgHbm st) R_HBM_1500_DATA → k ≠ reg (pgHbm st) R_HBM_1500_CTL → rd t k = rd s k)

/-- R274, R276 to R281. -/
def Obligations.HbmCare : Prop :=
  ∀ (st : Stack) (s : State),
    let pg := pgHbm st
    let k := reg pg R_HBM_STATUS
    let rs := reg pg R_HBM_REPAIR_STAT
    let counts := fun (t : State) (o : Nat) => rd t (reg pg o) = w64 (min ((rd s (reg pg o)).toNat + 1) maxWord)
    (∀ (addr : Word) (last : Bool), let g := addr.toNat / 64 * 64
      regionOf addr.toNat = .hbm → hbmStack g = st.val → rdB s (reg pg R_HBM_CTL) 0 = true → hbmUp s g = true → hbmBusy s g = false → (isPoison s.mem g = true ∨ granBad s.mem g = true) →
      Runs (.hbmScrubGranule st addr .clean last) s (fun t => counts t R_HBM_UE_CNT ∧ t.mem = s.mem))
    ∧ (domOn s (36 + st.val / 2) = true → ∀ (temp : Byte) (rise : Bool), Runs (.hbmTempReading st temp rise) s (fun t =>
        rd t (reg pg R_HBM_TEMP) = w64 (256 + temp.toNat)
        ∧ rdF t k 11 8 = nextLimit temp.toNat (rdF s (reg pg R_HBM_THR_CFG) 7 0) (rdF s k 11 8) rise % 16
        ∧ (rdB t (reg pg R_BLK_STAT) 4 = true ↔ rdF t k 11 8 < 8)
        ∧ (rdB t k 6 = true ↔ rdF s (reg pg R_HBM_THR_CFG) 15 8 ≤ temp.toNat) ∧ t.mem = s.mem))
    ∧ (domOn s (36 + st.val / 2) = true → rdF s k 11 8 < 8 → Runs (.throttleWindow st) s (fun t => counts t R_HBM_THROTTLE_CNT ∧ t.mem = s.mem))
    ∧ (∀ (mid : Mid) (addr : Word), let g := bits addr 38 6 * 64
      rdB s rs 0 = false → hbmStack g = st.val →
      (MayWrite s mid.toNat pg R_HBM_REPAIR_CMD (repairCmd 1 addr) → Runs (.softRepair mid st addr) s (fun t =>
        t.mem.repairing = s.mem.repairing ++ [(st.val, g)] ∧ rdB t rs 0 = true ∧ rdB t k 4 = true ∧ SameBytes s t))
      ∧ ∀ e, MayWrite s mid.toNat pg R_HBM_REPAIR_CMD (repairCmd 2 addr) →
        let used := reg pg (R_HBM_SPARE_USED + 8 * (hbmPc g / 2))
        ((rd s used).toNat < 256 → Runs (.sparingEntry mid st addr e) s (fun t => (∃ o ∈ t.mem.spared, o.gran = g) ∧ (e = .uncorrectable → isPoison t.mem g = true) ∧ rd t used = rd s used + 1 ∧ rdF t rs 7 4 = 0
          ∧ counts t R_HBM_SPARE_CNT ∧ SameBytes s t))
        ∧ (256 ≤ (rd s used).toNat → Runs (.sparingEntry mid st addr e) s (fun t => rdF t rs 7 4 = 3 ∧ t.mem = s.mem)))
    ∧ (rdB s rs 0 = true → Runs (.softRepairDone st true) s (fun t => rdB t rs 0 = false ∧ rdF t rs 7 4 = 0 ∧ counts t R_HBM_PPR_CNT
          ∧ (∀ r ∈ t.mem.repairing, r.1 ≠ st.val) ∧ SameBytes s t)
        ∧ Runs (.softRepairDone st false) s (fun t => rdB t rs 0 = false ∧ rdF t rs 7 4 = 2 ∧ (∀ r ∈ t.mem.repairing, r.1 ≠ st.val) ∧ SameBytes s t))
    ∧ ∀ (mid : Mid) (e : Byte) (v : Word), MayWrite s mid.toNat pg (R_HBM_RETIRE + 8 * e.toNat) v →
      let list := reg (pgHbm (st.val / 2 * 2)) (R_HBM_RETIRE + 8 * e.toNat)
      Runs (.retireWrite mid st e v) s (fun t => rdB t list 63 = bitAt v 63 ∧ rdF t list 15 0 = bits v 15 0 ∧ t.mem = s.mem)

/-- R284 to R288. -/
def Obligations.LlcLinesAndWays : Prop :=
  (∀ (mid : Mid) (addr : Word) (l : LlcLine) (s : State), let a := addr.toNat; let o := a % 128
    isMaster mid.toNat = true → cloaked s = false → regionOf a = .hbm → memWaits s a = false → hbmUp s (lineOf a) = true → llcGet s (lineOf a) = some l → l.data.length = 128 →
    let hits := fun (t : State) => SameBytes s t ∧ rd t (reg (pgLlc (hbmPanel (lineOf a))) R_LLC_HIT_CNT)
      = w64 (min ((rd s (reg (pgLlc (hbmPanel (lineOf a))) R_LLC_HIT_CNT)).toNat + 1) maxWord)
    (∀ n, 0 < n → o + n ≤ 128 → l.p0 = false → l.p1 = false → l.err ≠ .uncorrectable →
      Runs (.llcAccess mid addr (.read n) .clean) s (fun t => t.resp = .bytes ((List.range n).map (fun i => nth 0 l.data (o + i))) ∧ hits t))
    ∧ ∀ b, 0 < b.length → o + b.length ≤ 128 → mayWrite s mid.toNat a b.length = true →
      Runs (.llcAccess mid addr (.write b) .clean) s (fun t => t.resp = .ok ∧ hits t
        ∧ ∃ l', llcGet t (lineOf a) = some l' ∧ l'.dirty = true ∧ l'.way = l.way ∧ l'.data = l.data.take o ++ b ++ l.data.drop (o + b.length)))
  ∧ (∀ (mid : Mid) (p : Panel) (addr : Word) (s : State), let a := addr.toNat
    isMaster mid.toNat = true → cloaked s = false → regionOf a = .llcWin p.val → blockHeld s (pgLlc p) = false →
    (∀ n, oneRegion a n = true → (linesOf a n).all (scratchOk s) = true → (∀ i, i < n → isPoison s.mem (a + i) = false ∧ isBad s.mem (a + i) = false) →
      Runs (.llcAccess mid addr (.read n) .clean) s (fun t => t.resp = .bytes ((List.range n).map (fun i => getCell s.mem (a + i))) ∧ SameBytes s t))
    ∧ ∀ b, oneRegion a b.length = true → (linesOf a b.length).all (scratchOk s) = true → mayWrite s mid.toNat a b.length = true →
      Runs (.llcAccess mid addr (.write b) .clean) s (fun t => t.resp = .ok ∧ (∀ i, i < b.length → getCell t.mem (a + i) = nth 0 b i) ∧ SameBytesBut s t a b.length))
  ∧ ∀ (mid : Mid) (p : Panel) (s : State),
    let st := reg (pgLlc p) R_LLC_STATUS
    let md := reg (pgLlc p) R_LLC_WAY_MODE
    (∀ v : BitVec 16, MayWrite s mid.toNat (pgLlc p) R_LLC_WAY_MODE (w64 v.toNat) →
      (rdF s st 15 0 = 0 → Runs (.llcWayModeWrite mid p v) s (fun t => rdF t st 15 0 = Nat.xor (rdF s md 15 0) v.toNat ∧ rd t md = w64 v.toNat ∧ t.mem = s.mem))
      ∧ (rdF s st 15 0 ≠ 0 → Runs (.llcWayModeWrite mid p v) s (fun t => rdB t st 16 = true ∧ rd t md = rd s md ∧ rdF t st 15 0 = rdF s st 15 0 ∧ t.mem = s.mem)))
    ∧ (domOn s (32 + p.val) = true → rdF s st 15 0 ≠ 0 → Memory.wf s.mem = true → LinesOk s →
        (∀ w, w < 16 → rdB s st w = true → linesHeld s (wayLines s p w) = false) → Runs (.wayChangeDone p) s (fun t => rdF t st 15 0 = 0
        ∧ ∀ w, w < 16 → rdB s st w = true → wayLines t p w = [] ∧ ∀ i, i < 0x400000 → getCell t.mem (llcBase p + w * 0x400000 + i) = 0))
    ∧ (MayWrite s mid.toNat (pgLlc p) R_LLC_CTL 1 → Runs (.flush mid p) s (fun t => rdB t st 17 = true ∧ SameBytes s t ∧ t.mem.llc = s.mem.llc
        ∧ ∀ e ∈ s.mem.llc, hbmPanel e.1 = p.val → e.2.dirty = true → e.1 ∈ t.mem.flushing))
    ∧ (domOn s (32 + p.val) = true → rdB s st 17 = true → Memory.wf s.mem = true → LinesOk s →
        linesHeld s (s.mem.flushing.filter (fun a => hbmPanel a == p.val)) = false → Runs (.flushDone p) s (fun t => rdB t st 17 = false
        ∧ (∀ a ∈ t.mem.flushing, hbmPanel a ≠ p.val)
        ∧ ∀ a l, a ∈ s.mem.flushing → hbmPanel a = p.val → llcGet s a = some l → l.dirty = true → hbmUp s a = true → retired s a = false →
          (∃ l', llcGet t a = some l' ∧ l'.dirty = false ∧ l'.data = l.data ∧ l'.way = l.way) ∧ ∀ i, i < 128 → getCell t.mem (a + i) = nth 0 l.data i))

/-- R301 to R306: arbitration. Where nothing waits at a source: a decided burst passes, the round is dead where its input lost eligibility, and the next grant is decided;
where no input was eligible, what blocks do in the round can let the parked owner pass at once. -/
def Obligations.ArbitersGrantAndCommit : Prop :=
  (∀ (p : Panel) (x y : Fin 4) (out : Nat) (s : State), arbUp s p x y out = true →
    let z := arbOf s p x y out
    let elig := arbElig s p x y out
    let counts := fun (t : State) (o n : Nat) => rd t (reg (pgFab p) o) = w64 (min ((rd s (reg (pgFab p) o)).toNat + n) maxWord)
    let after := fun (t : State) (m : FabMsg) => match (arbOf t p x y out).last with
      | none => True
      | some l => l < arbInput m
    let next := fun (t : State) => match (arbOf t p x y out).decided with
      | none => arbElig t p x y out = []
      | some j => ∃ n ∈ arbElig t p x y out, arbInput n = j ∧ ∀ o ∈ arbElig t p x y out, arbPrio t p o ≤ arbPrio t p n
          ∧ (arbPrio t p o = arbPrio t p n → (after t o → after t n) ∧ ((after t o ↔ after t n) → arbInput n ≤ arbInput o))
    let passed := fun (u t : State) (m : FabMsg) => ∃ sl, fabRoom u p x y out m = some sl ∧ t.fab = u.fab.erase m ++ [{ fabMoved u p x y out m with slot := sl }]
        ∧ (arbOf t p x y out).last = some (arbInput m) ∧ counts t R_FAB_FLIT_CNT (fabFlits m.req)
    ((∀ m ∈ s.fab, m.loc ≠ .source) →
      (∀ i m, z.decided = some i → elig.find? (fun m => arbInput m == i) = some m → Runs (.arbiterGrant p x y out []) s (fun t => passed s t m ∧ next t
        ∧ counts t R_ARB_GRANT_CNT 1 ∧ counts t R_ARB_PARKED_CNT 0
        ∧ counts t R_ARB_STALE_CNT (if elig.any (fun n => decide (arbPrio s p m < arbPrio s p n) && !z.seen.contains (arbInput n)) then 1 else 0) ∧ t.mem = s.mem))
      ∧ (∀ i, z.decided = some i → (∀ m ∈ elig, arbInput m ≠ i) → Runs (.arbiterGrant p x y out []) s (fun t => counts t R_ARB_DEAD_ROUND_CNT 1
        ∧ counts t R_FAB_FLIT_CNT 0 ∧ (arbOf t p x y out).last = z.last ∧ next t ∧ t.fab = s.fab ∧ t.mem = s.mem))
      ∧ (z.decided = none → Runs (.arbiterGrant p x y out []) s (fun t => next t ∧ counts t R_FAB_FLIT_CNT 0 ∧ counts t R_ARB_GRANT_CNT 0
        ∧ (arbOf t p x y out).last = z.last ∧ t.fab = s.fab ∧ t.mem = s.mem)))
    ∧ ∀ during m, z.decided = none → elig = [] → (arbElig (fabDuring s during) p x y out).find? (fun n => some (arbInput n) == z.last) = some m →
      Runs (.arbiterGrant p x y out during) s (fun t => passed (fabDuring s during) t m ∧ counts t R_ARB_PARKED_CNT 1 ∧ counts t R_ARB_GRANT_CNT 0 ∧ t.mem = s.mem))
  ∧ ∀ (mid : Mid) (p : Panel) (s : State),
    let k := reg (pgFab p) R_ARB_COMMIT
    let act := reg (pgFab p) R_ARB_PRIO_ACTIVE
    (MayWrite s mid.toNat (pgFab p) R_ARB_COMMIT 1 →
      (rdB s k 1 = false → Runs (.arbCommit mid p) s (fun t => rd t act = rd s (reg (pgFab p) R_ARB_PRIO_SHADOW) ∧ rdB t k 1 = true ∧ t.mem = s.mem))
      ∧ (rdB s k 1 = true → Runs (.arbCommit mid p) s (fun t => rd t act = rd s act ∧ rdB t k 1 = true ∧ rdB t (reg (pgFab p) R_FAB_STATUS) 0 = true ∧ t.mem = s.mem)))
    ∧ (domOn s (44 + p.val) = true → Runs (.arbCommitDone p) s (fun t => rdB t k 1 = false ∧ OnlyRegs s t [k]))

/-- R296 to R299: lane groups of a Seam. -/
def Obligations.SeamLaneGroups : Prop :=
  ∀ (n : Panel) (dirB : Bool) (g : Fin 8) (s : State), seamOn s n = true →
    let k := seamKey n dirB g
    let pg := pgSeam n
    let kg := reg pg R_SEAM_GROUPS
    let st := reg pg R_SEAM_STATUS
    let counts := fun (t : State) (o n : Nat) => rd t (reg pg o) = w64 (min ((rd s (reg pg o)).toNat + n) maxWord)
    let side := fun (t : State) => if dirB then rdF t kg 15 8 else rdF t kg 7 0
    let lo := (if dirB then 48 else 32) + 2 * g.val
    (∀ i : Fin 64, seamActive s n dirB g = true → k ∉ s.seamTests →
      let now := refcnt s (25 + seamSender n dirB)
      let recent := (s.seamRejects.filter (fun r => r.1 == k && decide (now - r.2 ≤ 1000000))).length
      let again := seamLater s n dirB g i
      let replayed := (seamFlits s n dirB).map (fun f => if f.group = g.val ∧ again.contains f.seq then { f with again := true } else f)
      Runs (.seamCrcReject n dirB g i) s (fun t => counts t R_SEAM_CRC_CNT 1 ∧ rd t kg = rd s kg ∧ t.mem = s.mem
        ∧ (recent < 15 → t.seamTests = s.seamTests ∧ (k, now) ∈ t.seamRejects ∧ counts t R_SEAM_REPLAY_CNT (max 1 again.length) ∧ seamFlits t n dirB = replayed)
        ∧ (15 ≤ recent → t.seamTests = s.seamTests ++ [k] ∧ rdB t st 1 = true ∧ counts t R_SEAM_LANE_TEST_CNT 1
          ∧ (seamLanes t n dirB ≠ [] → (seamFlits t n dirB).map (fun f => f.seq) = (seamFlits s n dirB).map (fun f => f.seq)
              ∧ ∀ f ∈ seamFlits t n dirB, f.group ≠ g.val))))
    ∧ ∀ failing, k ∈ s.seamTests →
      (failing ≤ 2 - rdF s kg (lo + 1) lo → Runs (.seamLaneTestEnd n dirB g failing) s (fun t => k ∉ t.seamTests
        ∧ rdF t kg (lo + 1) lo = (rdF s kg (lo + 1) lo + failing) % 4 ∧ rdF t kg 15 0 = rdF s kg 15 0 ∧ t.fab = s.fab ∧ t.mem = s.mem))
      ∧ (2 - rdF s kg (lo + 1) lo < failing → Runs (.seamLaneTestEnd n dirB g failing) s (fun t => k ∉ t.seamTests ∧ seamActive t n dirB g = false
        ∧ (∀ d h, h < 8 → (d, h) ≠ (dirB, g.val) → seamActive t n d h = seamActive s n d h)
        ∧ rdB t st 2 = true ∧ rdB t (reg pg R_BLK_STAT) 5 = true ∧ counts t R_SEAM_GROUP_RETIRE_CNT 1 ∧ t.mem = s.mem
        ∧ (side t = 0 → rdB s st 3 = false → rdB t st 3 = true ∧ rdB t (reg (pgFab n) R_FAB_STATUS) 1 = true
            ∧ rdB t (reg (pgFab ((n.val + 1) % 4)) R_FAB_STATUS) 1 = true
            ∧ (∀ m ∈ t.fab, m.loc ≠ .seam n false ∧ m.loc ≠ .seam n true) ∧ t.fab.length = s.fab.length)))

/-- R314, R317, R324, R338, R340, R343: ports. -/
def Obligations.LinkPorts : Prop :=
  ∀ (mid : Mid) (p : Port) (s : State),
    let st := kPort p R_LINK_STATUS
    let en := rdB s (kPort p R_LINK_CTL) 0
    let on := domOn s (40 + p.val / 4) = true
    let clock := hemHeld s (8 + p.val) = false
    let counts := fun (t : State) (o n : Nat) => rd t (kPort p o) = w64 (min ((rd s (kPort p o)).toNat + n) maxWord)
    let trains := fun (t : State) => portState t p = 1 ∧ counts t R_LINK_TRAIN_CNT 1 ∧ rdB t st 3 = rdB t (kPort p R_LINK_CTL) 1 ∧ SameBytes s t
    (MayWrite s mid.toNat (pgPort p) R_LINK_CTL (ctlWord s p true false) → p.val ∉ s.portDisabled → en = false →
      Runs (.enable mid p true) s (fun t => trains t ∧ rdB t (kPort p R_LINK_CTL) 0 = true))
    ∧ (MayWrite s mid.toNat (pgPort p) R_LINK_CTL (ctlWord s p false false) → en = true →
      Runs (.enable mid p false) s (fun t => portState t p = 0 ∧ rdB t (kPort p R_LINK_CTL) 0 = false ∧ SameBytes s t))
    ∧ (MayWrite s mid.toNat (pgPort p) R_LINK_CTL (ctlWord s p en true) → p.val ∉ s.portDisabled → en = true → Runs (.retrain mid p) s trains)
    ∧ (on → portState s p = 1 →
      Runs (.linkTrainDone p true) s (fun t => portState t p = (if macOk (rd s (kPort p R_LINK_MAC)).toNat p then 4 else 2) ∧ (rdB s st 7 = false → p.val ∈ t.portCoef) ∧ SameBytes s t)
      ∧ (rdB s st 7 = true → Runs (.linkTrainDone p false) s (fun t => trains t ∧ rdB t st 7 = false))
      ∧ (rdB s st 7 = false → nGet s.trainFails p ≠ 2 → Runs (.linkTrainDone p false) s (fun t => trains t ∧ nGet t.trainFails p = nGet s.trainFails p + 1))
      ∧ (rdB s st 7 = false → nGet s.trainFails p = 2 → Runs (.linkTrainDone p false) s (fun t => portState t p = 5 ∧ t.mem = s.mem)))
    ∧ (on → portState s p ≠ 0 → portState s p ≠ 5 → ∀ fault, Runs (.linkDown p fault) s (fun t => rdB t st 4 = fault
        ∧ (if en then trains t else portState t p = 0 ∧ SameBytes s t) ∧ (portState s p = 4 → rdB t (reg (pgPort p) R_BLK_STAT) 6 = true)))
    ∧ (on → clock → portState s p = 2 → rdB s st 3 = false → rdB s st 5 = false → ∀ b, Runs (.lldpCapture p b) s (fun t => rdB t st 5 = true ∧ t.mem = s.mem
        ∧ ∀ i, i < 64 → rd t (kPort p (R_LINK_LLDP_BUF + 8 * i)) = w64 (bytesVal ((b.drop (8 * i)).take 8))))
    ∧ (∀ addr : BitVec 48, MayWrite s mid.toNat (pgPort p) R_LINK_MAC (w64 addr.toNat) →
      (macOk addr.toNat p = true → Runs (.linkMacWrite mid p addr) s (fun t => rd t (kPort p R_LINK_MAC) = w64 addr.toNat
        ∧ portState t p = (if portState s p = 2 then 4 else portState s p) ∧ SameBytes s t))
      ∧ (macOk addr.toNat p = false → Runs (.linkMacWrite mid p addr) s (fun t => rd t (kPort p R_LINK_MAC) = rd s (kPort p R_LINK_MAC) ∧ rdB t st 8 = true
        ∧ portState t p = portState s p ∧ t.mem = s.mem)))
    ∧ (on → clock → portState s p = 2 → rdB s st 3 = true → ∀ addr : BitVec 48, Runs (.hello p addr) s (fun t => portState t p = 4
        ∧ rd t (kPort p R_LINK_MAC) = w64 addr.toNat ∧ t.hellos = s.hellos ++ [(p.val, addr.toNat)] ∧ SameBytes s t))
    ∧ (portHears s p = true → rdB s st 3 = false → ∀ (classes : BitVec 8) (time : Nat), Runs (.pfcReceived p classes time) s (fun t => counts t R_LINK_PFC_RX_CNT 1 ∧ t.mem = s.mem
        ∧ (bitAt classes (rdF s (kPort p R_LINK_QTAG) 22 20) = true → rdB t st 6 = decide (time ≠ 0) ∧ counts t R_LINK_PFC_IGN_CNT 0)
        ∧ (bitAt classes (rdF s (kPort p R_LINK_QTAG) 22 20) = false → rdB t st 6 = rdB s st 6 ∧ counts t R_LINK_PFC_IGN_CNT 1)))
    ∧ (on → Runs (.pfcPauseEnd p) s (fun t => rdB t st 6 = false ∧ OnlyRegs s t [st]))

/-- R321, R323, R326 to R333, R335: frames received from a partner. -/
def Obligations.FramesReceived : Prop :=
  ∀ (p : Port) (f : WFrame) (chk : RxCheck) (e : Nat) (s : State),
    let c := f.cls % 4
    let pg := pgLink (ptrPanel e)
    let countIn := fun (t : State) (pg o : Nat) => rd t (reg pg o) = w64 (min ((rd s (reg pg o)).toNat + 1) maxWord)
    let counts := fun (t : State) (o : Nat) => countIn t pg o
    let fresh := freshUni s e { f with cls := c } = true
    let covered := fun (u : TxFrame) => u.f.cls == c && covers f.ackSeq f.sack u.f.seq
    let left := fun (t : State) => (ptrOf t e).held = (ptrOf s e).held ∧ (ptrOf t e).xhi = (ptrOf s e).xhi ∧ t.mem = s.mem
    (FrameOk s p f chk e (.uni e) →
      (f.type = 0 →
        let dup := f.seq < rxSeq s e c ∨ ∃ h ∈ heldCls s e c, h.f.seq = f.seq
        (ptrFrozen s e = false → ¬ dup → f.seq < rxSeq s e c + grantOf s e c → Runs (.dataFrameRx p f chk) s (fun t =>
          (ptrOf t e).held = (ptrOf s e).held ++ [⟨{ f with cls := c }, p, false⟩]
          ∧ rd t (kPtr e (R_PTR_RX_SEQ0 + 8 * c)) = w64 (advance (heldCls t e c) 1024 (rxSeq s e c)) ∧ t.mem = s.mem))
        ∧ (ptrFrozen s e = false → dup → Runs (.dataFrameRx p f chk) s (fun t => left t ∧ counts t R_LNK_DUP_CNT))
        ∧ (ptrFrozen s e = false → ¬ dup → rxSeq s e c + grantOf s e c ≤ f.seq → Runs (.dataFrameRx p f chk) s (fun t => left t ∧ counts t R_LNK_SEQ_WINDOW_CNT))
        ∧ (ptrFrozen s e = true → Runs (.dataFrameRx p f chk) s (fun t => left t ∧ counts t R_LNK_FROZEN_DROP_CNT)))
      ∧ (f.type = 1 → fresh → Runs (.ackFrameRx p f chk) s (fun t => (ptrOf t e).unacked = (ptrOf s e).unacked.filter (fun u => !covered u)
        ∧ rdB t (kPtr e R_PTR_STATE) (8 + p.val) = (rdB s (kPtr e R_PTR_STATE) (8 + p.val) || (ptrOf s e).probes.contains p.val) ∧ SameBytes s t))
      ∧ (f.type = 2 → fresh → (∀ u ∈ (ptrOf s e).unacked, u.f.cls < 4) → Runs (.nackFrameRx p f chk) s (fun t =>
        (ptrOf t e).unacked.map (fun u => (u.f.cls, u.f.seq)) = ((ptrOf s e).unacked.filter (fun u => !covered u)).map (fun u => (u.f.cls, u.f.seq))
        ∧ counts t R_LNK_NACK_CNT ∧ SameBytes s t))
      ∧ (f.type = 3 → fresh → (maySend s e = true → portStarts s c p = true → f.attr % 2 = 1 → Runs (.keepaliveRx p f chk) s (fun t =>
            ∃ w, Leaves s t p (ptrAddr s e p) w ∧ w.type = 1 ∧ w.cls = c ∧ w.dst = ptrRank s e ∧ w.ackSeq = rxSeq s e c ∧ tagOk (ptrOf s e).key w = true ∧ t.mem = s.mem))
          ∧ (f.attr % 2 = 0 → Runs (.keepaliveRx p f chk) s (fun t => t.wire = s.wire ∧ t.mem = s.mem))))
    ∧ (∀ g, FrameOk s p f chk e (.member e g) → f.type = 0 → ptrFrozen s e = false → grpSeq s g ≤ f.seq → (∀ h ∈ (grpOf s g).held, h.f.seq ≠ f.seq) →
        f.seq < grpSeq s g + grantOf s e (grpClass s g) → Runs (.dataFrameRx p f chk) s (fun t =>
          (grpOf t g).held = (grpOf s g).held ++ [⟨{ f with cls := grpClass s g }, p, false⟩]
          ∧ rd t (kGrp g R_GRP_SEQ) = w64 (advance (grpOf t g).held 1024 (grpSeq s g)) ∧ t.mem = s.mem))
    ∧ (∀ w, FrameOk s p { f with tag := w } chk e (.uni e) → f.type = 0 → tagOk (ptrOf s e).key f = false →
        Runs (.dataFrameRx p f chk) s (fun t => counts t R_LNK_GCM_FAIL_CNT ∧ t.partners = s.partners ∧ t.mem = s.mem))
    ∧ (portHears s p = true → chk.fecUncorrectable = false → (f.type = 0 ∧ headOk s p chk.head f = false ∨ 4 ≤ f.type) →
        Runs (.dataFrameRx p f chk) s (fun t => countIn t (pgPort p) R_LINK_RX_DROP_CNT ∧ t.partners = s.partners ∧ t.wire = s.wire ∧ t.mem = s.mem))

/-- R325, R328, R331 to R337, R341: frames sent. -/
def Obligations.FramesSent : Prop :=
  (∀ (e : Nat) (s : State), e < 4096 →
    let pg := pgLink (ptrPanel e)
    let counts := fun (t : State) (o : Nat) => rd t (reg pg o) = w64 (min ((rd s (reg pg o)).toNat + 1) maxWord)
    (∀ (f : WFrame) i, maySend s e = true → opFits f = true → avail s e f.cls ≠ 0 → nextPort (startPorts s e f.cls) (nGet (ptrOf s e).next f.cls) = some i →
      let w := sealFrame s e f 0 (txSeq s e f.cls)
      ((portTurn s i f.cls f.len).2 = true → Runs (.dataFrameTx e f) s (fun t => Leaves s t i (ptrAddr s e i) w
        ∧ rd t (kPtr e (R_PTR_TX_SEQ0 + 8 * f.cls)) = w64 (txSeq s e f.cls + 1) ∧ nGet (ptrOf t e).sent f.cls = (nGet (ptrOf s e).sent f.cls + 1) % 65536
        ∧ (ptrOf t e).unacked = (ptrOf s e).unacked ++ [⟨w, i, linkNow s (ptrPanel e), none, replaySlot s (ptrPanel e)⟩] ∧ ReplayKept s t (ptrPanel e) f.payload))
      ∧ ((portTurn s i f.cls f.len).2 = false → Runs (.dataFrameTx e f) s (fun t => (∃ o ∈ t.outbox, o.1 = false ∧ o.2.1 = e ∧ sameOp o.2.2 f = true)
        ∧ t.wire = s.wire ∧ t.partners = s.partners ∧ t.mem = s.mem)))
    ∧ (∀ c, c < 4 → maySend s e = true → nGet (ptrOf s e).since c ≠ 0 → startPorts s e c ≠ [] →
      Runs (.ackDelay (.entry e c)) s (fun t => ∃ i ∈ startPorts s e c, ∃ w, Leaves s t i (ptrAddr s e i) w ∧ w.type = 1 ∧ w.cls = c ∧ w.ackSeq = rxSeq s e c
        ∧ nGet (ptrOf t e).since c = 0 ∧ t.mem = s.mem))
    ∧ (∀ c u, c < 4 → maySend s e = true → oldestTx s e c = some u → (∃ i ∈ startPorts s e c, i ≠ u.port) →
      Runs (.retxTimeout (.entry e c)) s (fun t => ∃ i ∈ startPorts s e c, i ≠ u.port ∧ ∃ w, Leaves s t i (ptrAddr s e i) w ∧ w.type = 0 ∧ w.seq = u.f.seq
        ∧ w.payload = (replayGet s (ptrPanel e) u.slot u.f).2.payload ∧ w.addr = u.f.addr ∧ counts t R_LNK_TIMEOUT_CNT ∧ counts t R_LNK_RETX_CNT ∧ SameBytes s t))
    ∧ (∀ p : Port, rdB s (kPtr e R_PTR_CFG0) (44 + p.val) = true → rdB s (kPtr e R_PTR_STATE) (8 + p.val) = false → maySend s e = true → portUp s p = true →
      portStarts s 1 p = true → Runs (.probeKeepalive e p) s (fun t => (∃ w, Leaves s t p (ptrAddr s e p) w ∧ w.type = 3 ∧ w.attr = 1)
        ∧ p.val ∈ (ptrOf t e).probes ∧ t.mem = s.mem))
    ∧ (linkUp s (ptrPanel e) = true → ptrValid s e = true → rdB s (kPtr e R_PTR_CFG0) 62 = true → ptrState s e = 1 →
      let miss := rdF s (kPtr e R_PTR_STATE) 7 6
      Runs (.livenessWindow e) s (fun t => t.mem = s.mem ∧ (ptrOf t e).winSeen = false
        ∧ ((ptrOf s e).winSeen = true → rdF t (kPtr e R_PTR_STATE) 7 6 = 0 ∧ ptrState t e = 1)
        ∧ ((ptrOf s e).winSeen = false → counts t R_LNK_KEEPALIVE_MISS_CNT ∧ rdF t (kPtr e R_PTR_STATE) 7 6 = (miss + 1) % 4 ∧ ptrState t e = (if miss = 2 then 3 else 1)))))
  ∧ ∀ (g : Nat) (s : State), g < 256 →
    (∀ (f : WFrame) i, grpReady s g = true → opFits f = true → grpPort s g = some i → (portTurn s i (grpClass s g) f.len).2 = true →
      Runs (.groupFrameTx g f) s (fun t => ∃ w, (⟨i, wireHead s i (grpAddr s g i) w, w⟩ : WirePkt) ∈ (if hemHeld s (8 + i) then t.wireHeld else t.wire)
        ∧ w.type = 0 ∧ w.mcast = true ∧ w.seq = grpSeq s g ∧ w.dst = g ∧ w.payload = f.payload ∧ w.addr = f.addr ∧ tagOk (grpOf s g).key w = true
        ∧ rd t (kGrp g R_GRP_SEQ) = w64 (grpSeq s g + 1) ∧ (∃ r ∈ (grpOf t g).retained, r.f = w) ∧ ReplayKept s t (grpPanel g) f.payload))
    ∧ (∀ r, linkUp s (grpPanel g) = true → (grpOf s g).retained.find? (fun r => waitsAttached (grpOf s g) r != []) = some r → grpStarts s g ≠ [] →
      Runs (.retxTimeout (.group g)) s (fun t => ∃ i ∈ grpStarts s g, ∃ w, Leaves s t i (grpAddr s g i) w ∧ w.seq = r.f.seq
        ∧ w.payload = (replayGet s (grpPanel g) r.slot r.f).2.payload ∧ SameBytes s t))
    ∧ (∀ l z r, (grpOf s g).legs[l]? = some z → z.entry < 4096 → z.attached = false → (grpOf s g).retained.find? (fun r => r.legs.any (fun x => x.1 == l)) = some r → r.f.seq < z.sent →
      maySend s z.entry = true → (∃ i ∈ startPorts s z.entry (grpClass s g), i ≠ legPort r l) →
      Runs (.retxTimeout (.leg g l)) s (fun t => ∃ i w, Leaves s t i (ptrAddr s z.entry i) w ∧ i ≠ legPort r l ∧ w.seq = r.f.seq
        ∧ w.payload = (replayGet s (grpPanel g) r.slot r.f).2.payload ∧ SameBytes s t))
    ∧ ((grpOf s g).since ≠ 0 → let e := rdF s (kGrp g R_GRP_CFG) 31 20
      maySend s e = true → startPorts s e (grpClass s g) ≠ [] →
      Runs (.ackDelay (.group g)) s (fun t => ∃ i ∈ startPorts s e (grpClass s g), ∃ w, Leaves s t i (ptrAddr s e i) w ∧ w.type = 1 ∧ w.mcast = true ∧ w.ackSeq = grpSeq s g
        ∧ (grpOf t g).since = 0 ∧ t.mem = s.mem))

/-- R322, R326, R327, R347: the writes of received frames. -/
def Obligations.IngressWrites : Prop :=
  ∀ (src : RxStream) (h : RxSlot) (s : State),
    let e := srcEntry s src
    let cls := match src with
      | .entry _ c => c
      | .group g => grpClass s g
    e < 4096 → (match src with | .entry _ c => c < 4 | .group g => g < 256) → linkUp s (ptrPanel e) = true → ptrFrozen s e = false → nextRx s src = some h →
    (∀ m, toEngineMid h.f = some m → Runs (.frameWritesStart src) s (fun t => t.toEngine = s.toEngine ++ [⟨m, src, h.f, false⟩]
      ∧ (∀ x ∈ heldOf t src, x.f.seq = h.f.seq → x.handed = true) ∧ (heldOf t src).map (fun x => x.f) = (heldOf s src).map (fun x => x.f) ∧ t.mem = s.mem))
    ∧ ∀ c, toEngineMid h.f = none → h.f.opc = 0 → 0 < h.f.len → h.f.payload.length = h.f.len → h.port < 16 →
      regionOf h.f.addr = .data c → oneRegion h.f.addr h.f.len = true → csAnswers s c h.f.addr h.f.len = true →
      (mayWrite s (0x60 + h.port) h.f.addr h.f.len = true → Runs (.frameWritesStart src) s (fun t => t.resp = .ok
        ∧ (∀ i, i < h.f.len → getCell t.mem (h.f.addr + i) = nth 0 h.f.payload i) ∧ SameBytesBut s t h.f.addr h.f.len
        ∧ (∀ x ∈ heldOf t src, x.f.seq ≠ h.f.seq) ∧ nGet (ptrOf t e).freed cls = (nGet (ptrOf s e).freed cls + 1) % 65536))
      ∧ (mayWrite s (0x60 + h.port) h.f.addr h.f.len = false → h.handed = false → Runs (.frameWritesStart src) s (fun t => SameBytes s t
        ∧ ptrFrozen t e = true ∧ (∀ x ∈ heldOf t src, x.f.seq = h.f.seq → x.handed = true) ∧ nGet (ptrOf t e).freed cls = nGet (ptrOf s e).freed cls))

/-- R335, R344 to R346, R349, R413: partner entries and groups. -/
def Obligations.PartnersAndGroups : Prop :=
  (∀ (mid : Mid) (p : Panel) (e : Nat) (s : State), e < 4096 →
    let stat := kLnk p R_PARTNER_CMD_STAT
    let may := fun (op : Nat) => MayWrite s mid.toNat (pgLink p) R_PARTNER_CMD (partnerCmd op e) ∧ rdB s stat 0 = false
    let kept := fun (t : State) => ptrOf t e = ptrOf s e ∧ rd t (kPtr e R_PTR_CFG0) = rd s (kPtr e R_PTR_CFG0) ∧ rd t (kPtr e R_PTR_STATE) = rd s (kPtr e R_PTR_STATE)
    let refused := fun (n : Nat) (t : State) => kept t ∧ rdF t stat 7 4 = n % 16 ∧ rdB t stat 0 = false ∧ t.mem = s.mem
    let audits := fun (op : Nat) (t : State) => ptrState t e = 4 ∧ ptrOf t e = { ptrOf s e with auditOp := op, staged := stagedOf s p } ∧ rdB t stat 0 = true ∧ t.mem = s.mem
    (may 1 → (∀ n, partnerRefusal s p 1 e = some n → Runs (.load mid p e) s (refused n))
      ∧ (partnerRefusal s p 1 e = none → Runs (.load mid p e) s (fun t => ptrValid t e = true ∧ ptrState t e = 1 ∧ rd t (kPtr e R_PTR_CFG1) = rd s (kLnk p R_LNK_STAGE_CFG1)
        ∧ ptrOf t e = { Partner.rst with key := (ptrOf t e).key } ∧ (ptrOf t e).key = some (pairKey t e) ∧ rdF t stat 7 4 = 0 ∧ rdB t stat 0 = false ∧ t.mem = s.mem)))
    ∧ (may 2 → (∀ n, partnerRefusal s p 2 e = some n → Runs (.partnerRedraw mid p e) s (refused n))
      ∧ (partnerRefusal s p 2 e = none → Runs (.partnerRedraw mid p e) s (audits 2)))
    ∧ (may 3 → (∀ n, partnerRefusal s p 3 e = some n → Runs (.remove mid p e) s (refused n))
      ∧ (partnerRefusal s p 3 e = none → Runs (.remove mid p e) s (audits 3))))
  ∧ (∀ (e : Nat) (s : State), e < 4096 → linkUp s (ptrPanel e) = true → ptrState s e = 4 →
    let good := ∀ c, c < 4 → outstanding s e c ≤ grantOf s e c ∧ slotsHeld s e c ≤ grantOf s e c
    let pg := pgLink (ptrPanel e)
    Runs (.creditAudit e) s (fun t => t.mem = s.mem ∧ rdB t (reg pg R_PARTNER_CMD_STAT) 0 = false
      ∧ rd t (reg pg R_LNK_AUDIT_CNT) = w64 (min ((rd s (reg pg R_LNK_AUDIT_CNT)).toNat + 1) maxWord)
      ∧ (∀ c, c < 4 → rd t (kPtr e (R_PTR_TX_SEQ0 + 8 * c)) = 0 ∧ rd t (kPtr e (R_PTR_RX_SEQ0 + 8 * c)) = 0)
      ∧ ((ptrOf s e).auditOp = 2 → ptrValid t e = true ∧ ptrState t e = 1 ∧ rd t (kPtr e R_PTR_CFG1) = (ptrOf s e).staged.2) ∧ ((ptrOf s e).auditOp ≠ 2 → ptrValid t e = false ∧ ptrState t e = 0)
      ∧ (¬ good → pg ∈ t.breached ∧ rdB t (reg pg R_BLK_STAT) 1 = true) ∧ (good → t.breached = s.breached)))
  ∧ ∀ (mid : Mid) (s : State),
    (∀ (g : Nat) (v : Word), g < 256 → MayWrite s mid.toNat (pgGroup (g / 16)) (R_GRP_CFG + 64 * (g % 16)) v →
      (grpValid s g = false → bitAt v 63 = true → Runs (.groupValidWrite mid g v) s (fun t => rd t (kGrp g R_GRP_CFG) = v &&& ~~~ maskHL 11 0 ∧ rd t (kGrp g R_GRP_SEQ) = 0
        ∧ (grpOf t g).key ≠ none ∧ (grpOf t g).retained = [] ∧ (grpOf t g).held = [] ∧ t.mem = s.mem))
      ∧ (grpValid s g = true → bitAt v 63 = false → (grpOf s g).retained = [] → Runs (.groupValidWrite mid g v) s (fun t => grpValid t g = false ∧ grpOf t g = GroupSt.rst ∧ t.mem = s.mem))
      ∧ (grpValid s g = true → bitAt v 63 = true ∨ (grpOf s g).retained ≠ [] → Runs (.groupValidWrite mid g v) s (fun t => rd t (kGrp g R_GRP_CFG) = rd s (kGrp g R_GRP_CFG)
        ∧ grpOf t g = grpOf s g ∧ t.mem = s.mem)))
    ∧ ∀ (p : Panel) (v : Word), MayWrite s mid.toNat (pgLink p) R_LNK_SELF_RANK v → Runs (.selfRankWrite mid p v) s (fun t =>
        rd t (kLnk p R_LNK_SELF_RANK) = v &&& maskHL 23 0 ∧ (p.val = 0 → ∀ c, c < 4 → rd t (kLnk 0 (R_LNK_GRP_XSEQ + 8 * c)) = 0) ∧ t.mem = s.mem)

/-- R351 to R355, R359: collective commands are taken and started. Which of several Pockets is taken first is the model's choice (log entry 74). -/
def Obligations.CollectivesTakeAndStart : Prop :=
  ∀ (p : Panel) (s : State),
    let pg := pgColl p
    (∀ k a, collPocket s p = some k → engOn s p pg = true → frozen s (collMid p) = false → (collOf s p).length < 64 →
      (rd s (reg (pgPocket k) R_PKT_MSG)).toNat = a → memWaits s a = false →
      let h := descsRead (pktTake s k) a 1
      let d := nth 0 h.2.2 0
      let sr := descsRead h.1 (bits d 63 0) 1
      let ds := descsRead sr.1 (bits d 127 64) (min (bits d 239 232) 64)
      let verdict := collRefusal ds.1 p d (h.2.1 && sr.2.1 && ds.2.1 && decide (bits d 239 232 ≤ 64)) (tileOf (nth 0 sr.2.2 0)) (ds.2.2.map tileOf)
      (∀ code, verdict = some code → Runs (.collCommandTake p) s (fun t => pktGo t k = false ∧ collOf t p = collOf s p ∧ rdB t (reg pg R_COLL_STATUS) 0 = true
        ∧ rd t (reg pg R_COLL_ERR) = w64 (code * 2 ^ 32 + cdId d * 2 ^ 16 + cdTag d)
        ∧ rd t (reg pg R_COLL_REFUSE_CNT) = w64 (min ((rd s (reg pg R_COLL_REFUSE_CNT)).toNat + 1) maxWord)))
      ∧ (verdict = none → Runs (.collCommandTake p) s (fun t => pktGo t k = false
        ∧ ∃ c, collOf t p = collOf s p ++ [c] ∧ c.d = d ∧ c.srcD = nth 0 sr.2.2 0 ∧ c.dstD = ds.2.2 ∧ c.started = false ∧ c.folded = []
          ∧ c.left = c.dsts.map (fun x => x.rows * x.cols))))
    ∧ ∀ c, (collOf s p).find? (fun c => !c.started) = some c → engOn s p pg = true → (collOf s p).countP (fun x => x.started) < 4 →
      rdB s (reg pg R_COLL_STATUS) 3 = false → fullSeen s none c.src.fb = true → (∀ x ∈ c.dsts, emptySeen s none x.fb = true) →
      (∀ x ∈ c.src :: c.dsts, memWaits s (x.base x.only) = false) →
      let i := cdSet c.d
      let head := fun (o : Bool × Nat × WFrame) => (o.1, o.2.1, o.2.2.cls, o.2.2.opc, o.2.2.attr)
      let run := fun (grp : Bool) (dest kind : Nat) => (List.range (frameCount c.src.fmt (c.chunk s p))).map (fun f => (grp, dest, 0, 1, collAttr p kind (cdId c.d) f))
      let begun := fun (t : State) => (collOf t p).map (fun x => (x.num, x.started)) = (collOf s p).map (fun x => (x.num, x.started || x.num == c.num))
      let sends := fun (t : State) (l : List (Bool × Nat × Nat × Nat × Nat)) => ∃ new, t.outbox = s.outbox ++ new ∧ new.map head = l
      let words := fun (t : State) => rd t (reg pg R_COLL_STEP_WORD)
          = ((List.range 8).map (fun j => pgCore (8 * p + j)) ++ [pg, pgOpt p]).foldl
              (fun w q => if pageOn s q then nwMerge w (rd s (reg q R_NUM_WORD_LOCAL)) else w) (rd s (reg pg R_COLL_STEP_WORD))
        ∧ (∀ j, j < 8 → pageOn s (pgCore (8 * p + j)) = true → rd t (reg (pgCore (8 * p + j)) R_NUM_WORD_LOCAL) = 0)
        ∧ ∀ o ∈ t.outbox, o ∉ s.outbox → attrKind o.2.2.attr = 2 → o.2.2.payload = valBytes 8 (rd t (reg pg R_COLL_STEP_WORD)).toNat
      let reduces := fun (t : State) => begun t ∧ words t
        ∧ sends t ((others s p i).flatMap (fun q => run false (member s p i q) 0 ++ [(false, member s p i q, 0, 1, collAttr p 2 (cdId c.d) 0)]))
      (cdOp c.d = 0 → Runs (.allGather p) s (fun t => begun t ∧ sends t (run true (rdF s (kSet p i) 15 8) 1)))
      ∧ (cdOp c.d = 1 → Runs (.reduceScatter p) s reduces)
      ∧ (cdOp c.d = 2 → Runs (.allReduce p) s reduces)

/-- R351, R355, R356, R359, R361, R368, R370: collective frames, folds and completions. -/
def Obligations.CollectivesFoldAndComplete : Prop :=
  ∀ (p : Panel) (s : State),
    let pg := pgColl p
    engOn s p pg = true →
    (∀ i, engNext s (collMid p) (collCan s p) = some i →
      let k := attrKind i.f.attr
      let counts := fun (t : State) => rd t (reg pg R_COLL_RX_BYTES_CNT) = w64 (min ((rd s (reg pg R_COLL_RX_BYTES_CNT)).toNat + i.f.len) maxWord)
      let gone := fun (t : State) => t.toEngine = s.toEngine.filter (fun j => j != i)
      (k = 3 ∨ k = 4 → Runs (.collFrameRx p) s (fun t => counts t ∧ gone t ∧ t.mem = s.mem
        ∧ t.closing = { s.closing with got := s.closing.got ++ [(k - 2, srcEntry s i.src, w64 (bytesVal i.f.payload))] }))
      ∧ (5 ≤ k → Runs (.collFrameRx p) s (fun t => counts t ∧ gone t ∧ collOf t p = collOf s p ∧ t.closing = s.closing ∧ t.mem = s.mem))
      ∧ ∀ c q, cmdOf s p (attrId i.f.attr) = some c → senderPos s p (cdSet c.d) i = some q →
        (k = 0 → Runs (.collFrameRx p) s (fun t => counts t ∧ t.toEngine = s.toEngine.map (fun j => if j = i then { j with seen := true } else j) ∧ collOf t p = collOf s p ∧ t.mem = s.mem))
        ∧ (k = 2 → cdOp c.d = 1 → Runs (.collFrameRx p) s (fun t => counts t ∧ gone t ∧ t.mem = s.mem
          ∧ collOf t p = (collOf s p).map (fun x => if x.num = c.num then
              { x with words := x.words ++ [(match i.src with | .entry _ _ => 0 | .group _ => 1, q, w64 (bytesVal i.f.payload))] } else x)))
        ∧ (k = 1 → c.started = true → Runs (.collFrameRx p) s (fun t => counts t ∧ gone t)))
    ∧ (∀ (id index : Nat) c tile, cmdOf s p id = some c → c.started = true → cdOp c.d ≠ 0 → index ∉ c.folded → index < frameCount c.src.fmt (c.chunk s p) →
      (contribs s p c index).length = (others s p (cdSet c.d)).length → c.dsts = [tile] → (∀ x ∈ collOf s p, x.num = c.num → x = c) → cdOp c.d = 1 → c.chunk s p ≤ tile.rows * tile.cols → ∀ l, c.left = [l] →
      Runs (.collFold p id index) s (fun t => (∀ j ∈ t.toEngine, ∀ x ∈ contribs s p c index, j ≠ x.2)
        ∧ ∃ c', cmdOf t p id = some c' ∧ c'.folded = c.folded ++ [index] ∧ c'.left = [l - frameLen c.src.fmt (c.chunk s p) index]))
    ∧ ∀ c, (collOf s p).find? (collFinished s p) = some c →
      let e := bits c.d 255 242
      let cell := rdF s (kSh (e / 4096) (e % 4096) R_SH_CFG) 62 61
      Runs (.collCommandComplete p) s (fun t => collOf t p = (collOf s p).filter (fun x => x.num != c.num) ∧ t.mem = s.mem
        ∧ rd t (reg pg R_COLL_CMD_CNT) = w64 (min ((rd s (reg pg R_COLL_CMD_CNT)).toNat + 1) maxWord)
        ∧ (cdOp c.d ≠ 0 → rd t (reg pg R_COLL_LAST_WORD) = resultWord c)
        ∧ (bitAt c.d 241 = true → shLedger t (e / 4096) (e % 4096) = (if cell = 0 then 1 else cell)
            ∧ (cell ≠ 0 → rdB t (kOpt (e / 4096) R_OPT_STATUS) 1 = true))
        ∧ t.closing.stage = (if cdClose c.d ∧ s.closing.stage = 0 then 1 else s.closing.stage))

/-- R366, R367, R369, R370, R372, R373, R387: the closing phase. -/
def Obligations.ClosingPhaseDecides : Prop :=
  ∀ s : State,
    let cfg := kColl 0 R_COLL_CLOSE_CFG
    let members := fun (en hi lo : Nat) => if rdB s cfg en then (others s 0 (rdF s cfg hi lo)).map (member s 0 (rdF s cfg hi lo)) else []
    let wordOf := fun (stage e : Nat) => (s.closing.got.find? (fun g => g.1 == stage && g.2.1 == e)).map (fun g => g.2.2)
    let ready := fun (stage : Nat) (es : List Nat) => ∀ e ∈ es, wordOf stage e ≠ none
    let merged := fun (stage : Nat) (es : List Nat) => es.foldl (fun a e => nwMerge a ((wordOf stage e).getD 0)) s.closing.word
    let plain := fun (t : State) => ∀ p, p < 4 → ∀ k, k < 4096 → rd t (kSh p k R_SH_CFG) = rd s (kSh p k R_SH_CFG)
    (s.closing.stage = 1 → (∀ p, p < 4 → ∀ c ∈ collOf s p, c.num ∉ s.closing.waits) → allLedger s 2 = true → Runs .closingPhase s (fun t =>
      t.closing.stage = 2 ∧ plain t ∧ (∀ p, p < 4 → rd t (kColl p R_COLL_STEP_WORD) = 0 ∧ rdB t (kColl p R_COLL_STATUS) 3 = true) ∧ t.mem = s.mem
      ∧ t.closing.word = (List.range 4).foldl (fun a p => nwMerge a (((List.range 8).map (fun j => pgCore (8 * p + j)) ++ [pgColl p, pgOpt p]).foldl
          (fun w q => if pageOn s q then nwMerge w (rd s (reg q R_NUM_WORD_LOCAL)) else w) (rd s (kColl p R_COLL_STEP_WORD)))) 0))
    ∧ (s.closing.stage = 2 → let es := members 15 13 8
      ready 1 es → Runs .close1Merged s (fun t => t.closing.stage = 3 ∧ t.closing.word = merged 1 es ∧ plain t ∧ t.mem = s.mem))
    ∧ (s.closing.stage = 3 → let es := members 7 5 0
      ready 2 es → let w := merged 2 es
      (bitAt w 63 = true → Runs .close2Merged s (fun t => t.closing.stage = 0 ∧ rd t (kColl 0 R_COLL_LAST_WORD) = w ∧ t.mem = s.mem ∧ t.optDue = s.optDue
        ∧ ∀ p, p < 4 → rd t (kOpt p R_OPT_VOTE_WORD) = w ∧ curPlane t p = curPlane s p ∧ rd t (kOpt p R_NUM_STEP) = rd s (kOpt p R_NUM_STEP)
          ∧ (∀ i j, i < 8 → j < 4 → rd t (kOpt p (R_OPT_SET_ACTIVE_word_0 + 64 * i + 8 * j)) = rd s (kOpt p (R_OPT_SET_ACTIVE_word_0 + 64 * i + 8 * j)))
          ∧ (∀ k, k < 4096 → shValid s p k = true → shValid t p k = true ∧ shLedger t p k = 0) ∧ rdB t (kColl p R_COLL_STATUS) 3 = false
          ∧ rdF t (kRec p R_REC_STATUS) 7 6 = 2 ∧ rd t (kOpt p R_OPT_DISCARD_CNT) = w64 (min ((rd s (kOpt p R_OPT_DISCARD_CNT)).toNat + 1) maxWord)))
      ∧ (bitAt w 63 = false → Runs .close2Merged s (fun t => t.closing.stage = 0 ∧ rd t (kColl 0 R_COLL_LAST_WORD) = w ∧ t.optDue = [0, 1, 2, 3] ∧ plain t ∧ t.mem = s.mem
        ∧ ∀ p, p < 4 → rd t (kOpt p R_OPT_VOTE_WORD) = w ∧ rdB t (kOpt p R_OPT_STATUS) 3 = true ∧ rdF t (kRec p R_REC_STATUS) 7 6 = 1
          ∧ rd t (kOpt p R_NUM_STEP) = rd s (kOpt p R_NUM_STEP))))

/-- R363, R365, R367, R369, R371, R373: optimizer engines. -/
def Obligations.OptimizersUpdateAndCommit : Prop :=
  ∀ (p : Panel) (s : State),
    let entries := fun (t : State) => ∀ k, k < 4096 → rd t (kSh p k R_SH_CFG) = rd s (kSh p k R_SH_CFG)
    let opt := fun (t : State) (o n : Nat) => rd t (kOpt p o) = w64 (min ((rd s (kOpt p o)).toNat + n) maxWord)
    let params := fun (t : State) (from' : Nat) => ∀ i j, i < 8 → j < 4 → rd t (kOpt p (R_OPT_SET_ACTIVE_word_0 + 64 * i + 8 * j)) = rd s (kOpt p (from' + 64 * i + 8 * j))
    domOn s (44 + p) = true →
    (∀ k, k < 4096 → frozen s (0x4C + p) = false → shValid s p k = true → shLedger s p k = 1 → 4096 * p.val + k ∉ s.optWritten → optHeld s = false → blockHeld s (pgOpt p) = false → shRule s p k ≠ 3 →
      memWaits s (shBase s p k) = false → memWaits s (rdF s (kSh p k R_SH_GRAD) 63 6 * 64) = false →
      Runs (.optUpdate p k) s (fun t => t.optWritten = s.optWritten ++ [4096 * p.val + k] ∧ entries t ∧ opt t R_OPT_ELEM_CNT (shElems s p k)
        ∧ params t R_OPT_SET_ACTIVE_word_0 ∧ curPlane t p = curPlane s p ∧ rd t (kOpt p R_NUM_STEP) = rd s (kOpt p R_NUM_STEP)))
    ∧ (∀ k, k < 4096 → 4096 * p.val + k ∈ s.optWritten → Runs (.optUpdateDone p k) s (fun t => shLedger t p k = 2 ∧ 4096 * p.val + k ∉ t.optWritten
        ∧ OnlyRegs { s with optWritten := t.optWritten } t [kSh p k R_SH_CFG]))
    ∧ (p.val ∈ s.optDue → blockHeld s (pgOpt p) = false → (∀ k ∈ shEntries s p, memWaits s (shBase s p k) = false) →
      (rdB s (kRec p R_REC_STATUS) 2 = false → p.val ∉ s.optWaited → Runs (.optCommit p) s (fun t => opt t R_OPT_SNAP_WAIT_CNT 1
        ∧ OnlyRegs { s with optWaited := s.optWaited ++ [p.val] } t [kOpt p R_OPT_SNAP_WAIT_CNT]))
      ∧ (rdB s (kRec p R_REC_STATUS) 2 = true → Runs (.optCommit p) s (fun t => curPlane t p = 1 - curPlane s p
        ∧ rd t (kOpt p R_NUM_STEP) = rd s (kOpt p R_NUM_STEP) + 1 ∧ rd t (kOpt p R_BLK_SHADOW_COMMIT) = rd s (kOpt p R_NUM_STEP) + 1
        ∧ params t R_OPT_SET_STAGE_word_0 ∧ (∀ k, k < 4096 → shValid s p k = true → shLedger t p k = 0) ∧ opt t R_OPT_COMMIT_CNT 1 ∧ p.val ∉ t.optDue
        ∧ rdB t (kOpt p R_OPT_STATUS) 3 = false ∧ ((∀ q ∈ s.optDue, q = p.val) → t.svc.advance = true))))
    ∧ (svcRuns s = true → s.svc.stopped = false → s.svc.stopFor = none → s.closing.stage = 0 → s.optDue = [] →
      let step := rd s (kOpt 0 R_NUM_STEP)
      let sent := fun (t : State) => t.stepMsgs = s.stepMsgs ++ [step] ∧ ∀ q, q < 4 → domOn s (44 + q) = true → rd t (kColl q R_NUM_STEP) = step
      (s.svc.advance = false → Runs .stepStart s (fun t => sent t
        ∧ OnlyRegs { s with stepMsgs := t.stepMsgs } t [kColl 0 R_NUM_STEP, kColl 1 R_NUM_STEP, kColl 2 R_NUM_STEP, kColl 3 R_NUM_STEP]))
      ∧ (s.svc.advance = true → ∀ c, regionOf (cursorAt s) = .data c → csAnswers s c (cursorAt s) 8 = true →
        mayWrite s 0x40 (cursorAt s) 8 = true → Runs .stepStart s (fun t => sent t ∧ t.svc.advance = false ∧ SameBytesBut s t (cursorAt s) 8
          ∧ w64 (bytesVal ((List.range 8).map (fun i => getCell t.mem (cursorAt s + i))))
            = w64 (bytesVal ((List.range 8).map (fun i => getCell s.mem (cursorAt s + i)))) + Config.ingestAdvance step.toNat)))

/-- R379, R386, R389 to R392: recovery commands. -/
def Obligations.RecoveryCommandsBegin : Prop :=
  ∀ (mid : Mid) (s : State),
    let pg := pgRec 0
    let may := fun (v : Word) => MayWrite s mid.toNat pg R_REC_CMD v
    let free := s.recov.op = 0
    let busy := fun (op : Nat) (t : State) => t.recov.op = op ∧ rdB t (kRec 0 R_REC_CMD_STAT) 0 = true ∧ rdB t (kRec 0 R_REC_STATUS) 0 = true
    let ends := fun (op n : Nat) (t : State) => busy op t ∧ t.recov.result = some n
    let n := (rd s (kRec 0 R_REC_ARG0)).toNat
    let state := fun (t : State) => ∀ p, p < 4 → rd t (kOpt p R_NUM_STEP) = rd s (kOpt p R_NUM_STEP) ∧ rd t (kOpt p R_OPT_LOSS) = rd s (kOpt p R_OPT_LOSS)
      ∧ curPlane t p = curPlane s p ∧ ∀ k, k < 4096 → rd t (kSh p k R_SH_CFG) = rd s (kSh p k R_SH_CFG)
    let asks := fun (e : Nat) (t : State) => t.recov.result = none ∧ ∃ new, t.outbox = s.outbox ++ new ∧ new.length = t.recov.asked ∧ new ≠ []
      ∧ ∀ o ∈ new, o.1 = false ∧ o.2.1 = e ∧ o.2.2.opc = 1 ∧ o.2.2.cls = 2 ∧ attrKind o.2.2.attr = 0
    let steps := fun (m : Nat) (t : State) => ∀ p, p < 4 → rd t (kOpt p R_NUM_STEP) = w64 m ∧ rdB t (kRec p R_REC_STATUS) 2 = false
    (s.recov.op ≠ 0 → ∀ op, (1 ≤ op ∧ op ≤ 9) → may (w64 op) → ∀ c, [(1, Instr.snapshot mid), (2, .restoreMirror mid), (3, .restoreReplica mid), (4, .restoreLocal mid), (5, .verify mid),
        (6, .abandon mid), (7, .adopt mid false), (8, .rollback mid), (9, .purge mid)].lookup op = some c → Runs c s (fun t => t.recov = s.recov ∧ t.mem = s.mem ∧ state t))
    ∧ (free → may 1 → ((∃ p, p < 4 ∧ rdB s (kRec p R_REC_STATUS) 4 = true) → Runs (.snapshot mid) s (fun t => ends 1 1 t ∧ t.mem = s.mem ∧ state t))
      ∧ ((∀ p, p < 4 → rdB s (kRec p R_REC_STATUS) 4 = false) → Runs (.snapshot mid) s (fun t => busy 1 t ∧ t.recov.result = none ∧ t.sealDue = [0, 1, 2, 3, 4] ∧ state t
        ∧ ∀ p, p < 4 → rdB t (kRec p R_REC_STATUS) 4 = true ∧ rdB t (kRec p R_REC_STATUS) 2 = false)))
    ∧ (free → ∀ replica : Bool, let op := if replica then 3 else 2
      let c := if replica then Instr.restoreReplica mid else .restoreMirror mid
      let e := if replica then rdF s (kRec 0 R_REC_ARG1) 11 0 else rdF s (kRec 0 R_REC_CFG) 11 0
      let b := recBegun s op false
      may (w64 op) → (allLedger b 0 = false → Runs c s (ends op 1))
        ∧ (allLedger b 0 = true → ((stampOk b n).2 = false → Runs c s (fun t => ends op 3 t ∧ state t))
          ∧ ((stampOk b n).2 = true → (ptrValid s e = true ∧ ptrState s e = 1 → Runs c s (fun t => busy op t ∧ asks e t ∧ state t))
            ∧ (¬ (ptrValid s e = true ∧ ptrState s e = 1) → Runs c s (fun t => ends op 7 t ∧ state t)))))
    ∧ (free → may 4 → let b := recBegun s 4 false
      (allLedger b 0 = false → Runs (.restoreLocal mid) s (ends 4 1))
      ∧ (allLedger b 0 = true → ((stampOk b n).2 = false → Runs (.restoreLocal mid) s (fun t => ends 4 3 t ∧ state t))
        ∧ ((stampOk b n).2 = true → (∀ x, (localCheck (stampOk b n).1 n).2.1 = some x → Runs (.restoreLocal mid) s (fun t => ends 4 x t ∧ state t))
          ∧ ((localCheck (stampOk b n).1 n).2.1 = none → Runs (.restoreLocal mid) s (fun t => ends 4 0 t ∧ steps n t ∧ t.recov.restored = true)))))
    ∧ (free → may 5 → let root := rdB s (kRec 0 R_REC_ARG1) 63
      let e := if root then rdF s (kRec 0 R_REC_CFG) 11 0 else rdF s (kRec 0 R_REC_ARG1) 11 0
      (s.recov.restored = false → Runs (.verify mid) s (fun t => ends 5 1 t ∧ state t))
      ∧ (s.recov.restored = true → (¬ (ptrValid s e = true ∧ ptrState s e = 1) → Runs (.verify mid) s (fun t => ends 5 7 t ∧ state t))
        ∧ (ptrValid s e = true ∧ ptrState s e = 1 → Runs (.verify mid) s (fun t => busy 5 t ∧ asks e t ∧ t.recov.asked = (if root then 1 else 4) ∧ state t))))
    ∧ (free → may 6 → (coresReset s = false → Runs (.abandon mid) s (fun t => ends 6 1 t ∧ state t))
      ∧ (coresReset s = true → Runs (.abandon mid) s (fun t => busy 6 t ∧ t.recov.result = none ∧ state t ∧ t.mem = s.mem ∧ t.closing.stage = 0 ∧ ∀ p, p < 4 → collOf t p = [])))
    ∧ (free → ∀ out : Bool, may (if out then 0x107 else 7) →
      let valid := rdB s (kRec 0 R_REC_STATUS) 5 = true ∧ allLedger s 2 = true ∧ s.optDue = []
      (¬ valid → Runs (.adopt mid out) s (fun t => ends 7 1 t ∧ state t))
      ∧ (valid → Runs (.adopt mid out) s (fun t => busy 7 t ∧ (out = true → t.optDue = [] ∧ ∀ p, p < 4 → curPlane t p = curPlane s p ∧ ∀ k, k < 4096 → shValid s p k = true → shLedger t p k = 0)
        ∧ (out = false → t.optDue = [0, 1, 2, 3] ∧ state t))))
    ∧ (free → may 8 → let b := recBegun s 8 false
      let m := (rd s (kOpt 0 R_NUM_STEP)).toNat
      let valid := rdB s (kRec 0 R_REC_STATUS) 5 = true ∧ allLedger s 0 = true ∧ m ≠ 0
      (¬ valid → Runs (.rollback mid) s (fun t => ends 8 1 t ∧ state t))
      ∧ (valid → (∀ x, (localCheck b (m - 1)).2.1 = some x → Runs (.rollback mid) s (fun t => ends 8 x t ∧ state t))
        ∧ ((localCheck b (m - 1)).2.1 = none → Runs (.rollback mid) s (fun t => ends 8 0 t ∧ steps (m - 1) t ∧ ∀ p, p < 4 → curPlane t p = 1 - curPlane s p))))
    ∧ (free → may 9 → (rdB s (kRec 0 R_REC_STATUS) 5 = false → Runs (.purge mid) s (fun t => ends 9 1 t ∧ state t))
      ∧ (rdB s (kRec 0 R_REC_STATUS) 5 = true → Runs (.purge mid) s (fun t => ends 9 0 t ∧ rdB t (kRec 0 R_REC_STATUS) 5 = false
        ∧ ∀ p, p < 4 → rdF t (kRec p R_REC_STATUS) 7 6 = 0 ∧ curPlane t p = curPlane s p ∧ rd t (kOpt p R_NUM_STEP) = rd s (kOpt p R_NUM_STEP)
          ∧ ∀ k, k < 4096 → shValid s p k = true → shLedger t p k = 0)))

/-- R379, R381 to R383, R386, R389, R391, R392: what recovery engines do. The layout of requests and replies is the model's (log entry 76). -/
def Obligations.RecoveryEnginesWork : Prop :=
  (∀ (p : Panel) (s : State), engOn s p (pgRec p) = true →
    (p.val ∈ s.sealDue → s.svc.advance = false → memWaits s (localSlot s p (recStep s)) = false → Runs (.localSlotSealed p) s (fun t => p.val ∉ t.sealDue ∧ rdB t (kRec p R_REC_STATUS) 4 = false
      ∧ rd t (kRec p R_REC_SNAP_CNT) = w64 (min ((rd s (kRec p R_REC_SNAP_CNT)).toNat + 1) maxWord)
      ∧ (s.sealDue.filter (fun x => x != p.val) = [4] → rdB s (kRec 0 R_REC_STATUS) 3 = false → s.mirHeader = none → ∀ q, q < 4 → rdB t (kRec q R_REC_STATUS) 2 = true)))
    ∧ (∀ i, nextRequest s p (fun k => k == 0 || k == 1 || k == 2 || k == 4) = some i →
      let w := recWord i.f
      let e := srcEntry s i.src
      let reply := fun (f : WFrame) (status : Nat) => recWord f 0 = status ∧ recWord f 2 = w 0 ∧ f.attr = 0x50 + p.val + 2 ^ 8 ∧ f.opc = 1 ∧ f.cls = 2
      let alone := fun (n : Nat) => Runs (.restorePullRequest p) s (fun t => t.toEngine = s.toEngine.filter (fun j => j != i) ∧ ∃ f, t.outbox = s.outbox ++ [(false, e, f)] ∧ reply f n)
      (w 0 = 1 ∨ w 0 = 2 → recStep s ≠ w 1 → alone 7)
      ∧ (w 0 = 1 → recStep s = w 1 → (partLen s p ≠ w 4 → alone 8)
        ∧ (partLen s p = w 4 → Runs (.restorePullRequest p) s (fun t => t.toEngine = s.toEngine.filter (fun j => j != i) ∧ ∃ data f, t.outbox = s.outbox ++ data ++ [(false, e, f)] ∧ reply f 0
            ∧ data.flatMap (fun o => o.2.2.payload) = (bytesOf (((partBytes s p).2.drop (w 6)).take (w 7)))
            ∧ ∀ j o, data[j]? = some o → o.1 = false ∧ o.2.1 = e ∧ o.2.2.opc = 0 ∧ o.2.2.cls = 2 ∧ o.2.2.addr = w 8 + 512 * j)))
      ∧ (w 0 = 0 → ∀ x, hdrRefusal (hdrRead s (w 5)).2 (w 1) (w 2) true = some x → alone x)
      ∧ (w 0 = 0 → hdrRefusal (hdrRead s (w 5)).2 (w 1) (w 2) true = none → (hdrRead s (w 5)).2.bytes ≠ w 3 → alone 8))
    ∧ ∀ i, nextRequest s p (fun k => k == 3) = some i → (∀ q, q < 4 → q ≠ p.val → nextRequest s q (fun k => k == 3) = none) →
      Runs .verifyDigestRequest s (fun t => t.toEngine = s.toEngine.filter (fun j => j != i) ∧ ∃ f, t.outbox = s.outbox ++ [(false, srcEntry s i.src, f)]
        ∧ (recStep s ≠ recWord i.f 1 → recWord f 0 = 7)
        ∧ (recStep s = recWord i.f 1 → recWord f 0 = 0 ∧ ∀ j, j < 8 → rd t (kRec p (R_REC_DIGEST + 8 * j)) = w64 (recWord f (3 + j)))))
  ∧ ∀ s : State, engOn s 0 (pgRec 0) = true →
    (s.svc.advance = false → rdB s (kRec 0 R_REC_STATUS) 3 = true → s.mirHeader = none → (∀ o ∈ s.outbox, o.1 = false → o.2.1 = buddy s → o.2.2.cls ≠ 2) → recStep s < 2 ^ 64 →
      Runs .mirrorHeaderWrite s (fun t => t.mirHeader = some (buddy s, mirrorSlot s (recStep s)) ∧ ∃ f, t.outbox = s.outbox ++ [(false, buddy s, f)] ∧ f.cls = 2 ∧ f.opc = 0
        ∧ f.addr = mirrorSlot s (recStep s) ∧ f.len = 128 ∧ bytesVal (f.payload.take 8) = recStep s ∧ (bytesVal ((f.payload.drop 32).take 8)) % 2 = 1
        ∧ (bytesVal ((f.payload.drop 32).take 8)).testBit 2 = true))
    ∧ ∀ n, s.recov.op ≠ 0 → s.svc.recCmd = none → (∀ i ∈ s.toEngine, attrKind i.f.attr ≠ 1 ∨ i.mid < 0x50 ∨ 0x54 ≤ i.mid) →
      ((s.recov.result = some n ∧ (s.recov.asked = 0 ∨ n = 6))
        ∨ (s.recov.result = none ∧ n = 0 ∧ (if s.recov.op = 1 then rdB s (kRec 0 R_REC_STATUS) 2 = true else if s.recov.op = 6 then abandonDone s = true
            else if s.recov.op = 7 then s.optDue = [] else s.recov.asked = 0))) →
      Runs .recCommandComplete s (fun t => t.recov.op = 0 ∧ t.recov.result = none ∧ rdF t (kRec 0 R_REC_CMD_STAT) 7 4 = n % 16
        ∧ rdB t (kRec 0 R_REC_CMD_STAT) 0 = false ∧ rdB t (kRec 0 R_REC_STATUS) 0 = false ∧ (n = 0 → s.recov.op = 6 → rdB t (kRec 0 R_REC_STATUS) 5 = true)
        ∧ (n = 6 → rd t (kRec 0 R_REC_VERIFY_FAIL_CNT) = w64 (min ((rd s (kRec 0 R_REC_VERIFY_FAIL_CNT)).toNat + 1) maxWord))
        ∧ (n = 0 → s.recov.op = 2 ∨ s.recov.op = 3 → (∀ p, p < 4 → rd t (kOpt p R_NUM_STEP) = rd s (kRec 0 R_REC_ARG0))
            ∧ rd t (kRec 0 R_REC_RESTORE_CNT) = w64 (min ((rd s (kRec 0 R_REC_RESTORE_CNT)).toNat + 1) maxWord)))

/-- R404 to R406, R424, R455, R456, R464: word-Pocket commands. -/
def Obligations.MantleCommandsAnswer : Prop :=
  (∀ (w : Fin 8) (s : State),
    let v := mntWord s w
    let runs := fun (c : Instr) (status : Nat) (value : Option Nat) (P : State → Prop) => Runs c s (fun t => Answers t w v status value ∧ wpGo t w = false ∧ w.val ∉ t.mnt.order
      ∧ rd t (kMnt R_MNT_CMD_CNT) = w64 (min ((rd s (kMnt R_MNT_CMD_CNT)).toNat + 1) maxWord) ∧ P t)
    let same := fun (t : State) => t.mem = s.mem
    let mid := bits v 7 0
    let breach := s.breached.any (fun pg => (pageMids pg).contains mid) = true
    let e := bits v 11 0
    let inst := bits v 39 32
    (MntReady s w 0x01 → (¬ (isMaster mid = true ∧ isMantle mid = false) → runs (.unfreeze w) 4 none (fun t => same t ∧ frozen t mid = frozen s mid))
      ∧ (isMaster mid = true → isMantle mid = false → (breach → runs (.unfreeze w) 3 none (fun t => same t ∧ frozen t mid = frozen s mid))
        ∧ (¬ breach → s.cp.owed = [] → runs (.unfreeze w) 0 (some 0) (fun t => same t ∧ frozen t mid = false))))
    ∧ (MntReady s w 0x02 → (ptrValid s e = false → runs (.unfreezePartner w) 4 none same)
      ∧ (ptrValid s e = true → (pgLink (ptrPanel e) ∈ s.breached → runs (.unfreezePartner w) 3 none (fun t => same t ∧ ptrFrozen t e = ptrFrozen s e))
        ∧ (pgLink (ptrPanel e) ∉ s.breached → runs (.unfreezePartner w) 0 none (fun t => same t ∧ ptrFrozen t e = false))))
    ∧ (MntReady s w 0x03 → runs (.portDisable w) 0 none (fun t => SameBytes s t ∧ ∀ p, p < 16 →
        (bitAt v p = true → p ∈ t.portDisabled ∧ rdB t (kPort p R_LINK_CTL) 0 = false) ∧ (bitAt v p = false → (p ∈ t.portDisabled ↔ p ∈ s.portDisabled) ∧ rdB t (kPort p R_LINK_CTL) 0 = rdB s (kPort p R_LINK_CTL) 0)))
    ∧ (MntReady s w 0x04 → runs (.portRelease w) 0 none (fun t => same t ∧ ∀ p, p < 16 →
        (p ∈ t.portDisabled ↔ p ∈ s.portDisabled ∧ bitAt v p = false) ∧ rdB t (kPort p R_LINK_CTL) 0 = rdB s (kPort p R_LINK_CTL) 0))
    ∧ (MntReady s w 0x05 → runs (.logClear w) 0 none (fun t => same t ∧ ∀ i, i < 16 → rdB t (kMnt (R_MNT_VIOL_LOG_word_0 + 16 * i)) 63 = false))
    ∧ (MntReady s w 0x06 → (allIdle s = false → runs (.bindUnlock w) 3 none (fun t => same t ∧ rd t (reg (pgBind 0) R_PKT_LOCK) = rd s (reg (pgBind 0) R_PKT_LOCK)))
      ∧ (allIdle s = true → runs (.bindUnlock w) 0 none (fun t => same t ∧ rdB t (reg (pgBind 0) R_PKT_LOCK) 0 = false)))
    ∧ (MntReady s w 0x08 → (s.mnt.job = none → runs (.jobArm w) 3 none (fun t => same t ∧ t.mnt.armed = s.mnt.armed))
      ∧ (s.mnt.job ≠ none → runs (.jobArm w) 0 none (fun t => same t ∧ t.mnt.armed = true
          ∧ t.svc.reported = s.svc.reported ++ (if rdB s (kMnt R_MNT_STATUS) 14 then [(6, 0)] else []))))
    ∧ (MntReady s w 0x30 → let tg := bits v 47 40
      (fwIndex tg inst = none → runs (.fwUpdate w) 4 none (fun t => t.mnt.upd = s.mnt.upd ∧ t.mnt.fw = s.mnt.fw))
      ∧ ∀ f, fwIndex tg inst = some f → (s.mnt.upd ≠ none → runs (.fwUpdate w) 8 none (fun t => t.mnt.upd = s.mnt.upd ∧ t.mnt.fw = s.mnt.fw))
        ∧ (s.mnt.upd = none → (tg = 2 ∧ coreDrained s inst = false → runs (.fwUpdate w) 3 none (fun t => t.mnt.upd = none ∧ t.mnt.fw = s.mnt.fw))
          ∧ (¬ (tg = 2 ∧ coreDrained s inst = false) → let b := readStaged (bump (mntTake s w) (pgMnt 0) R_MNT_CMD_CNT) (bits v 31 0 * 4096)
            match firmwareOf b.2 with
            | none => runs (.fwUpdate w) 6 none (fun t => t.mnt.upd = none ∧ t.mnt.fw = s.mnt.fw)
            | some i => runs (.fwUpdate w) 0 none (fun t => t.mnt.upd = some ⟨tg, inst, i, w.val, bits v 55 48⟩
                ∧ (∃ slots, t.mnt.fw = tabSet (fun _ => FwSlots.rst) s.mnt.fw f slots ∧ slots.useB = (tabGet (fun _ => FwSlots.rst) s.mnt.fw f).useB)
                ∧ rdF t (kMnt R_MNT_STATUS) 19 16 = tg + 1))))
    ∧ (MntReady s w 0x31 → (s.mnt.upd = none → runs (.fwAbort w) 3 none same)
      ∧ (s.mnt.upd ≠ none → s.mnt.att = none → runs (.fwAbort w) 0 none (fun t => same t ∧ t.mnt.upd = none ∧ t.mnt.fw = s.mnt.fw ∧ rdF t (kMnt R_MNT_STATUS) 19 16 = 0)))
    ∧ (MntReady s w 0x34 → (reducedService s = false → runs (.fuseDarn w) 3 none (fun t => same t ∧ t.mnt.fuses = s.mnt.fuses))
      ∧ (reducedService s = true → (darnBlock inst = none → runs (.fuseDarn w) 4 none (fun t => same t ∧ t.mnt.fuses = s.mnt.fuses))
        ∧ ∀ b, darnBlock inst = some b →
          let f := s.mnt.fuses ++ ((validDarns s b.1 b.2.1).filter (fun x => !s.mnt.fuses.contains (inst, x))).map (fun x => (inst, x))
          (b.2.2 < f.countP (fun x => x.1 == inst) → runs (.fuseDarn w) 4 none (fun t => same t ∧ t.mnt.fuses = s.mnt.fuses))
          ∧ (f.countP (fun x => x.1 == inst) ≤ b.2.2 → runs (.fuseDarn w) 0 none (fun t => same t ∧ t.mnt.fuses = f)))))
  ∧ ∀ (s : State) (u : UpdSt) (f : Nat), s.mnt.upd = some u → fwIndex u.target u.inst = some f → s.mnt.att = none →
    let slots := tabGet (fun _ => FwSlots.rst) s.mnt.fw f
    (¬ (u.target = 2 ∧ coreDrained s u.inst = false) → Runs .fwActivate s (fun t => t.mnt.upd = none
      ∧ t.mnt.fw = tabSet (fun _ => FwSlots.rst) s.mnt.fw f { slots with useB := !slots.useB }))
    ∧ Runs .fwStartTimeout s (fun t => t.mnt.upd = none ∧ t.mnt.fw = s.mnt.fw ∧ rdF t (kMnt R_MNT_STATUS) 19 16 = 0)

/-- R407, R411, R412, R416, R418, R421, R424: sessions and keys. -/
def Obligations.MantleSessions : Prop :=
  (∀ (w : Fin 8) (s : State),
    let v := mntWord s w
    let st := kMnt R_MNT_STATUS
    let answers := fun (c : Instr) (status : Nat) (value : Option Nat) (P : State → Prop) => Runs c s (fun t => Answers t w v status value ∧ P t)
    let same := fun (t : State) => t.mem = s.mem
    let count := fun (t : State) (p : Nat) => rdF t (reg (pgCry p) R_CRY_EPOCH_COUNT) 16 0
    let sess := fun (t : State) => rdF t st 9 8
    let fail := rdB s st 15
    (MntReady s w 0x10 → (sess s ≠ 0 → answers (.sessionOpen w) 3 none same)
      ∧ (sess s = 0 → rdB s st 13 = true → answers (.sessionOpen w) 5 none same)
      ∧ (sess s = 0 → rdB s st 13 = false → fail = true → answers (.sessionOpen w) 7 none same)
      ∧ (sess s = 0 → rdB s st 13 = false → fail = false → answers (.sessionOpen w) 0 (if rd s (kMnt R_MNT_SESSION_SEQ) + 1 = 0 then none else some ((rd s (kMnt R_MNT_SESSION_SEQ) + 1).toNat % 2 ^ 40))
          (fun t => sess t = 1 ∧ rdB t st 0 = bitAt v 0 ∧ rdB t st 14 = true ∧ rd t (kMnt R_MNT_SESSION_SEQ) = rd s (kMnt R_MNT_SESSION_SEQ) + 1 ∧ t.linkSecret = 0 ∧ t.mnt.sessionKey ≠ none
            ∧ t.mem.epoch = [] ∧ t.mem.cells = s.mem.cells ∧ ∀ p, p < 4 → s.mnt.draws < tabGet (fun _ => 0) t.mem.slotKey (2 * p) ∧ tabGet (fun _ => 0) t.mem.slotKey (2 * p + 1) = 0)))
    ∧ (MntReady s w 0x11 →
      let kept := fun (t : State) => same t ∧ t.linkSecret = s.linkSecret ∧ t.mnt.imageKey = s.mnt.imageKey ∧ rdB t st 14 = rdB s st 14
      (sess s ≠ 1 → answers (.keyLoad w) 3 none kept)
      ∧ (sess s = 1 → bits v 15 0 ≠ 213 → answers (.keyLoad w) 4 none kept)
      ∧ (sess s = 1 → bits v 15 0 = 213 → match keyBlob s with
          | some b => answers (.keyLoad w) 0 none (fun t => same t ∧ t.linkSecret = b.1.toNat ∧ t.mnt.imageKey = some b.2.toNat ∧ rdB t st 14 = false)
          | none => answers (.keyLoad w) 6 none kept))
    ∧ (MntReady s w 0x12 → (sess s ≠ 1 → answers (.sessionEnd w) 3 none (fun t => same t ∧ sess t = sess s))
      ∧ (sess s = 1 → s.mnt.att = none → (∀ p, p < 4 → domOn s (44 + p) = true) → Runs (.sessionEnd w) s (fun t => same t ∧ sess t = 2 ∧ t.mnt.endCmd = some (w.val, bits v 55 48)
          ∧ wpGo t (8 + w) = false ∧ ∀ p, p < 4 → rdB t (reg (pgBtn (0x40 + p)) R_BTN_PEND) 29 = true)))
    ∧ (MntReady s w 0x13 → ((∃ p, p < 4 ∧ count s p ≠ 0) → answers (.keyRotate w) 5 none (fun t => same t ∧ ∀ p, p < 4 → count t p = count s p))
      ∧ ((∀ p, p < 4 → count s p = 0) → (fail = true → answers (.keyRotate w) 7 none (fun t => same t ∧ ∀ p, p < 4 → count t p = 0))
        ∧ (fail = false → answers (.keyRotate w) 0 none (fun t => SameBytes s t ∧ rdB t st 13 = true ∧ ∀ p, p < 4 → count t p = 65536 ∧ rdB t (reg (pgCry p) R_CRY_STATUS) 0 = true
            ∧ rdF t (reg (pgCry p) R_CRY_SWEEP_POS) 31 16 = 0))))
    ∧ (MntReady s w 0x20 → (sess s ≠ 1 → answers (.attest w) 3 none same)
      ∧ (sess s = 1 → (s.mnt.att ≠ none → answers (.attest w) 8 none same)
        ∧ (s.mnt.att = none → (s.mnt.upd ≠ none → answers (.attest w) 1 none (fun t => same t ∧ rdB t st 12 = true ∧ t.mnt.att ≠ none))
          ∧ (s.mnt.upd = none → answers (.attest w) 0 (some 0x0D50) (fun t => same t ∧ t.mnt.att = none
              ∧ rd t (kMnt R_MNT_ATTEST_CNT) = w64 (min ((rd s (kMnt R_MNT_ATTEST_CNT)).toNat + 1) maxWord)))))))
  ∧ ∀ s : State,
    let st := kMnt R_MNT_STATUS
    let sess := fun (t : State) => rdF t st 9 8
    let noKeys := fun (t : State) => t.linkSecret = 0 ∧ t.mnt.sessionKey = none ∧ t.mnt.imageKey = none ∧ (∀ e, (ptrOf t e).key = none) ∧ (∀ g, (grpOf t g).key = none) ∧ rdB t st 14 = true
      ∧ t.mem.epoch = [] ∧ (∀ p, p < 4 → s.mnt.draws < tabGet (fun _ => 0) t.mem.slotKey (2 * p) ∧ tabGet (fun _ => 0) t.mem.slotKey (2 * p + 1) = 0
        ∧ rdF t (reg (pgCry p) R_CRY_EPOCH_COUNT) 16 0 = 0 ∧ rd t (reg (pgCry p) R_CRY_EPOCH_ABANDON) = rd s (reg (pgCry p) R_CRY_EPOCH_ABANDON) + w64 (rdF s (reg (pgCry p) R_CRY_EPOCH_COUNT) 16 0))
    let rung := fun (t : State) => ∀ p, p < 4 → rdB t (reg (pgBtn 0xF0) R_BTN_PEND) (8 + p) = true
    (∀ p : Panel, sess s = 2 → domOn s (44 + p) = true → frozen s (0x40 + p) = false → domState s 49 = 2 → Runs (.sessionScrub p) s (fun t => sess t = 2
        ∧ rdB t (reg (pgBtn 0xF0) R_BTN_PEND) (8 + p) = true ∧ rdB t (reg (pgBtn (0x40 + p)) R_BTN_PEND) 29 = false
        ∧ ∀ i a, i < 8 → domState s (8 * p + i) ≠ 0 → csBase (8 * p + i) + 0x100000 ≤ a → a < csBase (8 * p + i) + 0x2800000 → getCell t.mem a = 0))
    ∧ (∀ (w : Fin 8) (q : Nat), sess s = 2 → s.mnt.endCmd = some (w.val, q) → q < 256 → s.mnt.order = [] → s.mnt.out = [] → wpGo s (8 + w) = false → domOn s 44 = true → domOn s 48 = true →
      (s.mnt.scrubOwed = false → rung s → Runs .sessionEndComplete s (fun t => noKeys t ∧ sess t = 0 ∧ rdB t st 0 = false ∧ rdB t (reg (pgBind 0) R_PKT_LOCK) 0 = false ∧ t.mnt.endCmd = none
          ∧ t.mnt.job = none ∧ wpGo t (8 + w) = true ∧ bits (mntWord t (8 + w)) 63 56 = 0x12 ∧ bits (mntWord t (8 + w)) 55 48 = q ∧ bits (mntWord t (8 + w)) 47 40 = 0))
      ∧ (¬ rung s → Runs .scrubFail s (fun t => noKeys t ∧ sess t = 2 ∧ rdB t st 0 = rdB s st 0 ∧ t.mnt.endCmd = none ∧ t.mnt.scrubOwed = true
          ∧ wpGo t (8 + w) = true ∧ bits (mntWord t (8 + w)) 63 56 = 0x12 ∧ bits (mntWord t (8 + w)) 55 48 = q ∧ bits (mntWord t (8 + w)) 47 40 = 9)))
    ∧ (s.pwr.phase ≠ 0 → Runs .rngHealthFail s (fun t => rdB t st 15 = true ∧ OnlyRegs s t [st]))

/-- R417 to R420: the sweep of a rotation. -/
def Obligations.RotationSweeps : Prop :=
  ∀ (p : Panel) (s : State),
    let st := reg (pgCry p) R_CRY_STATUS
    let pos := reg (pgCry p) R_CRY_SWEEP_POS
    let count := fun (t : State) (q : Nat) => rdF t (reg (pgCry q) R_CRY_EPOCH_COUNT) 16 0
    let r := rdF s pos 31 16
    let g := rdF s pos 14 0
    let a := p * 2 ^ 37 + r * 2 ^ 21 + 64 * g
    let new := rdF s st 1 1
    let slot := fun (t : State) (i : Nat) => tabGet (fun _ => 0) t.mem.slotKey (2 * p + i)
    let done := fun (t : State) => tabGet (fun _ => false) t.mem.epoch (65536 * p + r) = !tabGet (fun _ => false) s.mem.epoch (65536 * p + r)
      ∧ count t p = count s p - 1 ∧ rdF t pos 31 16 = (r + 1) % 65536 ∧ rdF t pos 14 0 = 0
      ∧ (1 < count s p → slot t 0 = slot s 0 ∧ slot t 1 = slot s 1 ∧ rdB t (kMnt R_MNT_STATUS) 13 = rdB s (kMnt R_MNT_STATUS) 13)
      ∧ (count s p = 1 → slot t (1 - new) = 0 ∧ slot t new = slot s new ∧ rdB t st 0 = false
        ∧ rdB t (kMnt R_MNT_STATUS) 13 = ((List.range 4).any (fun q => q != p.val && count s q != 0) && rdB s (kMnt R_MNT_STATUS) 13))
    let copied := fun (t : State) => SameBytesBut s t a 64 ∧ tabGet (fun _ => 0) t.mem.keyOf (a / 64) = slot s new ∧ ∀ i, i < 64 → getCell t.mem (a + i) = nth 0 (granRead s a).2.1 i
    rdB s st 0 = true → domOn s (44 + p) = true → hbmUp s a = true → pgCry p ∉ s.breached → memWaits s a = false → 0 < count s p →
    (retired s a = true → Runs (.keySweepGranule p) s (fun t => done t ∧ SameBytes s t))
    ∧ (retired s a = false → g = 32767 → Runs (.keySweepGranule p) s (fun t => done t ∧ copied t))
    ∧ (retired s a = false → g < 32767 → Runs (.keySweepGranule p) s (fun t => copied t ∧ rdF t pos 14 0 = g + 1 ∧ rdF t pos 31 16 = r ∧ count t p = count s p
        ∧ slot t 0 = slot s 0 ∧ slot t 1 = slot s 1 ∧ t.mem.epoch = s.mem.epoch))

/-- R429 to R433, R489, R497, R498: the power-up sequence. -/
def Obligations.PowerSequence : Prop :=
  ∀ s : State,
    let fw := tabGet (fun _ => FwSlots.rst) s.mnt.fw 0
    let step4 := fun (t : State) => t.pwr.phase = 4 ∧ (∀ d, 44 ≤ d → d ≤ 48 → domOn t d = true) ∧ ∀ p, p < 4 → vcore t p = 600 ∧ vfab t p = 750
    let keys := fun (t : State) => t.mem.slotKey = s.mem.slotKey ∧ t.mem.epoch = s.mem.epoch
    (s.pwr.phase = 0 → (fw.a.ok = true ∨ fw.b.ok = true → Runs .standbyPowerOn s (fun t => t.pwr.phase = 3 ∧ t.mem.epoch = [] ∧ (activeImg t 0).ok = true
          ∧ ∀ p, p < 4 → s.mnt.draws < tabGet (fun _ => 0) t.mem.slotKey (2 * p) ∧ tabGet (fun _ => 0) t.mem.slotKey (2 * p + 1) = 0))
      ∧ (fw.a.ok = false → fw.b.ok = false → Runs .standbyPowerOn s (fun t => t.pwr.phase = 1 ∧ t.pwr.alert = true)))
    ∧ Runs .standbyPowerLoss s (fun t => t.pwr.phase = 0 ∧ t.pwr.pwrGood = false ∧ t.mem = State.reset.mem ∧ (∀ d, d < 50 → domState t d = domState State.reset d)
        ∧ t.mnt.fuses = s.mnt.fuses ∧ t.mnt.flash = s.mnt.flash ∧ t.mnt.fw = s.mnt.fw)
    ∧ (s.pwr.phase ≠ 0 → s.pwr.mainGood = false → Runs .mainPowerGood s (fun t => t.pwr.mainGood = true ∧ t.pwr.inputLow = false ∧ keys t
        ∧ (s.pwr.phase = 3 → s.pwr.resetHeld = false → step4 t) ∧ (s.pwr.phase ≠ 3 ∨ s.pwr.resetHeld = true → t.pwr.phase = s.pwr.phase)))
    ∧ (domOn s 48 = true → rdB s (reg pgCp R_CP_STATUS) 1 = true → Runs .cpTrainDone s (fun t => rdB t (reg pgCp R_CP_STATUS) 1 = false ∧ rdB t (reg pgCp R_CP_STATUS) 0 = true
        ∧ (∃ f, CpLeaves s t [f] ∧ f.type = 2)
        ∧ (s.pwr.phase = 4 → s.pwr.tripped = false → t.pwr.phase = 6 ∧ t.pwr.pwrGood = true ∧ reducedService t = true
          ∧ (∀ d, 32 ≤ d → d < 44 → domOn t d = true) ∧ ∀ p, p < 4 → domOn t (8 * p) = true)
        ∧ (s.pwr.phase ≠ 4 ∨ s.pwr.tripped = true → t.pwr = s.pwr ∧ reducedService t = reducedService s)))
    ∧ (rdB s (reg (pgBtn 0xF0) R_BTN_PEND) 12 = true → domState s 49 = 2 → Runs .reducedServiceExit s (fun t => rdB t (reg (pgBtn 0xF0) R_BTN_PEND) 12 = false ∧ t.mem = s.mem
        ∧ (reducedService s = true → fullService s = true → reducedService t = false ∧ t.pwr.phase = 7)
        ∧ (fullService s = false → reducedService t = reducedService s ∧ t.pwr = s.pwr)))
    ∧ (s.pwr.mainGood = true → Runs .inputLow s (fun t => t.pwr.mainGood = false ∧ t.pwr.inputLow = true ∧ t.pwr.pwrGood = false ∧ t.pwr.alert = true ∧ t.pwr.phase = min s.pwr.phase 3
        ∧ keys t ∧ reducedService t = false ∧ (∀ d, d < 49 → domState t d = 0) ∧ ∀ a, a < 0x8000000000 → getCell t.mem a = 0))
    ∧ (s.pwr.resetHeld = false → Runs .resetNAssert s (fun t => t.pwr.resetHeld = true ∧ t.pwr.pwrGood = false ∧ t.pwr.tripped = false ∧ keys t
        ∧ (∀ a, a < 0x8000000000 → (∀ e ∈ s.mem.spared, a < e.gran ∨ e.gran + e.data.length ≤ a) → getCell t.mem a = getCell s.mem a)
        ∧ (4 ≤ s.pwr.phase → t.pwr.phase = 3 ∧ reducedService t = false ∧ ∀ d, d < 49 → domState t d = 3) ∧ (s.pwr.phase < 4 → t.pwr.phase = s.pwr.phase)))
    ∧ (s.pwr.resetHeld = true → Runs .resetNRelease s (fun t => t.pwr.resetHeld = false ∧ keys t ∧ (s.pwr.phase = 3 → s.pwr.mainGood = true → step4 t)
        ∧ (s.pwr.phase ≠ 3 ∨ s.pwr.mainGood = false → t.pwr.phase = s.pwr.phase)))

/-- R434 to R436, R438 to R441, R466: power domains and loops. That a reading above both limits lowers by both steps, and which hem measures the millisecond of R439, are the model's (log entry 91). -/
def Obligations.DomainsRailsAndLoops : Prop :=
  (∀ (mid : Mid) (d : Fin 50) (q : Nat) (c : Instr) (s : State), [Instr.pwrReqOff mid d, .pwrReqRetention mid d, .pwrReqOn mid d, .pwrReqReset mid d][q]? = some c →
    let k := kDom d
    MayWrite s mid.toNat (pgPwr (domPanel d)) (R_PWR_DOMAIN + 8 * d) (w64 q) →
    (d.val = 49 → Runs c s (fun t => rd t k = rd s k ∧ t.mem = s.mem))
    ∧ (d.val ≠ 49 →
      let ends := fun (n : Nat) (t : State) => rdF t k 11 8 = n ∧ domState t d = domState s d
      (rdB s k 7 = true → Runs c s (fun t => ends 1 t ∧ rdB t k 6 = true ∧ rdB t k 7 = true ∧ rdF t k 1 0 = rdF s k 1 0 ∧ t.mem = s.mem))
      ∧ (rdB s k 7 = false →
        (takesState d q = false → Runs c s (fun t => ends 4 t ∧ rdB t k 7 = false ∧ t.mem = s.mem))
        ∧ (takesState d q = true → breaksConstraint s d q = true → Runs c s (fun t => ends 3 t ∧ rdB t k 7 = false ∧ t.mem = s.mem))
        ∧ (takesState d q = true → breaksConstraint s d q = false →
          let drained := d.val < 32 → q = 0 → coreDrained s d = true
          (¬ drained → Runs c s (fun t => ends 2 t ∧ rdB t k 7 = false ∧ t.mem = s.mem))
          ∧ (drained → (q = domState s d → Runs c s (fun t => ends 0 t ∧ rdB t k 7 = false ∧ t.mem = s.mem))
            ∧ (q ≠ domState s d → Runs c s (fun t => rdF t k 11 8 = 0 ∧ rdF t k 1 0 = q ∧ rdB t k 7 = true
                ∧ domState t d = (if q = 3 ∧ flushFirst s d q = false then 3 else domState s d))))))))
  ∧ (∀ (d : Fin 50) (s : State), d.val ≠ 49 → rdB s (kDom d) 7 = true →
      let q := rdF s (kDom d) 1 0
      (flushFirst s d q = true → rdB s (reg (pgLlc (d - 36)) R_LLC_STATUS) 17 = false) →
      Runs (.pwrTransitionDone d) s (fun t => domState t d = (if q = 3 then 2 else q)
        ∧ rdB t (kDom d) 7 = (q == 1 && decide (d.val < 32) && rd s (reg (pgBtn d) R_BTN_PEND) &&& rd s (reg (pgBtn d) R_BTN_MASK) != 0)))
  ∧ ∀ (p : Panel) (s : State), railsUp s p = true →
    let r := railOf s p
    let v := vcore s p
    let target := 100 * rdF s (reg (pgPwr p) R_PWR_RATE_TARGET) 7 0
    let runs := r.want ≤ v ∧ r.crit = [] ∧ ∃ i, i < 8 ∧ domOn s (8 * p + i) = true ∧ rdB s (kCore (8 * p + i) R_DL_STATUS) 0 = true
    let kPs := reg (pgPwr p) R_PWR_STATUS
    (∀ m : Nat,
      (¬ runs → exec (.rateLoopTick p m) s = .next s)
      ∧ (runs → Runs (.rateLoopTick p m) s (fun t =>
          let w := if target = 0 then (if 600 < r.want then r.want - 5 else r.want)
            else if m * 100 < target * 99 ∧ r.want < 850 then r.want + 5 else if target * 102 < m * 100 ∧ 600 < r.want then r.want - 5 else r.want
          (railOf t p).want = w ∧ (w ≠ r.want → vcore t p = w % 4096) ∧ (w = r.want → t = s) ∧ t.mem = s.mem)))
    ∧ (∀ tj : Byte, let n := tj.toNat
      let trip := rdF s (reg (pgPwr p) R_PWR_THR_CFG) 15 8
      let thr := rdF s (reg (pgPwr p) R_PWR_THR_CFG) 7 0
      let free := n + 3 < thr ∧ r.forced = true ∧ r.raised + 1000000 ≤ refcnt s (29 + p)
      (trip ≤ n → Runs (.thermalReading p tj) s (fun t => t.pwr.tripped = true ∧ t.pwr.pwrGood = false ∧ t.pwr.alert = true ∧ (∀ d, d < 48 → domState t d = 0) ∧ domState t 48 = domState s 48))
      ∧ (n < trip → (thr ≤ n → Runs (.thermalReading p tj) s (fun t => rdF t kPs 39 32 = n ∧ t.mem = s.mem
            ∧ vcore t p = (if 600 < v then max 600 (v - 10) else v) ∧ vfab t p = (if 600 < v then vfab s p else if 600 < vfab s p then max 600 (vfab s p - 10) else vfab s p)))
        ∧ (n < thr → (free → Runs (.thermalReading p tj) s (fun t => rdF t kPs 39 32 = n ∧ t.mem = s.mem ∧ vfab t p = (if vfab s p < 750 then min 750 (vfab s p + 5) else vfab s p)
              ∧ vcore t p = (if vfab s p < 750 then v else if v < r.want ∧ r.crit = [] ∧ s.pwr.overPower = false then min r.want (v + 5) % 4096 else v)))
          ∧ (¬ free → Runs (.thermalReading p tj) s (fun t => rdF t kPs 39 32 = n ∧ OnlyRegs s t [kPs])))))
    ∧ ∀ watts mJ : Nat, s.pwr.phase ≠ 0 → Runs (.powerMeasurement watts mJ) s (fun t =>
        let l := (watts :: s.pwr.watts).take 100
        let mv := (if rdF s (reg (pgPwr 0) R_PWR_MODULE) 43 32 * l.length < l.foldl (· + ·) 0 then 5 else 0) + (if 2000 < watts then 50 else 0)
        vcore t p = (if mv ≠ 0 ∧ 600 < v then max 600 (v - mv) else v) ∧ t.mem = s.mem)

/-- R501, R502, and beside them the header's other commands (R499, R500, R503, R504). How the offset and bytes of a container are held is the model's (log entry 95). -/
def Obligations.LowSpeedHeader : Prop :=
  ∀ s : State, s.pwr.phase ≠ 0 →
    let a := s.pwr.regAddr
    let noImage := s.pwr.phase = 1
    let open' := (List.range 4).map pgPwr ++ (List.range 8).map pgHbm ++ (List.range 4).map pgMnt
    let pins := fun (t : State) => { t with pwr := s.pwr } = s
    let answers := fun (b : Option (List Byte)) (t : State) => t.pwr.smbAns = b ∧ pins t
    Runs .smbStatus s (fun t => (∃ b : Byte, answers (some [b]) t ∧ (b.getLsbD 0 = true ↔ noImage) ∧ b.getLsbD 1 = s.pwr.tripped ∧ b.getLsbD 2 = s.pwr.inputLow
        ∧ b.getLsbD 3 = s.pwr.pwrGood ∧ b.getLsbD 4 = s.pwr.imgFail ∧ b.toNat < 32) ∧ t.pwr.alert = (s.pwr.alert && alertCause s))
    ∧ (∀ addr, Runs (.regAddr addr) s (fun t => t.pwr.regAddr = addr ∧ answers (some []) t))
    ∧ ((∀ pg, regionOf a.toNat = .mmio pg → pg ∉ open') → Runs .regRead s (answers (some (1 :: List.replicate 8 0))))
    ∧ (∀ pg, regionOf a.toNat = .mmio pg → pg ∈ open' → Runs .regRead s (fun t => ∃ u, exec (.readClear 0xF0 a) s = .next u
        ∧ t = { u with pwr := { s.pwr with smbAns := some (match u.resp with | .data v => 0 :: valBytes 8 v.toNat | _ => 2 :: List.replicate 8 0) } }))
    ∧ (∀ w : BitVec 16, (600 ≤ w.toNat → w.toNat ≤ 2000 → Runs (.powerLimit w) s (fun t => rdF t (reg (pgPwr 0) R_PWR_MODULE) 43 32 = w.toNat ∧ t.pwr.smbAns = some []
          ∧ OnlyRegs { s with pwr := t.pwr } t [reg (pgPwr 0) R_PWR_MODULE]))
        ∧ (w.toNat < 600 ∨ 2000 < w.toNat → Runs (.powerLimit w) s (answers none)))
    ∧ (¬ noImage → (∀ off, Runs (.imgOffset off) s (answers none)) ∧ (∀ b, Runs (.imgData b) s (answers none)) ∧ Runs .imgCommit s (fun t => answers none t ∧ t.pwr.imgFail = s.pwr.imgFail))
    ∧ (noImage → (∀ off : BitVec 32, Runs (.imgOffset off) s (fun t => answers (some []) t ∧ t.pwr.imgOff = 32 * off.toNat ∧ t.pwr.imgFail = false ∧ t.pwr.imgBuf = s.pwr.imgBuf))
      ∧ (∀ b : List Byte, b.length = 32 → Runs (.imgData b) s (fun t => answers (some []) t ∧ t.pwr.imgOff = s.pwr.imgOff + 32
          ∧ (∀ i, i < 32 → imgByte t.pwr.imgBuf (s.pwr.imgOff + i) = nth 0 b i) ∧ ∀ o, o < s.pwr.imgOff ∨ s.pwr.imgOff + 32 ≤ o → imgByte t.pwr.imgBuf o = imgByte s.pwr.imgBuf o))
      ∧ (match firmwareOf (imgContainer s.pwr.imgBuf) with
        | none => Runs .imgCommit s (fun t => t.pwr.imgFail = true ∧ t.pwr.alert = true ∧ t.pwr.phase = 1 ∧ pins t ∧ t.pwr.smbAns = some [])
        | some i => Runs .imgCommit s (fun t => activeImg t 0 = i ∧ (tabGet (fun _ => FwSlots.rst) t.mnt.fw 0).a = i
          ∧ (tabGet (fun _ => FwSlots.rst) t.mnt.fw 0).b = (tabGet (fun _ => FwSlots.rst) s.mnt.fw 0).b
          ∧ t.pwr.phase = (if s.pwr.mainGood ∧ s.pwr.resetHeld = false then 4 else 3) ∧ t.mem.epoch = [] ∧ ∀ p, p < 4 → s.mnt.draws < tabGet (fun _ => 0) t.mem.slotKey (2 * p))))
    ∧ Runs .idcode s (fun t => pins t ∧ t.pwr.tap = 0 ∧ t.pwr.tdo = 0x0A710D2F) ∧ Runs .bypass s (fun t => pins t ∧ t.pwr.tap = 1 ∧ t.pwr.tdo = 0)
    ∧ (∀ cells : List Bool,
      let scan := ∀ d, d < 49 → domOn s d = false
      let captured := fun (n : Nat) (t : State) => pins t ∧ t.pwr.tap = n ∧ t.pwr.cells = cells.take 3 ∧ bitAt t.pwr.tdo 0 = !s.pwr.resetHeld ∧ bitAt t.pwr.tdo 1 = !s.pwr.alert ∧ bitAt t.pwr.tdo 2 = s.pwr.pwrGood
      let bypassed := fun (t : State) => pins t ∧ t.pwr.tap = 1 ∧ t.pwr.cells = s.pwr.cells
      (scan → Runs (.samplePreload cells) s (captured 2) ∧ Runs (.extest cells) s (captured 3))
      ∧ (¬ scan → Runs (.samplePreload cells) s bypassed ∧ Runs (.extest cells) s bypassed))
    ∧ ∀ (addr v : Word), frozen s 0x45 = false → memWaits s addr.toNat = false →
      (∀ pg, regionOf addr.toNat = .mmio pg → Runs (.dbgAccess true addr v) s (fun t => ∃ u, exec (.registerWrite 0x45 addr v) s = .next u ∧ t = { u with pwr := { u.pwr with tap := 4, tdo := v } })
        ∧ Runs (.dbgAccess false addr v) s (fun t => ∃ u, exec (.readClear 0x45 addr) s = .next u ∧ { t with pwr := u.pwr, free := u.free } = u
            ∧ t.pwr.tap = 4 ∧ ∀ d, u.resp = .data d → t.pwr.tdo = d))
      ∧ ∀ c, regionOf addr.toNat = .data c → oneRegion addr.toNat 8 = true → csAnswers s c addr.toNat 8 = true → cloakDenies s 0x45 false = false →
        (mayWrite s 0x45 addr.toNat 8 = true → Runs (.dbgAccess true addr v) s (fun t => t.resp = .ok ∧ SameBytesBut s t addr.toNat 8 ∧ ∀ i, i < 8 → getCell t.mem (addr.toNat + i) = nth 0 (valBytes 8 v.toNat) i))
        ∧ (mayWrite s 0x45 addr.toNat 8 = false → Runs (.dbgAccess true addr v) s (fun t => t.resp = .violation ∧ SameBytes s t))

/-- R443 to R446, R403: the control port. -/
def Obligations.ControlPortFrames : Prop :=
  ∀ s : State,
    let counts := fun (t : State) (o n : Nat) => rd t (kCp o) = w64 (min ((rd s (kCp o)).toNat + n) maxWord)
    let st := cpStream s
    let free := frozen s 0x44 = false
    let crc := fun (t : State) => counts t R_CP_CRC_CNT 1 ∧ OnlyEvents s t [kCp R_CP_CRC_CNT]
    let quiet := fun (c : Nat) (f : CpFrame) => f.type = 0 ∧ f.cls = c ∧ s.cp.owed = [] ∧ ∀ q ∈ (st c).unacked, f.ackSeq ≤ q.1
    let drops := fun (t : State) => counts t R_CP_SEQ_DROP_CNT 1 ∧ OnlyEvents { s with cp := t.cp } t [kCp R_CP_SEQ_DROP_CNT] ∧ ∀ c, cpStream t c = st c
    let takes := fun (c : Nat) (t : State) => (cpStream t c).ack = (st c).ack + 1 ∧ counts t R_CP_RX_FRAME_CNT 1
    (cpHears s = true → ∀ f : CpFrame,
      let imageGoes := free ∧ (f.addr + f.len ≤ stageSize s → spanWaits s (stageBase s + f.addr) f.len = false)
      let readGoes := free ∧ cpRoom s 2 = true ∧ spanWaits s f.addr (min f.aux 4096) = false
      Runs (.cpPocketWrite f false) s crc ∧ Runs (.cpAckRx f false) s crc ∧ Runs (.cpHelloRx f false) s crc
      ∧ (imageGoes → Runs (.cpImageWrite f false) s crc) ∧ (readGoes → Runs (.cpTelemetryRead f false) s crc)
      ∧ (quiet 0 f → (f.seq ≠ (st 0).ack → Runs (.cpPocketWrite f true) s drops)
        ∧ (f.seq = (st 0).ack → (f.opc ≠ 0 → Runs (.cpPocketWrite f true) s (fun t => takes 0 t ∧ t.mem = s.mem))
          ∧ ∀ w, w < 8 → f.opc = 0 → f.len = 8 → f.payload.length = 8 → f.addr = mmioBase + pgWord w * 4096 + R_WP_WORD → domOn s 44 = true → cloakDenies s 0x44 false = false →
            Runs (.cpPocketWrite f true) s (fun t => takes 0 t ∧ t.mem = s.mem ∧ mntWord t w = if wpGo s w then mntWord s w else w64 (bytesVal f.payload))))
      ∧ (quiet 1 f → imageGoes → f.payload.length = f.len → f.opc = 0 →
        (f.seq ≠ (st 1).ack → Runs (.cpImageWrite f true) s drops)
        ∧ (f.seq = (st 1).ack → (stageSize s < f.addr + f.len → Runs (.cpImageWrite f true) s (fun t => takes 1 t ∧ counts t R_CP_STAGE_ERR_CNT 1 ∧ SameBytes s t))
          ∧ ∀ c, let a := stageBase s + f.addr
            f.addr + f.len ≤ stageSize s → 0 < f.len → regionOf a = .data c → oneRegion a f.len = true → csAnswers s c a f.len = true → mayWrite s 0x44 a f.len = true → cloakDenies s 0x44 false = false →
              Runs (.cpImageWrite f true) s (fun t => takes 1 t ∧ SameBytesBut s t a f.len ∧ ∀ i, i < f.len → getCell t.mem (a + i) = nth 0 f.payload i)))
      ∧ (quiet 2 f → readGoes → f.opc = 0 →
        (f.seq ≠ (st 2).ack → Runs (.cpTelemetryRead f true) s drops)
        ∧ (f.seq = (st 2).ack → f.aux = 8 → ∀ pg, regionOf f.addr = .mmio pg → pg ≠ pgCp → f.addr % 8 = 0 → pageKind pg ≠ none → cloakDenies s 0x44 false = false →
          Runs (.cpTelemetryRead f true) s (fun t => takes 2 t ∧ ∃ a, a.cls = 2 ∧ a.type = 0 ∧ a.opc = 1 ∧ a.aux = 0 ∧ a.addr = f.addr ∧ a.seq = (st 2).next
            ∧ a.payload = valBytes 8 (regValue s 0x44 pg (f.addr % 4096)).toNat ∧ (cpStream t 2).unacked = (st 2).unacked ++ [((st 2).next, a)] ∧ a ∈ t.cp.wire)))
      ∧ (f.type = 1 → f.cls < 3 → Runs (.cpAckRx f true) s (fun t => (cpStream t f.cls).unacked = (st f.cls).unacked.filter (fun q => !decide (q.1 < f.ackSeq)) ∧ (cpStream t f.cls).next = (st f.cls).next))
      ∧ (f.type = 2 → s.cp.sending = [] → s.cp.helloed = true ∨ f.aux.testBit 0 = true → Runs (.cpHelloRx f true) s (fun t => t.cp.streams = [] ∧ t.cp.teleSent = (rd s (kCp R_CP_TELE_TAIL)).toNat
          ∧ t.cp.wire = s.cp.wire ∧ t.mem = s.mem))
      ∧ (f.type = 2 → s.cp.helloed = false → f.aux.testBit 0 = false → ∀ c, c < 3 → Runs (.cpHelloRx f true) s (fun t =>
          (cpStream t c).unacked = (st c).unacked.filter (fun q => !decide (q.1 < leAt f.payload (16 * c + 8) 8)) ∧ (cpStream t c).next = (st c).next)))
    ∧ (cpUp s = true → ∀ k b, cpButton k = some b → free → cpRoom s 0 = true → domOn s 44 = true → rdB s (reg (pgBtn 0x44) R_BTN_PEND) b = true → cpWaiting s k = true → k ∉ s.cp.owed → k ∉ s.cp.sending → cloakDenies s 0x44 false = false →
      Runs (.cpDeliver k) s (fun t => rdB t (reg (pgBtn 0x44) R_BTN_PEND) b = false ∧ k ∈ t.cp.sending ∧ (cpStream t 0).next = (st 0).next + 1 ∧ t.mem = s.mem
        ∧ ∃ f, CpLeaves s t [f] ∧ f.cls = 0 ∧ f.type = 0 ∧ f.opc = 1 ∧ f.aux = k ∧ f.seq = (st 0).next ∧ f.payload = cpMessage s k))
    ∧ (let size := rdF s (kCp R_CP_TELE_SIZE) 31 0
      let head := (rd s (kCp R_CP_TELE_HEAD)).toNat
      let a := rdF s (kCp R_CP_TELE_BASE) 63 12 * 4096 + s.cp.teleSent
      let n := min 4096 (head - s.cp.teleSent)
      cpUp s = true → ∀ c, free → cpRoom s 2 = true → s.cp.teleSent < head → head < size → cloakDenies s 0x44 true = false → regionOf a = .data c → oneRegion a n = true → csAnswers s c a n = true →
        (∀ i, i < n → isBad s.mem (a + i) = false) →
        Runs .cpReport s (fun t => t.cp.teleSent = (s.cp.teleSent + n) % size ∧ ∃ f, CpLeaves s t [f] ∧ f.cls = 2 ∧ f.opc = 2 ∧ f.addr = s.cp.teleSent ∧ f.len = n
          ∧ ∀ i, i < n → nth 0 f.payload i = getCell s.mem (a + i)))
    ∧ (cpUp s = true → ∀ c : Fin 3, (free → Runs (.cpRetxTimeout c) s (fun t => CpLeaves s t ((st c).unacked.map (fun q => { q.2 with ackSeq := (st c).ack })) ∧ t.cp.streams = s.cp.streams
          ∧ counts t R_CP_RETX_CNT (st c).unacked.length ∧ t.mem = s.mem))
        ∧ ((st c).since ≠ 0 → Runs (.cpAckDelay c) s (fun t => (cpStream t c).since = 0 ∧ t.mem = s.mem ∧ ∃ f, CpLeaves s t [f] ∧ f.type = 1 ∧ f.cls = c.val ∧ f.ackSeq = (st c).ack)))
    ∧ (cpUp s = true → Runs .cpLinkDrop s (fun t => rdB t (kCp R_CP_STATUS) 0 = false ∧ rdB t (kCp R_CP_STATUS) 1 = true ∧ OnlyRegs s t [kCp R_CP_STATUS]))

/-- R447, R448, R386: the commands of the service firmware. -/
def Obligations.ServiceCommands : Prop :=
  (∀ s : State,
    let v := svcWord s 0
    let runs := fun (c : Instr) (status : Nat) (P : State → Prop) => Runs c s (fun t => SvcAnswers t v status ∧ SvcTaken t ∧ P t)
    let refuses := fun (c : Instr) (status : Nat) => runs c status (fun t => SvcOnly s t [] ∧ t.svc = s.svc)
    let may := fun (page off : Nat) (v : Word) => MayWrite s (svcMid s (svcReg page off)) page off v
    (SvcReady s 0x09 → runs .telemetryCfg 0 (fun t => SvcOnly s t [] ∧ t.svc = { s.svc with period := bits v 15 0 }))
    ∧ (SvcReady s 0x08 →
      (bitAt v 40 = false →
        let d := bits v 5 0
        let q := bits v 9 8
        let k := kDom d
        (50 ≤ d → refuses .powerCmd 0x11)
        ∧ (d < 49 → may (pgPwr (domPanel d)) (R_PWR_DOMAIN + 8 * d) (w64 q) →
          (rdB s k 7 = true → runs .powerCmd 0 (fun t => rdB t k 6 = true ∧ rdF t k 11 8 = 1 ∧ domState t d = domState s d ∧ t.mem = s.mem))
          ∧ (rdB s k 7 = false → (∀ n, reqRefusal s d q = some n → runs .powerCmd 0 (fun t => rdF t k 11 8 = n ∧ rdB t k 7 = false ∧ domState t d = domState s d ∧ t.mem = s.mem))
            ∧ (reqRefusal s d q = none → q ≠ domState s d → runs .powerCmd 0 (fun t => rdF t k 11 8 = 0 ∧ rdF t k 1 0 = q ∧ rdB t k 7 = true)))))
      ∧ (bitAt v 40 = true →
        let p := bits v 39 32
        (4 ≤ p → refuses .powerCmd 0x11)
        ∧ (p < 4 → may (pgPwr p) R_PWR_RATE_TARGET (w64 (bits v 15 0)) → runs .powerCmd 0 (fun t => rdF t (reg (pgPwr p) R_PWR_RATE_TARGET) 15 0 = bits v 15 0
            ∧ SvcOnly s t [reg (pgPwr p) R_PWR_RATE_TARGET, reg (pgPwr p) R_BLK_WR_CNT] ∧ t.svc = s.svc))))
    ∧ (SvcReady s 0x07 →
      let e := (svcWord s 1).toNat
      let p := e / 1024
      (4096 ≤ e → refuses .redraw 0x11)
      ∧ (e < 4096 → may (pgLink p) R_LNK_STAGE_CFG0 (svcWord s 2) → may (pgLink p) R_LNK_STAGE_CFG1 (svcWord s 3) → may (pgLink p) R_PARTNER_CMD (partnerCmd 2 e) → rdB s (kLnk p R_PARTNER_CMD_STAT) 0 = false →
        let staged := fun (t : State) => rd t (kLnk p R_LNK_STAGE_CFG0) = svcWord s 2 ∧ rd t (kLnk p R_LNK_STAGE_CFG1) = svcWord s 3 ∧ t.mem = s.mem ∧ t.svc = s.svc
        let u := wr (wr s (kLnk p R_LNK_STAGE_CFG0) (svcWord s 2)) (kLnk p R_LNK_STAGE_CFG1) (svcWord s 3)
        (∀ n, partnerRefusal u p 2 e = some n → runs .redraw 0 (fun t => staged t ∧ rdF t (kLnk p R_PARTNER_CMD_STAT) 7 4 = n ∧ ptrState t e = ptrState s e))
        ∧ (partnerRefusal u p 2 e = none → runs .redraw 0 (fun t => staged t ∧ ptrState t e = 4 ∧ rdB t (kLnk p R_PARTNER_CMD_STAT) 0 = true))))
    ∧ (SvcReady s 0x02 →
      let w := w64 (bits v 31 24 * 2 ^ 16 + bits v 15 0)
      (∀ p, p < 4 → may (pgLink p) R_LNK_SELF_RANK w) →
      runs .rankAssign 0 (fun t => t.svc = { s.svc with rank := some (bits v 15 0), spare := bitAt v 16 } ∧ t.mem = s.mem
        ∧ ∀ p, p < 4 → rdF t (kLnk p R_LNK_SELF_RANK) 15 0 = bits v 15 0 ∧ rdF t (kLnk p R_LNK_SELF_RANK) 23 16 = bits v 31 24))
    ∧ (SvcReady s 0x06 →
      let op := bits v 3 0
      let cmd := w64 (op + (if bitAt v 8 then 0x100 else 0))
      let args := fun (t : State) => rd t (kRec 0 R_REC_ARG0) = svcWord s 1 ∧ rd t (kRec 0 R_REC_ARG1) = svcWord s 2 ∧ t.mem = s.mem
      (s.recov.op ≠ 0 → refuses .recv 0x15)
      ∧ (s.recov.op = 0 → may (pgRec 0) R_REC_ARG0 (svcWord s 1) → may (pgRec 0) R_REC_ARG1 (svcWord s 2) → may (pgRec 0) R_REC_CMD cmd →
        let waits := fun (t : State) => SvcTaken t ∧ pktGo t 1 = false ∧ t.svc = { s.svc with recCmd := some v } ∧ args t ∧ rdB t (kRec 0 R_REC_CMD_STAT) 0 = true
        (op = 6 → coresReset s = false → Runs .recv s (fun t => waits t ∧ t.recov.op = 6 ∧ t.recov.result = some 1))
        ∧ (op = 6 → coresReset s = true → Runs .recv s (fun t => waits t ∧ t.recov.op = 6 ∧ t.recov.result = none))
        ∧ (op = 5 → s.recov.restored = false → Runs .recv s (fun t => waits t ∧ t.recov.op = 5 ∧ t.recov.result = some 1))))
    ∧ (∀ n w, s.recov.op ≠ 0 → s.recov.result = some n → s.recov.asked = 0 → s.toEngine = [] → n ≠ 0 → n < 16 → engOn s 0 (pgRec 0) = true → s.svc.recCmd = some w → pktGo s 1 = false → pktOn s 1 = true → s.svc.out = [] →
        domOn s 44 = true → frozen s 0x40 = false → domOn s 48 = true → pktValid s 1 = true → pktSender s 1 = 0x40 → pktReceiver s 1 = 0x44 →
      Runs .recCommandComplete s (fun t => SvcAnswers t w 0 ∧ t.svc.recCmd = none ∧ t.recov.op = 0 ∧ rdF t (kRec 0 R_REC_CMD_STAT) 7 4 = n))
    ∧ (SvcReady s 0x01 →
      let a := stageBase s + bits v 31 0 * 4096
      let r := readStaged (svcTake s) (bits v 31 0 * 4096)
      let c := imageCheck r.1 r.2
      memWaits s a = false →
      if c.1 = 0 then (∀ y ∈ c.2, y.enc = false) → runs .imageLoad 0 (fun t => t.svc.image = some r.2 ∧ ∃ j, t.mnt.job = some j ∧ j.digest = Config.sha512 r.2)
      else runs .imageLoad c.1 (fun t => t.svc = s.svc ∧ (∃ j, t.mnt.job = some j ∧ j.digest = Config.sha512 r.2) ∧ ∀ b, regionOf b ≠ .hbm → getCell t.mem b = getCell s.mem b))
    ∧ (SvcReady s 0x03 →
      let xs := jobSections s
      (dataOf xs = [] → jobReady s = false → refuses .jobLoad 0x15)
      ∧ (jobReady s = true → (∀ x ∈ xs, x.type = 1 ∨ x.type = 5) → may (pgBind 0) R_PKT_LOCK 2 → runs .jobLoad 0 (fun t => rdB t (reg (pgBind 0) R_PKT_LOCK) 0 = true
          ∧ t.svc = { s.svc with loaded := true, starts := [] } ∧ SvcOnly s t [reg (pgBind 0) R_PKT_LOCK, reg (pgBind 0) R_BLK_WR_CNT]))
      ∧ ∀ x (c : Fin 32) w, jobReady s = true → xs = [x] → x.type = 2 → wordRecs 16 x.body = [[svcReg (pgCore c) R_NUM_SEED, w]] → may (pgCore c) R_NUM_SEED (w64 w) → may (pgBind 0) R_PKT_LOCK 2 →
        runs .jobLoad 0 (fun t => rd t (kCore c R_NUM_SEED) = w64 w ∧ rdB t (reg (pgBind 0) R_PKT_LOCK) 0 = true ∧ t.svc.loaded = true ∧ t.mem = s.mem))
    ∧ (SvcReady s 0x04 →
      (¬ (s.svc.loaded = true ∧ s.mnt.armed = true) → refuses .jobStart 0x15)
      ∧ (s.svc.loaded = true → s.mnt.armed = true → s.closing.stage = 0 → s.optDue = [] → s.svc.stopFor = none → s.svc.advance = false → ∀ (c : Fin 32) (x : Fin 8), s.svc.starts = [8 * c.val + x.val] → may (pgCtx c x) R_CTX_CTL 1 → (ctxOf s c x).st = .idle →
        runs .jobStart 0 (fun t => (ctxOf t c x).st = (ctxOf (ctlStart s c x) c x).st ∧ t.svc.stopped = false ∧ t.stepMsgs = s.stepMsgs ++ [rd s (kOpt 0 R_NUM_STEP)]
          ∧ ∀ p, p < 4 → domOn s (44 + p) = true → rd t (reg (pgColl p) R_NUM_STEP) = rd s (kOpt 0 R_NUM_STEP))))
    ∧ (SvcReady s 0x05 → (∀ d, d < 32 → rdB s (kDom d) 7 = false ∧ domState s d ≠ 1 ∧ domOn s (44 + d / 8) = true ∧ may (pgPwr (d / 8)) (R_PWR_DOMAIN + 8 * d) 3) →
      (∀ k, k < 256 → (slotOf s k).en = true → may (pgSlots (k / 32)) (R_SLOT_CTL + 64 * (k % 32)) 0) → may (pgRec 0) R_REC_CMD 6 → s.recov.op = 0 → blockHeld s pgYoke = false →
      (∀ i, 256 ≤ i → tabGet (fun _ => Ctx.rst) s.ctxs i = Ctx.rst) → (∀ i, 32 ≤ i → tabGet (fun _ => CoreSt.rst) s.cores i = CoreSt.rst) →
      runs .jobStop 0 (fun t => t.svc.stopped = true ∧ (∀ d, d < 32 → domState t d = 3) ∧ (∀ k, k < 256 → (slotOf t k).en = false) ∧ t.recov.op = 6)))
  ∧ (∀ (s : State) (p : Panel),
    let k := 2 + p.val
    pktOn s k = true → hemHeld s 29 = false → pktGo s k = true → pktValid s k = true → pktReceiver s k = 0xF0 → MayWrite s 0xF0 (pgPocket k) R_PKT_TAKE 1 →
    (s.mnt.flash.length < 4096 → Runs (.flashRecord p) s (fun t => pktGo t k = false ∧ t.mnt.flash = s.mnt.flash ++ [pktWords s k 16] ∧ t.mem = s.mem))
    ∧ (4096 ≤ s.mnt.flash.length → pktSender s k < 0x44 → 0x40 ≤ pktSender s k → domState s (midDomain (pktSender s k)) = 2 → Runs (.flashRecord p) s (fun t => pktGo t k = false ∧ t.mnt.flash = s.mnt.flash
        ∧ rdB t (reg (pgBtn (pktSender s k)) R_BTN_PEND) (bits (pktBind s k) 36 32) = true ∧ t.mem = s.mem)))
  ∧ ∀ (s : State) (p : Panel),
    let m := 0x40 + p.val
    domOn s (44 + p) = true → frozen s m = false → m ∉ s.asleep →
    (rd s (reg (pgBtn m) R_BTN_PEND) &&& rd s (reg (pgBtn m) R_BTN_MASK) = 0 → Runs (.sleepInstruction p) s (fun t => t = { s with asleep := s.asleep ++ [m] }))
    ∧ (rd s (reg (pgBtn m) R_BTN_PEND) &&& rd s (reg (pgBtn m) R_BTN_MASK) ≠ 0 → Runs (.sleepInstruction p) s (fun t => t = s))

/-- R457 to R461, R464, R465: self-test and the Darn entries. -/
def Obligations.SelfTestAndRepairRows : Prop :=
  (∀ (mid : Mid) (p : Panel) (addr : Word) (s : State),
    let b := bistOf s p
    (b.queue.length < 16 → MayWrite s mid.toNat (pgBist p) R_BIST_REQ addr → Runs (.bistReq mid p addr) s (fun t =>
        bistOf t p = { b with queue := b.queue ++ [(mid.toNat, addr.toNat)] } ∧ rdF t (reg (pgBist p) R_BIST_STATUS) 20 16 = b.queue.length + 1 ∧ rdB t (reg (pgBist p) R_BIST_STATUS) 0 = b.run.isSome
        ∧ (∀ q, q ≠ p.val → bistOf t q = bistOf s q) ∧ OnlyEvents { s with bist := t.bist, resp := .ok } t [reg (pgBist p) R_BIST_STATUS, reg (pgBist p) R_BLK_WR_CNT]))
    ∧ (16 ≤ b.queue.length → isMaster mid.toNat = true → cloakDenies s mid.toNat false = false → domOn s (44 + p) = true → Runs (.bistReq mid p addr) s (fun t => t = { s with resp := .busError })))
  ∧ (∀ (p : Panel) (fails : List Nat) (s : State),
    let b := bistOf s p
    let on := domOn s (44 + p) = true ∧ frozen s (0x54 + p) = false
    let only := fun (t : State) (r : BistRun) (q : List (Nat × Nat)) => bistOf t p = ⟨q, some r⟩ ∧ SameBytes s t ∧ (∀ q, q ≠ p.val → bistOf t q = bistOf s q) ∧ rdB t (reg (pgBist p) R_BIST_STATUS) 0 = true
      ∧ rdF t (reg (pgBist p) R_BIST_STATUS) 20 16 = q.length % 32
    (on → b.run = none → b.queue = [] → Runs (.bistChunk p fails) s (fun t => t = s))
    ∧ (∀ r d, on → b.run = some r → r.result = none → r.tested < r.len → testDomain r.base = some d →
      (domOn s d.1 = false → Runs (.bistChunk p fails) s (fun t => only t { r with result := some 4 } b.queue))
      ∧ (domOn s d.1 = true →
        let n := min 64 (r.len - r.tested)
        let ws := ((fails.filter (fun x => decide (x / 72 < 8 * n))).map (fun x => x / 72)).eraseDups
        Runs (.bistChunk p fails) s (fun t => ∃ u, only t u b.queue ∧ u.tested = r.tested + n ∧ u.fails = min (r.fails + ws.length) 0xFFFFFFFF ∧ u.result = none ∧ u.mid = r.mid ∧ u.base = r.base ∧ u.len = r.len ∧ u.resAddr = r.resAddr ∧ u.ring = r.ring
          ∧ (r.first ≠ none → u.first = r.first) ∧ (r.first = none → (ws = [] → u.first = none)
            ∧ ∀ x ∈ fails, x / 72 < 8 * n → (∀ y ∈ fails, x ≤ y) → u.first = some (r.base + 64 * r.tested + 8 * (x / 72), x % 72)))))
    ∧ (∀ mid a rest c, on → b.run = none → b.queue = (mid, a) :: rest → regionOf a = .data c → oneRegion a 64 = true → csAnswers s c a 64 = true → (∀ i, i < 64 → isBad s.mem (a + i) = false) →
      let f := fun (o n : Nat) => bytesVal ((List.range n).map (fun i => getCell s.mem (a + o + i)))
      let base := f 0 8
      let len := f 8 4
      let dest := fun (r : BistRun) => r.mid = mid ∧ r.base = base ∧ r.len = len ∧ r.test = f 16 1 ∧ r.resAddr = f 24 8 ∧ r.ring = if f 17 1 / 32 % 2 = 1 then some (f 17 1 % 32) else none
      len ≠ 0 →
      (∀ n, bistEarly s p base len = some n → Runs (.bistChunk p fails) s (fun t => ∃ r, only t r rest ∧ dest r ∧ r.result = some n ∧ r.tested = 0 ∧ r.fails = 0))
      ∧ (bistEarly s p base len = none → Runs (.bistChunk p fails) s (fun t => ∃ r, only t r rest ∧ dest r ∧ r.result = none ∧ r.tested = min 64 len)))
    ∧ ∀ base len, len ≠ 0 → (mayWrite s (0x54 + p) base (64 * len) = false → bistEarly s p base len = some 2)
      ∧ (mayWrite s (0x54 + p) base (64 * len) = true → (testDomain base = none → bistEarly s p base len = some 3)
        ∧ ∀ d, testDomain base = some d → (d.2 ≠ p.val → bistEarly s p base len = some 3)
          ∧ (d.2 = p.val → (domOn s d.1 = false → bistEarly s p base len = some 4)
            ∧ (domOn s d.1 = true → bistEarly s p base len = if testable s p base len then none else some 3))))
  ∧ (∀ (p : Panel) (s : State) (r : BistRun) (c : Nat),
    let b := bistOf s p
    let res := r.result.getD (if r.fails = 0 then 0 else 1)
    b.run = some r → domOn s (44 + p) = true → frozen s (0x54 + p) = false → r.result.isSome = true ∨ r.len ≤ r.tested →
    regionOf r.resAddr = .data c → oneRegion r.resAddr 64 = true → csAnswers s c r.resAddr 64 = true → mayWrite s (0x54 + p) r.resAddr 64 = true → (∀ n, r.ring = some n → n < 28 ∧ hasButtons r.mid = true ∧ domState s (midDomain r.mid) = 2) →
    r.tested < 2 ^ 64 → r.fails < 2 ^ 32 → r.mid < 256 → res < 16 → (∀ x, r.first = some x → x.1 < 2 ^ 64 ∧ x.2 < 72) →
    Runs (.bistResult p) s (fun t =>
      let word := fun (i : Nat) => bytesVal ((List.range 8).map (fun j => getCell t.mem (r.resAddr + 8 * i + j)))
      bistOf t p = ⟨b.queue, none⟩ ∧ rdB t (reg (pgBist p) R_BIST_STATUS) 0 = false ∧ SameBytesBut s t r.resAddr 64
      ∧ word 0 = (r.first.getD (0, 0)).1 ∧ word 1 = (r.first.getD (0, 0)).2 + res * 2 ^ 8 + r.fails * 2 ^ 32 ∧ word 2 = r.tested ∧ word 3 = r.mid ∧ (∀ i, 4 ≤ i → i < 8 → word i = 0)
      ∧ rd t (reg (pgBist p) R_BIST_REQ_CNT) = w64 (min ((rd s (reg (pgBist p) R_BIST_REQ_CNT)).toNat + 1) maxWord)
      ∧ rd t (reg (pgBist p) R_BIST_FAIL_CNT) = w64 (min ((rd s (reg (pgBist p) R_BIST_FAIL_CNT)).toNat + (if res = 1 then 1 else 0)) maxWord)
      ∧ ∀ n, r.ring = some n → rdB t (reg (pgBtn r.mid) R_BTN_PEND) n = true))
  ∧ ∀ (mid : Mid) (page k : Nat) (v : Word) (s : State) (i off : Nat), darnInst page = some i → darnOff page k = some off → MayWrite s mid.toNat page off v →
    let mask := fldsMask .rw (regFlds page off)
    let written := fun (t : State) => rd t (reg page off) = (rd s (reg page off) &&& ~~~ mask) ||| (v &&& mask)
    (bitAt v 63 = false → Runs (.darnWrite mid page k v) s (fun t => written t ∧ t.mnt.spares = s.mnt.spares ∧ OnlyEvents { s with resp := .ok } t [reg page off, reg page R_BLK_WR_CNT]))
    ∧ (bitAt v 63 = true →
      (spareTaken s i v = true → Runs (.darnWrite mid page k v) s (fun t => rd t (reg page off) = rd s (reg page off) ∧ (i < 32 → rdB t (reg page R_DARN_STATUS) 0 = true) ∧ t.mnt.spares = s.mnt.spares
          ∧ OnlyEvents { s with resp := .ok } t [reg page R_DARN_STATUS, reg page R_BLK_WR_CNT]))
      ∧ (spareTaken s i v = false → Runs (.darnWrite mid page k v) s (fun t => written t ∧ t.mnt.spares = s.mnt.spares ++ [(i, darnSeg i v, bits v 51 50)] ∧ spareTaken t i v = true
          ∧ (i < 32 → rd t (reg page R_DARN_REMAP_CNT) = w64 (min ((rd s (reg page R_DARN_REMAP_CNT)).toNat + 1) maxWord))
          ∧ OnlyEvents { s with resp := .ok, mnt := t.mnt } t [reg page off, reg page R_BLK_WR_CNT, reg page R_DARN_REMAP_CNT])))

/-- R112: the merge of two numerics words. -/
def Obligations.NumericsWordsMerge : Prop :=
  (∀ a b : Word, let w := nwMerge a b
    bits w 15 0 = min (bits a 15 0 + bits b 15 0) 0xFFFF ∧ bits w 31 16 = min (bits a 31 16 + bits b 31 16) 0xFFFF ∧ bits w 47 32 = min (bits a 47 32 + bits b 47 32) 0xFFFF
      ∧ bits w 55 48 = min (bits a 55 48 + bits b 55 48) 0xFF ∧ bitAt w 63 = (bitAt a 63 || bitAt b 63) ∧ bits w 62 56 = 0)
  ∧ (∀ a b : Word, nwMerge a b = nwMerge b a) ∧ ∀ a b c : Word, nwMerge (nwMerge a b) c = nwMerge a (nwMerge b c)

/-- R470: where a register lies. -/
def Obligations.RegisterAddresses : Prop :=
  ∀ (cls sub off : Nat) (mid : Mid) (v : Word) (s : State), cls < 64 → sub < 1024 → off < 4096 → isMaster mid.toNat = true →
    let page := cls * 1024 + sub
    let a := w64 (0x000000F000000000 + page * 0x1000 + off)
    bits a 27 22 = cls ∧ bits a 21 12 = sub ∧ bits a 11 0 = off ∧ a = mmioAddr page off
      ∧ Runs (.readClear mid a) s (fun t => t = regRead s mid.toNat page off)
      ∧ Runs (.registerWrite mid a v) s (fun t => t = regWrite s mid.toNat page off v)

/-- R429, R430, R489, R497 to R499: an invariant of every step. -/
def Obligations.StepKeepsPowerAndPins : Prop := ∀ s t : State, PinsAgree s → step s = .next t → PinsAgree t

/-- R284, R285, R287: an invariant of every step; the canonical form of memory is the model's own (log entry 3). -/
def Obligations.StepKeepsMemoryAndLines : Prop :=
  ∀ s t : State, Memory.wf s.mem = true → LinesOk s → step s = .next t → Memory.wf t.mem = true ∧ LinesOk t

/-- The state after reset (log entry 5). -/
def Obligations.ResetMeetsTheInvariants : Prop :=
  PinsAgree State.reset ∧ Memory.wf State.reset.mem = true ∧ LinesOk State.reset ∧ State.reset.pending = [] ∧ State.reset.regs = [] ∧ State.reset.mem.cells = []
    ∧ (∀ d, d < 49 → domState State.reset d = 0) ∧ domState State.reset 49 = 2 ∧ State.reset.pwr.phase = 0 ∧ (∀ a, getCell State.reset.mem a = 0)
end

