-- ==== Sys2Proof/Laws/QueueOps.lean ====
section
/-! SUPPORT. No operation of Machine/Ops.lean touches the queue of commands. -/
namespace Sys2Proof.Machine

/-- A command's outcome keeps a projection of the state. -/
def Kept {α : Type} (f : State → α) (s : State) : Out → Prop
  | .next t => f t = f s
  | _ => True

@[simp] theorem kept_next {α : Type} (f : State → α) (s t : State) : Kept f s (.next t) ↔ f t = f s := Iff.rfl

@[simp] theorem kept_ite {α : Type} (f : State → α) (s : State) (c : Prop) [Decidable c] (a b : Out) (ha : Kept f s a) (hb : Kept f s b) :
    Kept f s (if c then a else b) := by split <;> assumption

/-- A fold of an operation that keeps a projection keeps it. -/
theorem foldl_keeps {α β γ : Type} (g : α → γ) (f : α → β → α) (h : ∀ a b, g (f a b) = g a) (l : List β) (a : α) :
    g (l.foldl f a) = g a := by
  induction l generalizing a with
  | nil => rfl
  | cons b l ih => simp [ih, h]

@[simp] theorem foldl_pending {β : Type} (f : State → β → State) (h : ∀ a b, (f a b).pending = a.pending) (l : List β) (a : State) :
    (l.foldl f a).pending = a.pending := foldl_keeps State.pending f h l a

@[simp] theorem foldl_fst_pending {α β : Type} (f : State × α → β → State × α) (h : ∀ a b, (f a b).1.pending = a.1.pending) (l : List β) (a : State × α) :
    (l.foldl f a).1.pending = a.1.pending := foldl_keeps (fun a : State × α => a.1.pending) f h l a

@[simp] theorem foldr_pending {β : Type} (f : β → State → State) (h : ∀ b a, (f b a).pending = a.pending) (l : List β) (a : State) :
    (l.foldr f a).pending = a.pending := by
  induction l with
  | nil => rfl
  | cons b l ih => simp [h, ih]

@[simp] theorem ite_pending (c : Prop) [Decidable c] (a b : State) : (if c then a else b).pending = if c then a.pending else b.pending := apply_ite _ _ _ _

@[simp] theorem wr_pending (s : State) (k : Nat) (v : Word) :
    (wr s k v).pending = s.pending := by
  simp [wr]

@[simp] theorem wrF_pending (s : State) (k : Nat) (hi : Nat) (lo : Nat) (n : Nat) :
    (wrF s k hi lo n).pending = s.pending := by
  simp [wrF]

@[simp] theorem wrB_pending (s : State) (k : Nat) (b : Nat) (v : Bool) :
    (wrB s k b v).pending = s.pending := by
  simp [wrB]

@[simp] theorem wrOr_pending (s : State) (k : Nat) (m : Word) :
    (wrOr s k m).pending = s.pending := by
  simp [wrOr]

@[simp] theorem setCtx_pending (s : State) (c : Nat) (x : Nat) (v : Ctx) :
    (setCtx s c x v).pending = s.pending := by
  simp [setCtx]

@[simp] theorem setCore_pending (s : State) (c : Nat) (v : CoreSt) :
    (setCore s c v).pending = s.pending := by
  simp [setCore]

@[simp] theorem setFb_pending (s : State) (c : Nat) (e : Nat) (v : FbEntry) :
    (setFb s c e v).pending = s.pending := by
  simp [setFb]

@[simp] theorem setSync_pending (s : State) (w : Nat) (v : SyncFlags) :
    (setSync s w v).pending = s.pending := by
  simp [setSync]

@[simp] theorem setSlot_pending (s : State) (k : Nat) (v : SlotSt) :
    (setSlot s k v).pending = s.pending := by
  simp [setSlot]

@[simp] theorem setEst_pending (s : State) (c : Nat) (sid : Nat) (v : StrEst) :
    (setEst s c sid v).pending = s.pending := by
  simp [setEst]

@[simp] theorem cpPut_pending (s : State) (f : CpFrame) :
    (cpPut s f).pending = s.pending := by
  simp [cpPut]

@[simp] theorem bumpReg_pending (s : State) (k : Nat) (n : Nat) :
    (bumpReg s k n).pending = s.pending := by
  simp [bumpReg]

@[simp] theorem markSat_pending (s : State) (page : Nat) :
    (markSat s page).pending = s.pending := by
  simp [markSat]

@[simp] theorem bumpBtn_pending (s : State) (mid : Nat) (off : Nat) :
    (bumpBtn s mid off).pending = s.pending := by
  simp [bumpBtn]

@[simp] theorem btnWake_pending (s : State) (mid : Nat) :
    (btnWake s mid).pending = s.pending := by
  simp [btnWake]

@[simp] theorem ringSet_pending (s : State) (mid : Nat) (b : Nat) :
    (ringSet s mid b).pending = s.pending := by
  simp [ringSet]

@[simp] theorem ringBtn_pending (s : State) (mid : Nat) (b : Nat) (byMantle : Bool) :
    (ringBtn s mid b byMantle).pending = s.pending := by
  simp [ringBtn]

@[simp] theorem raiseEvt_pending (s : State) (page : Nat) (b : Nat) :
    (raiseEvt s page b).pending = s.pending := by
  simp [raiseEvt]

@[simp] theorem bumpN_pending (s : State) (page : Nat) (off : Nat) (n : Nat) :
    (bumpN s page off n).pending = s.pending := by
  simp [bumpN]

@[simp] theorem bump_pending (s : State) (page : Nat) (off : Nat) :
    (bump s page off).pending = s.pending := by
  simp [bump]

@[simp] theorem bumpHdr_pending (s : State) (page : Nat) (off : Nat) :
    (bumpHdr s page off).pending = s.pending := by
  simp [bumpHdr]

@[simp] theorem reportErr_pending (s : State) (page : Nat) (code : Nat) (addr : Word) :
    (reportErr s page code addr).pending = s.pending := by
  simp [reportErr]

@[simp] theorem setDegraded_pending (s : State) (page : Nat) (b : Nat) :
    (setDegraded s page b).pending = s.pending := by
  simp [setDegraded]

@[simp] theorem clearFlag_pending (s : State) (page : Nat) (b : Nat) :
    (clearFlag s page b).pending = s.pending := by
  simp [clearFlag]

@[simp] theorem clipOn_pending (s : State) (page : Nat) :
    (clipOn s page).pending = s.pending := by
  simp [clipOn]

@[simp] theorem clipOff_pending (s : State) (page : Nat) :
    (clipOff s page).pending = s.pending := by
  simp [clipOff]

@[simp] theorem freezePage_pending (s : State) (page : Nat) :
    (freezePage s page).pending = s.pending := by
  simp [freezePage]

@[simp] theorem countNum_pending (s : State) (page : Nat) (e : NumEv) (retries : Nat) :
    (countNum s page e retries).pending = s.pending := by
  simp [countNum]

@[simp] theorem setFrozenBit_pending (s : State) (mid : Nat) (b : Bool) :
    (setFrozenBit s mid b).pending = s.pending := by
  simp [setFrozenBit]

@[simp] theorem violLog_pending (s : State) (mid : Nat) (cause : Nat) (addr : Word) :
    (violLog s mid cause addr).pending = s.pending := by
  simp [violLog]

@[simp] theorem violation_pending (s : State) (mid : Nat) (cause : Nat) (addr : Word) :
    (violation s mid cause addr).pending = s.pending := by
  unfold violation; (repeat' split) <;> simp

@[simp] theorem judgeFailed_pending (s : State) (code : Nat) :
    (judgeFailed s code).pending = s.pending := by
  simp [judgeFailed]

@[simp] theorem stopOwed_pending (s : State) (code : Nat) :
    (stopOwed s code).pending = s.pending := by
  simp [stopOwed]

@[simp] theorem report_pending (s : State) (kind : Nat) (value : Nat) :
    (report s kind value).pending = s.pending := by
  simp [report]

@[simp] theorem setResp_pending (s : State) (r : Resp) :
    (setResp s r).pending = s.pending := by
  simp [setResp]

@[simp] theorem modCtx_pending (s : State) (c : Nat) (x : Nat) (f : Ctx → Ctx) :
    (modCtx s c x f).pending = s.pending := by
  simp [modCtx]

@[simp] theorem modCore_pending (s : State) (c : Nat) (f : CoreSt → CoreSt) :
    (modCore s c f).pending = s.pending := by
  simp [modCore]

end Sys2Proof.Machine
end

