-- ==== Sys2Proof/Laws/MemOps.lean ====
section
/-! SUPPORT. The operations of Machine/Ops.lean that leave memory alone. -/
namespace Sys2Proof.Machine

@[simp] theorem foldl_mem {β : Type} (f : State → β → State) (h : ∀ a b, (f a b).mem = a.mem) (l : List β) (a : State) :
    (l.foldl f a).mem = a.mem := foldl_keeps State.mem f h l a

@[simp] theorem foldl_fst_mem {α β : Type} (f : State × α → β → State × α) (h : ∀ a b, (f a b).1.mem = a.1.mem) (l : List β) (a : State × α) :
    (l.foldl f a).1.mem = a.1.mem := foldl_keeps (fun a : State × α => a.1.mem) f h l a

@[simp] theorem foldr_mem {β : Type} (f : β → State → State) (h : ∀ b a, (f b a).mem = a.mem) (l : List β) (a : State) :
    (l.foldr f a).mem = a.mem := by
  induction l with
  | nil => rfl
  | cons b l ih => simp [h, ih]

@[simp] theorem ite_mem (c : Prop) [Decidable c] (a b : State) : (if c then a else b).mem = if c then a.mem else b.mem := apply_ite _ _ _ _

@[simp] theorem wr_mem (s : State) (k : Nat) (v : Word) :
    (wr s k v).mem = s.mem := by
  simp [wr]

@[simp] theorem wrF_mem (s : State) (k : Nat) (hi : Nat) (lo : Nat) (n : Nat) :
    (wrF s k hi lo n).mem = s.mem := by
  simp [wrF]

@[simp] theorem wrB_mem (s : State) (k : Nat) (b : Nat) (v : Bool) :
    (wrB s k b v).mem = s.mem := by
  simp [wrB]

@[simp] theorem wrOr_mem (s : State) (k : Nat) (m : Word) :
    (wrOr s k m).mem = s.mem := by
  simp [wrOr]

@[simp] theorem setCtx_mem (s : State) (c : Nat) (x : Nat) (v : Ctx) :
    (setCtx s c x v).mem = s.mem := by
  simp [setCtx]

@[simp] theorem setCore_mem (s : State) (c : Nat) (v : CoreSt) :
    (setCore s c v).mem = s.mem := by
  simp [setCore]

@[simp] theorem setFb_mem (s : State) (c : Nat) (e : Nat) (v : FbEntry) :
    (setFb s c e v).mem = s.mem := by
  simp [setFb]

@[simp] theorem setSync_mem (s : State) (w : Nat) (v : SyncFlags) :
    (setSync s w v).mem = s.mem := by
  simp [setSync]

@[simp] theorem setSlot_mem (s : State) (k : Nat) (v : SlotSt) :
    (setSlot s k v).mem = s.mem := by
  simp [setSlot]

@[simp] theorem setEst_mem (s : State) (c : Nat) (sid : Nat) (v : StrEst) :
    (setEst s c sid v).mem = s.mem := by
  simp [setEst]

@[simp] theorem cpPut_mem (s : State) (f : CpFrame) :
    (cpPut s f).mem = s.mem := by
  simp [cpPut]

@[simp] theorem bumpReg_mem (s : State) (k : Nat) (n : Nat) :
    (bumpReg s k n).mem = s.mem := by
  simp [bumpReg]

@[simp] theorem markSat_mem (s : State) (page : Nat) :
    (markSat s page).mem = s.mem := by
  simp [markSat]

@[simp] theorem bumpBtn_mem (s : State) (mid : Nat) (off : Nat) :
    (bumpBtn s mid off).mem = s.mem := by
  simp [bumpBtn]

@[simp] theorem btnWake_mem (s : State) (mid : Nat) :
    (btnWake s mid).mem = s.mem := by
  simp [btnWake]

@[simp] theorem ringSet_mem (s : State) (mid : Nat) (b : Nat) :
    (ringSet s mid b).mem = s.mem := by
  simp [ringSet]

@[simp] theorem ringBtn_mem (s : State) (mid : Nat) (b : Nat) (byMantle : Bool) :
    (ringBtn s mid b byMantle).mem = s.mem := by
  simp [ringBtn]

@[simp] theorem raiseEvt_mem (s : State) (page : Nat) (b : Nat) :
    (raiseEvt s page b).mem = s.mem := by
  simp [raiseEvt]

@[simp] theorem bumpN_mem (s : State) (page : Nat) (off : Nat) (n : Nat) :
    (bumpN s page off n).mem = s.mem := by
  simp [bumpN]

@[simp] theorem bump_mem (s : State) (page : Nat) (off : Nat) :
    (bump s page off).mem = s.mem := by
  simp [bump]

@[simp] theorem bumpHdr_mem (s : State) (page : Nat) (off : Nat) :
    (bumpHdr s page off).mem = s.mem := by
  simp [bumpHdr]

@[simp] theorem reportErr_mem (s : State) (page : Nat) (code : Nat) (addr : Word) :
    (reportErr s page code addr).mem = s.mem := by
  simp [reportErr]

@[simp] theorem setDegraded_mem (s : State) (page : Nat) (b : Nat) :
    (setDegraded s page b).mem = s.mem := by
  simp [setDegraded]

@[simp] theorem clearFlag_mem (s : State) (page : Nat) (b : Nat) :
    (clearFlag s page b).mem = s.mem := by
  simp [clearFlag]

@[simp] theorem clipOn_mem (s : State) (page : Nat) :
    (clipOn s page).mem = s.mem := by
  simp [clipOn]

@[simp] theorem clipOff_mem (s : State) (page : Nat) :
    (clipOff s page).mem = s.mem := by
  simp [clipOff]

@[simp] theorem freezePage_mem (s : State) (page : Nat) :
    (freezePage s page).mem = s.mem := by
  simp [freezePage]

@[simp] theorem countNum_mem (s : State) (page : Nat) (e : NumEv) (retries : Nat) :
    (countNum s page e retries).mem = s.mem := by
  simp [countNum]

@[simp] theorem setFrozenBit_mem (s : State) (mid : Nat) (b : Bool) :
    (setFrozenBit s mid b).mem = s.mem := by
  simp [setFrozenBit]

@[simp] theorem violLog_mem (s : State) (mid : Nat) (cause : Nat) (addr : Word) :
    (violLog s mid cause addr).mem = s.mem := by
  simp [violLog]

@[simp] theorem violation_mem (s : State) (mid : Nat) (cause : Nat) (addr : Word) :
    (violation s mid cause addr).mem = s.mem := by
  unfold violation; (repeat' split) <;> simp

@[simp] theorem judgeFailed_mem (s : State) (code : Nat) :
    (judgeFailed s code).mem = s.mem := by
  simp [judgeFailed]

@[simp] theorem stopOwed_mem (s : State) (code : Nat) :
    (stopOwed s code).mem = s.mem := by
  simp [stopOwed]

@[simp] theorem report_mem (s : State) (kind : Nat) (value : Nat) :
    (report s kind value).mem = s.mem := by
  simp [report]

@[simp] theorem setResp_mem (s : State) (r : Resp) :
    (setResp s r).mem = s.mem := by
  simp [setResp]

@[simp] theorem modCtx_mem (s : State) (c : Nat) (x : Nat) (f : Ctx → Ctx) :
    (modCtx s c x f).mem = s.mem := by
  simp [modCtx]

@[simp] theorem modCore_mem (s : State) (c : Nat) (f : CoreSt → CoreSt) :
    (modCore s c f).mem = s.mem := by
  simp [modCore]

end Sys2Proof.Machine
end

