-- ==== Sys2Proof/Laws/Tab.lean ====
section
/-! SUPPORT. Sparse tables: a read after a write, and the canonical form. -/
namespace Sys2Proof.Machine

variable {α : Type} {d : Nat → α}

/-! ## Reading after a write -/

theorem tabGet_tabDel (m : Tab α) (k j : Nat) : tabGet d (tabDel m k) j = if j = k then d k else tabGet d m j := by
  induction m with
  | nil => by_cases h : j = k <;> simp [tabDel, tabGet, h]
  | cons e m ih =>
    obtain ⟨k', v⟩ := e
    by_cases h1 : k' = k
    · by_cases h2 : j = k
      · rw [h2] at ih ⊢; simpa [tabDel, h1] using ih
      · simp [tabDel, tabGet, h1, ih, h2, Ne.symm h2]
    · by_cases h2 : k' = j
      · subst h2; simp [tabDel, tabGet, h1]
      · simp [tabDel, tabGet, h1, ih, h2]

theorem tabGet_tabIns (m : Tab α) (k j : Nat) (v : α) (h : ∀ e ∈ m, e.1 ≠ k) :
    tabGet d (tabIns m k v) j = if j = k then v else tabGet d m j := by
  induction m with
  | nil => by_cases hj : k = j <;> simp [tabIns, tabGet, hj, eq_comm]
  | cons e m ih =>
    obtain ⟨k', v'⟩ := e
    have ih := ih (fun e he => h e (List.mem_cons_of_mem _ he))
    have hk : k' ≠ k := h (k', v') List.mem_cons_self
    by_cases h1 : k < k'
    · by_cases hj : k = j
      · subst hj; simp [tabIns, tabGet, h1]
      · simp [tabIns, tabGet, h1, hj, Ne.symm hj]
    · by_cases h2 : k' = j
      · subst h2; simp [tabIns, tabGet, h1, hk]
      · simp [tabIns, tabGet, h1, h2, ih]

theorem mem_tabDel {m : Tab α} {k : Nat} {e : Nat × α} (h : e ∈ tabDel m k) : e ∈ m ∧ e.1 ≠ k := by
  induction m with
  | nil => simp [tabDel] at h
  | cons a m ih =>
    obtain ⟨k', v⟩ := a
    by_cases h1 : k' = k
    · simp only [tabDel, h1, if_true] at h
      exact ⟨List.mem_cons_of_mem _ (ih h).1, (ih h).2⟩
    · simp only [tabDel, h1, if_false, List.mem_cons] at h
      rcases h with rfl | h
      · exact ⟨List.mem_cons_self, h1⟩
      · exact ⟨List.mem_cons_of_mem _ (ih h).1, (ih h).2⟩

/-- A read after a write: the value written at that key, what was there at every other. -/
theorem tabGet_tabSet [DecidableEq α] (m : Tab α) (k j : Nat) (v : α) :
    tabGet d (tabSet d m k v) j = if j = k then v else tabGet d m j := by
  unfold tabSet
  split
  · next h => rw [tabGet_tabDel, h]
  · rw [tabGet_tabIns _ _ _ _ (fun e he => (mem_tabDel he).2), tabGet_tabDel]
    split <;> rfl

@[simp] theorem tabGet_tabSet_self [DecidableEq α] (m : Tab α) (k : Nat) (v : α) : tabGet d (tabSet d m k v) k = v := by
  simp [tabGet_tabSet]

theorem tabGet_tabSet_ne [DecidableEq α] (m : Tab α) {k j : Nat} (v : α) (h : j ≠ k) :
    tabGet d (tabSet d m k v) j = tabGet d m j := by simp [tabGet_tabSet, h]

/-! ## The canonical form -/

/-- The canonical form as a property of the entries. -/
theorem tabWf_iff [DecidableEq α] (m : Tab α) :
    tabWf d m = true ↔ (∀ e ∈ m, e.2 ≠ d e.1) ∧ m.Pairwise (fun a b => a.1 < b.1) := by
  induction m with
  | nil => simp [tabWf]
  | cons a m ih =>
    obtain ⟨k, v⟩ := a
    cases m with
    | nil => simp [tabWf]
    | cons b m =>
      obtain ⟨k', v'⟩ := b
      simp only [tabWf, Bool.and_eq_true, decide_eq_true_eq, ih, List.mem_cons, forall_eq_or_imp, List.pairwise_cons]
      constructor
      · rintro ⟨⟨h1, h2⟩, ⟨h3, h4⟩, h5, h6⟩
        exact ⟨⟨h1, h3, h4⟩, ⟨h2, fun e he => Nat.lt_trans h2 (h5 e he)⟩, h5, h6⟩
      · rintro ⟨⟨h1, h3, h4⟩, ⟨h2, _⟩, h5, h6⟩
        exact ⟨⟨h1, h2⟩, ⟨h3, h4⟩, h5, h6⟩

/-- Leaving entries out keeps the canonical form. -/
theorem tabWf_sublist [DecidableEq α] {m m' : Tab α} (s : m'.Sublist m) (h : tabWf d m = true) : tabWf d m' = true := by
  rw [tabWf_iff] at *
  exact ⟨fun e he => h.1 e (s.subset he), h.2.sublist s⟩

theorem tabDel_sublist (m : Tab α) (k : Nat) : (tabDel m k).Sublist m := by
  induction m with
  | nil => exact List.Sublist.slnil
  | cons a m ih =>
    obtain ⟨k', v⟩ := a
    by_cases h : k' = k
    · simp only [tabDel, h, if_true]; exact ih.cons _
    · simp only [tabDel, h, if_false]; exact ih.cons_cons _

theorem mem_tabIns {m : Tab α} {k : Nat} {v : α} {e : Nat × α} (h : e ∈ tabIns m k v) : e = (k, v) ∨ e ∈ m := by
  induction m with
  | nil => simpa [tabIns] using h
  | cons a m ih =>
    obtain ⟨k', v'⟩ := a
    by_cases h1 : k < k'
    · simpa [tabIns, h1] using h
    · simp only [tabIns, h1, if_false, List.mem_cons] at h
      rcases h with rfl | h
      · exact .inr List.mem_cons_self
      · exact (ih h).imp id (List.mem_cons_of_mem _)

theorem pairwise_tabIns {m : Tab α} {k : Nat} {v : α} (hm : m.Pairwise (fun a b => a.1 < b.1)) (hk : ∀ e ∈ m, e.1 ≠ k) :
    (tabIns m k v).Pairwise (fun a b => a.1 < b.1) := by
  induction m with
  | nil => simp [tabIns]
  | cons a m ih =>
    obtain ⟨k', v'⟩ := a
    rw [List.pairwise_cons] at hm
    have hne : k' ≠ k := hk (k', v') List.mem_cons_self
    by_cases h1 : k < k'
    · simp only [tabIns, h1, if_true, List.pairwise_cons]
      refine ⟨fun e he => ?_, hm⟩
      rcases List.mem_cons.1 he with rfl | he
      · exact h1
      · exact Nat.lt_trans h1 (hm.1 e he)
    · simp only [tabIns, h1, if_false, List.pairwise_cons]
      refine ⟨fun e he => ?_, ih hm.2 (fun e he => hk e (List.mem_cons_of_mem _ he))⟩
      rcases mem_tabIns he with rfl | he
      · exact Nat.lt_of_le_of_ne (Nat.le_of_not_lt h1) hne
      · exact hm.1 e he

/-- A write keeps the canonical form. -/
@[simp] theorem tabWf_tabSet [DecidableEq α] {m : Tab α} (k : Nat) (v : α) (h : tabWf d m = true) : tabWf d (tabSet d m k v) = true := by
  unfold tabSet
  have hd := tabWf_sublist (tabDel_sublist m k) h
  split
  · exact hd
  · next hv =>
    rw [tabWf_iff] at *
    refine ⟨fun e he => ?_, pairwise_tabIns hd.2 (fun e he => (mem_tabDel he).2)⟩
    rcases mem_tabIns he with rfl | he
    · exact hv
    · exact hd.1 e he

@[simp] theorem tabWf_filter [DecidableEq α] {m : Tab α} (p : Nat × α → Bool) (h : tabWf d m = true) : tabWf d (m.filter p) = true :=
  tabWf_sublist List.filter_sublist h

@[simp] theorem tabWf_nil [DecidableEq α] : tabWf d ([] : Tab α) = true := rfl

end Sys2Proof.Machine
end

