-- ==== Sys2Proof/Laws/Memory.lean ====
section
/-! SUPPORT. Memory keeps its canonical form under every operation on it, and a read after a write (Host.Cell). -/
namespace Sys2Proof.Machine

variable {m : MemSt}

/-! ## The canonical form, table by table -/

@[simp] theorem wf_mk (c : List Host.Cell) (b wk p : Tab Bool) (k sl : Tab Nat) (e : Tab Bool) (sp : List Spare) (l : Tab LlcLine) (f : List Nat)
    (r : List Op1500) (rp : List (Nat × Nat)) (w : List Nat) (n : Nat) :
    Memory.wf ⟨c, b, wk, p, k, sl, e, sp, l, f, r, rp, w, n⟩
      = (tabWf (fun _ => 0#8) c && tabWf (fun _ => false) b && tabWf (fun _ => false) wk && tabWf (fun _ => false) p && tabWf (fun _ => 0) k
          && tabWf (fun _ => 0) sl && tabWf (fun _ => false) e && tabWf (fun _ => LlcLine.rst) l) := rfl

theorem wf_parts (h : Memory.wf m = true) :
    tabWf (fun _ => 0#8) m.cells = true ∧ tabWf (fun _ => false) m.bad = true ∧ tabWf (fun _ => false) m.weak = true
      ∧ tabWf (fun _ => false) m.poison = true
      ∧ tabWf (fun _ => 0) m.keyOf = true ∧ tabWf (fun _ => 0) m.slotKey = true ∧ tabWf (fun _ => false) m.epoch = true
      ∧ tabWf (fun _ => LlcLine.rst) m.llc = true := by
  simpa [Memory.wf, and_assoc] using h

@[simp] theorem wf_cells (h : Memory.wf m = true) : tabWf (fun _ => 0#8) m.cells = true := (wf_parts h).1
@[simp] theorem wf_bad (h : Memory.wf m = true) : tabWf (fun _ => false) m.bad = true := (wf_parts h).2.1
@[simp] theorem wf_weak (h : Memory.wf m = true) : tabWf (fun _ => false) m.weak = true := (wf_parts h).2.2.1
@[simp] theorem wf_poison (h : Memory.wf m = true) : tabWf (fun _ => false) m.poison = true := (wf_parts h).2.2.2.1
@[simp] theorem wf_keyOf (h : Memory.wf m = true) : tabWf (fun _ => 0) m.keyOf = true := (wf_parts h).2.2.2.2.1
@[simp] theorem wf_slotKey (h : Memory.wf m = true) : tabWf (fun _ => 0) m.slotKey = true := (wf_parts h).2.2.2.2.2.1
@[simp] theorem wf_epoch (h : Memory.wf m = true) : tabWf (fun _ => false) m.epoch = true := (wf_parts h).2.2.2.2.2.2.1
@[simp] theorem wf_llc (h : Memory.wf m = true) : tabWf (fun _ => LlcLine.rst) m.llc = true := (wf_parts h).2.2.2.2.2.2.2

@[simp] theorem wf_rst : Memory.wf MemSt.rst = true := rfl

/-! ## The operations on memory -/

@[simp] theorem wf_putCell (a : Nat) (b : Byte) (h : Memory.wf m = true) : Memory.wf (putCell m a b) = true := by
  simp [putCell, h]

@[simp] theorem wf_putCells (a : Nat) (l : List Byte) (h : Memory.wf m = true) : Memory.wf (putCells m a l) = true := by
  induction l generalizing m a with
  | nil => exact h
  | cons b l ih => exact ih (m := putCell m a b) (a + 1) (by simp [h])

@[simp] theorem wf_setBad (a : Nat) (b : Bool) (h : Memory.wf m = true) : Memory.wf (setBad m a b) = true := by
  simp [setBad, h]

@[simp] theorem wf_setWeak (a : Nat) (b : Bool) (h : Memory.wf m = true) : Memory.wf (setWeak m a b) = true := by
  simp [setWeak, h]

@[simp] theorem wf_setPoison (a : Nat) (b : Bool) (h : Memory.wf m = true) : Memory.wf (setPoison m a b) = true := by
  simp [setPoison, h]

/-- A fold of an operation that keeps the canonical form keeps it. -/
@[simp] theorem wf_foldl {β : Type} (f : MemSt → β → MemSt) (hf : ∀ a b, Memory.wf a = true → Memory.wf (f a b) = true) (l : List β)
    (h : Memory.wf m = true) : Memory.wf (l.foldl f m) = true := by
  induction l generalizing m with
  | nil => exact h
  | cons b l ih => exact ih (hf m b h)

@[simp] theorem wf_clearBad (a n : Nat) (h : Memory.wf m = true) : Memory.wf (clearBad m a n) = true := by
  unfold clearBad
  exact wf_foldl _ (fun m i hm => wf_setWeak _ _ (wf_setBad _ _ hm)) _ h

@[simp] theorem wf_spareLost (e : Spare) (h : Memory.wf m = true) : Memory.wf (spareLost m e) = true := by
  unfold spareLost
  have h1 := wf_clearBad e.gran 64 (wf_putCells e.gran e.data h)
  exact wf_setPoison _ _ (wf_foldl _ (fun a b ha => wf_setBad _ _ ha) _ (by simp [h1]))

@[simp] theorem wf_dropBytes (lo hi : Nat) (h : Memory.wf m = true) : Memory.wf (dropBytes m lo hi) = true := by
  simp [dropBytes, h]

/-! ## A read after a write -/

theorem getCell_putCell (a j : Nat) (b : Byte) : getCell (putCell m a b) j = if j = a then b else getCell m j :=
  tabGet_tabSet m.cells a j b

/-- A write of bytes at `a` leaves every byte outside them alone. -/
theorem getCell_putCells_out (a : Nat) (l : List Byte) (j : Nat) (h : j < a ∨ a + l.length ≤ j) : getCell (putCells m a l) j = getCell m j := by
  induction l generalizing m a with
  | nil => rfl
  | cons b l ih =>
    have hl : (b :: l).length = l.length + 1 := rfl
    have hja : j ≠ a := by omega
    rw [show putCells m a (b :: l) = putCells (putCell m a b) (a + 1) l from rfl, ih (m := putCell m a b) (a + 1) (by omega), getCell_putCell]
    simp [hja]

/-- Byte `i` of what was written is read back. -/
theorem getCell_putCells_in (a : Nat) (l : List Byte) (i : Nat) (h : i < l.length) : getCell (putCells m a l) (a + i) = l[i] := by
  induction l generalizing m a i with
  | nil => exact absurd h (Nat.not_lt_zero _)
  | cons b l ih =>
    cases i with
    | zero =>
      rw [show putCells m a (b :: l) = putCells (putCell m a b) (a + 1) l from rfl,
        getCell_putCells_out (m := putCell m a b) (a + 1) l (a + 0) (by omega), getCell_putCell]
      simp
    | succ i =>
      have := ih (m := putCell m a b) (a + 1) i (by simpa using h)
      rw [show putCells m a (b :: l) = putCells (putCell m a b) (a + 1) l from rfl, show a + (i + 1) = a + 1 + i from by omega, this]
      rfl

end Sys2Proof.Machine
end

