-- ==== Sys2Proof/Laws/CanonOps.lean ====
section
/-! SUPPORT. The operations of Machine/Ops.lean keep memory in its canonical form. -/
namespace Sys2Proof.Machine

/-- Memory is in its canonical form. -/
def Canonical (s : State) : Prop := Memory.wf s.mem = true

/-- A command's next state has a property. -/
def Ends (P : State → Prop) : Out → Prop
  | .next t => P t
  | _ => True

@[simp] theorem ends_next (P : State → Prop) (t : State) : Ends P (.next t) ↔ P t := Iff.rfl

@[simp] theorem ends_ite (P : State → Prop) (c : Prop) [Decidable c] (a b : Out) (ha : Ends P a) (hb : Ends P b) : Ends P (if c then a else b) := by
  split <;> assumption

theorem canonical_of_mem {s t : State} (h : t.mem = s.mem) (hw : Canonical s) : Canonical t := by
  unfold Canonical; rw [h]; exact hw

theorem ends_of_kept {s : State} {o : Out} (hw : Canonical s) (h : Kept State.mem s o) : Ends Canonical o := by
  cases o with
  | next t => exact canonical_of_mem h hw
  | _ => trivial

@[simp] theorem canonical_mem {s : State} (h : Canonical s) : Memory.wf s.mem = true := h

@[simp] theorem canonical_ite (c : Prop) [Decidable c] (a b : State) (ha : Canonical a) (hb : Canonical b) : Canonical (if c then a else b) := by
  split <;> assumption

@[simp] theorem canonical_ite_fst {α : Type} (c : Prop) [Decidable c] (a b : State × α) (ha : Canonical a.1) (hb : Canonical b.1) :
    Canonical (if c then a else b).1 := by split <;> assumption

@[simp] theorem canonical_foldl {β : Type} (f : State → β → State) (hf : ∀ a b, Canonical a → Canonical (f a b)) (l : List β) (a : State)
    (h : Canonical a) : Canonical (l.foldl f a) := by
  induction l generalizing a with
  | nil => exact h
  | cons b l ih => exact ih (f a b) (hf a b h)

@[simp] theorem canonical_foldr {β : Type} (f : β → State → State) (hf : ∀ b a, Canonical a → Canonical (f b a)) (l : List β) (a : State)
    (h : Canonical a) : Canonical (l.foldr f a) := by
  induction l with
  | nil => exact h
  | cons b l ih => exact hf b _ ih

@[simp] theorem canonical_foldl_fst {α β : Type} (f : State × α → β → State × α) (hf : ∀ a b, Canonical a.1 → Canonical (f a b).1) (l : List β)
    (a : State × α) (h : Canonical a.1) : Canonical (l.foldl f a).1 := by
  induction l generalizing a with
  | nil => exact h
  | cons b l ih => exact ih (f a b) (hf a b h)

/-- A state made of the fields of others is canonical as its memory is. -/
@[simp] theorem canonical_mk (pending : List Instr) (regs : Tab Word) (mem : MemSt) (ctxs : Tab Ctx) (cores : Tab CoreSt) (fb : Tab FbEntry) (sync : Tab SyncFlags) (slots : Tab SlotSt) (toYoke : List YokeMsg) (yokeWaits : List Nat) (wakes : List Wake) (releases : List Release) (orphans : List (Nat × SyncReq)) (est : Tab StrEst) (asleep : List Nat) (hemStopped : List Nat) (resync : List (Nat × Bool)) (breached : List Nat) (katPages : List Nat) (srFailed : List Nat) (srSick : List (Nat × Nat)) (banks : List BankAsk) (arbs : Tab ArbSt) (fab : List FabMsg) (seamRejects : List (Nat × Nat)) (seamTests : List Nat) (partners : Tab Partner) (groups : Tab GroupSt) (linkSecret : Nat) (toEngine : List EngIn) (outbox : List (Bool × Nat × WFrame)) (wire : List WirePkt) (wireHeld : List WirePkt) (drr : Tab DrrSt) (hellos : List (Nat × Nat)) (portCoef : List Nat) (trainFails : Tab Nat) (portDisabled : List Nat) (coll : Tab (List CollCmd)) (collNext : Nat) (closing : ClosingSt) (optWritten : List Nat) (optDue : List Nat) (optWaited : List Nat) (mirHeader : Option (Nat × Nat)) (sealDue : List Nat) (recov : RecSt) (stepMsgs : List Word) (rails : Tab RailSt) (pwr : PwrSt) (mnt : MntSt) (cp : CpSt) (svc : SvcSt) (bist : Tab BistSt) (ticks : Nat) (trace : List (Nat × Nat × Nat × Nat)) (resp : Resp) (free : Nat) :
    Canonical (State.mk pending regs mem ctxs cores fb sync slots toYoke yokeWaits wakes releases orphans est asleep hemStopped resync breached katPages srFailed srSick banks arbs fab seamRejects seamTests partners groups linkSecret toEngine outbox wire wireHeld drr hellos portCoef trainFails portDisabled coll collNext closing optWritten optDue optWaited mirHeader sealDue recov stepMsgs rails pwr mnt cp svc bist ticks trace resp free) ↔ Memory.wf mem = true := Iff.rfl

@[simp] theorem wr_canon (s : State) (k : Nat) (v : Word) (hw : Canonical s) : Canonical (wr s k v) :=
  canonical_of_mem (wr_mem s k v) hw

@[simp] theorem wrF_canon (s : State) (k : Nat) (hi : Nat) (lo : Nat) (n : Nat) (hw : Canonical s) : Canonical (wrF s k hi lo n) :=
  canonical_of_mem (wrF_mem s k hi lo n) hw

@[simp] theorem wrB_canon (s : State) (k : Nat) (b : Nat) (v : Bool) (hw : Canonical s) : Canonical (wrB s k b v) :=
  canonical_of_mem (wrB_mem s k b v) hw

@[simp] theorem wrOr_canon (s : State) (k : Nat) (m : Word) (hw : Canonical s) : Canonical (wrOr s k m) :=
  canonical_of_mem (wrOr_mem s k m) hw

@[simp] theorem setCtx_canon (s : State) (c : Nat) (x : Nat) (v : Ctx) (hw : Canonical s) : Canonical (setCtx s c x v) :=
  canonical_of_mem (setCtx_mem s c x v) hw

@[simp] theorem setCore_canon (s : State) (c : Nat) (v : CoreSt) (hw : Canonical s) : Canonical (setCore s c v) :=
  canonical_of_mem (setCore_mem s c v) hw

@[simp] theorem setFb_canon (s : State) (c : Nat) (e : Nat) (v : FbEntry) (hw : Canonical s) : Canonical (setFb s c e v) :=
  canonical_of_mem (setFb_mem s c e v) hw

@[simp] theorem setSync_canon (s : State) (w : Nat) (v : SyncFlags) (hw : Canonical s) : Canonical (setSync s w v) :=
  canonical_of_mem (setSync_mem s w v) hw

@[simp] theorem setSlot_canon (s : State) (k : Nat) (v : SlotSt) (hw : Canonical s) : Canonical (setSlot s k v) :=
  canonical_of_mem (setSlot_mem s k v) hw

@[simp] theorem setEst_canon (s : State) (c : Nat) (sid : Nat) (v : StrEst) (hw : Canonical s) : Canonical (setEst s c sid v) :=
  canonical_of_mem (setEst_mem s c sid v) hw

@[simp] theorem cpPut_canon (s : State) (f : CpFrame) (hw : Canonical s) : Canonical (cpPut s f) :=
  canonical_of_mem (cpPut_mem s f) hw

@[simp] theorem bumpReg_canon (s : State) (k : Nat) (n : Nat) (hw : Canonical s) : Canonical (bumpReg s k n) :=
  canonical_of_mem (bumpReg_mem s k n) hw

@[simp] theorem markSat_canon (s : State) (page : Nat) (hw : Canonical s) : Canonical (markSat s page) :=
  canonical_of_mem (markSat_mem s page) hw

@[simp] theorem bumpBtn_canon (s : State) (mid : Nat) (off : Nat) (hw : Canonical s) : Canonical (bumpBtn s mid off) :=
  canonical_of_mem (bumpBtn_mem s mid off) hw

@[simp] theorem btnWake_canon (s : State) (mid : Nat) (hw : Canonical s) : Canonical (btnWake s mid) :=
  canonical_of_mem (btnWake_mem s mid) hw

@[simp] theorem ringSet_canon (s : State) (mid : Nat) (b : Nat) (hw : Canonical s) : Canonical (ringSet s mid b) :=
  canonical_of_mem (ringSet_mem s mid b) hw

@[simp] theorem ringBtn_canon (s : State) (mid : Nat) (b : Nat) (byMantle : Bool) (hw : Canonical s) : Canonical (ringBtn s mid b byMantle) :=
  canonical_of_mem (ringBtn_mem s mid b byMantle) hw

@[simp] theorem raiseEvt_canon (s : State) (page : Nat) (b : Nat) (hw : Canonical s) : Canonical (raiseEvt s page b) :=
  canonical_of_mem (raiseEvt_mem s page b) hw

@[simp] theorem bumpN_canon (s : State) (page : Nat) (off : Nat) (n : Nat) (hw : Canonical s) : Canonical (bumpN s page off n) :=
  canonical_of_mem (bumpN_mem s page off n) hw

@[simp] theorem bump_canon (s : State) (page : Nat) (off : Nat) (hw : Canonical s) : Canonical (bump s page off) :=
  canonical_of_mem (bump_mem s page off) hw

@[simp] theorem bumpHdr_canon (s : State) (page : Nat) (off : Nat) (hw : Canonical s) : Canonical (bumpHdr s page off) :=
  canonical_of_mem (bumpHdr_mem s page off) hw

@[simp] theorem reportErr_canon (s : State) (page : Nat) (code : Nat) (addr : Word) (hw : Canonical s) : Canonical (reportErr s page code addr) :=
  canonical_of_mem (reportErr_mem s page code addr) hw

@[simp] theorem setDegraded_canon (s : State) (page : Nat) (b : Nat) (hw : Canonical s) : Canonical (setDegraded s page b) :=
  canonical_of_mem (setDegraded_mem s page b) hw

@[simp] theorem clearFlag_canon (s : State) (page : Nat) (b : Nat) (hw : Canonical s) : Canonical (clearFlag s page b) :=
  canonical_of_mem (clearFlag_mem s page b) hw

@[simp] theorem clipOn_canon (s : State) (page : Nat) (hw : Canonical s) : Canonical (clipOn s page) :=
  canonical_of_mem (clipOn_mem s page) hw

@[simp] theorem clipOff_canon (s : State) (page : Nat) (hw : Canonical s) : Canonical (clipOff s page) :=
  canonical_of_mem (clipOff_mem s page) hw

@[simp] theorem freezePage_canon (s : State) (page : Nat) (hw : Canonical s) : Canonical (freezePage s page) :=
  canonical_of_mem (freezePage_mem s page) hw

@[simp] theorem countNum_canon (s : State) (page : Nat) (e : NumEv) (retries : Nat) (hw : Canonical s) : Canonical (countNum s page e retries) :=
  canonical_of_mem (countNum_mem s page e retries) hw

@[simp] theorem setFrozenBit_canon (s : State) (mid : Nat) (b : Bool) (hw : Canonical s) : Canonical (setFrozenBit s mid b) :=
  canonical_of_mem (setFrozenBit_mem s mid b) hw

@[simp] theorem violLog_canon (s : State) (mid : Nat) (cause : Nat) (addr : Word) (hw : Canonical s) : Canonical (violLog s mid cause addr) :=
  canonical_of_mem (violLog_mem s mid cause addr) hw

@[simp] theorem violation_canon (s : State) (mid : Nat) (cause : Nat) (addr : Word) (hw : Canonical s) : Canonical (violation s mid cause addr) :=
  canonical_of_mem (violation_mem s mid cause addr) hw

@[simp] theorem judgeFailed_canon (s : State) (code : Nat) (hw : Canonical s) : Canonical (judgeFailed s code) :=
  canonical_of_mem (judgeFailed_mem s code) hw

@[simp] theorem stopOwed_canon (s : State) (code : Nat) (hw : Canonical s) : Canonical (stopOwed s code) :=
  canonical_of_mem (stopOwed_mem s code) hw

@[simp] theorem report_canon (s : State) (kind : Nat) (value : Nat) (hw : Canonical s) : Canonical (report s kind value) :=
  canonical_of_mem (report_mem s kind value) hw

@[simp] theorem setResp_canon (s : State) (r : Resp) (hw : Canonical s) : Canonical (setResp s r) :=
  canonical_of_mem (setResp_mem s r) hw

@[simp] theorem modCtx_canon (s : State) (c : Nat) (x : Nat) (f : Ctx → Ctx) (hw : Canonical s) : Canonical (modCtx s c x f) :=
  canonical_of_mem (modCtx_mem s c x f) hw

@[simp] theorem modCore_canon (s : State) (c : Nat) (f : CoreSt → CoreSt) (hw : Canonical s) : Canonical (modCore s c f) :=
  canonical_of_mem (modCore_mem s c f) hw

end Sys2Proof.Machine
end

