-- ==== Sys2Proof/Laws/MemMem.lean ====
section
/-! SUPPORT. The operations of Machine/Mem.lean that leave memory alone. -/
namespace Sys2Proof.Machine

@[simp] theorem hbmErr_mem (s : State) (g : Nat) (code : Nat) (source : Nat) :
    (hbmErr s g code source).mem = s.mem := by
  simp [hbmErr]

@[simp] theorem hbmOffline_mem (s : State) (a : Nat) :
    (hbmOffline s a).mem = s.mem := by
  simp [hbmOffline]

@[simp] theorem csUe_mem (s : State) (c : Nat) (a : Nat) (feeds : Bool) :
    (csUe s c a feeds).mem = s.mem := by
  simp [csUe]

@[simp] theorem watchBump_mem (s : State) (a : Nat) (n : Nat) :
    (watchBump s a n).mem = s.mem := by
  simp [watchBump]

@[simp] theorem askBanks_mem (s : State) (cls : Nat) (per : Nat) (rs : List (Nat × Nat)) :
    (askBanks s cls per rs).mem = s.mem := by
  simp [askBanks]

@[simp] theorem tickBanks_mem (s : State) (c : Nat) (n : Nat) :
    (tickBanks s c n).mem = s.mem := by
  simp [tickBanks]

end Sys2Proof.Machine
end

