-- ==== Sys2Proof/Laws/CanonMem.lean ====
section
/-! SUPPORT. The operations of Machine/Mem.lean keep memory in its canonical form. -/
namespace Sys2Proof.Machine

@[simp] theorem hbmErr_canon (s : State) (g : Nat) (code : Nat) (source : Nat) (hw : Canonical s) : Canonical (hbmErr s g code source) :=
  canonical_of_mem (hbmErr_mem s g code source) hw

@[simp] theorem granFix_canon (s : State) (g : Nat) (hw : Canonical s) : Canonical (granFix s g) := by
  simp +contextual (maxDischargeDepth := 40) [granFix, hw]

@[simp] theorem hbmOffline_canon (s : State) (a : Nat) (hw : Canonical s) : Canonical (hbmOffline s a) :=
  canonical_of_mem (hbmOffline_mem s a) hw

@[simp] theorem granRead_canon (s : State) (g : Nat) (hw : Canonical s) : Canonical ((granRead s g).1) := by
  simp +contextual (maxDischargeDepth := 40) [granRead, hw]

@[simp] theorem granStore_canon (s : State) (g : Nat) (bytes : List Byte) (pois : Bool) (hw : Canonical s) :
    Canonical (granStore s g bytes pois) := by
  simp +contextual (maxDischargeDepth := 40) [granStore, hw]

@[simp] theorem granWrite_canon (s : State) (g : Nat) (bytes : List Byte) (pois : Bool) (hw : Canonical s) :
    Canonical (granWrite s g bytes pois) := by
  simp +contextual (maxDischargeDepth := 40) [granWrite, hw]

@[simp] theorem granMerge_canon (s : State) (g : Nat) (o : Nat) (new : List Byte) (pois : Bool) (hw : Canonical s) : Canonical (granMerge s g o new pois) := by
  simp +contextual (maxDischargeDepth := 40) [granMerge, hw]

@[simp] theorem llcPut_canon (s : State) (line : Nat) (l : LlcLine) (hw : Canonical s) :
    Canonical (llcPut s line l) := by
  simp +contextual (maxDischargeDepth := 40) [llcPut, hw]

@[simp] theorem llcDrop_canon (s : State) (line : Nat) (hw : Canonical s) :
    Canonical (llcDrop s line) := by
  simp +contextual (maxDischargeDepth := 40) [llcDrop, hw]

@[simp] theorem llcScan_canon (s : State) (line : Nat) (hw : Canonical s) : Canonical (llcScan s line) := by
  unfold llcScan; (repeat' split) <;> simp +contextual (maxDischargeDepth := 40) [hw]

@[simp] theorem llcWriteBack_canon (s : State) (line : Nat) (l : LlcLine) (hw : Canonical s) :
    Canonical (llcWriteBack s line l) := by
  simp +contextual (maxDischargeDepth := 40) [llcWriteBack, hw]

@[simp] theorem llcEnsure_canon (s : State) (line : Nat) (hw : Canonical s) :
    Canonical (llcEnsure s line) := by
  simp only [llcEnsure]; (repeat' split) <;> simp +contextual (maxDischargeDepth := 40) [hw]

@[simp] theorem hbmChunk_canon (s : State) (a : Nat) (n : Nat) (hw : Canonical s) :
    Canonical ((hbmChunk s a n).1) := by
  unfold hbmChunk
  simp only []
  split
  · simp [hw]
  · by_cases h : a % 128 < 64 <;> by_cases h2 : 64 < a % 128 + n <;> simp (maxDischargeDepth := 40) [h, h2, hw]

@[simp] theorem hbmRead_canon (z0 : Nat) (z1 : State) (z2 : Nat) (z3 : Nat) (hw : Canonical z1) :
    Canonical ((hbmRead z0 z1 z2 z3).1) := by
  induction z0 generalizing z1 z2 z3 with
    | zero => simpa [hbmRead] using hw
    | succ n ih => simp only [hbmRead]; (repeat' split) <;> simp +contextual (maxDischargeDepth := 40) [ih, hw]

@[simp] theorem csUe_canon (s : State) (c : Nat) (a : Nat) (feeds : Bool) (hw : Canonical s) : Canonical (csUe s c a feeds) :=
  canonical_of_mem (csUe_mem s c a feeds) hw

@[simp] theorem csFix_canon (s : State) (c : Nat) (w : Nat) (hw : Canonical s) : Canonical (csFix s c w) := by
  simp +contextual (maxDischargeDepth := 40) [csFix, hw]

@[simp] theorem csWord_canon (s : State) (c : Nat) (w : Nat) (feeds : Bool) (hw : Canonical s) : Canonical (csWord s c w feeds) := by
  simp +contextual (maxDischargeDepth := 40) [csWord, hw]

@[simp] theorem csCheck_canon (s : State) (c : Nat) (a : Nat) (n : Nat) (feeds : Bool) (hw : Canonical s) : Canonical (csCheck s c a n feeds) := by
  simp +contextual (maxDischargeDepth := 40) [csCheck, hw]

@[simp] theorem csEcc_canon (s : State) (c : Nat) (a : Nat) (e : Ecc) (hw : Canonical s) :
    Canonical (csEcc s c a e) := by
  unfold csEcc; (repeat' split) <;> simp +contextual (maxDischargeDepth := 40) [hw]

@[simp] theorem winCheck_canon (s : State) (p : Nat) (a : Nat) (n : Nat) (hw : Canonical s) : Canonical (winCheck s p a n) := by
  simp +contextual (maxDischargeDepth := 40) [winCheck, hw]

@[simp] theorem readMem_canon (s : State) (a : Nat) (n : Nat) (cc : Bool) (feeds : Bool) (hw : Canonical s) :
    Canonical ((readMem s a n cc feeds).st) := by
  unfold readMem; (repeat' split) <;> simp +contextual (maxDischargeDepth := 40) [hw]

@[simp] theorem watchBump_canon (s : State) (a : Nat) (n : Nat) (hw : Canonical s) : Canonical (watchBump s a n) :=
  canonical_of_mem (watchBump_mem s a n) hw

@[simp] theorem hbmWriteChunk_canon (s : State) (a : Nat) (bytes : List Byte) (pois : Bool) (hw : Canonical s) :
    Canonical (hbmWriteChunk s a bytes pois) := by
  simp only [hbmWriteChunk]; (repeat' split) <;> simp +contextual (maxDischargeDepth := 40) [hw]

@[simp] theorem hbmWrite_canon (z0 : Nat) (z1 : State) (z2 : Nat) (z3 : List Byte) (z4 : Bool) (hw : Canonical z1) :
    Canonical (hbmWrite z0 z1 z2 z3 z4) := by
  induction z0 generalizing z1 z2 z3 z4 with
    | zero => simpa [hbmWrite] using hw
    | succ n ih => simp only [hbmWrite]; (repeat' split) <;> simp +contextual (maxDischargeDepth := 40) [ih, hw]

@[simp] theorem storeMem_canon (s : State) (a : Nat) (bytes : List Byte) (pois : Bool) (hw : Canonical s) :
    Canonical (storeMem s a bytes pois) := by
  unfold storeMem; (repeat' split) <;> simp +contextual (maxDischargeDepth := 40) [hw]

@[simp] theorem askBanks_canon (s : State) (cls : Nat) (per : Nat) (rs : List (Nat × Nat)) (hw : Canonical s) : Canonical (askBanks s cls per rs) :=
  canonical_of_mem (askBanks_mem s cls per rs) hw

@[simp] theorem tickBanks_canon (s : State) (c : Nat) (n : Nat) (hw : Canonical s) : Canonical (tickBanks s c n) :=
  canonical_of_mem (tickBanks_mem s c n) hw

@[simp] theorem writeMem_canon (s : State) (mid : Nat) (a : Nat) (bytes : List Byte) (pois : Bool) (hw : Canonical s) :
    Canonical ((writeMem s mid a bytes pois).st) := by
  simp only [writeMem]; (repeat' split) <;> simp +contextual (maxDischargeDepth := 40) [hw]

end Sys2Proof.Machine
end

