-- ==== Sys2Proof/Laws/MemOperands.lean ====
section
/-! SUPPORT. The operations of Machine/Operands.lean that leave memory alone. -/
namespace Sys2Proof.Machine

@[simp] theorem setPred_mem (s : State) (c : Nat) (x : Nat) (p : Nat) (b : Bool) :
    (setPred s c x p b).mem = s.mem := by
  simp [setPred]

@[simp] theorem postInc_mem (s : State) (c : Nat) (x : Nat) (r : Rec) (lo : Nat) :
    (postInc s c x r lo).mem = s.mem := by
  simp [postInc]

@[simp] theorem postIncs_mem (s : State) (c : Nat) (x : Nat) (r : Rec) :
    (postIncs s c x r).mem = s.mem := by
  simp [postIncs]

end Sys2Proof.Machine
end

