-- ==== Sys2Proof/Laws/CanonOperands.lean ====
section
/-! SUPPORT. The operations of Machine/Operands.lean keep memory in its canonical form. -/
namespace Sys2Proof.Machine

@[simp] theorem setPred_canon (s : State) (c : Nat) (x : Nat) (p : Nat) (b : Bool) (hw : Canonical s) : Canonical (setPred s c x p b) :=
  canonical_of_mem (setPred_mem s c x p b) hw

@[simp] theorem postInc_canon (s : State) (c : Nat) (x : Nat) (r : Rec) (lo : Nat) (hw : Canonical s) : Canonical (postInc s c x r lo) :=
  canonical_of_mem (postInc_mem s c x r lo) hw

@[simp] theorem postIncs_canon (s : State) (c : Nat) (x : Nat) (r : Rec) (hw : Canonical s) : Canonical (postIncs s c x r) :=
  canonical_of_mem (postIncs_mem s c x r) hw

end Sys2Proof.Machine
end

