-- ==== Sys2Proof/Laws/MemAccess.lean ====
section
/-! SUPPORT. The operations of Machine/Access.lean that leave memory alone. -/
namespace Sys2Proof.Machine

@[simp] theorem pageViolation_mem (s : State) (mid : Nat) (page : Nat) (off : Nat) (cause : Nat) :
    (pageViolation s mid page off cause).mem = s.mem := by
  simp [pageViolation]

@[simp] theorem guardWrite_mem (s : State) (mid : Nat) (page : Nat) (off : Nat) (v : Word) (act : State → State) (hact : ∀ t, (act t).mem = t.mem) :
    (guardWrite s mid page off v act).mem = s.mem := by
  simp only [guardWrite]; (repeat' split) <;> simp_all

@[simp] theorem fieldWrite_mem (s : State) (page : Nat) (off : Nat) (v : Word) (own : Bool) (mantle : Bool) :
    (fieldWrite s page off v own mantle).mem = s.mem := by
  simp [fieldWrite]

@[simp] theorem breach_mem (s : State) (page : Nat) (mids : List Nat) (addr : Word) :
    (breach s page mids addr).mem = s.mem := by
  simp [breach]

end Sys2Proof.Machine
end

