-- ==== Sys2Proof/Laws/CanonAccess.lean ====
section
/-! SUPPORT. The operations of Machine/Access.lean keep memory in its canonical form. -/
namespace Sys2Proof.Machine

@[simp] theorem pageViolation_canon (s : State) (mid : Nat) (page : Nat) (off : Nat) (cause : Nat) (hw : Canonical s) : Canonical (pageViolation s mid page off cause) :=
  canonical_of_mem (pageViolation_mem s mid page off cause) hw

@[simp] theorem guardWrite_canon (s : State) (mid : Nat) (page : Nat) (off : Nat) (v : Word) (act : State → State) (hact : ∀ t, Canonical t → Canonical (act t)) (hw : Canonical s) :
    Canonical (guardWrite s mid page off v act) := by
  unfold guardWrite; (repeat' split) <;> simp +contextual (maxDischargeDepth := 40) [hw, hact]

@[simp] theorem fieldWrite_canon (s : State) (page : Nat) (off : Nat) (v : Word) (own : Bool) (mantle : Bool) (hw : Canonical s) : Canonical (fieldWrite s page off v own mantle) :=
  canonical_of_mem (fieldWrite_mem s page off v own mantle) hw

@[simp] theorem breach_canon (s : State) (page : Nat) (mids : List Nat) (addr : Word) (hw : Canonical s) : Canonical (breach s page mids addr) :=
  canonical_of_mem (breach_mem s page mids addr) hw

end Sys2Proof.Machine
end

