-- ==== Sys2Proof/Laws/State.lean ====
section
/-! SUPPORT. One lemma for each field that a setter leaves alone, true by unfolding; `mem`, `pwr` and `pending` stand in the files of
those families. -/
namespace Sys2Proof.Machine

variable (s : State)

@[simp] theorem wr_ctxs (k : Nat) (v : Word) : (wr s k v).ctxs = s.ctxs := rfl
@[simp] theorem wr_cores (k : Nat) (v : Word) : (wr s k v).cores = s.cores := rfl
@[simp] theorem wr_fb (k : Nat) (v : Word) : (wr s k v).fb = s.fb := rfl
@[simp] theorem wr_sync (k : Nat) (v : Word) : (wr s k v).sync = s.sync := rfl
@[simp] theorem wr_slots (k : Nat) (v : Word) : (wr s k v).slots = s.slots := rfl
@[simp] theorem wr_toYoke (k : Nat) (v : Word) : (wr s k v).toYoke = s.toYoke := rfl
@[simp] theorem wr_yokeWaits (k : Nat) (v : Word) : (wr s k v).yokeWaits = s.yokeWaits := rfl
@[simp] theorem wr_wakes (k : Nat) (v : Word) : (wr s k v).wakes = s.wakes := rfl
@[simp] theorem wr_releases (k : Nat) (v : Word) : (wr s k v).releases = s.releases := rfl
@[simp] theorem wr_orphans (k : Nat) (v : Word) : (wr s k v).orphans = s.orphans := rfl
@[simp] theorem wr_est (k : Nat) (v : Word) : (wr s k v).est = s.est := rfl
@[simp] theorem wr_asleep (k : Nat) (v : Word) : (wr s k v).asleep = s.asleep := rfl
@[simp] theorem wr_hemStopped (k : Nat) (v : Word) : (wr s k v).hemStopped = s.hemStopped := rfl
@[simp] theorem wr_resync (k : Nat) (v : Word) : (wr s k v).resync = s.resync := rfl
@[simp] theorem wr_breached (k : Nat) (v : Word) : (wr s k v).breached = s.breached := rfl
@[simp] theorem wr_katPages (k : Nat) (v : Word) : (wr s k v).katPages = s.katPages := rfl
@[simp] theorem wr_srFailed (k : Nat) (v : Word) : (wr s k v).srFailed = s.srFailed := rfl
@[simp] theorem wr_srSick (k : Nat) (v : Word) : (wr s k v).srSick = s.srSick := rfl
@[simp] theorem wr_banks (k : Nat) (v : Word) : (wr s k v).banks = s.banks := rfl
@[simp] theorem wr_arbs (k : Nat) (v : Word) : (wr s k v).arbs = s.arbs := rfl
@[simp] theorem wr_fab (k : Nat) (v : Word) : (wr s k v).fab = s.fab := rfl
@[simp] theorem wr_seamRejects (k : Nat) (v : Word) : (wr s k v).seamRejects = s.seamRejects := rfl
@[simp] theorem wr_seamTests (k : Nat) (v : Word) : (wr s k v).seamTests = s.seamTests := rfl
@[simp] theorem wr_partners (k : Nat) (v : Word) : (wr s k v).partners = s.partners := rfl
@[simp] theorem wr_groups (k : Nat) (v : Word) : (wr s k v).groups = s.groups := rfl
@[simp] theorem wr_linkSecret (k : Nat) (v : Word) : (wr s k v).linkSecret = s.linkSecret := rfl
@[simp] theorem wr_toEngine (k : Nat) (v : Word) : (wr s k v).toEngine = s.toEngine := rfl
@[simp] theorem wr_outbox (k : Nat) (v : Word) : (wr s k v).outbox = s.outbox := rfl
@[simp] theorem wr_wire (k : Nat) (v : Word) : (wr s k v).wire = s.wire := rfl
@[simp] theorem wr_wireHeld (k : Nat) (v : Word) : (wr s k v).wireHeld = s.wireHeld := rfl
@[simp] theorem wr_drr (k : Nat) (v : Word) : (wr s k v).drr = s.drr := rfl
@[simp] theorem wr_hellos (k : Nat) (v : Word) : (wr s k v).hellos = s.hellos := rfl
@[simp] theorem wr_portCoef (k : Nat) (v : Word) : (wr s k v).portCoef = s.portCoef := rfl
@[simp] theorem wr_trainFails (k : Nat) (v : Word) : (wr s k v).trainFails = s.trainFails := rfl
@[simp] theorem wr_portDisabled (k : Nat) (v : Word) : (wr s k v).portDisabled = s.portDisabled := rfl
@[simp] theorem wr_coll (k : Nat) (v : Word) : (wr s k v).coll = s.coll := rfl
@[simp] theorem wr_collNext (k : Nat) (v : Word) : (wr s k v).collNext = s.collNext := rfl
@[simp] theorem wr_closing (k : Nat) (v : Word) : (wr s k v).closing = s.closing := rfl
@[simp] theorem wr_optWritten (k : Nat) (v : Word) : (wr s k v).optWritten = s.optWritten := rfl
@[simp] theorem wr_optDue (k : Nat) (v : Word) : (wr s k v).optDue = s.optDue := rfl
@[simp] theorem wr_optWaited (k : Nat) (v : Word) : (wr s k v).optWaited = s.optWaited := rfl
@[simp] theorem wr_mirHeader (k : Nat) (v : Word) : (wr s k v).mirHeader = s.mirHeader := rfl
@[simp] theorem wr_sealDue (k : Nat) (v : Word) : (wr s k v).sealDue = s.sealDue := rfl
@[simp] theorem wr_recov (k : Nat) (v : Word) : (wr s k v).recov = s.recov := rfl
@[simp] theorem wr_stepMsgs (k : Nat) (v : Word) : (wr s k v).stepMsgs = s.stepMsgs := rfl
@[simp] theorem wr_rails (k : Nat) (v : Word) : (wr s k v).rails = s.rails := rfl
@[simp] theorem wr_mnt (k : Nat) (v : Word) : (wr s k v).mnt = s.mnt := rfl
@[simp] theorem wr_cp (k : Nat) (v : Word) : (wr s k v).cp = s.cp := rfl
@[simp] theorem wr_svc (k : Nat) (v : Word) : (wr s k v).svc = s.svc := rfl
@[simp] theorem wr_bist (k : Nat) (v : Word) : (wr s k v).bist = s.bist := rfl
@[simp] theorem wr_ticks (k : Nat) (v : Word) : (wr s k v).ticks = s.ticks := rfl
@[simp] theorem wr_trace (k : Nat) (v : Word) : (wr s k v).trace = s.trace := rfl
@[simp] theorem wr_resp (k : Nat) (v : Word) : (wr s k v).resp = s.resp := rfl
@[simp] theorem wr_free (k : Nat) (v : Word) : (wr s k v).free = s.free := rfl

@[simp] theorem setCtx_regs (c x : Nat) (v : Ctx) : (setCtx s c x v).regs = s.regs := rfl
@[simp] theorem setCtx_cores (c x : Nat) (v : Ctx) : (setCtx s c x v).cores = s.cores := rfl
@[simp] theorem setCtx_fb (c x : Nat) (v : Ctx) : (setCtx s c x v).fb = s.fb := rfl
@[simp] theorem setCtx_sync (c x : Nat) (v : Ctx) : (setCtx s c x v).sync = s.sync := rfl
@[simp] theorem setCtx_slots (c x : Nat) (v : Ctx) : (setCtx s c x v).slots = s.slots := rfl
@[simp] theorem setCtx_toYoke (c x : Nat) (v : Ctx) : (setCtx s c x v).toYoke = s.toYoke := rfl
@[simp] theorem setCtx_yokeWaits (c x : Nat) (v : Ctx) : (setCtx s c x v).yokeWaits = s.yokeWaits := rfl
@[simp] theorem setCtx_wakes (c x : Nat) (v : Ctx) : (setCtx s c x v).wakes = s.wakes := rfl
@[simp] theorem setCtx_releases (c x : Nat) (v : Ctx) : (setCtx s c x v).releases = s.releases := rfl
@[simp] theorem setCtx_orphans (c x : Nat) (v : Ctx) : (setCtx s c x v).orphans = s.orphans := rfl
@[simp] theorem setCtx_est (c x : Nat) (v : Ctx) : (setCtx s c x v).est = s.est := rfl
@[simp] theorem setCtx_asleep (c x : Nat) (v : Ctx) : (setCtx s c x v).asleep = s.asleep := rfl
@[simp] theorem setCtx_hemStopped (c x : Nat) (v : Ctx) : (setCtx s c x v).hemStopped = s.hemStopped := rfl
@[simp] theorem setCtx_resync (c x : Nat) (v : Ctx) : (setCtx s c x v).resync = s.resync := rfl
@[simp] theorem setCtx_breached (c x : Nat) (v : Ctx) : (setCtx s c x v).breached = s.breached := rfl
@[simp] theorem setCtx_katPages (c x : Nat) (v : Ctx) : (setCtx s c x v).katPages = s.katPages := rfl
@[simp] theorem setCtx_srFailed (c x : Nat) (v : Ctx) : (setCtx s c x v).srFailed = s.srFailed := rfl
@[simp] theorem setCtx_srSick (c x : Nat) (v : Ctx) : (setCtx s c x v).srSick = s.srSick := rfl
@[simp] theorem setCtx_banks (c x : Nat) (v : Ctx) : (setCtx s c x v).banks = s.banks := rfl
@[simp] theorem setCtx_arbs (c x : Nat) (v : Ctx) : (setCtx s c x v).arbs = s.arbs := rfl
@[simp] theorem setCtx_fab (c x : Nat) (v : Ctx) : (setCtx s c x v).fab = s.fab := rfl
@[simp] theorem setCtx_seamRejects (c x : Nat) (v : Ctx) : (setCtx s c x v).seamRejects = s.seamRejects := rfl
@[simp] theorem setCtx_seamTests (c x : Nat) (v : Ctx) : (setCtx s c x v).seamTests = s.seamTests := rfl
@[simp] theorem setCtx_partners (c x : Nat) (v : Ctx) : (setCtx s c x v).partners = s.partners := rfl
@[simp] theorem setCtx_groups (c x : Nat) (v : Ctx) : (setCtx s c x v).groups = s.groups := rfl
@[simp] theorem setCtx_linkSecret (c x : Nat) (v : Ctx) : (setCtx s c x v).linkSecret = s.linkSecret := rfl
@[simp] theorem setCtx_toEngine (c x : Nat) (v : Ctx) : (setCtx s c x v).toEngine = s.toEngine := rfl
@[simp] theorem setCtx_outbox (c x : Nat) (v : Ctx) : (setCtx s c x v).outbox = s.outbox := rfl
@[simp] theorem setCtx_wire (c x : Nat) (v : Ctx) : (setCtx s c x v).wire = s.wire := rfl
@[simp] theorem setCtx_wireHeld (c x : Nat) (v : Ctx) : (setCtx s c x v).wireHeld = s.wireHeld := rfl
@[simp] theorem setCtx_drr (c x : Nat) (v : Ctx) : (setCtx s c x v).drr = s.drr := rfl
@[simp] theorem setCtx_hellos (c x : Nat) (v : Ctx) : (setCtx s c x v).hellos = s.hellos := rfl
@[simp] theorem setCtx_portCoef (c x : Nat) (v : Ctx) : (setCtx s c x v).portCoef = s.portCoef := rfl
@[simp] theorem setCtx_trainFails (c x : Nat) (v : Ctx) : (setCtx s c x v).trainFails = s.trainFails := rfl
@[simp] theorem setCtx_portDisabled (c x : Nat) (v : Ctx) : (setCtx s c x v).portDisabled = s.portDisabled := rfl
@[simp] theorem setCtx_coll (c x : Nat) (v : Ctx) : (setCtx s c x v).coll = s.coll := rfl
@[simp] theorem setCtx_collNext (c x : Nat) (v : Ctx) : (setCtx s c x v).collNext = s.collNext := rfl
@[simp] theorem setCtx_closing (c x : Nat) (v : Ctx) : (setCtx s c x v).closing = s.closing := rfl
@[simp] theorem setCtx_optWritten (c x : Nat) (v : Ctx) : (setCtx s c x v).optWritten = s.optWritten := rfl
@[simp] theorem setCtx_optDue (c x : Nat) (v : Ctx) : (setCtx s c x v).optDue = s.optDue := rfl
@[simp] theorem setCtx_optWaited (c x : Nat) (v : Ctx) : (setCtx s c x v).optWaited = s.optWaited := rfl
@[simp] theorem setCtx_mirHeader (c x : Nat) (v : Ctx) : (setCtx s c x v).mirHeader = s.mirHeader := rfl
@[simp] theorem setCtx_sealDue (c x : Nat) (v : Ctx) : (setCtx s c x v).sealDue = s.sealDue := rfl
@[simp] theorem setCtx_recov (c x : Nat) (v : Ctx) : (setCtx s c x v).recov = s.recov := rfl
@[simp] theorem setCtx_stepMsgs (c x : Nat) (v : Ctx) : (setCtx s c x v).stepMsgs = s.stepMsgs := rfl
@[simp] theorem setCtx_rails (c x : Nat) (v : Ctx) : (setCtx s c x v).rails = s.rails := rfl
@[simp] theorem setCtx_mnt (c x : Nat) (v : Ctx) : (setCtx s c x v).mnt = s.mnt := rfl
@[simp] theorem setCtx_cp (c x : Nat) (v : Ctx) : (setCtx s c x v).cp = s.cp := rfl
@[simp] theorem setCtx_svc (c x : Nat) (v : Ctx) : (setCtx s c x v).svc = s.svc := rfl
@[simp] theorem setCtx_bist (c x : Nat) (v : Ctx) : (setCtx s c x v).bist = s.bist := rfl
@[simp] theorem setCtx_ticks (c x : Nat) (v : Ctx) : (setCtx s c x v).ticks = s.ticks := rfl
@[simp] theorem setCtx_trace (c x : Nat) (v : Ctx) : (setCtx s c x v).trace = s.trace := rfl
@[simp] theorem setCtx_resp (c x : Nat) (v : Ctx) : (setCtx s c x v).resp = s.resp := rfl
@[simp] theorem setCtx_free (c x : Nat) (v : Ctx) : (setCtx s c x v).free = s.free := rfl

@[simp] theorem setCore_regs (c : Nat) (v : CoreSt) : (setCore s c v).regs = s.regs := rfl
@[simp] theorem setCore_ctxs (c : Nat) (v : CoreSt) : (setCore s c v).ctxs = s.ctxs := rfl
@[simp] theorem setCore_fb (c : Nat) (v : CoreSt) : (setCore s c v).fb = s.fb := rfl
@[simp] theorem setCore_sync (c : Nat) (v : CoreSt) : (setCore s c v).sync = s.sync := rfl
@[simp] theorem setCore_slots (c : Nat) (v : CoreSt) : (setCore s c v).slots = s.slots := rfl
@[simp] theorem setCore_toYoke (c : Nat) (v : CoreSt) : (setCore s c v).toYoke = s.toYoke := rfl
@[simp] theorem setCore_yokeWaits (c : Nat) (v : CoreSt) : (setCore s c v).yokeWaits = s.yokeWaits := rfl
@[simp] theorem setCore_wakes (c : Nat) (v : CoreSt) : (setCore s c v).wakes = s.wakes := rfl
@[simp] theorem setCore_releases (c : Nat) (v : CoreSt) : (setCore s c v).releases = s.releases := rfl
@[simp] theorem setCore_orphans (c : Nat) (v : CoreSt) : (setCore s c v).orphans = s.orphans := rfl
@[simp] theorem setCore_est (c : Nat) (v : CoreSt) : (setCore s c v).est = s.est := rfl
@[simp] theorem setCore_asleep (c : Nat) (v : CoreSt) : (setCore s c v).asleep = s.asleep := rfl
@[simp] theorem setCore_hemStopped (c : Nat) (v : CoreSt) : (setCore s c v).hemStopped = s.hemStopped := rfl
@[simp] theorem setCore_resync (c : Nat) (v : CoreSt) : (setCore s c v).resync = s.resync := rfl
@[simp] theorem setCore_breached (c : Nat) (v : CoreSt) : (setCore s c v).breached = s.breached := rfl
@[simp] theorem setCore_katPages (c : Nat) (v : CoreSt) : (setCore s c v).katPages = s.katPages := rfl
@[simp] theorem setCore_srFailed (c : Nat) (v : CoreSt) : (setCore s c v).srFailed = s.srFailed := rfl
@[simp] theorem setCore_srSick (c : Nat) (v : CoreSt) : (setCore s c v).srSick = s.srSick := rfl
@[simp] theorem setCore_banks (c : Nat) (v : CoreSt) : (setCore s c v).banks = s.banks := rfl
@[simp] theorem setCore_arbs (c : Nat) (v : CoreSt) : (setCore s c v).arbs = s.arbs := rfl
@[simp] theorem setCore_fab (c : Nat) (v : CoreSt) : (setCore s c v).fab = s.fab := rfl
@[simp] theorem setCore_seamRejects (c : Nat) (v : CoreSt) : (setCore s c v).seamRejects = s.seamRejects := rfl
@[simp] theorem setCore_seamTests (c : Nat) (v : CoreSt) : (setCore s c v).seamTests = s.seamTests := rfl
@[simp] theorem setCore_partners (c : Nat) (v : CoreSt) : (setCore s c v).partners = s.partners := rfl
@[simp] theorem setCore_groups (c : Nat) (v : CoreSt) : (setCore s c v).groups = s.groups := rfl
@[simp] theorem setCore_linkSecret (c : Nat) (v : CoreSt) : (setCore s c v).linkSecret = s.linkSecret := rfl
@[simp] theorem setCore_toEngine (c : Nat) (v : CoreSt) : (setCore s c v).toEngine = s.toEngine := rfl
@[simp] theorem setCore_outbox (c : Nat) (v : CoreSt) : (setCore s c v).outbox = s.outbox := rfl
@[simp] theorem setCore_wire (c : Nat) (v : CoreSt) : (setCore s c v).wire = s.wire := rfl
@[simp] theorem setCore_wireHeld (c : Nat) (v : CoreSt) : (setCore s c v).wireHeld = s.wireHeld := rfl
@[simp] theorem setCore_drr (c : Nat) (v : CoreSt) : (setCore s c v).drr = s.drr := rfl
@[simp] theorem setCore_hellos (c : Nat) (v : CoreSt) : (setCore s c v).hellos = s.hellos := rfl
@[simp] theorem setCore_portCoef (c : Nat) (v : CoreSt) : (setCore s c v).portCoef = s.portCoef := rfl
@[simp] theorem setCore_trainFails (c : Nat) (v : CoreSt) : (setCore s c v).trainFails = s.trainFails := rfl
@[simp] theorem setCore_portDisabled (c : Nat) (v : CoreSt) : (setCore s c v).portDisabled = s.portDisabled := rfl
@[simp] theorem setCore_coll (c : Nat) (v : CoreSt) : (setCore s c v).coll = s.coll := rfl
@[simp] theorem setCore_collNext (c : Nat) (v : CoreSt) : (setCore s c v).collNext = s.collNext := rfl
@[simp] theorem setCore_closing (c : Nat) (v : CoreSt) : (setCore s c v).closing = s.closing := rfl
@[simp] theorem setCore_optWritten (c : Nat) (v : CoreSt) : (setCore s c v).optWritten = s.optWritten := rfl
@[simp] theorem setCore_optDue (c : Nat) (v : CoreSt) : (setCore s c v).optDue = s.optDue := rfl
@[simp] theorem setCore_optWaited (c : Nat) (v : CoreSt) : (setCore s c v).optWaited = s.optWaited := rfl
@[simp] theorem setCore_mirHeader (c : Nat) (v : CoreSt) : (setCore s c v).mirHeader = s.mirHeader := rfl
@[simp] theorem setCore_sealDue (c : Nat) (v : CoreSt) : (setCore s c v).sealDue = s.sealDue := rfl
@[simp] theorem setCore_recov (c : Nat) (v : CoreSt) : (setCore s c v).recov = s.recov := rfl
@[simp] theorem setCore_stepMsgs (c : Nat) (v : CoreSt) : (setCore s c v).stepMsgs = s.stepMsgs := rfl
@[simp] theorem setCore_rails (c : Nat) (v : CoreSt) : (setCore s c v).rails = s.rails := rfl
@[simp] theorem setCore_mnt (c : Nat) (v : CoreSt) : (setCore s c v).mnt = s.mnt := rfl
@[simp] theorem setCore_cp (c : Nat) (v : CoreSt) : (setCore s c v).cp = s.cp := rfl
@[simp] theorem setCore_svc (c : Nat) (v : CoreSt) : (setCore s c v).svc = s.svc := rfl
@[simp] theorem setCore_bist (c : Nat) (v : CoreSt) : (setCore s c v).bist = s.bist := rfl
@[simp] theorem setCore_ticks (c : Nat) (v : CoreSt) : (setCore s c v).ticks = s.ticks := rfl
@[simp] theorem setCore_trace (c : Nat) (v : CoreSt) : (setCore s c v).trace = s.trace := rfl
@[simp] theorem setCore_resp (c : Nat) (v : CoreSt) : (setCore s c v).resp = s.resp := rfl
@[simp] theorem setCore_free (c : Nat) (v : CoreSt) : (setCore s c v).free = s.free := rfl

@[simp] theorem setFb_regs (c e : Nat) (v : FbEntry) : (setFb s c e v).regs = s.regs := rfl
@[simp] theorem setFb_ctxs (c e : Nat) (v : FbEntry) : (setFb s c e v).ctxs = s.ctxs := rfl
@[simp] theorem setFb_cores (c e : Nat) (v : FbEntry) : (setFb s c e v).cores = s.cores := rfl
@[simp] theorem setFb_sync (c e : Nat) (v : FbEntry) : (setFb s c e v).sync = s.sync := rfl
@[simp] theorem setFb_slots (c e : Nat) (v : FbEntry) : (setFb s c e v).slots = s.slots := rfl
@[simp] theorem setFb_toYoke (c e : Nat) (v : FbEntry) : (setFb s c e v).toYoke = s.toYoke := rfl
@[simp] theorem setFb_yokeWaits (c e : Nat) (v : FbEntry) : (setFb s c e v).yokeWaits = s.yokeWaits := rfl
@[simp] theorem setFb_wakes (c e : Nat) (v : FbEntry) : (setFb s c e v).wakes = s.wakes := rfl
@[simp] theorem setFb_releases (c e : Nat) (v : FbEntry) : (setFb s c e v).releases = s.releases := rfl
@[simp] theorem setFb_orphans (c e : Nat) (v : FbEntry) : (setFb s c e v).orphans = s.orphans := rfl
@[simp] theorem setFb_est (c e : Nat) (v : FbEntry) : (setFb s c e v).est = s.est := rfl
@[simp] theorem setFb_asleep (c e : Nat) (v : FbEntry) : (setFb s c e v).asleep = s.asleep := rfl
@[simp] theorem setFb_hemStopped (c e : Nat) (v : FbEntry) : (setFb s c e v).hemStopped = s.hemStopped := rfl
@[simp] theorem setFb_resync (c e : Nat) (v : FbEntry) : (setFb s c e v).resync = s.resync := rfl
@[simp] theorem setFb_breached (c e : Nat) (v : FbEntry) : (setFb s c e v).breached = s.breached := rfl
@[simp] theorem setFb_katPages (c e : Nat) (v : FbEntry) : (setFb s c e v).katPages = s.katPages := rfl
@[simp] theorem setFb_srFailed (c e : Nat) (v : FbEntry) : (setFb s c e v).srFailed = s.srFailed := rfl
@[simp] theorem setFb_srSick (c e : Nat) (v : FbEntry) : (setFb s c e v).srSick = s.srSick := rfl
@[simp] theorem setFb_banks (c e : Nat) (v : FbEntry) : (setFb s c e v).banks = s.banks := rfl
@[simp] theorem setFb_arbs (c e : Nat) (v : FbEntry) : (setFb s c e v).arbs = s.arbs := rfl
@[simp] theorem setFb_fab (c e : Nat) (v : FbEntry) : (setFb s c e v).fab = s.fab := rfl
@[simp] theorem setFb_seamRejects (c e : Nat) (v : FbEntry) : (setFb s c e v).seamRejects = s.seamRejects := rfl
@[simp] theorem setFb_seamTests (c e : Nat) (v : FbEntry) : (setFb s c e v).seamTests = s.seamTests := rfl
@[simp] theorem setFb_partners (c e : Nat) (v : FbEntry) : (setFb s c e v).partners = s.partners := rfl
@[simp] theorem setFb_groups (c e : Nat) (v : FbEntry) : (setFb s c e v).groups = s.groups := rfl
@[simp] theorem setFb_linkSecret (c e : Nat) (v : FbEntry) : (setFb s c e v).linkSecret = s.linkSecret := rfl
@[simp] theorem setFb_toEngine (c e : Nat) (v : FbEntry) : (setFb s c e v).toEngine = s.toEngine := rfl
@[simp] theorem setFb_outbox (c e : Nat) (v : FbEntry) : (setFb s c e v).outbox = s.outbox := rfl
@[simp] theorem setFb_wire (c e : Nat) (v : FbEntry) : (setFb s c e v).wire = s.wire := rfl
@[simp] theorem setFb_wireHeld (c e : Nat) (v : FbEntry) : (setFb s c e v).wireHeld = s.wireHeld := rfl
@[simp] theorem setFb_drr (c e : Nat) (v : FbEntry) : (setFb s c e v).drr = s.drr := rfl
@[simp] theorem setFb_hellos (c e : Nat) (v : FbEntry) : (setFb s c e v).hellos = s.hellos := rfl
@[simp] theorem setFb_portCoef (c e : Nat) (v : FbEntry) : (setFb s c e v).portCoef = s.portCoef := rfl
@[simp] theorem setFb_trainFails (c e : Nat) (v : FbEntry) : (setFb s c e v).trainFails = s.trainFails := rfl
@[simp] theorem setFb_portDisabled (c e : Nat) (v : FbEntry) : (setFb s c e v).portDisabled = s.portDisabled := rfl
@[simp] theorem setFb_coll (c e : Nat) (v : FbEntry) : (setFb s c e v).coll = s.coll := rfl
@[simp] theorem setFb_collNext (c e : Nat) (v : FbEntry) : (setFb s c e v).collNext = s.collNext := rfl
@[simp] theorem setFb_closing (c e : Nat) (v : FbEntry) : (setFb s c e v).closing = s.closing := rfl
@[simp] theorem setFb_optWritten (c e : Nat) (v : FbEntry) : (setFb s c e v).optWritten = s.optWritten := rfl
@[simp] theorem setFb_optDue (c e : Nat) (v : FbEntry) : (setFb s c e v).optDue = s.optDue := rfl
@[simp] theorem setFb_optWaited (c e : Nat) (v : FbEntry) : (setFb s c e v).optWaited = s.optWaited := rfl
@[simp] theorem setFb_mirHeader (c e : Nat) (v : FbEntry) : (setFb s c e v).mirHeader = s.mirHeader := rfl
@[simp] theorem setFb_sealDue (c e : Nat) (v : FbEntry) : (setFb s c e v).sealDue = s.sealDue := rfl
@[simp] theorem setFb_recov (c e : Nat) (v : FbEntry) : (setFb s c e v).recov = s.recov := rfl
@[simp] theorem setFb_stepMsgs (c e : Nat) (v : FbEntry) : (setFb s c e v).stepMsgs = s.stepMsgs := rfl
@[simp] theorem setFb_rails (c e : Nat) (v : FbEntry) : (setFb s c e v).rails = s.rails := rfl
@[simp] theorem setFb_mnt (c e : Nat) (v : FbEntry) : (setFb s c e v).mnt = s.mnt := rfl
@[simp] theorem setFb_cp (c e : Nat) (v : FbEntry) : (setFb s c e v).cp = s.cp := rfl
@[simp] theorem setFb_svc (c e : Nat) (v : FbEntry) : (setFb s c e v).svc = s.svc := rfl
@[simp] theorem setFb_bist (c e : Nat) (v : FbEntry) : (setFb s c e v).bist = s.bist := rfl
@[simp] theorem setFb_ticks (c e : Nat) (v : FbEntry) : (setFb s c e v).ticks = s.ticks := rfl
@[simp] theorem setFb_trace (c e : Nat) (v : FbEntry) : (setFb s c e v).trace = s.trace := rfl
@[simp] theorem setFb_resp (c e : Nat) (v : FbEntry) : (setFb s c e v).resp = s.resp := rfl
@[simp] theorem setFb_free (c e : Nat) (v : FbEntry) : (setFb s c e v).free = s.free := rfl

@[simp] theorem setSync_regs (w : Nat) (v : SyncFlags) : (setSync s w v).regs = s.regs := rfl
@[simp] theorem setSync_ctxs (w : Nat) (v : SyncFlags) : (setSync s w v).ctxs = s.ctxs := rfl
@[simp] theorem setSync_cores (w : Nat) (v : SyncFlags) : (setSync s w v).cores = s.cores := rfl
@[simp] theorem setSync_fb (w : Nat) (v : SyncFlags) : (setSync s w v).fb = s.fb := rfl
@[simp] theorem setSync_slots (w : Nat) (v : SyncFlags) : (setSync s w v).slots = s.slots := rfl
@[simp] theorem setSync_toYoke (w : Nat) (v : SyncFlags) : (setSync s w v).toYoke = s.toYoke := rfl
@[simp] theorem setSync_yokeWaits (w : Nat) (v : SyncFlags) : (setSync s w v).yokeWaits = s.yokeWaits := rfl
@[simp] theorem setSync_wakes (w : Nat) (v : SyncFlags) : (setSync s w v).wakes = s.wakes := rfl
@[simp] theorem setSync_releases (w : Nat) (v : SyncFlags) : (setSync s w v).releases = s.releases := rfl
@[simp] theorem setSync_orphans (w : Nat) (v : SyncFlags) : (setSync s w v).orphans = s.orphans := rfl
@[simp] theorem setSync_est (w : Nat) (v : SyncFlags) : (setSync s w v).est = s.est := rfl
@[simp] theorem setSync_asleep (w : Nat) (v : SyncFlags) : (setSync s w v).asleep = s.asleep := rfl
@[simp] theorem setSync_hemStopped (w : Nat) (v : SyncFlags) : (setSync s w v).hemStopped = s.hemStopped := rfl
@[simp] theorem setSync_resync (w : Nat) (v : SyncFlags) : (setSync s w v).resync = s.resync := rfl
@[simp] theorem setSync_breached (w : Nat) (v : SyncFlags) : (setSync s w v).breached = s.breached := rfl
@[simp] theorem setSync_katPages (w : Nat) (v : SyncFlags) : (setSync s w v).katPages = s.katPages := rfl
@[simp] theorem setSync_srFailed (w : Nat) (v : SyncFlags) : (setSync s w v).srFailed = s.srFailed := rfl
@[simp] theorem setSync_srSick (w : Nat) (v : SyncFlags) : (setSync s w v).srSick = s.srSick := rfl
@[simp] theorem setSync_banks (w : Nat) (v : SyncFlags) : (setSync s w v).banks = s.banks := rfl
@[simp] theorem setSync_arbs (w : Nat) (v : SyncFlags) : (setSync s w v).arbs = s.arbs := rfl
@[simp] theorem setSync_fab (w : Nat) (v : SyncFlags) : (setSync s w v).fab = s.fab := rfl
@[simp] theorem setSync_seamRejects (w : Nat) (v : SyncFlags) : (setSync s w v).seamRejects = s.seamRejects := rfl
@[simp] theorem setSync_seamTests (w : Nat) (v : SyncFlags) : (setSync s w v).seamTests = s.seamTests := rfl
@[simp] theorem setSync_partners (w : Nat) (v : SyncFlags) : (setSync s w v).partners = s.partners := rfl
@[simp] theorem setSync_groups (w : Nat) (v : SyncFlags) : (setSync s w v).groups = s.groups := rfl
@[simp] theorem setSync_linkSecret (w : Nat) (v : SyncFlags) : (setSync s w v).linkSecret = s.linkSecret := rfl
@[simp] theorem setSync_toEngine (w : Nat) (v : SyncFlags) : (setSync s w v).toEngine = s.toEngine := rfl
@[simp] theorem setSync_outbox (w : Nat) (v : SyncFlags) : (setSync s w v).outbox = s.outbox := rfl
@[simp] theorem setSync_wire (w : Nat) (v : SyncFlags) : (setSync s w v).wire = s.wire := rfl
@[simp] theorem setSync_wireHeld (w : Nat) (v : SyncFlags) : (setSync s w v).wireHeld = s.wireHeld := rfl
@[simp] theorem setSync_drr (w : Nat) (v : SyncFlags) : (setSync s w v).drr = s.drr := rfl
@[simp] theorem setSync_hellos (w : Nat) (v : SyncFlags) : (setSync s w v).hellos = s.hellos := rfl
@[simp] theorem setSync_portCoef (w : Nat) (v : SyncFlags) : (setSync s w v).portCoef = s.portCoef := rfl
@[simp] theorem setSync_trainFails (w : Nat) (v : SyncFlags) : (setSync s w v).trainFails = s.trainFails := rfl
@[simp] theorem setSync_portDisabled (w : Nat) (v : SyncFlags) : (setSync s w v).portDisabled = s.portDisabled := rfl
@[simp] theorem setSync_coll (w : Nat) (v : SyncFlags) : (setSync s w v).coll = s.coll := rfl
@[simp] theorem setSync_collNext (w : Nat) (v : SyncFlags) : (setSync s w v).collNext = s.collNext := rfl
@[simp] theorem setSync_closing (w : Nat) (v : SyncFlags) : (setSync s w v).closing = s.closing := rfl
@[simp] theorem setSync_optWritten (w : Nat) (v : SyncFlags) : (setSync s w v).optWritten = s.optWritten := rfl
@[simp] theorem setSync_optDue (w : Nat) (v : SyncFlags) : (setSync s w v).optDue = s.optDue := rfl
@[simp] theorem setSync_optWaited (w : Nat) (v : SyncFlags) : (setSync s w v).optWaited = s.optWaited := rfl
@[simp] theorem setSync_mirHeader (w : Nat) (v : SyncFlags) : (setSync s w v).mirHeader = s.mirHeader := rfl
@[simp] theorem setSync_sealDue (w : Nat) (v : SyncFlags) : (setSync s w v).sealDue = s.sealDue := rfl
@[simp] theorem setSync_recov (w : Nat) (v : SyncFlags) : (setSync s w v).recov = s.recov := rfl
@[simp] theorem setSync_stepMsgs (w : Nat) (v : SyncFlags) : (setSync s w v).stepMsgs = s.stepMsgs := rfl
@[simp] theorem setSync_rails (w : Nat) (v : SyncFlags) : (setSync s w v).rails = s.rails := rfl
@[simp] theorem setSync_mnt (w : Nat) (v : SyncFlags) : (setSync s w v).mnt = s.mnt := rfl
@[simp] theorem setSync_cp (w : Nat) (v : SyncFlags) : (setSync s w v).cp = s.cp := rfl
@[simp] theorem setSync_svc (w : Nat) (v : SyncFlags) : (setSync s w v).svc = s.svc := rfl
@[simp] theorem setSync_bist (w : Nat) (v : SyncFlags) : (setSync s w v).bist = s.bist := rfl
@[simp] theorem setSync_ticks (w : Nat) (v : SyncFlags) : (setSync s w v).ticks = s.ticks := rfl
@[simp] theorem setSync_trace (w : Nat) (v : SyncFlags) : (setSync s w v).trace = s.trace := rfl
@[simp] theorem setSync_resp (w : Nat) (v : SyncFlags) : (setSync s w v).resp = s.resp := rfl
@[simp] theorem setSync_free (w : Nat) (v : SyncFlags) : (setSync s w v).free = s.free := rfl

@[simp] theorem setSlot_regs (k : Nat) (v : SlotSt) : (setSlot s k v).regs = s.regs := rfl
@[simp] theorem setSlot_ctxs (k : Nat) (v : SlotSt) : (setSlot s k v).ctxs = s.ctxs := rfl
@[simp] theorem setSlot_cores (k : Nat) (v : SlotSt) : (setSlot s k v).cores = s.cores := rfl
@[simp] theorem setSlot_fb (k : Nat) (v : SlotSt) : (setSlot s k v).fb = s.fb := rfl
@[simp] theorem setSlot_sync (k : Nat) (v : SlotSt) : (setSlot s k v).sync = s.sync := rfl
@[simp] theorem setSlot_toYoke (k : Nat) (v : SlotSt) : (setSlot s k v).toYoke = s.toYoke := rfl
@[simp] theorem setSlot_yokeWaits (k : Nat) (v : SlotSt) : (setSlot s k v).yokeWaits = s.yokeWaits := rfl
@[simp] theorem setSlot_wakes (k : Nat) (v : SlotSt) : (setSlot s k v).wakes = s.wakes := rfl
@[simp] theorem setSlot_releases (k : Nat) (v : SlotSt) : (setSlot s k v).releases = s.releases := rfl
@[simp] theorem setSlot_orphans (k : Nat) (v : SlotSt) : (setSlot s k v).orphans = s.orphans := rfl
@[simp] theorem setSlot_est (k : Nat) (v : SlotSt) : (setSlot s k v).est = s.est := rfl
@[simp] theorem setSlot_asleep (k : Nat) (v : SlotSt) : (setSlot s k v).asleep = s.asleep := rfl
@[simp] theorem setSlot_hemStopped (k : Nat) (v : SlotSt) : (setSlot s k v).hemStopped = s.hemStopped := rfl
@[simp] theorem setSlot_resync (k : Nat) (v : SlotSt) : (setSlot s k v).resync = s.resync := rfl
@[simp] theorem setSlot_breached (k : Nat) (v : SlotSt) : (setSlot s k v).breached = s.breached := rfl
@[simp] theorem setSlot_katPages (k : Nat) (v : SlotSt) : (setSlot s k v).katPages = s.katPages := rfl
@[simp] theorem setSlot_srFailed (k : Nat) (v : SlotSt) : (setSlot s k v).srFailed = s.srFailed := rfl
@[simp] theorem setSlot_srSick (k : Nat) (v : SlotSt) : (setSlot s k v).srSick = s.srSick := rfl
@[simp] theorem setSlot_banks (k : Nat) (v : SlotSt) : (setSlot s k v).banks = s.banks := rfl
@[simp] theorem setSlot_arbs (k : Nat) (v : SlotSt) : (setSlot s k v).arbs = s.arbs := rfl
@[simp] theorem setSlot_fab (k : Nat) (v : SlotSt) : (setSlot s k v).fab = s.fab := rfl
@[simp] theorem setSlot_seamRejects (k : Nat) (v : SlotSt) : (setSlot s k v).seamRejects = s.seamRejects := rfl
@[simp] theorem setSlot_seamTests (k : Nat) (v : SlotSt) : (setSlot s k v).seamTests = s.seamTests := rfl
@[simp] theorem setSlot_partners (k : Nat) (v : SlotSt) : (setSlot s k v).partners = s.partners := rfl
@[simp] theorem setSlot_groups (k : Nat) (v : SlotSt) : (setSlot s k v).groups = s.groups := rfl
@[simp] theorem setSlot_linkSecret (k : Nat) (v : SlotSt) : (setSlot s k v).linkSecret = s.linkSecret := rfl
@[simp] theorem setSlot_toEngine (k : Nat) (v : SlotSt) : (setSlot s k v).toEngine = s.toEngine := rfl
@[simp] theorem setSlot_outbox (k : Nat) (v : SlotSt) : (setSlot s k v).outbox = s.outbox := rfl
@[simp] theorem setSlot_wire (k : Nat) (v : SlotSt) : (setSlot s k v).wire = s.wire := rfl
@[simp] theorem setSlot_wireHeld (k : Nat) (v : SlotSt) : (setSlot s k v).wireHeld = s.wireHeld := rfl
@[simp] theorem setSlot_drr (k : Nat) (v : SlotSt) : (setSlot s k v).drr = s.drr := rfl
@[simp] theorem setSlot_hellos (k : Nat) (v : SlotSt) : (setSlot s k v).hellos = s.hellos := rfl
@[simp] theorem setSlot_portCoef (k : Nat) (v : SlotSt) : (setSlot s k v).portCoef = s.portCoef := rfl
@[simp] theorem setSlot_trainFails (k : Nat) (v : SlotSt) : (setSlot s k v).trainFails = s.trainFails := rfl
@[simp] theorem setSlot_portDisabled (k : Nat) (v : SlotSt) : (setSlot s k v).portDisabled = s.portDisabled := rfl
@[simp] theorem setSlot_coll (k : Nat) (v : SlotSt) : (setSlot s k v).coll = s.coll := rfl
@[simp] theorem setSlot_collNext (k : Nat) (v : SlotSt) : (setSlot s k v).collNext = s.collNext := rfl
@[simp] theorem setSlot_closing (k : Nat) (v : SlotSt) : (setSlot s k v).closing = s.closing := rfl
@[simp] theorem setSlot_optWritten (k : Nat) (v : SlotSt) : (setSlot s k v).optWritten = s.optWritten := rfl
@[simp] theorem setSlot_optDue (k : Nat) (v : SlotSt) : (setSlot s k v).optDue = s.optDue := rfl
@[simp] theorem setSlot_optWaited (k : Nat) (v : SlotSt) : (setSlot s k v).optWaited = s.optWaited := rfl
@[simp] theorem setSlot_mirHeader (k : Nat) (v : SlotSt) : (setSlot s k v).mirHeader = s.mirHeader := rfl
@[simp] theorem setSlot_sealDue (k : Nat) (v : SlotSt) : (setSlot s k v).sealDue = s.sealDue := rfl
@[simp] theorem setSlot_recov (k : Nat) (v : SlotSt) : (setSlot s k v).recov = s.recov := rfl
@[simp] theorem setSlot_stepMsgs (k : Nat) (v : SlotSt) : (setSlot s k v).stepMsgs = s.stepMsgs := rfl
@[simp] theorem setSlot_rails (k : Nat) (v : SlotSt) : (setSlot s k v).rails = s.rails := rfl
@[simp] theorem setSlot_mnt (k : Nat) (v : SlotSt) : (setSlot s k v).mnt = s.mnt := rfl
@[simp] theorem setSlot_cp (k : Nat) (v : SlotSt) : (setSlot s k v).cp = s.cp := rfl
@[simp] theorem setSlot_svc (k : Nat) (v : SlotSt) : (setSlot s k v).svc = s.svc := rfl
@[simp] theorem setSlot_bist (k : Nat) (v : SlotSt) : (setSlot s k v).bist = s.bist := rfl
@[simp] theorem setSlot_ticks (k : Nat) (v : SlotSt) : (setSlot s k v).ticks = s.ticks := rfl
@[simp] theorem setSlot_trace (k : Nat) (v : SlotSt) : (setSlot s k v).trace = s.trace := rfl
@[simp] theorem setSlot_resp (k : Nat) (v : SlotSt) : (setSlot s k v).resp = s.resp := rfl
@[simp] theorem setSlot_free (k : Nat) (v : SlotSt) : (setSlot s k v).free = s.free := rfl

@[simp] theorem setEst_regs (c i : Nat) (v : StrEst) : (setEst s c i v).regs = s.regs := rfl
@[simp] theorem setEst_ctxs (c i : Nat) (v : StrEst) : (setEst s c i v).ctxs = s.ctxs := rfl
@[simp] theorem setEst_cores (c i : Nat) (v : StrEst) : (setEst s c i v).cores = s.cores := rfl
@[simp] theorem setEst_fb (c i : Nat) (v : StrEst) : (setEst s c i v).fb = s.fb := rfl
@[simp] theorem setEst_sync (c i : Nat) (v : StrEst) : (setEst s c i v).sync = s.sync := rfl
@[simp] theorem setEst_slots (c i : Nat) (v : StrEst) : (setEst s c i v).slots = s.slots := rfl
@[simp] theorem setEst_toYoke (c i : Nat) (v : StrEst) : (setEst s c i v).toYoke = s.toYoke := rfl
@[simp] theorem setEst_yokeWaits (c i : Nat) (v : StrEst) : (setEst s c i v).yokeWaits = s.yokeWaits := rfl
@[simp] theorem setEst_wakes (c i : Nat) (v : StrEst) : (setEst s c i v).wakes = s.wakes := rfl
@[simp] theorem setEst_releases (c i : Nat) (v : StrEst) : (setEst s c i v).releases = s.releases := rfl
@[simp] theorem setEst_orphans (c i : Nat) (v : StrEst) : (setEst s c i v).orphans = s.orphans := rfl
@[simp] theorem setEst_asleep (c i : Nat) (v : StrEst) : (setEst s c i v).asleep = s.asleep := rfl
@[simp] theorem setEst_hemStopped (c i : Nat) (v : StrEst) : (setEst s c i v).hemStopped = s.hemStopped := rfl
@[simp] theorem setEst_resync (c i : Nat) (v : StrEst) : (setEst s c i v).resync = s.resync := rfl
@[simp] theorem setEst_breached (c i : Nat) (v : StrEst) : (setEst s c i v).breached = s.breached := rfl
@[simp] theorem setEst_katPages (c i : Nat) (v : StrEst) : (setEst s c i v).katPages = s.katPages := rfl
@[simp] theorem setEst_srFailed (c i : Nat) (v : StrEst) : (setEst s c i v).srFailed = s.srFailed := rfl
@[simp] theorem setEst_srSick (c i : Nat) (v : StrEst) : (setEst s c i v).srSick = s.srSick := rfl
@[simp] theorem setEst_banks (c i : Nat) (v : StrEst) : (setEst s c i v).banks = s.banks := rfl
@[simp] theorem setEst_arbs (c i : Nat) (v : StrEst) : (setEst s c i v).arbs = s.arbs := rfl
@[simp] theorem setEst_fab (c i : Nat) (v : StrEst) : (setEst s c i v).fab = s.fab := rfl
@[simp] theorem setEst_seamRejects (c i : Nat) (v : StrEst) : (setEst s c i v).seamRejects = s.seamRejects := rfl
@[simp] theorem setEst_seamTests (c i : Nat) (v : StrEst) : (setEst s c i v).seamTests = s.seamTests := rfl
@[simp] theorem setEst_partners (c i : Nat) (v : StrEst) : (setEst s c i v).partners = s.partners := rfl
@[simp] theorem setEst_groups (c i : Nat) (v : StrEst) : (setEst s c i v).groups = s.groups := rfl
@[simp] theorem setEst_linkSecret (c i : Nat) (v : StrEst) : (setEst s c i v).linkSecret = s.linkSecret := rfl
@[simp] theorem setEst_toEngine (c i : Nat) (v : StrEst) : (setEst s c i v).toEngine = s.toEngine := rfl
@[simp] theorem setEst_outbox (c i : Nat) (v : StrEst) : (setEst s c i v).outbox = s.outbox := rfl
@[simp] theorem setEst_wire (c i : Nat) (v : StrEst) : (setEst s c i v).wire = s.wire := rfl
@[simp] theorem setEst_wireHeld (c i : Nat) (v : StrEst) : (setEst s c i v).wireHeld = s.wireHeld := rfl
@[simp] theorem setEst_drr (c i : Nat) (v : StrEst) : (setEst s c i v).drr = s.drr := rfl
@[simp] theorem setEst_hellos (c i : Nat) (v : StrEst) : (setEst s c i v).hellos = s.hellos := rfl
@[simp] theorem setEst_portCoef (c i : Nat) (v : StrEst) : (setEst s c i v).portCoef = s.portCoef := rfl
@[simp] theorem setEst_trainFails (c i : Nat) (v : StrEst) : (setEst s c i v).trainFails = s.trainFails := rfl
@[simp] theorem setEst_portDisabled (c i : Nat) (v : StrEst) : (setEst s c i v).portDisabled = s.portDisabled := rfl
@[simp] theorem setEst_coll (c i : Nat) (v : StrEst) : (setEst s c i v).coll = s.coll := rfl
@[simp] theorem setEst_collNext (c i : Nat) (v : StrEst) : (setEst s c i v).collNext = s.collNext := rfl
@[simp] theorem setEst_closing (c i : Nat) (v : StrEst) : (setEst s c i v).closing = s.closing := rfl
@[simp] theorem setEst_optWritten (c i : Nat) (v : StrEst) : (setEst s c i v).optWritten = s.optWritten := rfl
@[simp] theorem setEst_optDue (c i : Nat) (v : StrEst) : (setEst s c i v).optDue = s.optDue := rfl
@[simp] theorem setEst_optWaited (c i : Nat) (v : StrEst) : (setEst s c i v).optWaited = s.optWaited := rfl
@[simp] theorem setEst_mirHeader (c i : Nat) (v : StrEst) : (setEst s c i v).mirHeader = s.mirHeader := rfl
@[simp] theorem setEst_sealDue (c i : Nat) (v : StrEst) : (setEst s c i v).sealDue = s.sealDue := rfl
@[simp] theorem setEst_recov (c i : Nat) (v : StrEst) : (setEst s c i v).recov = s.recov := rfl
@[simp] theorem setEst_stepMsgs (c i : Nat) (v : StrEst) : (setEst s c i v).stepMsgs = s.stepMsgs := rfl
@[simp] theorem setEst_rails (c i : Nat) (v : StrEst) : (setEst s c i v).rails = s.rails := rfl
@[simp] theorem setEst_mnt (c i : Nat) (v : StrEst) : (setEst s c i v).mnt = s.mnt := rfl
@[simp] theorem setEst_cp (c i : Nat) (v : StrEst) : (setEst s c i v).cp = s.cp := rfl
@[simp] theorem setEst_svc (c i : Nat) (v : StrEst) : (setEst s c i v).svc = s.svc := rfl
@[simp] theorem setEst_bist (c i : Nat) (v : StrEst) : (setEst s c i v).bist = s.bist := rfl
@[simp] theorem setEst_ticks (c i : Nat) (v : StrEst) : (setEst s c i v).ticks = s.ticks := rfl
@[simp] theorem setEst_trace (c i : Nat) (v : StrEst) : (setEst s c i v).trace = s.trace := rfl
@[simp] theorem setEst_resp (c i : Nat) (v : StrEst) : (setEst s c i v).resp = s.resp := rfl
@[simp] theorem setEst_free (c i : Nat) (v : StrEst) : (setEst s c i v).free = s.free := rfl

@[simp] theorem setResp_regs (r : Resp) : (setResp s r).regs = s.regs := rfl
@[simp] theorem setResp_ctxs (r : Resp) : (setResp s r).ctxs = s.ctxs := rfl
@[simp] theorem setResp_cores (r : Resp) : (setResp s r).cores = s.cores := rfl
@[simp] theorem setResp_fb (r : Resp) : (setResp s r).fb = s.fb := rfl
@[simp] theorem setResp_sync (r : Resp) : (setResp s r).sync = s.sync := rfl
@[simp] theorem setResp_slots (r : Resp) : (setResp s r).slots = s.slots := rfl
@[simp] theorem setResp_toYoke (r : Resp) : (setResp s r).toYoke = s.toYoke := rfl
@[simp] theorem setResp_yokeWaits (r : Resp) : (setResp s r).yokeWaits = s.yokeWaits := rfl
@[simp] theorem setResp_wakes (r : Resp) : (setResp s r).wakes = s.wakes := rfl
@[simp] theorem setResp_releases (r : Resp) : (setResp s r).releases = s.releases := rfl
@[simp] theorem setResp_orphans (r : Resp) : (setResp s r).orphans = s.orphans := rfl
@[simp] theorem setResp_est (r : Resp) : (setResp s r).est = s.est := rfl
@[simp] theorem setResp_asleep (r : Resp) : (setResp s r).asleep = s.asleep := rfl
@[simp] theorem setResp_hemStopped (r : Resp) : (setResp s r).hemStopped = s.hemStopped := rfl
@[simp] theorem setResp_resync (r : Resp) : (setResp s r).resync = s.resync := rfl
@[simp] theorem setResp_breached (r : Resp) : (setResp s r).breached = s.breached := rfl
@[simp] theorem setResp_katPages (r : Resp) : (setResp s r).katPages = s.katPages := rfl
@[simp] theorem setResp_srFailed (r : Resp) : (setResp s r).srFailed = s.srFailed := rfl
@[simp] theorem setResp_srSick (r : Resp) : (setResp s r).srSick = s.srSick := rfl
@[simp] theorem setResp_banks (r : Resp) : (setResp s r).banks = s.banks := rfl
@[simp] theorem setResp_arbs (r : Resp) : (setResp s r).arbs = s.arbs := rfl
@[simp] theorem setResp_fab (r : Resp) : (setResp s r).fab = s.fab := rfl
@[simp] theorem setResp_seamRejects (r : Resp) : (setResp s r).seamRejects = s.seamRejects := rfl
@[simp] theorem setResp_seamTests (r : Resp) : (setResp s r).seamTests = s.seamTests := rfl
@[simp] theorem setResp_partners (r : Resp) : (setResp s r).partners = s.partners := rfl
@[simp] theorem setResp_groups (r : Resp) : (setResp s r).groups = s.groups := rfl
@[simp] theorem setResp_linkSecret (r : Resp) : (setResp s r).linkSecret = s.linkSecret := rfl
@[simp] theorem setResp_toEngine (r : Resp) : (setResp s r).toEngine = s.toEngine := rfl
@[simp] theorem setResp_outbox (r : Resp) : (setResp s r).outbox = s.outbox := rfl
@[simp] theorem setResp_wire (r : Resp) : (setResp s r).wire = s.wire := rfl
@[simp] theorem setResp_wireHeld (r : Resp) : (setResp s r).wireHeld = s.wireHeld := rfl
@[simp] theorem setResp_drr (r : Resp) : (setResp s r).drr = s.drr := rfl
@[simp] theorem setResp_hellos (r : Resp) : (setResp s r).hellos = s.hellos := rfl
@[simp] theorem setResp_portCoef (r : Resp) : (setResp s r).portCoef = s.portCoef := rfl
@[simp] theorem setResp_trainFails (r : Resp) : (setResp s r).trainFails = s.trainFails := rfl
@[simp] theorem setResp_portDisabled (r : Resp) : (setResp s r).portDisabled = s.portDisabled := rfl
@[simp] theorem setResp_coll (r : Resp) : (setResp s r).coll = s.coll := rfl
@[simp] theorem setResp_collNext (r : Resp) : (setResp s r).collNext = s.collNext := rfl
@[simp] theorem setResp_closing (r : Resp) : (setResp s r).closing = s.closing := rfl
@[simp] theorem setResp_optWritten (r : Resp) : (setResp s r).optWritten = s.optWritten := rfl
@[simp] theorem setResp_optDue (r : Resp) : (setResp s r).optDue = s.optDue := rfl
@[simp] theorem setResp_optWaited (r : Resp) : (setResp s r).optWaited = s.optWaited := rfl
@[simp] theorem setResp_mirHeader (r : Resp) : (setResp s r).mirHeader = s.mirHeader := rfl
@[simp] theorem setResp_sealDue (r : Resp) : (setResp s r).sealDue = s.sealDue := rfl
@[simp] theorem setResp_recov (r : Resp) : (setResp s r).recov = s.recov := rfl
@[simp] theorem setResp_stepMsgs (r : Resp) : (setResp s r).stepMsgs = s.stepMsgs := rfl
@[simp] theorem setResp_rails (r : Resp) : (setResp s r).rails = s.rails := rfl
@[simp] theorem setResp_mnt (r : Resp) : (setResp s r).mnt = s.mnt := rfl
@[simp] theorem setResp_cp (r : Resp) : (setResp s r).cp = s.cp := rfl
@[simp] theorem setResp_svc (r : Resp) : (setResp s r).svc = s.svc := rfl
@[simp] theorem setResp_bist (r : Resp) : (setResp s r).bist = s.bist := rfl
@[simp] theorem setResp_ticks (r : Resp) : (setResp s r).ticks = s.ticks := rfl
@[simp] theorem setResp_trace (r : Resp) : (setResp s r).trace = s.trace := rfl
@[simp] theorem setResp_free (r : Resp) : (setResp s r).free = s.free := rfl

@[simp] theorem wrF_ctxs (k hi lo n : Nat) : (wrF s k hi lo n).ctxs = s.ctxs := rfl
@[simp] theorem wrF_cores (k hi lo n : Nat) : (wrF s k hi lo n).cores = s.cores := rfl
@[simp] theorem wrF_fb (k hi lo n : Nat) : (wrF s k hi lo n).fb = s.fb := rfl
@[simp] theorem wrF_sync (k hi lo n : Nat) : (wrF s k hi lo n).sync = s.sync := rfl
@[simp] theorem wrF_slots (k hi lo n : Nat) : (wrF s k hi lo n).slots = s.slots := rfl
@[simp] theorem wrF_toYoke (k hi lo n : Nat) : (wrF s k hi lo n).toYoke = s.toYoke := rfl
@[simp] theorem wrF_yokeWaits (k hi lo n : Nat) : (wrF s k hi lo n).yokeWaits = s.yokeWaits := rfl
@[simp] theorem wrF_wakes (k hi lo n : Nat) : (wrF s k hi lo n).wakes = s.wakes := rfl
@[simp] theorem wrF_releases (k hi lo n : Nat) : (wrF s k hi lo n).releases = s.releases := rfl
@[simp] theorem wrF_orphans (k hi lo n : Nat) : (wrF s k hi lo n).orphans = s.orphans := rfl
@[simp] theorem wrF_est (k hi lo n : Nat) : (wrF s k hi lo n).est = s.est := rfl
@[simp] theorem wrF_asleep (k hi lo n : Nat) : (wrF s k hi lo n).asleep = s.asleep := rfl
@[simp] theorem wrF_hemStopped (k hi lo n : Nat) : (wrF s k hi lo n).hemStopped = s.hemStopped := rfl
@[simp] theorem wrF_resync (k hi lo n : Nat) : (wrF s k hi lo n).resync = s.resync := rfl
@[simp] theorem wrF_breached (k hi lo n : Nat) : (wrF s k hi lo n).breached = s.breached := rfl
@[simp] theorem wrF_katPages (k hi lo n : Nat) : (wrF s k hi lo n).katPages = s.katPages := rfl
@[simp] theorem wrF_srFailed (k hi lo n : Nat) : (wrF s k hi lo n).srFailed = s.srFailed := rfl
@[simp] theorem wrF_srSick (k hi lo n : Nat) : (wrF s k hi lo n).srSick = s.srSick := rfl
@[simp] theorem wrF_banks (k hi lo n : Nat) : (wrF s k hi lo n).banks = s.banks := rfl
@[simp] theorem wrF_arbs (k hi lo n : Nat) : (wrF s k hi lo n).arbs = s.arbs := rfl
@[simp] theorem wrF_fab (k hi lo n : Nat) : (wrF s k hi lo n).fab = s.fab := rfl
@[simp] theorem wrF_seamRejects (k hi lo n : Nat) : (wrF s k hi lo n).seamRejects = s.seamRejects := rfl
@[simp] theorem wrF_seamTests (k hi lo n : Nat) : (wrF s k hi lo n).seamTests = s.seamTests := rfl
@[simp] theorem wrF_partners (k hi lo n : Nat) : (wrF s k hi lo n).partners = s.partners := rfl
@[simp] theorem wrF_groups (k hi lo n : Nat) : (wrF s k hi lo n).groups = s.groups := rfl
@[simp] theorem wrF_linkSecret (k hi lo n : Nat) : (wrF s k hi lo n).linkSecret = s.linkSecret := rfl
@[simp] theorem wrF_toEngine (k hi lo n : Nat) : (wrF s k hi lo n).toEngine = s.toEngine := rfl
@[simp] theorem wrF_outbox (k hi lo n : Nat) : (wrF s k hi lo n).outbox = s.outbox := rfl
@[simp] theorem wrF_wire (k hi lo n : Nat) : (wrF s k hi lo n).wire = s.wire := rfl
@[simp] theorem wrF_wireHeld (k hi lo n : Nat) : (wrF s k hi lo n).wireHeld = s.wireHeld := rfl
@[simp] theorem wrF_drr (k hi lo n : Nat) : (wrF s k hi lo n).drr = s.drr := rfl
@[simp] theorem wrF_hellos (k hi lo n : Nat) : (wrF s k hi lo n).hellos = s.hellos := rfl
@[simp] theorem wrF_portCoef (k hi lo n : Nat) : (wrF s k hi lo n).portCoef = s.portCoef := rfl
@[simp] theorem wrF_trainFails (k hi lo n : Nat) : (wrF s k hi lo n).trainFails = s.trainFails := rfl
@[simp] theorem wrF_portDisabled (k hi lo n : Nat) : (wrF s k hi lo n).portDisabled = s.portDisabled := rfl
@[simp] theorem wrF_coll (k hi lo n : Nat) : (wrF s k hi lo n).coll = s.coll := rfl
@[simp] theorem wrF_collNext (k hi lo n : Nat) : (wrF s k hi lo n).collNext = s.collNext := rfl
@[simp] theorem wrF_closing (k hi lo n : Nat) : (wrF s k hi lo n).closing = s.closing := rfl
@[simp] theorem wrF_optWritten (k hi lo n : Nat) : (wrF s k hi lo n).optWritten = s.optWritten := rfl
@[simp] theorem wrF_optDue (k hi lo n : Nat) : (wrF s k hi lo n).optDue = s.optDue := rfl
@[simp] theorem wrF_optWaited (k hi lo n : Nat) : (wrF s k hi lo n).optWaited = s.optWaited := rfl
@[simp] theorem wrF_mirHeader (k hi lo n : Nat) : (wrF s k hi lo n).mirHeader = s.mirHeader := rfl
@[simp] theorem wrF_sealDue (k hi lo n : Nat) : (wrF s k hi lo n).sealDue = s.sealDue := rfl
@[simp] theorem wrF_recov (k hi lo n : Nat) : (wrF s k hi lo n).recov = s.recov := rfl
@[simp] theorem wrF_stepMsgs (k hi lo n : Nat) : (wrF s k hi lo n).stepMsgs = s.stepMsgs := rfl
@[simp] theorem wrF_rails (k hi lo n : Nat) : (wrF s k hi lo n).rails = s.rails := rfl
@[simp] theorem wrF_mnt (k hi lo n : Nat) : (wrF s k hi lo n).mnt = s.mnt := rfl
@[simp] theorem wrF_cp (k hi lo n : Nat) : (wrF s k hi lo n).cp = s.cp := rfl
@[simp] theorem wrF_svc (k hi lo n : Nat) : (wrF s k hi lo n).svc = s.svc := rfl
@[simp] theorem wrF_bist (k hi lo n : Nat) : (wrF s k hi lo n).bist = s.bist := rfl
@[simp] theorem wrF_ticks (k hi lo n : Nat) : (wrF s k hi lo n).ticks = s.ticks := rfl
@[simp] theorem wrF_trace (k hi lo n : Nat) : (wrF s k hi lo n).trace = s.trace := rfl
@[simp] theorem wrF_resp (k hi lo n : Nat) : (wrF s k hi lo n).resp = s.resp := rfl
@[simp] theorem wrF_free (k hi lo n : Nat) : (wrF s k hi lo n).free = s.free := rfl

@[simp] theorem wrB_ctxs (k b : Nat) (v : Bool) : (wrB s k b v).ctxs = s.ctxs := rfl
@[simp] theorem wrB_cores (k b : Nat) (v : Bool) : (wrB s k b v).cores = s.cores := rfl
@[simp] theorem wrB_fb (k b : Nat) (v : Bool) : (wrB s k b v).fb = s.fb := rfl
@[simp] theorem wrB_sync (k b : Nat) (v : Bool) : (wrB s k b v).sync = s.sync := rfl
@[simp] theorem wrB_slots (k b : Nat) (v : Bool) : (wrB s k b v).slots = s.slots := rfl
@[simp] theorem wrB_toYoke (k b : Nat) (v : Bool) : (wrB s k b v).toYoke = s.toYoke := rfl
@[simp] theorem wrB_yokeWaits (k b : Nat) (v : Bool) : (wrB s k b v).yokeWaits = s.yokeWaits := rfl
@[simp] theorem wrB_wakes (k b : Nat) (v : Bool) : (wrB s k b v).wakes = s.wakes := rfl
@[simp] theorem wrB_releases (k b : Nat) (v : Bool) : (wrB s k b v).releases = s.releases := rfl
@[simp] theorem wrB_orphans (k b : Nat) (v : Bool) : (wrB s k b v).orphans = s.orphans := rfl
@[simp] theorem wrB_est (k b : Nat) (v : Bool) : (wrB s k b v).est = s.est := rfl
@[simp] theorem wrB_asleep (k b : Nat) (v : Bool) : (wrB s k b v).asleep = s.asleep := rfl
@[simp] theorem wrB_hemStopped (k b : Nat) (v : Bool) : (wrB s k b v).hemStopped = s.hemStopped := rfl
@[simp] theorem wrB_resync (k b : Nat) (v : Bool) : (wrB s k b v).resync = s.resync := rfl
@[simp] theorem wrB_breached (k b : Nat) (v : Bool) : (wrB s k b v).breached = s.breached := rfl
@[simp] theorem wrB_katPages (k b : Nat) (v : Bool) : (wrB s k b v).katPages = s.katPages := rfl
@[simp] theorem wrB_srFailed (k b : Nat) (v : Bool) : (wrB s k b v).srFailed = s.srFailed := rfl
@[simp] theorem wrB_srSick (k b : Nat) (v : Bool) : (wrB s k b v).srSick = s.srSick := rfl
@[simp] theorem wrB_banks (k b : Nat) (v : Bool) : (wrB s k b v).banks = s.banks := rfl
@[simp] theorem wrB_arbs (k b : Nat) (v : Bool) : (wrB s k b v).arbs = s.arbs := rfl
@[simp] theorem wrB_fab (k b : Nat) (v : Bool) : (wrB s k b v).fab = s.fab := rfl
@[simp] theorem wrB_seamRejects (k b : Nat) (v : Bool) : (wrB s k b v).seamRejects = s.seamRejects := rfl
@[simp] theorem wrB_seamTests (k b : Nat) (v : Bool) : (wrB s k b v).seamTests = s.seamTests := rfl
@[simp] theorem wrB_partners (k b : Nat) (v : Bool) : (wrB s k b v).partners = s.partners := rfl
@[simp] theorem wrB_groups (k b : Nat) (v : Bool) : (wrB s k b v).groups = s.groups := rfl
@[simp] theorem wrB_linkSecret (k b : Nat) (v : Bool) : (wrB s k b v).linkSecret = s.linkSecret := rfl
@[simp] theorem wrB_toEngine (k b : Nat) (v : Bool) : (wrB s k b v).toEngine = s.toEngine := rfl
@[simp] theorem wrB_outbox (k b : Nat) (v : Bool) : (wrB s k b v).outbox = s.outbox := rfl
@[simp] theorem wrB_wire (k b : Nat) (v : Bool) : (wrB s k b v).wire = s.wire := rfl
@[simp] theorem wrB_wireHeld (k b : Nat) (v : Bool) : (wrB s k b v).wireHeld = s.wireHeld := rfl
@[simp] theorem wrB_drr (k b : Nat) (v : Bool) : (wrB s k b v).drr = s.drr := rfl
@[simp] theorem wrB_hellos (k b : Nat) (v : Bool) : (wrB s k b v).hellos = s.hellos := rfl
@[simp] theorem wrB_portCoef (k b : Nat) (v : Bool) : (wrB s k b v).portCoef = s.portCoef := rfl
@[simp] theorem wrB_trainFails (k b : Nat) (v : Bool) : (wrB s k b v).trainFails = s.trainFails := rfl
@[simp] theorem wrB_portDisabled (k b : Nat) (v : Bool) : (wrB s k b v).portDisabled = s.portDisabled := rfl
@[simp] theorem wrB_coll (k b : Nat) (v : Bool) : (wrB s k b v).coll = s.coll := rfl
@[simp] theorem wrB_collNext (k b : Nat) (v : Bool) : (wrB s k b v).collNext = s.collNext := rfl
@[simp] theorem wrB_closing (k b : Nat) (v : Bool) : (wrB s k b v).closing = s.closing := rfl
@[simp] theorem wrB_optWritten (k b : Nat) (v : Bool) : (wrB s k b v).optWritten = s.optWritten := rfl
@[simp] theorem wrB_optDue (k b : Nat) (v : Bool) : (wrB s k b v).optDue = s.optDue := rfl
@[simp] theorem wrB_optWaited (k b : Nat) (v : Bool) : (wrB s k b v).optWaited = s.optWaited := rfl
@[simp] theorem wrB_mirHeader (k b : Nat) (v : Bool) : (wrB s k b v).mirHeader = s.mirHeader := rfl
@[simp] theorem wrB_sealDue (k b : Nat) (v : Bool) : (wrB s k b v).sealDue = s.sealDue := rfl
@[simp] theorem wrB_recov (k b : Nat) (v : Bool) : (wrB s k b v).recov = s.recov := rfl
@[simp] theorem wrB_stepMsgs (k b : Nat) (v : Bool) : (wrB s k b v).stepMsgs = s.stepMsgs := rfl
@[simp] theorem wrB_rails (k b : Nat) (v : Bool) : (wrB s k b v).rails = s.rails := rfl
@[simp] theorem wrB_mnt (k b : Nat) (v : Bool) : (wrB s k b v).mnt = s.mnt := rfl
@[simp] theorem wrB_cp (k b : Nat) (v : Bool) : (wrB s k b v).cp = s.cp := rfl
@[simp] theorem wrB_svc (k b : Nat) (v : Bool) : (wrB s k b v).svc = s.svc := rfl
@[simp] theorem wrB_bist (k b : Nat) (v : Bool) : (wrB s k b v).bist = s.bist := rfl
@[simp] theorem wrB_ticks (k b : Nat) (v : Bool) : (wrB s k b v).ticks = s.ticks := rfl
@[simp] theorem wrB_trace (k b : Nat) (v : Bool) : (wrB s k b v).trace = s.trace := rfl
@[simp] theorem wrB_resp (k b : Nat) (v : Bool) : (wrB s k b v).resp = s.resp := rfl
@[simp] theorem wrB_free (k b : Nat) (v : Bool) : (wrB s k b v).free = s.free := rfl

@[simp] theorem modCtx_regs (c x : Nat) (f : Ctx → Ctx) : (modCtx s c x f).regs = s.regs := rfl
@[simp] theorem modCtx_cores (c x : Nat) (f : Ctx → Ctx) : (modCtx s c x f).cores = s.cores := rfl
@[simp] theorem modCtx_fb (c x : Nat) (f : Ctx → Ctx) : (modCtx s c x f).fb = s.fb := rfl
@[simp] theorem modCtx_sync (c x : Nat) (f : Ctx → Ctx) : (modCtx s c x f).sync = s.sync := rfl
@[simp] theorem modCtx_slots (c x : Nat) (f : Ctx → Ctx) : (modCtx s c x f).slots = s.slots := rfl
@[simp] theorem modCtx_toYoke (c x : Nat) (f : Ctx → Ctx) : (modCtx s c x f).toYoke = s.toYoke := rfl
@[simp] theorem modCtx_yokeWaits (c x : Nat) (f : Ctx → Ctx) : (modCtx s c x f).yokeWaits = s.yokeWaits := rfl
@[simp] theorem modCtx_wakes (c x : Nat) (f : Ctx → Ctx) : (modCtx s c x f).wakes = s.wakes := rfl
@[simp] theorem modCtx_releases (c x : Nat) (f : Ctx → Ctx) : (modCtx s c x f).releases = s.releases := rfl
@[simp] theorem modCtx_orphans (c x : Nat) (f : Ctx → Ctx) : (modCtx s c x f).orphans = s.orphans := rfl
@[simp] theorem modCtx_est (c x : Nat) (f : Ctx → Ctx) : (modCtx s c x f).est = s.est := rfl
@[simp] theorem modCtx_asleep (c x : Nat) (f : Ctx → Ctx) : (modCtx s c x f).asleep = s.asleep := rfl
@[simp] theorem modCtx_hemStopped (c x : Nat) (f : Ctx → Ctx) : (modCtx s c x f).hemStopped = s.hemStopped := rfl
@[simp] theorem modCtx_resync (c x : Nat) (f : Ctx → Ctx) : (modCtx s c x f).resync = s.resync := rfl
@[simp] theorem modCtx_breached (c x : Nat) (f : Ctx → Ctx) : (modCtx s c x f).breached = s.breached := rfl
@[simp] theorem modCtx_katPages (c x : Nat) (f : Ctx → Ctx) : (modCtx s c x f).katPages = s.katPages := rfl
@[simp] theorem modCtx_srFailed (c x : Nat) (f : Ctx → Ctx) : (modCtx s c x f).srFailed = s.srFailed := rfl
@[simp] theorem modCtx_srSick (c x : Nat) (f : Ctx → Ctx) : (modCtx s c x f).srSick = s.srSick := rfl
@[simp] theorem modCtx_banks (c x : Nat) (f : Ctx → Ctx) : (modCtx s c x f).banks = s.banks := rfl
@[simp] theorem modCtx_arbs (c x : Nat) (f : Ctx → Ctx) : (modCtx s c x f).arbs = s.arbs := rfl
@[simp] theorem modCtx_fab (c x : Nat) (f : Ctx → Ctx) : (modCtx s c x f).fab = s.fab := rfl
@[simp] theorem modCtx_seamRejects (c x : Nat) (f : Ctx → Ctx) : (modCtx s c x f).seamRejects = s.seamRejects := rfl
@[simp] theorem modCtx_seamTests (c x : Nat) (f : Ctx → Ctx) : (modCtx s c x f).seamTests = s.seamTests := rfl
@[simp] theorem modCtx_partners (c x : Nat) (f : Ctx → Ctx) : (modCtx s c x f).partners = s.partners := rfl
@[simp] theorem modCtx_groups (c x : Nat) (f : Ctx → Ctx) : (modCtx s c x f).groups = s.groups := rfl
@[simp] theorem modCtx_linkSecret (c x : Nat) (f : Ctx → Ctx) : (modCtx s c x f).linkSecret = s.linkSecret := rfl
@[simp] theorem modCtx_toEngine (c x : Nat) (f : Ctx → Ctx) : (modCtx s c x f).toEngine = s.toEngine := rfl
@[simp] theorem modCtx_outbox (c x : Nat) (f : Ctx → Ctx) : (modCtx s c x f).outbox = s.outbox := rfl
@[simp] theorem modCtx_wire (c x : Nat) (f : Ctx → Ctx) : (modCtx s c x f).wire = s.wire := rfl
@[simp] theorem modCtx_wireHeld (c x : Nat) (f : Ctx → Ctx) : (modCtx s c x f).wireHeld = s.wireHeld := rfl
@[simp] theorem modCtx_drr (c x : Nat) (f : Ctx → Ctx) : (modCtx s c x f).drr = s.drr := rfl
@[simp] theorem modCtx_hellos (c x : Nat) (f : Ctx → Ctx) : (modCtx s c x f).hellos = s.hellos := rfl
@[simp] theorem modCtx_portCoef (c x : Nat) (f : Ctx → Ctx) : (modCtx s c x f).portCoef = s.portCoef := rfl
@[simp] theorem modCtx_trainFails (c x : Nat) (f : Ctx → Ctx) : (modCtx s c x f).trainFails = s.trainFails := rfl
@[simp] theorem modCtx_portDisabled (c x : Nat) (f : Ctx → Ctx) : (modCtx s c x f).portDisabled = s.portDisabled := rfl
@[simp] theorem modCtx_coll (c x : Nat) (f : Ctx → Ctx) : (modCtx s c x f).coll = s.coll := rfl
@[simp] theorem modCtx_collNext (c x : Nat) (f : Ctx → Ctx) : (modCtx s c x f).collNext = s.collNext := rfl
@[simp] theorem modCtx_closing (c x : Nat) (f : Ctx → Ctx) : (modCtx s c x f).closing = s.closing := rfl
@[simp] theorem modCtx_optWritten (c x : Nat) (f : Ctx → Ctx) : (modCtx s c x f).optWritten = s.optWritten := rfl
@[simp] theorem modCtx_optDue (c x : Nat) (f : Ctx → Ctx) : (modCtx s c x f).optDue = s.optDue := rfl
@[simp] theorem modCtx_optWaited (c x : Nat) (f : Ctx → Ctx) : (modCtx s c x f).optWaited = s.optWaited := rfl
@[simp] theorem modCtx_mirHeader (c x : Nat) (f : Ctx → Ctx) : (modCtx s c x f).mirHeader = s.mirHeader := rfl
@[simp] theorem modCtx_sealDue (c x : Nat) (f : Ctx → Ctx) : (modCtx s c x f).sealDue = s.sealDue := rfl
@[simp] theorem modCtx_recov (c x : Nat) (f : Ctx → Ctx) : (modCtx s c x f).recov = s.recov := rfl
@[simp] theorem modCtx_stepMsgs (c x : Nat) (f : Ctx → Ctx) : (modCtx s c x f).stepMsgs = s.stepMsgs := rfl
@[simp] theorem modCtx_rails (c x : Nat) (f : Ctx → Ctx) : (modCtx s c x f).rails = s.rails := rfl
@[simp] theorem modCtx_mnt (c x : Nat) (f : Ctx → Ctx) : (modCtx s c x f).mnt = s.mnt := rfl
@[simp] theorem modCtx_cp (c x : Nat) (f : Ctx → Ctx) : (modCtx s c x f).cp = s.cp := rfl
@[simp] theorem modCtx_svc (c x : Nat) (f : Ctx → Ctx) : (modCtx s c x f).svc = s.svc := rfl
@[simp] theorem modCtx_bist (c x : Nat) (f : Ctx → Ctx) : (modCtx s c x f).bist = s.bist := rfl
@[simp] theorem modCtx_ticks (c x : Nat) (f : Ctx → Ctx) : (modCtx s c x f).ticks = s.ticks := rfl
@[simp] theorem modCtx_trace (c x : Nat) (f : Ctx → Ctx) : (modCtx s c x f).trace = s.trace := rfl
@[simp] theorem modCtx_resp (c x : Nat) (f : Ctx → Ctx) : (modCtx s c x f).resp = s.resp := rfl
@[simp] theorem modCtx_free (c x : Nat) (f : Ctx → Ctx) : (modCtx s c x f).free = s.free := rfl

@[simp] theorem modCore_regs (c : Nat) (f : CoreSt → CoreSt) : (modCore s c f).regs = s.regs := rfl
@[simp] theorem modCore_ctxs (c : Nat) (f : CoreSt → CoreSt) : (modCore s c f).ctxs = s.ctxs := rfl
@[simp] theorem modCore_fb (c : Nat) (f : CoreSt → CoreSt) : (modCore s c f).fb = s.fb := rfl
@[simp] theorem modCore_sync (c : Nat) (f : CoreSt → CoreSt) : (modCore s c f).sync = s.sync := rfl
@[simp] theorem modCore_slots (c : Nat) (f : CoreSt → CoreSt) : (modCore s c f).slots = s.slots := rfl
@[simp] theorem modCore_toYoke (c : Nat) (f : CoreSt → CoreSt) : (modCore s c f).toYoke = s.toYoke := rfl
@[simp] theorem modCore_yokeWaits (c : Nat) (f : CoreSt → CoreSt) : (modCore s c f).yokeWaits = s.yokeWaits := rfl
@[simp] theorem modCore_wakes (c : Nat) (f : CoreSt → CoreSt) : (modCore s c f).wakes = s.wakes := rfl
@[simp] theorem modCore_releases (c : Nat) (f : CoreSt → CoreSt) : (modCore s c f).releases = s.releases := rfl
@[simp] theorem modCore_orphans (c : Nat) (f : CoreSt → CoreSt) : (modCore s c f).orphans = s.orphans := rfl
@[simp] theorem modCore_est (c : Nat) (f : CoreSt → CoreSt) : (modCore s c f).est = s.est := rfl
@[simp] theorem modCore_asleep (c : Nat) (f : CoreSt → CoreSt) : (modCore s c f).asleep = s.asleep := rfl
@[simp] theorem modCore_hemStopped (c : Nat) (f : CoreSt → CoreSt) : (modCore s c f).hemStopped = s.hemStopped := rfl
@[simp] theorem modCore_resync (c : Nat) (f : CoreSt → CoreSt) : (modCore s c f).resync = s.resync := rfl
@[simp] theorem modCore_breached (c : Nat) (f : CoreSt → CoreSt) : (modCore s c f).breached = s.breached := rfl
@[simp] theorem modCore_katPages (c : Nat) (f : CoreSt → CoreSt) : (modCore s c f).katPages = s.katPages := rfl
@[simp] theorem modCore_srFailed (c : Nat) (f : CoreSt → CoreSt) : (modCore s c f).srFailed = s.srFailed := rfl
@[simp] theorem modCore_srSick (c : Nat) (f : CoreSt → CoreSt) : (modCore s c f).srSick = s.srSick := rfl
@[simp] theorem modCore_banks (c : Nat) (f : CoreSt → CoreSt) : (modCore s c f).banks = s.banks := rfl
@[simp] theorem modCore_arbs (c : Nat) (f : CoreSt → CoreSt) : (modCore s c f).arbs = s.arbs := rfl
@[simp] theorem modCore_fab (c : Nat) (f : CoreSt → CoreSt) : (modCore s c f).fab = s.fab := rfl
@[simp] theorem modCore_seamRejects (c : Nat) (f : CoreSt → CoreSt) : (modCore s c f).seamRejects = s.seamRejects := rfl
@[simp] theorem modCore_seamTests (c : Nat) (f : CoreSt → CoreSt) : (modCore s c f).seamTests = s.seamTests := rfl
@[simp] theorem modCore_partners (c : Nat) (f : CoreSt → CoreSt) : (modCore s c f).partners = s.partners := rfl
@[simp] theorem modCore_groups (c : Nat) (f : CoreSt → CoreSt) : (modCore s c f).groups = s.groups := rfl
@[simp] theorem modCore_linkSecret (c : Nat) (f : CoreSt → CoreSt) : (modCore s c f).linkSecret = s.linkSecret := rfl
@[simp] theorem modCore_toEngine (c : Nat) (f : CoreSt → CoreSt) : (modCore s c f).toEngine = s.toEngine := rfl
@[simp] theorem modCore_outbox (c : Nat) (f : CoreSt → CoreSt) : (modCore s c f).outbox = s.outbox := rfl
@[simp] theorem modCore_wire (c : Nat) (f : CoreSt → CoreSt) : (modCore s c f).wire = s.wire := rfl
@[simp] theorem modCore_wireHeld (c : Nat) (f : CoreSt → CoreSt) : (modCore s c f).wireHeld = s.wireHeld := rfl
@[simp] theorem modCore_drr (c : Nat) (f : CoreSt → CoreSt) : (modCore s c f).drr = s.drr := rfl
@[simp] theorem modCore_hellos (c : Nat) (f : CoreSt → CoreSt) : (modCore s c f).hellos = s.hellos := rfl
@[simp] theorem modCore_portCoef (c : Nat) (f : CoreSt → CoreSt) : (modCore s c f).portCoef = s.portCoef := rfl
@[simp] theorem modCore_trainFails (c : Nat) (f : CoreSt → CoreSt) : (modCore s c f).trainFails = s.trainFails := rfl
@[simp] theorem modCore_portDisabled (c : Nat) (f : CoreSt → CoreSt) : (modCore s c f).portDisabled = s.portDisabled := rfl
@[simp] theorem modCore_coll (c : Nat) (f : CoreSt → CoreSt) : (modCore s c f).coll = s.coll := rfl
@[simp] theorem modCore_collNext (c : Nat) (f : CoreSt → CoreSt) : (modCore s c f).collNext = s.collNext := rfl
@[simp] theorem modCore_closing (c : Nat) (f : CoreSt → CoreSt) : (modCore s c f).closing = s.closing := rfl
@[simp] theorem modCore_optWritten (c : Nat) (f : CoreSt → CoreSt) : (modCore s c f).optWritten = s.optWritten := rfl
@[simp] theorem modCore_optDue (c : Nat) (f : CoreSt → CoreSt) : (modCore s c f).optDue = s.optDue := rfl
@[simp] theorem modCore_optWaited (c : Nat) (f : CoreSt → CoreSt) : (modCore s c f).optWaited = s.optWaited := rfl
@[simp] theorem modCore_mirHeader (c : Nat) (f : CoreSt → CoreSt) : (modCore s c f).mirHeader = s.mirHeader := rfl
@[simp] theorem modCore_sealDue (c : Nat) (f : CoreSt → CoreSt) : (modCore s c f).sealDue = s.sealDue := rfl
@[simp] theorem modCore_recov (c : Nat) (f : CoreSt → CoreSt) : (modCore s c f).recov = s.recov := rfl
@[simp] theorem modCore_stepMsgs (c : Nat) (f : CoreSt → CoreSt) : (modCore s c f).stepMsgs = s.stepMsgs := rfl
@[simp] theorem modCore_rails (c : Nat) (f : CoreSt → CoreSt) : (modCore s c f).rails = s.rails := rfl
@[simp] theorem modCore_mnt (c : Nat) (f : CoreSt → CoreSt) : (modCore s c f).mnt = s.mnt := rfl
@[simp] theorem modCore_cp (c : Nat) (f : CoreSt → CoreSt) : (modCore s c f).cp = s.cp := rfl
@[simp] theorem modCore_svc (c : Nat) (f : CoreSt → CoreSt) : (modCore s c f).svc = s.svc := rfl
@[simp] theorem modCore_bist (c : Nat) (f : CoreSt → CoreSt) : (modCore s c f).bist = s.bist := rfl
@[simp] theorem modCore_ticks (c : Nat) (f : CoreSt → CoreSt) : (modCore s c f).ticks = s.ticks := rfl
@[simp] theorem modCore_trace (c : Nat) (f : CoreSt → CoreSt) : (modCore s c f).trace = s.trace := rfl
@[simp] theorem modCore_resp (c : Nat) (f : CoreSt → CoreSt) : (modCore s c f).resp = s.resp := rfl
@[simp] theorem modCore_free (c : Nat) (f : CoreSt → CoreSt) : (modCore s c f).free = s.free := rfl

@[simp] theorem bumpReg_ctxs (k n : Nat) : (bumpReg s k n).ctxs = s.ctxs := rfl
@[simp] theorem bumpReg_cores (k n : Nat) : (bumpReg s k n).cores = s.cores := rfl
@[simp] theorem bumpReg_fb (k n : Nat) : (bumpReg s k n).fb = s.fb := rfl
@[simp] theorem bumpReg_sync (k n : Nat) : (bumpReg s k n).sync = s.sync := rfl
@[simp] theorem bumpReg_slots (k n : Nat) : (bumpReg s k n).slots = s.slots := rfl
@[simp] theorem bumpReg_toYoke (k n : Nat) : (bumpReg s k n).toYoke = s.toYoke := rfl
@[simp] theorem bumpReg_yokeWaits (k n : Nat) : (bumpReg s k n).yokeWaits = s.yokeWaits := rfl
@[simp] theorem bumpReg_wakes (k n : Nat) : (bumpReg s k n).wakes = s.wakes := rfl
@[simp] theorem bumpReg_releases (k n : Nat) : (bumpReg s k n).releases = s.releases := rfl
@[simp] theorem bumpReg_orphans (k n : Nat) : (bumpReg s k n).orphans = s.orphans := rfl
@[simp] theorem bumpReg_est (k n : Nat) : (bumpReg s k n).est = s.est := rfl
@[simp] theorem bumpReg_asleep (k n : Nat) : (bumpReg s k n).asleep = s.asleep := rfl
@[simp] theorem bumpReg_hemStopped (k n : Nat) : (bumpReg s k n).hemStopped = s.hemStopped := rfl
@[simp] theorem bumpReg_resync (k n : Nat) : (bumpReg s k n).resync = s.resync := rfl
@[simp] theorem bumpReg_breached (k n : Nat) : (bumpReg s k n).breached = s.breached := rfl
@[simp] theorem bumpReg_katPages (k n : Nat) : (bumpReg s k n).katPages = s.katPages := rfl
@[simp] theorem bumpReg_srFailed (k n : Nat) : (bumpReg s k n).srFailed = s.srFailed := rfl
@[simp] theorem bumpReg_srSick (k n : Nat) : (bumpReg s k n).srSick = s.srSick := rfl
@[simp] theorem bumpReg_banks (k n : Nat) : (bumpReg s k n).banks = s.banks := rfl
@[simp] theorem bumpReg_arbs (k n : Nat) : (bumpReg s k n).arbs = s.arbs := rfl
@[simp] theorem bumpReg_fab (k n : Nat) : (bumpReg s k n).fab = s.fab := rfl
@[simp] theorem bumpReg_seamRejects (k n : Nat) : (bumpReg s k n).seamRejects = s.seamRejects := rfl
@[simp] theorem bumpReg_seamTests (k n : Nat) : (bumpReg s k n).seamTests = s.seamTests := rfl
@[simp] theorem bumpReg_partners (k n : Nat) : (bumpReg s k n).partners = s.partners := rfl
@[simp] theorem bumpReg_groups (k n : Nat) : (bumpReg s k n).groups = s.groups := rfl
@[simp] theorem bumpReg_linkSecret (k n : Nat) : (bumpReg s k n).linkSecret = s.linkSecret := rfl
@[simp] theorem bumpReg_toEngine (k n : Nat) : (bumpReg s k n).toEngine = s.toEngine := rfl
@[simp] theorem bumpReg_outbox (k n : Nat) : (bumpReg s k n).outbox = s.outbox := rfl
@[simp] theorem bumpReg_wire (k n : Nat) : (bumpReg s k n).wire = s.wire := rfl
@[simp] theorem bumpReg_wireHeld (k n : Nat) : (bumpReg s k n).wireHeld = s.wireHeld := rfl
@[simp] theorem bumpReg_drr (k n : Nat) : (bumpReg s k n).drr = s.drr := rfl
@[simp] theorem bumpReg_hellos (k n : Nat) : (bumpReg s k n).hellos = s.hellos := rfl
@[simp] theorem bumpReg_portCoef (k n : Nat) : (bumpReg s k n).portCoef = s.portCoef := rfl
@[simp] theorem bumpReg_trainFails (k n : Nat) : (bumpReg s k n).trainFails = s.trainFails := rfl
@[simp] theorem bumpReg_portDisabled (k n : Nat) : (bumpReg s k n).portDisabled = s.portDisabled := rfl
@[simp] theorem bumpReg_coll (k n : Nat) : (bumpReg s k n).coll = s.coll := rfl
@[simp] theorem bumpReg_collNext (k n : Nat) : (bumpReg s k n).collNext = s.collNext := rfl
@[simp] theorem bumpReg_closing (k n : Nat) : (bumpReg s k n).closing = s.closing := rfl
@[simp] theorem bumpReg_optWritten (k n : Nat) : (bumpReg s k n).optWritten = s.optWritten := rfl
@[simp] theorem bumpReg_optDue (k n : Nat) : (bumpReg s k n).optDue = s.optDue := rfl
@[simp] theorem bumpReg_optWaited (k n : Nat) : (bumpReg s k n).optWaited = s.optWaited := rfl
@[simp] theorem bumpReg_mirHeader (k n : Nat) : (bumpReg s k n).mirHeader = s.mirHeader := rfl
@[simp] theorem bumpReg_sealDue (k n : Nat) : (bumpReg s k n).sealDue = s.sealDue := rfl
@[simp] theorem bumpReg_recov (k n : Nat) : (bumpReg s k n).recov = s.recov := rfl
@[simp] theorem bumpReg_stepMsgs (k n : Nat) : (bumpReg s k n).stepMsgs = s.stepMsgs := rfl
@[simp] theorem bumpReg_rails (k n : Nat) : (bumpReg s k n).rails = s.rails := rfl
@[simp] theorem bumpReg_mnt (k n : Nat) : (bumpReg s k n).mnt = s.mnt := rfl
@[simp] theorem bumpReg_cp (k n : Nat) : (bumpReg s k n).cp = s.cp := rfl
@[simp] theorem bumpReg_svc (k n : Nat) : (bumpReg s k n).svc = s.svc := rfl
@[simp] theorem bumpReg_bist (k n : Nat) : (bumpReg s k n).bist = s.bist := rfl
@[simp] theorem bumpReg_ticks (k n : Nat) : (bumpReg s k n).ticks = s.ticks := rfl
@[simp] theorem bumpReg_trace (k n : Nat) : (bumpReg s k n).trace = s.trace := rfl
@[simp] theorem bumpReg_resp (k n : Nat) : (bumpReg s k n).resp = s.resp := rfl
@[simp] theorem bumpReg_free (k n : Nat) : (bumpReg s k n).free = s.free := rfl

/-- A property that each step of a chain of attempts keeps holds of what the whole chain answers. -/
theorem optFold_keeps {σ α : Type} (P : σ → Prop) (g : σ → α → Option σ) (hg : ∀ s a t, g s a = some t → P s → P t) (l : List α) :
    ∀ (o : Option σ) (t : σ), (∀ u, o = some u → P u) → l.foldl (fun o a => o.bind (fun s => g s a)) o = some t → P t := by
  induction l with
  | nil => intro o t ho h; exact ho t h
  | cons a l ih =>
    intro o t ho h
    refine ih _ t (fun u hu => ?_) h
    obtain ⟨v, hv, hvu⟩ := Option.bind_eq_some_iff.1 hu
    exact hg v a u hvu (ho v hv)

end Sys2Proof.Machine
end

