-- ==== Sys2Proof/Laws/MemFabric.lean ====
section
/-! SUPPORT. The operations of Machine/Fabric.lean that leave memory alone. -/
namespace Sys2Proof.Machine

@[simp] theorem setArb_mem (s : State) (p : Nat) (x : Nat) (y : Nat) (out : Nat) (v : ArbSt) :
    (setArb s p x y out v).mem = s.mem := by
  simp [setArb]

@[simp] theorem noteReserve_mem (z0 : State) (z1 : Nat) (z2 : FabSlot) :
    (noteReserve z0 z1 z2).mem = z0.mem := by
  unfold noteReserve; (repeat' split) <;> simp

@[simp] theorem arbPass_mem (s : State) (p : Nat) (x : Nat) (y : Nat) (out : Nat) (m : FabMsg) (slot : FabSlot) :
    (arbPass s p x y out m slot).mem = s.mem := by
  simp only [arbPass]; (repeat' split) <;> simp

theorem fabEnter_kept_mem {s t : State} {m : FabMsg} (h : fabEnter s m = some t) : t.mem = s.mem := by
  simp only [fabEnter] at h
  split at h
  · simp at h
  · obtain ⟨sl, -, rfl⟩ := Option.map_eq_some_iff.1 h
    simp

@[simp] theorem fabEnterAll_mem (s : State) :
    (fabEnterAll s).mem = s.mem := by
  unfold fabEnterAll
  apply foldl_mem
  intro a b
  cases h : fabEnter a b with
  | none => simp
  | some t => simp [fabEnter_kept_mem h]

@[simp] theorem fabServe_mem (s : State) (b : FabBlock) (c : Nat) (out : List FabReq) :
    (fabServe s b c out).mem = s.mem := by
  unfold fabServe
  split
  · rfl
  split
  · rfl
  rename_i m _ _
  cases h : out.foldl (fun o r => o.bind (fun s => fabEnter { s with fab := s.fab ++ [fabSent r] } (fabSent r))) (some { s with fab := s.fab.erase m }) with
  | none => simp
  | some t =>
    have key := optFold_keeps (fun u : State => u.mem = s.mem) (fun s r => fabEnter { s with fab := s.fab ++ [fabSent r] } (fabSent r))
      (fun u r t h hu => (fabEnter_kept_mem h).trans hu) out _ t (fun u hu => by cases hu; rfl) h
    simpa using key

@[simp] theorem fabDo_mem (z0 : State) (z1 : FabIn) :
    (fabDo z0 z1).mem = z0.mem := by
  unfold fabDo; (repeat' split) <;> simp

@[simp] theorem fabDuring_mem (s : State) (l : List FabIn) :
    (fabDuring s l).mem = s.mem := by
  simp [fabDuring]

@[simp] theorem arbStart_mem (s : State) (p : Nat) (x : Nat) (y : Nat) (out : Nat) :
    (arbStart s p x y out).mem = s.mem := by
  simp only [arbStart]; (repeat' split) <;> simp

@[simp] theorem arbDecide_mem (s : State) (p : Nat) (x : Nat) (y : Nat) (out : Nat) (from' : List FabMsg) :
    (arbDecide s p x y out from').mem = s.mem := by
  simp only [arbDecide]; (repeat' split) <;> simp

@[simp] theorem arbGrant_mem (s : State) (p : Nat) (x : Nat) (y : Nat) (out : Nat) (during : List FabIn) :
    (arbGrant s p x y out during).mem = s.mem := by
  simp [arbGrant]

@[simp] theorem execArbiterGrant_mem (p : Panel) (x : Fin 4) (y : Fin 4) (out : Nat) (during : List FabIn) (s : State) :
    Kept State.mem s (execArbiterGrant p x y out during s) := by
  simp [execArbiterGrant]

@[simp] theorem arbCommitWrite_mem (s : State) (p : Nat) (v : Word) :
    (arbCommitWrite s p v).mem = s.mem := by
  simp [arbCommitWrite]

@[simp] theorem execArbCommit_mem (mid : Mid) (p : Panel) (s : State) :
    Kept State.mem s (execArbCommit mid p s) := by
  simp [execArbCommit]

@[simp] theorem execArbCommitDone_mem (p : Panel) (s : State) :
    Kept State.mem s (execArbCommitDone p s) := by
  simp [execArbCommitDone]

@[simp] theorem seamMap_mem (s : State) (n : Nat) (dirB : Bool) (f : FabFlit → FabFlit) :
    (seamMap s n dirB f).mem = s.mem := by
  simp [seamMap]

@[simp] theorem seamArrive_mem (s : State) (n : Nat) (dirB : Bool) :
    (seamArrive s n dirB).mem = s.mem := by
  simp [seamArrive]

@[simp] theorem tickSeams_mem (s : State) :
    (tickSeams s).mem = s.mem := by
  simp [tickSeams]

@[simp] theorem seamTestBit_mem (s : State) (n : Nat) :
    (seamTestBit s n).mem = s.mem := by
  simp [seamTestBit]

@[simp] theorem seamMove_mem (s : State) (n : Nat) (dirB : Bool) (g : Nat) :
    (seamMove s n dirB g).mem = s.mem := by
  simp [seamMove]

@[simp] theorem seamReject_mem (s : State) (n : Nat) (dirB : Bool) (g : Nat) (flits : Nat) :
    (seamReject s n dirB g flits).mem = s.mem := by
  simp [seamReject]

@[simp] theorem execSeamCrcReject_mem (n : Panel) (dirB : Bool) (g : Fin 8) (i : Fin 64) (s : State) :
    Kept State.mem s (execSeamCrcReject n dirB g i s) := by
  simp [execSeamCrcReject]

@[simp] theorem seamReturn_mem (s : State) (n : Nat) :
    (seamReturn s n).mem = s.mem := by
  simp [seamReturn]

@[simp] theorem seamFail_mem (s : State) (n : Nat) :
    (seamFail s n).mem = s.mem := by
  simp only [seamFail]; (repeat' split) <;> simp

@[simp] theorem seamRetire_mem (s : State) (n : Nat) (dirB : Bool) (g : Nat) :
    (seamRetire s n dirB g).mem = s.mem := by
  simp [seamRetire]

@[simp] theorem seamTestEnd_mem (s : State) (n : Nat) (dirB : Bool) (g : Nat) (failing : Nat) :
    (seamTestEnd s n dirB g failing).mem = s.mem := by
  simp [seamTestEnd]

@[simp] theorem execSeamLaneTestEnd_mem (n : Panel) (dirB : Bool) (g : Fin 8) (failing : Nat) (s : State) :
    Kept State.mem s (execSeamLaneTestEnd n dirB g failing s) := by
  simp [execSeamLaneTestEnd]

@[simp] theorem rerouteBit_mem (s : State) (p : Nat) :
    (rerouteBit s p).mem = s.mem := by
  simp [rerouteBit]

@[simp] theorem seamTrain_mem (s : State) (n : Nat) :
    (seamTrain s n).mem = s.mem := by
  simp [seamTrain]

end Sys2Proof.Machine
end

