-- ==== Sys2Proof/Laws/CanonFabric.lean ====
section
/-! SUPPORT. The operations of Machine/Fabric.lean keep memory in its canonical form. -/
namespace Sys2Proof.Machine

@[simp] theorem setArb_canon (s : State) (p : Nat) (x : Nat) (y : Nat) (out : Nat) (v : ArbSt) (hw : Canonical s) : Canonical (setArb s p x y out v) :=
  canonical_of_mem (setArb_mem s p x y out v) hw

@[simp] theorem noteReserve_canon (z0 : State) (z1 : Nat) (z2 : FabSlot) (hw : Canonical z0) : Canonical (noteReserve z0 z1 z2) :=
  canonical_of_mem (noteReserve_mem z0 z1 z2) hw

@[simp] theorem arbPass_canon (s : State) (p : Nat) (x : Nat) (y : Nat) (out : Nat) (m : FabMsg) (slot : FabSlot) (hw : Canonical s) : Canonical (arbPass s p x y out m slot) :=
  canonical_of_mem (arbPass_mem s p x y out m slot) hw

@[simp] theorem fabEnterAll_canon (s : State) (hw : Canonical s) : Canonical (fabEnterAll s) :=
  canonical_of_mem (fabEnterAll_mem s) hw

@[simp] theorem fabServe_canon (s : State) (b : FabBlock) (c : Nat) (out : List FabReq) (hw : Canonical s) : Canonical (fabServe s b c out) :=
  canonical_of_mem (fabServe_mem s b c out) hw

@[simp] theorem fabDo_canon (z0 : State) (z1 : FabIn) (hw : Canonical z0) : Canonical (fabDo z0 z1) :=
  canonical_of_mem (fabDo_mem z0 z1) hw

@[simp] theorem fabDuring_canon (s : State) (l : List FabIn) (hw : Canonical s) : Canonical (fabDuring s l) :=
  canonical_of_mem (fabDuring_mem s l) hw

@[simp] theorem arbStart_canon (s : State) (p : Nat) (x : Nat) (y : Nat) (out : Nat) (hw : Canonical s) : Canonical (arbStart s p x y out) :=
  canonical_of_mem (arbStart_mem s p x y out) hw

@[simp] theorem arbDecide_canon (s : State) (p : Nat) (x : Nat) (y : Nat) (out : Nat) (from' : List FabMsg) (hw : Canonical s) : Canonical (arbDecide s p x y out from') :=
  canonical_of_mem (arbDecide_mem s p x y out from') hw

@[simp] theorem arbGrant_canon (s : State) (p : Nat) (x : Nat) (y : Nat) (out : Nat) (during : List FabIn) (hw : Canonical s) : Canonical (arbGrant s p x y out during) :=
  canonical_of_mem (arbGrant_mem s p x y out during) hw

@[simp] theorem execArbiterGrant_canon (p : Panel) (x : Fin 4) (y : Fin 4) (out : Nat) (during : List FabIn) (s : State) (hw : Canonical s) : Ends Canonical (execArbiterGrant p x y out during s) :=
  ends_of_kept hw (execArbiterGrant_mem p x y out during s)

@[simp] theorem arbCommitWrite_canon (s : State) (p : Nat) (v : Word) (hw : Canonical s) : Canonical (arbCommitWrite s p v) :=
  canonical_of_mem (arbCommitWrite_mem s p v) hw

@[simp] theorem execArbCommit_canon (mid : Mid) (p : Panel) (s : State) (hw : Canonical s) : Ends Canonical (execArbCommit mid p s) :=
  ends_of_kept hw (execArbCommit_mem mid p s)

@[simp] theorem execArbCommitDone_canon (p : Panel) (s : State) (hw : Canonical s) : Ends Canonical (execArbCommitDone p s) :=
  ends_of_kept hw (execArbCommitDone_mem p s)

@[simp] theorem seamMap_canon (s : State) (n : Nat) (dirB : Bool) (f : FabFlit → FabFlit) (hw : Canonical s) : Canonical (seamMap s n dirB f) :=
  canonical_of_mem (seamMap_mem s n dirB f) hw

@[simp] theorem seamArrive_canon (s : State) (n : Nat) (dirB : Bool) (hw : Canonical s) : Canonical (seamArrive s n dirB) :=
  canonical_of_mem (seamArrive_mem s n dirB) hw

@[simp] theorem tickSeams_canon (s : State) (hw : Canonical s) : Canonical (tickSeams s) :=
  canonical_of_mem (tickSeams_mem s) hw

@[simp] theorem seamTestBit_canon (s : State) (n : Nat) (hw : Canonical s) : Canonical (seamTestBit s n) :=
  canonical_of_mem (seamTestBit_mem s n) hw

@[simp] theorem seamMove_canon (s : State) (n : Nat) (dirB : Bool) (g : Nat) (hw : Canonical s) : Canonical (seamMove s n dirB g) :=
  canonical_of_mem (seamMove_mem s n dirB g) hw

@[simp] theorem seamReject_canon (s : State) (n : Nat) (dirB : Bool) (g : Nat) (flits : Nat) (hw : Canonical s) : Canonical (seamReject s n dirB g flits) :=
  canonical_of_mem (seamReject_mem s n dirB g flits) hw

@[simp] theorem execSeamCrcReject_canon (n : Panel) (dirB : Bool) (g : Fin 8) (i : Fin 64) (s : State) (hw : Canonical s) : Ends Canonical (execSeamCrcReject n dirB g i s) :=
  ends_of_kept hw (execSeamCrcReject_mem n dirB g i s)

@[simp] theorem seamReturn_canon (s : State) (n : Nat) (hw : Canonical s) : Canonical (seamReturn s n) :=
  canonical_of_mem (seamReturn_mem s n) hw

@[simp] theorem seamFail_canon (s : State) (n : Nat) (hw : Canonical s) : Canonical (seamFail s n) :=
  canonical_of_mem (seamFail_mem s n) hw

@[simp] theorem seamRetire_canon (s : State) (n : Nat) (dirB : Bool) (g : Nat) (hw : Canonical s) : Canonical (seamRetire s n dirB g) :=
  canonical_of_mem (seamRetire_mem s n dirB g) hw

@[simp] theorem seamTestEnd_canon (s : State) (n : Nat) (dirB : Bool) (g : Nat) (failing : Nat) (hw : Canonical s) : Canonical (seamTestEnd s n dirB g failing) :=
  canonical_of_mem (seamTestEnd_mem s n dirB g failing) hw

@[simp] theorem execSeamLaneTestEnd_canon (n : Panel) (dirB : Bool) (g : Fin 8) (failing : Nat) (s : State) (hw : Canonical s) : Ends Canonical (execSeamLaneTestEnd n dirB g failing s) :=
  ends_of_kept hw (execSeamLaneTestEnd_mem n dirB g failing s)

@[simp] theorem rerouteBit_canon (s : State) (p : Nat) (hw : Canonical s) : Canonical (rerouteBit s p) :=
  canonical_of_mem (rerouteBit_mem s p) hw

@[simp] theorem seamTrain_canon (s : State) (n : Nat) (hw : Canonical s) : Canonical (seamTrain s n) :=
  canonical_of_mem (seamTrain_mem s n) hw

end Sys2Proof.Machine
end

