-- ==== Sys2Proof/Laws/MemRails.lean ====
section
/-! SUPPORT. The operations of Machine/Rails.lean that leave memory alone. -/
namespace Sys2Proof.Machine

@[simp] theorem setRail_mem (s : State) (p : Nat) (v : RailSt) :
    (setRail s p v).mem = s.mem := by
  simp [setRail]

@[simp] theorem setVcore_mem (s : State) (p : Nat) (v : Nat) :
    (setVcore s p v).mem = s.mem := by
  simp [setVcore]

@[simp] theorem setVfab_mem (s : State) (p : Nat) (v : Nat) :
    (setVfab s p v).mem = s.mem := by
  simp [setVfab]

@[simp] theorem setCause_mem (s : State) (p : Nat) (n : Nat) :
    (setCause s p n).mem = s.mem := by
  simp [setCause]

@[simp] theorem limitPage_mem (on : Bool) (s : State) (page : Nat) :
    (limitPage on s page).mem = s.mem := by
  simp [limitPage]

@[simp] theorem railSettle_mem (s : State) (p : Nat) :
    (railSettle s p).mem = s.mem := by
  simp [railSettle]

@[simp] theorem lowerVcore_mem (s : State) (p : Nat) (mv : Nat) (cause : Nat) :
    (lowerVcore s p mv cause).mem = s.mem := by
  simp [lowerVcore]

@[simp] theorem lowerVfab_mem (s : State) (p : Nat) (mv : Nat) (cause : Nat) :
    (lowerVfab s p mv cause).mem = s.mem := by
  simp [lowerVfab]

@[simp] theorem raiseRails_mem (s : State) (p : Nat) (now : Nat) :
    (raiseRails s p now).mem = s.mem := by
  simp [raiseRails]

@[simp] theorem critReading_mem (s : State) (st : Nat) (crit : Bool) (below : Bool) :
    (critReading s st crit below).mem = s.mem := by
  simp [critReading]

end Sys2Proof.Machine
end

