-- ==== Sys2Proof/Laws/CanonRails.lean ====
section
/-! SUPPORT. The operations of Machine/Rails.lean keep memory in its canonical form. -/
namespace Sys2Proof.Machine

@[simp] theorem setRail_canon (s : State) (p : Nat) (v : RailSt) (hw : Canonical s) : Canonical (setRail s p v) :=
  canonical_of_mem (setRail_mem s p v) hw

@[simp] theorem setVcore_canon (s : State) (p : Nat) (v : Nat) (hw : Canonical s) : Canonical (setVcore s p v) :=
  canonical_of_mem (setVcore_mem s p v) hw

@[simp] theorem setVfab_canon (s : State) (p : Nat) (v : Nat) (hw : Canonical s) : Canonical (setVfab s p v) :=
  canonical_of_mem (setVfab_mem s p v) hw

@[simp] theorem setCause_canon (s : State) (p : Nat) (n : Nat) (hw : Canonical s) : Canonical (setCause s p n) :=
  canonical_of_mem (setCause_mem s p n) hw

@[simp] theorem limitPage_canon (on : Bool) (s : State) (page : Nat) (hw : Canonical s) : Canonical (limitPage on s page) :=
  canonical_of_mem (limitPage_mem on s page) hw

@[simp] theorem railSettle_canon (s : State) (p : Nat) (hw : Canonical s) : Canonical (railSettle s p) :=
  canonical_of_mem (railSettle_mem s p) hw

@[simp] theorem lowerVcore_canon (s : State) (p : Nat) (mv : Nat) (cause : Nat) (hw : Canonical s) : Canonical (lowerVcore s p mv cause) :=
  canonical_of_mem (lowerVcore_mem s p mv cause) hw

@[simp] theorem lowerVfab_canon (s : State) (p : Nat) (mv : Nat) (cause : Nat) (hw : Canonical s) : Canonical (lowerVfab s p mv cause) :=
  canonical_of_mem (lowerVfab_mem s p mv cause) hw

@[simp] theorem raiseRails_canon (s : State) (p : Nat) (now : Nat) (hw : Canonical s) : Canonical (raiseRails s p now) :=
  canonical_of_mem (raiseRails_mem s p now) hw

@[simp] theorem critReading_canon (s : State) (st : Nat) (crit : Bool) (below : Bool) (hw : Canonical s) : Canonical (critReading s st crit below) :=
  canonical_of_mem (critReading_mem s st crit below) hw

end Sys2Proof.Machine
end

