-- ==== Sys2Proof/Laws/MemMemory.lean ====
section
/-! SUPPORT. The operations of Machine/Memory.lean that leave memory alone. -/
namespace Sys2Proof.Machine

@[simp] theorem hbmClip_mem (s : State) (st : Nat) :
    (hbmClip s st).mem = s.mem := by
  simp [hbmClip]

@[simp] theorem thermalNotice_mem (s : State) :
    (thermalNotice s).mem = s.mem := by
  simp [thermalNotice]

@[simp] theorem tempReading_mem (s : State) (st : Nat) (temp : Nat) (rise : Bool) :
    (tempReading s st temp rise).mem = s.mem := by
  simp [tempReading]

@[simp] theorem execHbmTempReading_mem (st : Stack) (temp : Byte) (riseAllowed : Bool) (s : State) :
    Kept State.mem s (execHbmTempReading st temp riseAllowed s) := by
  simp [execHbmTempReading]

@[simp] theorem execThrottleWindow_mem (st : Stack) (s : State) :
    Kept State.mem s (execThrottleWindow st s) := by
  simp [execThrottleWindow]

@[simp] theorem repairResult_mem (s : State) (st : Nat) (n : Nat) :
    (repairResult s st n).mem = s.mem := by
  simp [repairResult]

@[simp] theorem retireWrite_mem (s : State) (st : Nat) (e : Nat) (v : Word) (own : Bool) :
    (retireWrite s st e v own).mem = s.mem := by
  simp [retireWrite]

@[simp] theorem execRetireWrite_mem (mid : Mid) (st : Stack) (e : Byte) (value : Word) (s : State) :
    Kept State.mem s (execRetireWrite mid st e value s) := by
  simp [execRetireWrite]

@[simp] theorem wayModeWrite_mem (s : State) (p : Nat) (v : Word) :
    (wayModeWrite s p v).mem = s.mem := by
  simp [wayModeWrite]

@[simp] theorem execLlcWayModeWrite_mem (mid : Mid) (p : Panel) (value : BitVec 16) (s : State) :
    Kept State.mem s (execLlcWayModeWrite mid p value s) := by
  simp [execLlcWayModeWrite]

end Sys2Proof.Machine
end

