-- ==== Sys2Proof/Laws/CanonMemory.lean ====
section
/-! SUPPORT. The operations of Machine/Memory.lean keep memory in its canonical form. -/
namespace Sys2Proof.Machine

@[simp] theorem hbmEcc_canon (s : State) (g : Nat) (e : Ecc) (hw : Canonical s) :
    Canonical (hbmEcc s g e) := by
  unfold hbmEcc; (repeat' split) <;> simp +contextual (maxDischargeDepth := 40) [hw]

@[simp] theorem hbmAccess_canon (s : State) (a : Nat) (op : MemOp) (e : Ecc) (hw : Canonical s) :
    Canonical (hbmAccess s a op e) := by
  unfold hbmAccess; (repeat' split) <;> simp +contextual (maxDischargeDepth := 40) [hw]

@[simp] theorem execHbmAccess_canon (addr : Word) (op : MemOp) (ecc : Ecc) (s : State) (hw : Canonical s) :
    Ends Canonical (execHbmAccess addr op ecc s) := by
  simp +contextual (maxDischargeDepth := 40) [execHbmAccess, hw]

@[simp] theorem trainDone_canon (s : State) (st : Nat) (full : Bool) (ok : Bool) (hw : Canonical s) :
    Canonical (trainDone s st full ok) := by
  simp +contextual (maxDischargeDepth := 40) [trainDone, hw]

@[simp] theorem execHbmTrainDone_canon (st : Stack) (full : Bool) (ok : Bool) (s : State) (hw : Canonical s) :
    Ends Canonical (execHbmTrainDone st full ok s) := by
  simp +contextual (maxDischargeDepth := 40) [execHbmTrainDone, hw]

@[simp] theorem ieeeWrite_canon (s : State) (st : Nat) (v : Word) (own : Bool) (hw : Canonical s) :
    Canonical (ieeeWrite s st v own) := by
  simp +contextual (maxDischargeDepth := 40) [ieeeWrite, hw]

@[simp] theorem execHbm1500Go_canon (mid : Mid) (st : Stack) (ctl : Word) (s : State) (hw : Canonical s) :
    Ends Canonical (execHbm1500Go mid st ctl s) := by
  simp +contextual (maxDischargeDepth := 40) [execHbm1500Go, hw]

@[simp] theorem ieeeDone_canon (s : State) (st : Nat) (out : Word) (hw : Canonical s) : Canonical (ieeeDone s st out) := by
  unfold ieeeDone; (repeat' split) <;> simp +contextual (maxDischargeDepth := 40) [hw]

@[simp] theorem execHbm1500Done_canon (st : Stack) (out : Word) (s : State) (hw : Canonical s) :
    Ends Canonical (execHbm1500Done st out s) := by
  simp +contextual (maxDischargeDepth := 40) [execHbm1500Done, hw]

@[simp] theorem scrubGranule_canon (s : State) (st : Nat) (a : Nat) (e : Ecc) (last : Bool) (hw : Canonical s) :
    Canonical (scrubGranule s st a e last) := by
  simp +contextual (maxDischargeDepth := 40) [scrubGranule, hw]

@[simp] theorem execHbmScrubGranule_canon (st : Stack) (addr : Word) (ecc : Ecc) (last : Bool) (s : State) (hw : Canonical s) :
    Ends Canonical (execHbmScrubGranule st addr ecc last s) := by
  simp +contextual (maxDischargeDepth := 40) [execHbmScrubGranule, hw]

@[simp] theorem hbmClip_canon (s : State) (st : Nat) (hw : Canonical s) : Canonical (hbmClip s st) :=
  canonical_of_mem (hbmClip_mem s st) hw

@[simp] theorem thermalNotice_canon (s : State) (hw : Canonical s) : Canonical (thermalNotice s) :=
  canonical_of_mem (thermalNotice_mem s) hw

@[simp] theorem tempReading_canon (s : State) (st : Nat) (temp : Nat) (rise : Bool) (hw : Canonical s) : Canonical (tempReading s st temp rise) :=
  canonical_of_mem (tempReading_mem s st temp rise) hw

@[simp] theorem execHbmTempReading_canon (st : Stack) (temp : Byte) (riseAllowed : Bool) (s : State) (hw : Canonical s) : Ends Canonical (execHbmTempReading st temp riseAllowed s) :=
  ends_of_kept hw (execHbmTempReading_mem st temp riseAllowed s)

@[simp] theorem execThrottleWindow_canon (st : Stack) (s : State) (hw : Canonical s) : Ends Canonical (execThrottleWindow st s) :=
  ends_of_kept hw (execThrottleWindow_mem st s)

@[simp] theorem repairResult_canon (s : State) (st : Nat) (n : Nat) (hw : Canonical s) : Canonical (repairResult s st n) :=
  canonical_of_mem (repairResult_mem s st n) hw

@[simp] theorem spareGranule_canon (s : State) (st : Nat) (g : Nat) (e : Ecc) (hw : Canonical s) :
    Canonical (spareGranule s st g e) := by
  simp only [spareGranule]; (repeat' split) <;> simp +contextual (maxDischargeDepth := 40) [hw]

@[simp] theorem repairWrite_canon (s : State) (st : Nat) (v : Word) (e : Ecc) (hw : Canonical s) :
    Canonical (repairWrite s st v e) := by
  simp +contextual (maxDischargeDepth := 40) [repairWrite, hw]

@[simp] theorem execSoftRepair_canon (mid : Mid) (st : Stack) (addr : Word) (s : State) (hw : Canonical s) :
    Ends Canonical (execSoftRepair mid st addr s) := by
  simp +contextual (maxDischargeDepth := 40) [execSoftRepair, hw]

@[simp] theorem repairDone_canon (s : State) (st : Nat) (resource : Bool) (hw : Canonical s) :
    Canonical (repairDone s st resource) := by
  simp +contextual (maxDischargeDepth := 40) [repairDone, hw]

@[simp] theorem execSoftRepairDone_canon (st : Stack) (resource : Bool) (s : State) (hw : Canonical s) :
    Ends Canonical (execSoftRepairDone st resource s) := by
  simp +contextual (maxDischargeDepth := 40) [execSoftRepairDone, hw]

@[simp] theorem execSparingEntry_canon (mid : Mid) (st : Stack) (addr : Word) (ecc : Ecc) (s : State) (hw : Canonical s) :
    Ends Canonical (execSparingEntry mid st addr ecc s) := by
  simp +contextual (maxDischargeDepth := 40) [execSparingEntry, hw]

@[simp] theorem retireWrite_canon (s : State) (st : Nat) (e : Nat) (v : Word) (own : Bool) (hw : Canonical s) : Canonical (retireWrite s st e v own) :=
  canonical_of_mem (retireWrite_mem s st e v own) hw

@[simp] theorem execRetireWrite_canon (mid : Mid) (st : Stack) (e : Byte) (value : Word) (s : State) (hw : Canonical s) : Ends Canonical (execRetireWrite mid st e value s) :=
  ends_of_kept hw (execRetireWrite_mem mid st e value s)

@[simp] theorem llcPoison_canon (s : State) (a : Nat) (hw : Canonical s) :
    Canonical (llcPoison s a) := by
  unfold llcPoison; (repeat' split) <;> simp +contextual (maxDischargeDepth := 40) [hw]

@[simp] theorem llcEcc_canon (s : State) (p : Nat) (a : Nat) (e : LlcEcc) (hw : Canonical s) :
    Canonical (llcEcc s p a e) := by
  unfold llcEcc; (repeat' split) <;> simp +contextual (maxDischargeDepth := 40) [hw]

@[simp] theorem llcAccess_canon (s : State) (mid : Nat) (a : Nat) (op : MemOp) (e : LlcEcc) (hw : Canonical s) :
    Canonical (llcAccess s mid a op e) := by
  unfold llcAccess; (repeat' split) <;> simp +contextual (maxDischargeDepth := 40) [hw]

@[simp] theorem execLlcAccess_canon (mid : Mid) (addr : Word) (op : MemOp) (ecc : LlcEcc) (s : State) (hw : Canonical s) :
    Ends Canonical (execLlcAccess mid addr op ecc s) := by
  simp +contextual (maxDischargeDepth := 40) [execLlcAccess, hw]

@[simp] theorem wayModeWrite_canon (s : State) (p : Nat) (v : Word) (hw : Canonical s) : Canonical (wayModeWrite s p v) :=
  canonical_of_mem (wayModeWrite_mem s p v) hw

@[simp] theorem execLlcWayModeWrite_canon (mid : Mid) (p : Panel) (value : BitVec 16) (s : State) (hw : Canonical s) : Ends Canonical (execLlcWayModeWrite mid p value s) :=
  ends_of_kept hw (execLlcWayModeWrite_mem mid p value s)

@[simp] theorem writeBackLines_canon (s : State) (lines : List Nat) (hw : Canonical s) :
    Canonical (writeBackLines s lines) := by
  unfold writeBackLines
  refine canonical_foldl _ (fun a b h => ?_) _ _ hw
  (repeat' split) <;> simp (maxDischargeDepth := 40) [h]

@[simp] theorem zeroWay_canon (s : State) (p : Nat) (w : Nat) (hw : Canonical s) :
    Canonical (zeroWay s p w) := by
  simp +contextual (maxDischargeDepth := 40) [zeroWay, hw]

@[simp] theorem wayChangeDone_canon (s : State) (p : Nat) (hw : Canonical s) :
    Canonical (wayChangeDone s p) := by
  simp +contextual (maxDischargeDepth := 40) [wayChangeDone, hw]

@[simp] theorem execWayChangeDone_canon (p : Panel) (s : State) (hw : Canonical s) :
    Ends Canonical (execWayChangeDone p s) := by
  simp +contextual (maxDischargeDepth := 40) [execWayChangeDone, hw]

@[simp] theorem flushStart_canon (s : State) (p : Nat) (hw : Canonical s) :
    Canonical (flushStart s p) := by
  simp +contextual (maxDischargeDepth := 40) [flushStart, hw]

@[simp] theorem execFlush_canon (mid : Mid) (p : Panel) (s : State) (hw : Canonical s) :
    Ends Canonical (execFlush mid p s) := by
  simp +contextual (maxDischargeDepth := 40) [execFlush, hw]

@[simp] theorem flushDone_canon (s : State) (p : Nat) (hw : Canonical s) :
    Canonical (flushDone s p) := by
  simp +contextual (maxDischargeDepth := 40) [flushDone, hw]

@[simp] theorem execFlushDone_canon (p : Panel) (s : State) (hw : Canonical s) :
    Ends Canonical (execFlushDone p s) := by
  simp +contextual (maxDischargeDepth := 40) [execFlushDone, hw]

end Sys2Proof.Machine
end

