-- ==== Sys2Proof/Laws/MemWire.lean ====
section
/-! SUPPORT. The operations of Machine/Wire.lean that leave memory alone. -/
namespace Sys2Proof.Machine

@[simp] theorem setDrr_mem (s : State) (p : Nat) (v : DrrSt) :
    (setDrr s p v).mem = s.mem := by
  simp [setDrr]

end Sys2Proof.Machine
end

