-- ==== Sys2Proof/Laws/CanonWire.lean ====
section
/-! SUPPORT. The operations of Machine/Wire.lean keep memory in its canonical form. -/
namespace Sys2Proof.Machine

@[simp] theorem setDrr_canon (s : State) (p : Nat) (v : DrrSt) (hw : Canonical s) : Canonical (setDrr s p v) :=
  canonical_of_mem (setDrr_mem s p v) hw

end Sys2Proof.Machine
end

