-- ==== Sys2Proof/Laws/MemLink.lean ====
section
/-! SUPPORT. The operations of Machine/Link.lean that leave memory alone. -/
namespace Sys2Proof.Machine

@[simp] theorem setPtr_mem (s : State) (e : Nat) (v : Partner) :
    (setPtr s e v).mem = s.mem := by
  simp [setPtr]

@[simp] theorem modPtr_mem (s : State) (e : Nat) (f : Partner → Partner) :
    (modPtr s e f).mem = s.mem := by
  simp [modPtr]

@[simp] theorem setGrp_mem (s : State) (g : Nat) (v : GroupSt) :
    (setGrp s g v).mem = s.mem := by
  simp [setGrp]

@[simp] theorem modGrp_mem (s : State) (g : Nat) (f : GroupSt → GroupSt) :
    (modGrp s g f).mem = s.mem := by
  simp [modGrp]

@[simp] theorem emitFrame_mem (s : State) (p : Nat) (dst : Nat) (f : WFrame) :
    (emitFrame s p dst f).mem = s.mem := by
  simp [emitFrame]

@[simp] theorem sendFrame_mem (s : State) (e : Nat) (port : Nat) (f : WFrame) :
    (sendFrame s e port f).mem = s.mem := by
  simp [sendFrame]

@[simp] theorem sendCtl_mem (s : State) (e : Nat) (c : Nat) (type : Nat) (attr : Nat) (port : Option Nat) :
    (sendCtl s e c type attr port).mem = s.mem := by
  simp only [sendCtl]; (repeat' split) <;> simp

@[simp] theorem takeGrpXseq_mem (s : State) (c : Nat) :
    (takeGrpXseq s c).1.mem = s.mem := by
  simp [takeGrpXseq]

@[simp] theorem sendGrpCtl_mem (s : State) (g : Nat) (type : Nat) :
    (sendGrpCtl s g type).mem = s.mem := by
  simp only [sendGrpCtl]; (repeat' split) <;> simp

@[simp] theorem takeCredit_mem (s : State) (e : Nat) (c : Nat) :
    (takeCredit s e c).mem = s.mem := by
  simp [takeCredit]

@[simp] theorem creditIn_mem (s : State) (e : Nat) (c : Nat) (credit : Nat) :
    (creditIn s e c credit).mem = s.mem := by
  simp [creditIn]

@[simp] theorem clearReports_mem (s : State) (e : Nat) (ports : List Nat) :
    (clearReports s e ports).mem = s.mem := by
  simp [clearReports]

@[simp] theorem reportPort_mem (s : State) (e : Nat) (i : Nat) :
    (reportPort s e i).mem = s.mem := by
  simp [reportPort]

@[simp] theorem mirrorSettle_mem (s : State) :
    (mirrorSettle s).mem = s.mem := by
  unfold mirrorSettle; (repeat' split) <;> simp

@[simp] theorem snapSettle_mem (s : State) :
    (snapSettle s).mem = s.mem := by
  simp [snapSettle]

@[simp] theorem ackIn_mem (s : State) (e : Nat) (f : WFrame) :
    (ackIn s e f).mem = s.mem := by
  simp [ackIn]

@[simp] theorem legAcked_mem (s : State) (g : Nat) (l : Nat) (e : Nat) (f : WFrame) :
    (legAcked s g l e f).mem = s.mem := by
  simp [legAcked]

@[simp] theorem rxCheck_mem (s : State) (p : Nat) (f : WFrame) (chk : RxCheck) :
    (rxCheck s p f chk).1.mem = s.mem := by
  simp only [rxCheck]; (repeat' split) <;> simp

@[simp] theorem receive_mem (s : State) (p : Nat) (f : WFrame) (chk : RxCheck) (type : Nat) (act : State → RxTo → State) (hact : ∀ a0 a1, (act a0 a1).mem = a0.mem) :
    (receive s p f chk type act).mem = s.mem := by
  simp only [receive]; (repeat' split) <;> simp_all

@[simp] theorem noteXseq_mem (s : State) (e : Nat) (f : WFrame) :
    (noteXseq s e f).mem = s.mem := by
  simp [noteXseq]

@[simp] theorem dataUni_mem (s : State) (p : Nat) (e : Nat) (f : WFrame) :
    (dataUni s p e f).mem = s.mem := by
  simp [dataUni]

@[simp] theorem dataMember_mem (s : State) (p : Nat) (e : Nat) (g : Nat) (own : Bool) (f : WFrame) :
    (dataMember s p e g own f).mem = s.mem := by
  simp [dataMember]

@[simp] theorem execDataFrameRx_mem (p : Port) (f : WFrame) (chk : RxCheck) (s : State) :
    Kept State.mem s (execDataFrameRx p f chk s) := by
  simp only [execDataFrameRx, kept_next]
  apply receive_mem
  intro a b
  cases b <;> simp

@[simp] theorem freeSlot_mem (s : State) (src : RxStream) (seq : Nat) (credit : Bool) :
    (freeSlot s src seq credit).mem = s.mem := by
  unfold freeSlot; (repeat' split) <;> simp

@[simp] theorem ingressFreeze_mem (s : State) (src : RxStream) (seq : Nat) :
    (ingressFreeze s src seq).mem = s.mem := by
  unfold ingressFreeze; (repeat' split) <;> simp

@[simp] theorem probeAnswered_mem (s : State) (e : Nat) (p : Nat) :
    (probeAnswered s e p).mem = s.mem := by
  simp [probeAnswered]

@[simp] theorem execKeepaliveRx_mem (p : Port) (f : WFrame) (chk : RxCheck) (s : State) :
    Kept State.mem s (execKeepaliveRx p f chk s) := by
  simp only [execKeepaliveRx, kept_next]
  apply receive_mem
  intro a b
  cases b <;> simp <;> (repeat' split) <;> simp

@[simp] theorem takeOut_mem (s : State) (group : Bool) (k : Nat) (f : WFrame) :
    (takeOut s group k f).mem = s.mem := by
  simp [takeOut]

@[simp] theorem queueOut_mem (s : State) (o : Bool × Nat × WFrame) :
    (queueOut s o).mem = s.mem := by
  simp [queueOut]

@[simp] theorem portTurn_mem (s : State) (p : Nat) (c : Nat) (len : Nat) :
    (portTurn s p c len).1.mem = s.mem := by
  simp only [portTurn]; (repeat' split) <;> simp

@[simp] theorem execAckDelay_mem (src : RxStream) (s : State) :
    Kept State.mem s (execAckDelay src s) := by
  unfold execAckDelay; (repeat' split) <;> simp

@[simp] theorem execProbeKeepalive_mem (e : Nat) (p : Port) (s : State) :
    Kept State.mem s (execProbeKeepalive e p s) := by
  simp [execProbeKeepalive]

@[simp] theorem liveness_mem (s : State) (e : Nat) :
    (liveness s e).mem = s.mem := by
  simp [liveness]

@[simp] theorem execLivenessWindow_mem (e : Nat) (s : State) :
    Kept State.mem s (execLivenessWindow e s) := by
  simp [execLivenessWindow]

@[simp] theorem portBtn_mem (s : State) (p : Nat) :
    (portBtn s p).mem = s.mem := by
  simp [portBtn]

@[simp] theorem trainCount_mem (s : State) (p : Nat) :
    (trainCount s p).mem = s.mem := by
  simp [trainCount]

@[simp] theorem execLldpCapture_mem (p : Port) (bytes : List Byte) (s : State) :
    Kept State.mem s (execLldpCapture p bytes s) := by
  simp [execLldpCapture]

@[simp] theorem execPfcReceived_mem (p : Port) (classes : BitVec 8) (time : Nat) (s : State) :
    Kept State.mem s (execPfcReceived p classes time s) := by
  simp [execPfcReceived]

@[simp] theorem execPfcPauseEnd_mem (p : Port) (s : State) :
    Kept State.mem s (execPfcPauseEnd p s) := by
  simp [execPfcPauseEnd]

@[simp] theorem cmdResult_mem (s : State) (p : Nat) (n : Nat) (busy : Bool) :
    (cmdResult s p n busy).mem = s.mem := by
  simp [cmdResult]

@[simp] theorem loadEntry_mem (s : State) (e : Nat) (v : Word × Word) :
    (loadEntry s e v).mem = s.mem := by
  simp [loadEntry]

@[simp] theorem partnerCmdWrite_mem (s : State) (p : Nat) (v : Word) :
    (partnerCmdWrite s p v).mem = s.mem := by
  simp only [partnerCmdWrite]; (repeat' split) <;> simp

@[simp] theorem execLoad_mem (mid : Mid) (link : Panel) (e : Nat) (s : State) :
    Kept State.mem s (execLoad mid link e s) := by
  simp [execLoad]

@[simp] theorem execPartnerRedraw_mem (mid : Mid) (link : Panel) (e : Nat) (s : State) :
    Kept State.mem s (execPartnerRedraw mid link e s) := by
  simp [execPartnerRedraw]

@[simp] theorem execRemove_mem (mid : Mid) (link : Panel) (e : Nat) (s : State) :
    Kept State.mem s (execRemove mid link e s) := by
  simp [execRemove]

@[simp] theorem auditLegs_mem (s : State) (e : Nat) :
    (auditLegs s e).mem = s.mem := by
  unfold auditLegs
  apply foldl_mem
  intro a b
  split <;> simp

@[simp] theorem creditAudit_mem (s : State) (e : Nat) :
    (creditAudit s e).mem = s.mem := by
  simp [creditAudit]

@[simp] theorem execCreditAudit_mem (e : Nat) (s : State) :
    Kept State.mem s (execCreditAudit e s) := by
  simp [execCreditAudit]

@[simp] theorem grpCfgWrite_mem (s : State) (g : Nat) (v : Word) :
    (grpCfgWrite s g v).mem = s.mem := by
  simp [grpCfgWrite]

@[simp] theorem execGroupValidWrite_mem (mid : Mid) (g : Nat) (value : Word) (s : State) :
    Kept State.mem s (execGroupValidWrite mid g value s) := by
  simp [execGroupValidWrite]

@[simp] theorem selfRankWrite_mem (s : State) (p : Nat) (v : Word) :
    (selfRankWrite s p v).mem = s.mem := by
  simp [selfRankWrite]

@[simp] theorem execSelfRankWrite_mem (mid : Mid) (link : Panel) (value : Word) (s : State) :
    Kept State.mem s (execSelfRankWrite mid link value s) := by
  simp [execSelfRankWrite]

end Sys2Proof.Machine
end

