-- ==== Sys2Proof/Laws/CanonLink.lean ====
section
/-! SUPPORT. The operations of Machine/Link.lean keep memory in its canonical form. -/
namespace Sys2Proof.Machine

@[simp] theorem setPtr_canon (s : State) (e : Nat) (v : Partner) (hw : Canonical s) : Canonical (setPtr s e v) :=
  canonical_of_mem (setPtr_mem s e v) hw

@[simp] theorem modPtr_canon (s : State) (e : Nat) (f : Partner → Partner) (hw : Canonical s) : Canonical (modPtr s e f) :=
  canonical_of_mem (modPtr_mem s e f) hw

@[simp] theorem setGrp_canon (s : State) (g : Nat) (v : GroupSt) (hw : Canonical s) : Canonical (setGrp s g v) :=
  canonical_of_mem (setGrp_mem s g v) hw

@[simp] theorem modGrp_canon (s : State) (g : Nat) (f : GroupSt → GroupSt) (hw : Canonical s) : Canonical (modGrp s g f) :=
  canonical_of_mem (modGrp_mem s g f) hw

@[simp] theorem emitFrame_canon (s : State) (p : Nat) (dst : Nat) (f : WFrame) (hw : Canonical s) : Canonical (emitFrame s p dst f) :=
  canonical_of_mem (emitFrame_mem s p dst f) hw

@[simp] theorem sendFrame_canon (s : State) (e : Nat) (port : Nat) (f : WFrame) (hw : Canonical s) : Canonical (sendFrame s e port f) :=
  canonical_of_mem (sendFrame_mem s e port f) hw

@[simp] theorem sendCtl_canon (s : State) (e : Nat) (c : Nat) (type : Nat) (attr : Nat) (port : Option Nat) (hw : Canonical s) : Canonical (sendCtl s e c type attr port) :=
  canonical_of_mem (sendCtl_mem s e c type attr port) hw

@[simp] theorem takeGrpXseq_canon (s : State) (c : Nat) (hw : Canonical s) : Canonical ((takeGrpXseq s c).1) :=
  canonical_of_mem (takeGrpXseq_mem s c) hw

@[simp] theorem replayPut_canon (s : State) (p : Nat) (slot : Nat) (b : List Byte) (hw : Canonical s) : Canonical (replayPut s p slot b) := by
  simp +contextual (maxDischargeDepth := 40) [replayPut, hw]

@[simp] theorem replayGet_canon (s : State) (p : Nat) (slot : Nat) (f : WFrame) (hw : Canonical s) : Canonical ((replayGet s p slot f).1) := by
  simp +contextual (maxDischargeDepth := 40) [replayGet, hw]

@[simp] theorem sendGrpCtl_canon (s : State) (g : Nat) (type : Nat) (hw : Canonical s) : Canonical (sendGrpCtl s g type) :=
  canonical_of_mem (sendGrpCtl_mem s g type) hw

@[simp] theorem sendLeg_canon (s : State) (g : Nat) (l : Nat) (t : GTx) (retx : Bool) (nack : Bool) (hw : Canonical s) : Canonical (sendLeg s g l t retx nack) := by
  simp only [sendLeg]; (repeat' split) <;> simp +contextual (maxDischargeDepth := 40) [hw]

@[simp] theorem takeCredit_canon (s : State) (e : Nat) (c : Nat) (hw : Canonical s) : Canonical (takeCredit s e c) :=
  canonical_of_mem (takeCredit_mem s e c) hw

@[simp] theorem serveLeg_canon (z0 : Nat) (z1 : State) (z2 : Nat) (z3 : Nat) (hw : Canonical z1) : Canonical (serveLeg z0 z1 z2 z3) := by
  induction z0 generalizing z1 z2 z3 with
    | zero => simpa [serveLeg] using hw
    | succ n ih => simp only [serveLeg]; (repeat' split) <;> simp +contextual (maxDischargeDepth := 40) [ih, hw]

@[simp] theorem detachLeg_canon (s : State) (g : Nat) (l : Nat) (hw : Canonical s) : Canonical (detachLeg s g l) := by
  simp +contextual (maxDischargeDepth := 40) [detachLeg, hw]

@[simp] theorem judgeLegs_canon (s : State) (g : Nat) (hw : Canonical s) : Canonical (judgeLegs s g) := by
  unfold judgeLegs
  apply canonical_foldl
  · intro a b ha
    (repeat' split) <;> simp +contextual (maxDischargeDepth := 40) [ha]
  · exact hw

@[simp] theorem serveLegs_canon (s : State) (g : Nat) (hw : Canonical s) : Canonical (serveLegs s g) := by
  simp +contextual (maxDischargeDepth := 40) [serveLegs, hw]

@[simp] theorem creditIn_canon (s : State) (e : Nat) (c : Nat) (credit : Nat) (hw : Canonical s) : Canonical (creditIn s e c credit) :=
  canonical_of_mem (creditIn_mem s e c credit) hw

@[simp] theorem clearReports_canon (s : State) (e : Nat) (ports : List Nat) (hw : Canonical s) : Canonical (clearReports s e ports) :=
  canonical_of_mem (clearReports_mem s e ports) hw

@[simp] theorem reportPort_canon (s : State) (e : Nat) (i : Nat) (hw : Canonical s) : Canonical (reportPort s e i) :=
  canonical_of_mem (reportPort_mem s e i) hw

@[simp] theorem mirrorSettle_canon (s : State) (hw : Canonical s) : Canonical (mirrorSettle s) :=
  canonical_of_mem (mirrorSettle_mem s) hw

@[simp] theorem snapSettle_canon (s : State) (hw : Canonical s) : Canonical (snapSettle s) :=
  canonical_of_mem (snapSettle_mem s) hw

@[simp] theorem ackIn_canon (s : State) (e : Nat) (f : WFrame) (hw : Canonical s) : Canonical (ackIn s e f) :=
  canonical_of_mem (ackIn_mem s e f) hw

@[simp] theorem retransmit_canon (s : State) (e : Nat) (t : TxFrame) (nack : Bool) (hw : Canonical s) : Canonical (retransmit s e t nack) := by
  simp only [retransmit]; (repeat' split) <;> simp +contextual (maxDischargeDepth := 40) [hw]

@[simp] theorem nackIn_canon (s : State) (e : Nat) (f : WFrame) (hw : Canonical s) : Canonical (nackIn s e f) := by
  simp +contextual (maxDischargeDepth := 40) [nackIn, hw]

@[simp] theorem resendLeg_canon (s : State) (g : Nat) (l : Nat) (e : Nat) (t : GTx) (hw : Canonical s) : Canonical (resendLeg s g l e t) := by
  unfold resendLeg; (repeat' split) <;> simp +contextual (maxDischargeDepth := 40) [hw]

@[simp] theorem legAcked_canon (s : State) (g : Nat) (l : Nat) (e : Nat) (f : WFrame) (hw : Canonical s) : Canonical (legAcked s g l e f) :=
  canonical_of_mem (legAcked_mem s g l e f) hw

@[simp] theorem legNacked_canon (s : State) (g : Nat) (l : Nat) (e : Nat) (f : WFrame) (hw : Canonical s) : Canonical (legNacked s g l e f) := by
  simp +contextual (maxDischargeDepth := 40) [legNacked, hw]

@[simp] theorem legAck_canon (s : State) (g : Nat) (l : Nat) (e : Nat) (f : WFrame) (nack : Bool) (hw : Canonical s) : Canonical (legAck s g l e f nack) := by
  simp +contextual (maxDischargeDepth := 40) [legAck, hw]

@[simp] theorem rxCheck_canon (s : State) (p : Nat) (f : WFrame) (chk : RxCheck) (hw : Canonical s) : Canonical ((rxCheck s p f chk).1) :=
  canonical_of_mem (rxCheck_mem s p f chk) hw

@[simp] theorem receive_canon (s : State) (p : Nat) (f : WFrame) (chk : RxCheck) (type : Nat) (act : State → RxTo → State) (hact : ∀ a0 a1, Canonical a0 → Canonical (act a0 a1)) (hw : Canonical s) :
    Canonical (receive s p f chk type act) := by
  simp only [receive]; (repeat' split) <;> simp +contextual (maxDischargeDepth := 40) [hw, hact]

@[simp] theorem noteXseq_canon (s : State) (e : Nat) (f : WFrame) (hw : Canonical s) : Canonical (noteXseq s e f) :=
  canonical_of_mem (noteXseq_mem s e f) hw

@[simp] theorem dataUni_canon (s : State) (p : Nat) (e : Nat) (f : WFrame) (hw : Canonical s) : Canonical (dataUni s p e f) :=
  canonical_of_mem (dataUni_mem s p e f) hw

@[simp] theorem dataMember_canon (s : State) (p : Nat) (e : Nat) (g : Nat) (own : Bool) (f : WFrame) (hw : Canonical s) : Canonical (dataMember s p e g own f) :=
  canonical_of_mem (dataMember_mem s p e g own f) hw

@[simp] theorem execDataFrameRx_canon (p : Port) (f : WFrame) (chk : RxCheck) (s : State) (hw : Canonical s) : Ends Canonical (execDataFrameRx p f chk s) :=
  ends_of_kept hw (execDataFrameRx_mem p f chk s)

@[simp] theorem freeSlot_canon (s : State) (src : RxStream) (seq : Nat) (credit : Bool) (hw : Canonical s) : Canonical (freeSlot s src seq credit) :=
  canonical_of_mem (freeSlot_mem s src seq credit) hw

@[simp] theorem ingressFreeze_canon (s : State) (src : RxStream) (seq : Nat) (hw : Canonical s) : Canonical (ingressFreeze s src seq) :=
  canonical_of_mem (ingressFreeze_mem s src seq) hw

@[simp] theorem probeAnswered_canon (s : State) (e : Nat) (p : Nat) (hw : Canonical s) : Canonical (probeAnswered s e p) :=
  canonical_of_mem (probeAnswered_mem s e p) hw

@[simp] theorem legsOfEntry_canon (s : State) (e : Nat) (hw : Canonical s) : Canonical (legsOfEntry s e) := by
  simp +contextual (maxDischargeDepth := 40) [legsOfEntry, hw]

@[simp] theorem execAckFrameRx_canon (p : Port) (f : WFrame) (chk : RxCheck) (s : State) (hw : Canonical s) : Ends Canonical (execAckFrameRx p f chk s) := by
  simp only [execAckFrameRx, ends_next]
  apply receive_canon
  · intro a b ha
    cases b <;> simp +contextual (maxDischargeDepth := 40) [ha]
  · exact hw

@[simp] theorem execNackFrameRx_canon (p : Port) (f : WFrame) (chk : RxCheck) (s : State) (hw : Canonical s) : Ends Canonical (execNackFrameRx p f chk s) := by
  simp only [execNackFrameRx, ends_next]
  apply receive_canon
  · intro a b ha
    cases b <;> simp +contextual (maxDischargeDepth := 40) [ha]
  · exact hw

@[simp] theorem execKeepaliveRx_canon (p : Port) (f : WFrame) (chk : RxCheck) (s : State) (hw : Canonical s) : Ends Canonical (execKeepaliveRx p f chk s) :=
  ends_of_kept hw (execKeepaliveRx_mem p f chk s)

@[simp] theorem takeOut_canon (s : State) (group : Bool) (k : Nat) (f : WFrame) (hw : Canonical s) : Canonical (takeOut s group k f) :=
  canonical_of_mem (takeOut_mem s group k f) hw

@[simp] theorem queueOut_canon (s : State) (o : Bool × Nat × WFrame) (hw : Canonical s) : Canonical (queueOut s o) :=
  canonical_of_mem (queueOut_mem s o) hw

@[simp] theorem portTurn_canon (s : State) (p : Nat) (c : Nat) (len : Nat) (hw : Canonical s) : Canonical ((portTurn s p c len).1) :=
  canonical_of_mem (portTurn_mem s p c len) hw

@[simp] theorem dataTx_canon (s : State) (e : Nat) (f : WFrame) (hw : Canonical s) : Canonical (dataTx s e f) := by
  unfold dataTx; (repeat' split) <;> simp +contextual (maxDischargeDepth := 40) [hw]

@[simp] theorem execDataFrameTx_canon (e : Nat) (f : WFrame) (s : State) (hw : Canonical s) : Ends Canonical (execDataFrameTx e f s) := by
  simp +contextual (maxDischargeDepth := 40) [execDataFrameTx, hw]

@[simp] theorem execAckDelay_canon (src : RxStream) (s : State) (hw : Canonical s) : Ends Canonical (execAckDelay src s) :=
  ends_of_kept hw (execAckDelay_mem src s)

@[simp] theorem regroup_canon (s : State) (g : Nat) (t : GTx) (hw : Canonical s) : Canonical (regroup s g t) := by
  simp only [regroup]; (repeat' split) <;> simp +contextual (maxDischargeDepth := 40) [hw]

@[simp] theorem timeout_canon (s : State) (d : TxStream) (hw : Canonical s) : Canonical (timeout s d) := by
  cases d with
  | entry e c => simp only [timeout]; (repeat' split) <;> simp +contextual (maxDischargeDepth := 40) [hw]
  | leg g l => simp only [timeout]; (repeat' split) <;> simp +contextual (maxDischargeDepth := 40) [hw]
  | group g =>
    simp only [timeout]
    split
    · exact hw
    split
    · exact hw
    apply regroup_canon
    apply canonical_foldl
    · intro a b ha
      split <;> simp +contextual (maxDischargeDepth := 40) [ha]
    · simp +contextual (maxDischargeDepth := 40) [hw]

@[simp] theorem execRetxTimeout_canon (dst : TxStream) (s : State) (hw : Canonical s) : Ends Canonical (execRetxTimeout dst s) := by
  simp +contextual (maxDischargeDepth := 40) [execRetxTimeout, hw]

@[simp] theorem execProbeKeepalive_canon (e : Nat) (p : Port) (s : State) (hw : Canonical s) : Ends Canonical (execProbeKeepalive e p s) :=
  ends_of_kept hw (execProbeKeepalive_mem e p s)

@[simp] theorem liveness_canon (s : State) (e : Nat) (hw : Canonical s) : Canonical (liveness s e) :=
  canonical_of_mem (liveness_mem s e) hw

@[simp] theorem execLivenessWindow_canon (e : Nat) (s : State) (hw : Canonical s) : Ends Canonical (execLivenessWindow e s) :=
  ends_of_kept hw (execLivenessWindow_mem e s)

@[simp] theorem groupTx_canon (s : State) (g : Nat) (f : WFrame) (hw : Canonical s) : Canonical (groupTx s g f) := by
  unfold groupTx; (repeat' split) <;> simp +contextual (maxDischargeDepth := 40) [hw]

@[simp] theorem execGroupFrameTx_canon (g : Nat) (f : WFrame) (s : State) (hw : Canonical s) : Ends Canonical (execGroupFrameTx g f s) := by
  simp +contextual (maxDischargeDepth := 40) [execGroupFrameTx, hw]

@[simp] theorem failover_canon (s : State) (p : Nat) (hw : Canonical s) : Canonical (failover s p) := by
  simp +contextual (maxDischargeDepth := 40) [failover, hw]

@[simp] theorem portBtn_canon (s : State) (p : Nat) (hw : Canonical s) : Canonical (portBtn s p) :=
  canonical_of_mem (portBtn_mem s p) hw

@[simp] theorem portTo_canon (s : State) (p : Nat) (st : Nat) (hw : Canonical s) : Canonical (portTo s p st) := by
  simp +contextual (maxDischargeDepth := 40) [portTo, hw]

@[simp] theorem trainCount_canon (s : State) (p : Nat) (hw : Canonical s) : Canonical (trainCount s p) :=
  canonical_of_mem (trainCount_mem s p) hw

@[simp] theorem trainStart_canon (s : State) (p : Nat) (hw : Canonical s) : Canonical (trainStart s p) := by
  simp +contextual (maxDischargeDepth := 40) [trainStart, hw]

@[simp] theorem portRise_canon (s : State) (p : Nat) (hw : Canonical s) : Canonical (portRise s p) := by
  simp +contextual (maxDischargeDepth := 40) [portRise, hw]

@[simp] theorem linkCtlWrite_canon (s : State) (p : Nat) (v : Word) (own : Bool) (hw : Canonical s) : Canonical (linkCtlWrite s p v own) := by
  simp +contextual (maxDischargeDepth := 40) [linkCtlWrite, hw]

@[simp] theorem execEnable_canon (mid : Mid) (p : Port) (value : Bool) (s : State) (hw : Canonical s) : Ends Canonical (execEnable mid p value s) := by
  simp +contextual (maxDischargeDepth := 40) [execEnable, hw]

@[simp] theorem execRetrain_canon (mid : Mid) (p : Port) (s : State) (hw : Canonical s) : Ends Canonical (execRetrain mid p s) := by
  simp +contextual (maxDischargeDepth := 40) [execRetrain, hw]

@[simp] theorem portAligned_canon (s : State) (p : Nat) (hw : Canonical s) : Canonical (portAligned s p) := by
  simp +contextual (maxDischargeDepth := 40) [portAligned, hw]

@[simp] theorem linkTrainDone_canon (s : State) (p : Nat) (ok : Bool) (hw : Canonical s) : Canonical (linkTrainDone s p ok) := by
  simp +contextual (maxDischargeDepth := 40) [linkTrainDone, hw]

@[simp] theorem execLinkTrainDone_canon (p : Port) (ok : Bool) (s : State) (hw : Canonical s) : Ends Canonical (execLinkTrainDone p ok s) := by
  simp +contextual (maxDischargeDepth := 40) [execLinkTrainDone, hw]

@[simp] theorem linkDown_canon (s : State) (p : Nat) (fault : Bool) (hw : Canonical s) : Canonical (linkDown s p fault) := by
  simp +contextual (maxDischargeDepth := 40) [linkDown, hw]

@[simp] theorem execLinkDown_canon (p : Port) (remoteFault : Bool) (s : State) (hw : Canonical s) : Ends Canonical (execLinkDown p remoteFault s) := by
  simp +contextual (maxDischargeDepth := 40) [execLinkDown, hw]

@[simp] theorem execLldpCapture_canon (p : Port) (bytes : List Byte) (s : State) (hw : Canonical s) : Ends Canonical (execLldpCapture p bytes s) :=
  ends_of_kept hw (execLldpCapture_mem p bytes s)

@[simp] theorem linkMacWrite_canon (s : State) (p : Nat) (v : Word) (hw : Canonical s) : Canonical (linkMacWrite s p v) := by
  simp +contextual (maxDischargeDepth := 40) [linkMacWrite, hw]

@[simp] theorem execLinkMacWrite_canon (mid : Mid) (p : Port) (addr : BitVec 48) (s : State) (hw : Canonical s) : Ends Canonical (execLinkMacWrite mid p addr s) := by
  simp +contextual (maxDischargeDepth := 40) [execLinkMacWrite, hw]

@[simp] theorem execHello_canon (p : Port) (addr : BitVec 48) (s : State) (hw : Canonical s) : Ends Canonical (execHello p addr s) := by
  simp +contextual (maxDischargeDepth := 40) [execHello, hw]

@[simp] theorem execPfcReceived_canon (p : Port) (classes : BitVec 8) (time : Nat) (s : State) (hw : Canonical s) : Ends Canonical (execPfcReceived p classes time s) :=
  ends_of_kept hw (execPfcReceived_mem p classes time s)

@[simp] theorem execPfcPauseEnd_canon (p : Port) (s : State) (hw : Canonical s) : Ends Canonical (execPfcPauseEnd p s) :=
  ends_of_kept hw (execPfcPauseEnd_mem p s)

@[simp] theorem cmdResult_canon (s : State) (p : Nat) (n : Nat) (busy : Bool) (hw : Canonical s) : Canonical (cmdResult s p n busy) :=
  canonical_of_mem (cmdResult_mem s p n busy) hw

@[simp] theorem loadEntry_canon (s : State) (e : Nat) (v : Word × Word) (hw : Canonical s) : Canonical (loadEntry s e v) :=
  canonical_of_mem (loadEntry_mem s e v) hw

@[simp] theorem partnerCmdWrite_canon (s : State) (p : Nat) (v : Word) (hw : Canonical s) : Canonical (partnerCmdWrite s p v) :=
  canonical_of_mem (partnerCmdWrite_mem s p v) hw

@[simp] theorem execLoad_canon (mid : Mid) (link : Panel) (e : Nat) (s : State) (hw : Canonical s) : Ends Canonical (execLoad mid link e s) :=
  ends_of_kept hw (execLoad_mem mid link e s)

@[simp] theorem execPartnerRedraw_canon (mid : Mid) (link : Panel) (e : Nat) (s : State) (hw : Canonical s) : Ends Canonical (execPartnerRedraw mid link e s) :=
  ends_of_kept hw (execPartnerRedraw_mem mid link e s)

@[simp] theorem execRemove_canon (mid : Mid) (link : Panel) (e : Nat) (s : State) (hw : Canonical s) : Ends Canonical (execRemove mid link e s) :=
  ends_of_kept hw (execRemove_mem mid link e s)

@[simp] theorem auditLegs_canon (s : State) (e : Nat) (hw : Canonical s) : Canonical (auditLegs s e) :=
  canonical_of_mem (auditLegs_mem s e) hw

@[simp] theorem creditAudit_canon (s : State) (e : Nat) (hw : Canonical s) : Canonical (creditAudit s e) :=
  canonical_of_mem (creditAudit_mem s e) hw

@[simp] theorem execCreditAudit_canon (e : Nat) (s : State) (hw : Canonical s) : Ends Canonical (execCreditAudit e s) :=
  ends_of_kept hw (execCreditAudit_mem e s)

@[simp] theorem grpCfgWrite_canon (s : State) (g : Nat) (v : Word) (hw : Canonical s) : Canonical (grpCfgWrite s g v) :=
  canonical_of_mem (grpCfgWrite_mem s g v) hw

@[simp] theorem execGroupValidWrite_canon (mid : Mid) (g : Nat) (value : Word) (s : State) (hw : Canonical s) : Ends Canonical (execGroupValidWrite mid g value s) :=
  ends_of_kept hw (execGroupValidWrite_mem mid g value s)

@[simp] theorem selfRankWrite_canon (s : State) (p : Nat) (v : Word) (hw : Canonical s) : Canonical (selfRankWrite s p v) :=
  canonical_of_mem (selfRankWrite_mem s p v) hw

@[simp] theorem execSelfRankWrite_canon (mid : Mid) (link : Panel) (value : Word) (s : State) (hw : Canonical s) : Ends Canonical (execSelfRankWrite mid link value s) :=
  ends_of_kept hw (execSelfRankWrite_mem mid link value s)

end Sys2Proof.Machine
end

