-- ==== Sys2Proof/Laws/MemFlags.lean ====
section
/-! SUPPORT. The operations of Machine/Flags.lean that leave memory alone. -/
namespace Sys2Proof.Machine

@[simp] theorem fbSave_mem (s : State) (c : Nat) (e : Nat) (task : Option Nat) :
    (fbSave s c e task).mem = s.mem := by
  unfold fbSave; (repeat' split) <;> simp

@[simp] theorem freeWatch_mem (s : State) (c : Nat) (e : Nat) :
    (freeWatch s c e).mem = s.mem := by
  simp [freeWatch]

@[simp] theorem estFull_mem (s : State) (c : Nat) (sid : Nat) (bytes : Nat) :
    (estFull s c sid bytes).mem = s.mem := by
  simp [estFull]

@[simp] theorem estRelease_mem (s : State) (c : Nat) (sid : Nat) (bytes : Nat) :
    (estRelease s c sid bytes).mem = s.mem := by
  simp [estRelease]

@[simp] theorem fbFire_mem (s : State) (task : Option Nat) (compute : Bool) (z3 : Option (Nat × Nat)) :
    (fbFire s task compute z3).mem = s.mem := by
  cases z3 <;> simp only [fbFire] <;> (repeat' split) <;> simp

@[simp] theorem fbComplete_mem (s : State) (z1 : Option (Nat × Nat)) :
    (fbComplete s z1).mem = s.mem := by
  cases z1 <;> simp [fbComplete]

@[simp] theorem fbGiveUp_mem (s : State) (z1 : Option (Nat × Nat)) :
    (fbGiveUp s z1).mem = s.mem := by
  cases z1 <;> simp [fbGiveUp]

@[simp] theorem fbRead_mem (s : State) (z1 : Option (Nat × Nat)) :
    (fbRead s z1).mem = s.mem := by
  cases z1 <;> simp only [fbRead] <;> (repeat' split) <;> simp

@[simp] theorem fbRelease_mem (s : State) (task : Option Nat) (z2 : Option (Nat × Nat)) :
    (fbRelease s task z2).mem = s.mem := by
  cases z2 <;> simp only [fbRelease] <;> (repeat' split) <;> simp

@[simp] theorem fbCmd_mem (s : State) (c : Nat) (e : Nat) (full : Bool) :
    (fbCmd s c e full).mem = s.mem := by
  simp [fbCmd]

@[simp] theorem fbParity_mem (s : State) (c : Nat) (e : Nat) :
    (fbParity s c e).mem = s.mem := by
  simp [fbParity]

end Sys2Proof.Machine
end

