-- ==== Sys2Proof/Laws/CanonFlags.lean ====
section
/-! SUPPORT. The operations of Machine/Flags.lean keep memory in its canonical form. -/
namespace Sys2Proof.Machine

@[simp] theorem fbSave_canon (s : State) (c : Nat) (e : Nat) (task : Option Nat) (hw : Canonical s) : Canonical (fbSave s c e task) :=
  canonical_of_mem (fbSave_mem s c e task) hw

@[simp] theorem freeWatch_canon (s : State) (c : Nat) (e : Nat) (hw : Canonical s) : Canonical (freeWatch s c e) :=
  canonical_of_mem (freeWatch_mem s c e) hw

@[simp] theorem estFull_canon (s : State) (c : Nat) (sid : Nat) (bytes : Nat) (hw : Canonical s) : Canonical (estFull s c sid bytes) :=
  canonical_of_mem (estFull_mem s c sid bytes) hw

@[simp] theorem estRelease_canon (s : State) (c : Nat) (sid : Nat) (bytes : Nat) (hw : Canonical s) : Canonical (estRelease s c sid bytes) :=
  canonical_of_mem (estRelease_mem s c sid bytes) hw

@[simp] theorem fbFire_canon (s : State) (task : Option Nat) (compute : Bool) (z3 : Option (Nat × Nat)) (hw : Canonical s) : Canonical (fbFire s task compute z3) :=
  canonical_of_mem (fbFire_mem s task compute z3) hw

@[simp] theorem fbComplete_canon (s : State) (z1 : Option (Nat × Nat)) (hw : Canonical s) : Canonical (fbComplete s z1) :=
  canonical_of_mem (fbComplete_mem s z1) hw

@[simp] theorem fbGiveUp_canon (s : State) (z1 : Option (Nat × Nat)) (hw : Canonical s) : Canonical (fbGiveUp s z1) :=
  canonical_of_mem (fbGiveUp_mem s z1) hw

@[simp] theorem fbRead_canon (s : State) (z1 : Option (Nat × Nat)) (hw : Canonical s) : Canonical (fbRead s z1) :=
  canonical_of_mem (fbRead_mem s z1) hw

@[simp] theorem fbRelease_canon (s : State) (task : Option Nat) (z2 : Option (Nat × Nat)) (hw : Canonical s) : Canonical (fbRelease s task z2) :=
  canonical_of_mem (fbRelease_mem s task z2) hw

@[simp] theorem fbCmd_canon (s : State) (c : Nat) (e : Nat) (full : Bool) (hw : Canonical s) : Canonical (fbCmd s c e full) :=
  canonical_of_mem (fbCmd_mem s c e full) hw

@[simp] theorem fbParity_canon (s : State) (c : Nat) (e : Nat) (hw : Canonical s) : Canonical (fbParity s c e) :=
  canonical_of_mem (fbParity_mem s c e) hw

end Sys2Proof.Machine
end

