-- ==== Sys2Proof/Laws/MemEngine.lean ====
section
/-! SUPPORT. The operations of Machine/Engine.lean that leave memory alone. -/
namespace Sys2Proof.Machine

@[simp] theorem modEntry_mem (s : State) (c : Nat) (id : Nat) (f : QEntry → QEntry) :
    (modEntry s c id f).mem = s.mem := by
  simp [modEntry]

@[simp] theorem dropEntry_mem (s : State) (c : Nat) (id : Nat) :
    (dropEntry s c id).mem = s.mem := by
  simp [dropEntry]

@[simp] theorem setPc_mem (s : State) (c : Nat) (x : Nat) (pc : Nat) :
    (setPc s c x pc).mem = s.mem := by
  simp [setPc]

@[simp] theorem readyCtx_mem (s : State) (c : Nat) (x : Nat) :
    (readyCtx s c x).mem = s.mem := by
  simp [readyCtx]

@[simp] theorem closeAcc_mem (s : State) (c : Nat) (x : Nat) :
    (closeAcc s c x).mem = s.mem := by
  simp [closeAcc]

@[simp] theorem settleCtx_mem (s : State) (c : Nat) (x : Nat) :
    (settleCtx s c x).mem = s.mem := by
  simp only [settleCtx]; (repeat' split) <;> simp

@[simp] theorem settle_mem (s : State) (c : Nat) :
    (settle s c).mem = s.mem := by
  simp [settle]

@[simp] theorem removeCommand_mem (s : State) (c : Nat) (id : Nat) :
    (removeCommand s c id).mem = s.mem := by
  simp [removeCommand]

@[simp] theorem removeWaiting_mem (s : State) (c : Nat) (x : Nat) :
    (removeWaiting s c x).mem = s.mem := by
  simp [removeWaiting]

@[simp] theorem beginDiscard_mem (s : State) (c : Nat) (x : Nat) (how : TaskEnd) :
    (beginDiscard s c x how).mem = s.mem := by
  unfold beginDiscard; (repeat' split) <;> simp

@[simp] theorem dropYoke_mem (s : State) (c : Nat) (x : Nat) :
    (dropYoke s c x).mem = s.mem := by
  simp [dropYoke]

@[simp] theorem orphanReq_mem (s : State) (c : Nat) (x : Nat) :
    (orphanReq s c x).mem = s.mem := by
  unfold orphanReq; (repeat' split) <;> simp

@[simp] theorem refuse_mem (s : State) (c : Nat) (x : Nat) (code : Nat) (pc : Nat) (tag : Nat) :
    (refuse s c x code pc tag).mem = s.mem := by
  simp [refuse]

@[simp] theorem refuseEntry_mem (s : State) (c : Nat) (q : QEntry) (code : Nat) :
    (refuseEntry s c q code).mem = s.mem := by
  simp [refuseEntry]

@[simp] theorem fireBits_mem (s : State) (c : Nat) (q : QEntry) :
    (fireBits s c q).mem = s.mem := by
  simp [fireBits]

@[simp] theorem fireEntry_mem (s : State) (c : Nat) (q : QEntry) :
    (fireEntry s c q).mem = s.mem := by
  simp [fireEntry]

@[simp] theorem finishEntry_mem (s : State) (c : Nat) (q : QEntry) :
    (finishEntry s c q).mem = s.mem := by
  simp [finishEntry]

end Sys2Proof.Machine
end

