-- ==== Sys2Proof/Laws/CanonEngine.lean ====
section
/-! SUPPORT. The operations of Machine/Engine.lean keep memory in its canonical form. -/
namespace Sys2Proof.Machine

@[simp] theorem modEntry_canon (s : State) (c : Nat) (id : Nat) (f : QEntry → QEntry) (hw : Canonical s) : Canonical (modEntry s c id f) :=
  canonical_of_mem (modEntry_mem s c id f) hw

@[simp] theorem dropEntry_canon (s : State) (c : Nat) (id : Nat) (hw : Canonical s) : Canonical (dropEntry s c id) :=
  canonical_of_mem (dropEntry_mem s c id) hw

@[simp] theorem setPc_canon (s : State) (c : Nat) (x : Nat) (pc : Nat) (hw : Canonical s) : Canonical (setPc s c x pc) :=
  canonical_of_mem (setPc_mem s c x pc) hw

@[simp] theorem readyCtx_canon (s : State) (c : Nat) (x : Nat) (hw : Canonical s) : Canonical (readyCtx s c x) :=
  canonical_of_mem (readyCtx_mem s c x) hw

@[simp] theorem closeAcc_canon (s : State) (c : Nat) (x : Nat) (hw : Canonical s) : Canonical (closeAcc s c x) :=
  canonical_of_mem (closeAcc_mem s c x) hw

@[simp] theorem settleCtx_canon (s : State) (c : Nat) (x : Nat) (hw : Canonical s) : Canonical (settleCtx s c x) :=
  canonical_of_mem (settleCtx_mem s c x) hw

@[simp] theorem settle_canon (s : State) (c : Nat) (hw : Canonical s) : Canonical (settle s c) :=
  canonical_of_mem (settle_mem s c) hw

@[simp] theorem removeCommand_canon (s : State) (c : Nat) (id : Nat) (hw : Canonical s) : Canonical (removeCommand s c id) :=
  canonical_of_mem (removeCommand_mem s c id) hw

@[simp] theorem removeWaiting_canon (s : State) (c : Nat) (x : Nat) (hw : Canonical s) : Canonical (removeWaiting s c x) :=
  canonical_of_mem (removeWaiting_mem s c x) hw

@[simp] theorem beginDiscard_canon (s : State) (c : Nat) (x : Nat) (how : TaskEnd) (hw : Canonical s) : Canonical (beginDiscard s c x how) :=
  canonical_of_mem (beginDiscard_mem s c x how) hw

@[simp] theorem dropYoke_canon (s : State) (c : Nat) (x : Nat) (hw : Canonical s) : Canonical (dropYoke s c x) :=
  canonical_of_mem (dropYoke_mem s c x) hw

@[simp] theorem orphanReq_canon (s : State) (c : Nat) (x : Nat) (hw : Canonical s) : Canonical (orphanReq s c x) :=
  canonical_of_mem (orphanReq_mem s c x) hw

@[simp] theorem refuse_canon (s : State) (c : Nat) (x : Nat) (code : Nat) (pc : Nat) (tag : Nat) (hw : Canonical s) : Canonical (refuse s c x code pc tag) :=
  canonical_of_mem (refuse_mem s c x code pc tag) hw

@[simp] theorem refuseEntry_canon (s : State) (c : Nat) (q : QEntry) (code : Nat) (hw : Canonical s) : Canonical (refuseEntry s c q code) :=
  canonical_of_mem (refuseEntry_mem s c q code) hw

@[simp] theorem descCheck_canon (s : State) (c : Nat) (cls : Nat) (q : QEntry) (hw : Canonical s) : Canonical (descCheck s c cls q) := by
  simp +contextual (maxDischargeDepth := 40) [descCheck, hw]

@[simp] theorem fireBits_canon (s : State) (c : Nat) (q : QEntry) (hw : Canonical s) : Canonical (fireBits s c q) :=
  canonical_of_mem (fireBits_mem s c q) hw

@[simp] theorem fireEntry_canon (s : State) (c : Nat) (q : QEntry) (hw : Canonical s) : Canonical (fireEntry s c q) :=
  canonical_of_mem (fireEntry_mem s c q) hw

@[simp] theorem engWrite_canon (s : State) (c : Nat) (q : QEntry) (ws : List (Nat × List Byte)) (hw : Canonical s) :
    Canonical (engWrite s c q ws) := by
  simp +contextual (maxDischargeDepth := 40) [engWrite, hw]

@[simp] theorem writeShift_canon (s : State) (q : QEntry) (lo : Nat) (n : Nat) (hw : Canonical s) : Canonical (writeShift s q lo n) := by
  simp +contextual (maxDischargeDepth := 40) [writeShift, hw]

@[simp] theorem logShifts_canon (s : State) (c : Nat) (q : QEntry) (l : List (Nat × Nat)) (hw : Canonical s) : Canonical (logShifts s c q l) := by
  simp +contextual (maxDischargeDepth := 40) [logShifts, hw]

@[simp] theorem finishEntry_canon (s : State) (c : Nat) (q : QEntry) (hw : Canonical s) : Canonical (finishEntry s c q) :=
  canonical_of_mem (finishEntry_mem s c q) hw

end Sys2Proof.Machine
end

