-- ==== Sys2Proof/Laws/MemTiming.lean ====
section
/-! SUPPORT. The operations of Machine/Timing.lean that leave memory alone. -/
namespace Sys2Proof.Machine

@[simp] theorem marginRead_mem (s : State) (c : Nat) (margin : Nat) :
    (marginRead s c margin).mem = s.mem := by
  simp [marginRead]

@[simp] theorem execDlMarginLow_mem (c : Core) (margin : Byte) (s : State) :
    Kept State.mem s (execDlMarginLow c margin s) := by
  simp [execDlMarginLow]

@[simp] theorem startKat_mem (s : State) (c : Nat) :
    (startKat s c).mem = s.mem := by
  simp [startKat]

@[simp] theorem recalStart_mem (s : State) (c : Nat) :
    (recalStart s c).mem = s.mem := by
  simp [recalStart]

@[simp] theorem execRecal_mem (mid : Mid) (c : Core) (s : State) :
    Kept State.mem s (execRecal mid c s) := by
  simp [execRecal]

@[simp] theorem recalDone_mem (s : State) (c : Nat) (replica : Nat) (margin : Nat) :
    (recalDone s c replica margin).mem = s.mem := by
  simp [recalDone]

@[simp] theorem execDlRecalDone_mem (c : Core) (replica : Nat) (margin : Byte) (s : State) :
    Kept State.mem s (execDlRecalDone c replica margin s) := by
  simp [execDlRecalDone]

@[simp] theorem execHemClockStop_mem (h : HemId) (s : State) :
    Kept State.mem s (execHemClockStop h s) := by
  simp [execHemClockStop]

@[simp] theorem hemRelease_mem (s : State) (h : Nat) :
    (hemRelease s h).mem = s.mem := by
  simp [hemRelease]

@[simp] theorem execHemClockRun_mem (h : HemId) (s : State) :
    Kept State.mem s (execHemClockRun h s) := by
  simp [execHemClockRun]

@[simp] theorem execHemClockLoss_mem (h : HemId) (s : State) :
    Kept State.mem s (execHemClockLoss h s) := by
  simp [execHemClockLoss]

@[simp] theorem execOverrun_mem (h : HemId) (s : State) :
    Kept State.mem s (execOverrun h s) := by
  simp [execOverrun]

@[simp] theorem resyncStart_mem (s : State) (h : Nat) (hemSide : Bool) :
    (resyncStart s h hemSide).mem = s.mem := by
  simp [resyncStart]

@[simp] theorem resyncReady_mem (s : State) (h : Nat) (hemSide : Bool) :
    (resyncReady s h hemSide).mem = s.mem := by
  simp [resyncReady]

@[simp] theorem execResyncReady_mem (h : HemId) (hemSide : Bool) (s : State) :
    Kept State.mem s (execResyncReady h hemSide s) := by
  simp [execResyncReady]

end Sys2Proof.Machine
end

