-- ==== Sys2Proof/Laws/CanonTiming.lean ====
section
/-! SUPPORT. The operations of Machine/Timing.lean keep memory in its canonical form. -/
namespace Sys2Proof.Machine

@[simp] theorem marginRead_canon (s : State) (c : Nat) (margin : Nat) (hw : Canonical s) : Canonical (marginRead s c margin) :=
  canonical_of_mem (marginRead_mem s c margin) hw

@[simp] theorem execDlMarginLow_canon (c : Core) (margin : Byte) (s : State) (hw : Canonical s) : Ends Canonical (execDlMarginLow c margin s) :=
  ends_of_kept hw (execDlMarginLow_mem c margin s)

@[simp] theorem startKat_canon (s : State) (c : Nat) (hw : Canonical s) : Canonical (startKat s c) :=
  canonical_of_mem (startKat_mem s c) hw

@[simp] theorem recalStart_canon (s : State) (c : Nat) (hw : Canonical s) : Canonical (recalStart s c) :=
  canonical_of_mem (recalStart_mem s c) hw

@[simp] theorem execRecal_canon (mid : Mid) (c : Core) (s : State) (hw : Canonical s) : Ends Canonical (execRecal mid c s) :=
  ends_of_kept hw (execRecal_mem mid c s)

@[simp] theorem recalDone_canon (s : State) (c : Nat) (replica : Nat) (margin : Nat) (hw : Canonical s) : Canonical (recalDone s c replica margin) :=
  canonical_of_mem (recalDone_mem s c replica margin) hw

@[simp] theorem execDlRecalDone_canon (c : Core) (replica : Nat) (margin : Byte) (s : State) (hw : Canonical s) : Ends Canonical (execDlRecalDone c replica margin s) :=
  ends_of_kept hw (execDlRecalDone_mem c replica margin s)

@[simp] theorem execHemClockStop_canon (h : HemId) (s : State) (hw : Canonical s) : Ends Canonical (execHemClockStop h s) :=
  ends_of_kept hw (execHemClockStop_mem h s)

@[simp] theorem hemRelease_canon (s : State) (h : Nat) (hw : Canonical s) : Canonical (hemRelease s h) :=
  canonical_of_mem (hemRelease_mem s h) hw

@[simp] theorem execHemClockRun_canon (h : HemId) (s : State) (hw : Canonical s) : Ends Canonical (execHemClockRun h s) :=
  ends_of_kept hw (execHemClockRun_mem h s)

@[simp] theorem execHemClockLoss_canon (h : HemId) (s : State) (hw : Canonical s) : Ends Canonical (execHemClockLoss h s) :=
  ends_of_kept hw (execHemClockLoss_mem h s)

@[simp] theorem execOverrun_canon (h : HemId) (s : State) (hw : Canonical s) : Ends Canonical (execOverrun h s) :=
  ends_of_kept hw (execOverrun_mem h s)

@[simp] theorem resyncStart_canon (s : State) (h : Nat) (hemSide : Bool) (hw : Canonical s) : Canonical (resyncStart s h hemSide) :=
  canonical_of_mem (resyncStart_mem s h hemSide) hw

@[simp] theorem resyncReady_canon (s : State) (h : Nat) (hemSide : Bool) (hw : Canonical s) : Canonical (resyncReady s h hemSide) :=
  canonical_of_mem (resyncReady_mem s h hemSide) hw

@[simp] theorem execResyncReady_canon (h : HemId) (hemSide : Bool) (s : State) (hw : Canonical s) : Ends Canonical (execResyncReady h hemSide s) :=
  ends_of_kept hw (execResyncReady_mem h hemSide s)

end Sys2Proof.Machine
end

