-- ==== Sys2Proof/Laws/MemOpe.lean ====
section
/-! SUPPORT. The operations of Machine/Ope.lean that leave memory alone. -/
namespace Sys2Proof.Machine

@[simp] theorem sourceFail_mem (s : State) (c : Nat) (i : Nat) :
    (sourceFail s c i).mem = s.mem := by
  simp [sourceFail]

@[simp] theorem drawCheck_mem (s : State) (c : Nat) (i : Nat) (draws : Bool) :
    (drawCheck s c i draws).mem = s.mem := by
  simp [drawCheck]

@[simp] theorem setRun_mem (s : State) (c : Nat) (r : OpeRun) :
    (setRun s c r).mem = s.mem := by
  simp [setRun]

@[simp] theorem addEv_mem (s : State) (c : Nat) (p : Prod) (r : OpeRun) (e : NumEv) :
    (addEv s c p r e).1.mem = s.mem := by
  unfold addEv; (repeat' split) <;> simp

@[simp] theorem zeroStep_mem (s : State) (c : Nat) (id : Nat) :
    (zeroStep s c id).mem = s.mem := by
  unfold zeroStep; (repeat' split) <;> simp

@[simp] theorem endStep_mem (s : State) (c : Nat) (id : Nat) :
    (endStep s c id).mem = s.mem := by
  unfold endStep; (repeat' split) <;> simp

@[simp] theorem stepSettle_mem (s : State) (c : Nat) :
    (stepSettle s c).mem = s.mem := by
  unfold stepSettle; (repeat' split) <;> simp

@[simp] theorem productFire_mem (s : State) (c : Nat) (q : QEntry) (p : Prod) :
    (productFire s c q p).mem = s.mem := by
  simp [productFire]

@[simp] theorem groupFire_mem (s : State) (c : Nat) (g : CellGroup) :
    (groupFire s c g).mem = s.mem := by
  simp only [groupFire]; (repeat' split) <;> simp

@[simp] theorem execCellGroupFire_mem (c : Core) (g : CellGroup) (s : State) :
    Kept State.mem s (execCellGroupFire c g s) := by
  simp [execCellGroupFire]

@[simp] theorem parityHit_mem (s : State) (c : Nat) (arr : Nat) (row : Nat) (col : Nat) :
    (parityHit s c arr row col).mem = s.mem := by
  simp [parityHit]

@[simp] theorem drainCopy_mem (s : State) (c : Nat) (arr : Nat) :
    (drainCopy s c arr).mem = s.mem := by
  unfold drainCopy; (repeat' split) <;> simp

@[simp] theorem execDrainCopy_mem (c : Core) (a : ArrayId) (s : State) :
    Kept State.mem s (execDrainCopy c a s) := by
  simp [execDrainCopy]

@[simp] theorem modDrain_mem (s : State) (c : Nat) (id : Nat) (f : DrainRun → DrainRun) :
    (modDrain s c id f).mem = s.mem := by
  simp [modDrain]

@[simp] theorem latchCheck_mem (s : State) (c : Nat) (arr : Nat) (cells : List (Nat × Nat)) :
    (latchCheck s c arr cells).mem = s.mem := by
  simp [latchCheck]

@[simp] theorem drainClose_mem (s : State) (c : Nat) (p : Prod) (d : DrainRun) (q : QEntry) :
    (drainClose s c p d q).mem = s.mem := by
  simp [drainClose]

@[simp] theorem scaledRetry_mem (s : State) (c : Nat) :
    (scaledRetry s c).mem = s.mem := by
  simp only [scaledRetry]; (repeat' split) <;> simp

@[simp] theorem execScaledRetry_mem (c : Core) (s : State) :
    Kept State.mem s (execScaledRetry c s) := by
  simp [execScaledRetry]

@[simp] theorem accClose_mem (s : State) (c : Nat) :
    (accClose s c).mem = s.mem := by
  simp only [accClose]; (repeat' split) <;> simp

@[simp] theorem execAccClose_mem (c : Core) (s : State) :
    Kept State.mem s (execAccClose c s) := by
  simp [execAccClose]

@[simp] theorem katStart_mem (s : State) (page : Nat) :
    (katStart s page).mem = s.mem := by
  simp [katStart]

@[simp] theorem numCtlWrite_mem (s : State) (page : Nat) (v : Word) (own : Bool) :
    (numCtlWrite s page v own).mem = s.mem := by
  simp [numCtlWrite]

@[simp] theorem execSrKatRun_mem (mid : Mid) (block : SrBlock) (value : Word) (s : State) :
    Kept State.mem s (execSrKatRun mid block value s) := by
  simp [execSrKatRun]

@[simp] theorem sourcePass_mem (s : State) (c : Nat) (i : Nat) :
    (sourcePass s c i).mem = s.mem := by
  simp [sourcePass]

@[simp] theorem pageSrFail_mem (s : State) (pg : Nat) :
    (pageSrFail s pg).mem = s.mem := by
  simp [pageSrFail]

@[simp] theorem katDone_mem (s : State) (b : SrBlock) (source : Nat) (pass : Bool) :
    (katDone s b source pass).mem = s.mem := by
  unfold katDone; (repeat' split) <;> simp

@[simp] theorem execSrKatDone_mem (block : SrBlock) (source : Nat) (pass : Bool) (s : State) :
    Kept State.mem s (execSrKatDone block source pass s) := by
  simp [execSrKatDone]

@[simp] theorem numStepSet_mem (s : State) (c : Nat) (v : Word) :
    (numStepSet s c v).mem = s.mem := by
  simp [numStepSet]

@[simp] theorem execNumStepWrite_mem (mid : Mid) (c : Core) (value : Word) (s : State) :
    Kept State.mem s (execNumStepWrite mid c value s) := by
  simp [execNumStepWrite]

end Sys2Proof.Machine
end

