-- ==== Sys2Proof/Laws/CanonOpe.lean ====
section
/-! SUPPORT. The operations of Machine/Ope.lean keep memory in its canonical form. -/
namespace Sys2Proof.Machine

@[simp] theorem sourceFail_canon (s : State) (c : Nat) (i : Nat) (hw : Canonical s) : Canonical (sourceFail s c i) :=
  canonical_of_mem (sourceFail_mem s c i) hw

@[simp] theorem drawCheck_canon (s : State) (c : Nat) (i : Nat) (draws : Bool) (hw : Canonical s) : Canonical (drawCheck s c i draws) :=
  canonical_of_mem (drawCheck_mem s c i draws) hw

@[simp] theorem setRun_canon (s : State) (c : Nat) (r : OpeRun) (hw : Canonical s) : Canonical (setRun s c r) :=
  canonical_of_mem (setRun_mem s c r) hw

@[simp] theorem addEv_canon (s : State) (c : Nat) (p : Prod) (r : OpeRun) (e : NumEv) (hw : Canonical s) : Canonical ((addEv s c p r e).1) :=
  canonical_of_mem (addEv_mem s c p r e) hw

@[simp] theorem zeroStep_canon (s : State) (c : Nat) (id : Nat) (hw : Canonical s) : Canonical (zeroStep s c id) :=
  canonical_of_mem (zeroStep_mem s c id) hw

@[simp] theorem endStep_canon (s : State) (c : Nat) (id : Nat) (hw : Canonical s) : Canonical (endStep s c id) :=
  canonical_of_mem (endStep_mem s c id) hw

@[simp] theorem stepSettle_canon (s : State) (c : Nat) (hw : Canonical s) : Canonical (stepSettle s c) :=
  canonical_of_mem (stepSettle_mem s c) hw

@[simp] theorem productFire_canon (s : State) (c : Nat) (q : QEntry) (p : Prod) (hw : Canonical s) : Canonical (productFire s c q p) :=
  canonical_of_mem (productFire_mem s c q p) hw

@[simp] theorem opeProduct_canon (s : State) (c : Nat) (hw : Canonical s) : Canonical (opeProduct s c) := by
  simp only [opeProduct]; (repeat' split) <;> simp +contextual (maxDischargeDepth := 40) [hw]

@[simp] theorem execOpeProduct_canon (c : Core) (s : State) (hw : Canonical s) : Ends Canonical (execOpeProduct c s) := by
  simp +contextual (maxDischargeDepth := 40) [execOpeProduct, hw]

@[simp] theorem feedOne_canon (s : State) (c : Nat) (f : Feeder) (hw : Canonical s) : Canonical (feedOne s c f) := by
  unfold feedOne; (repeat' split) <;> simp +contextual (maxDischargeDepth := 40) [hw]

@[simp] theorem execFeederRefill_canon (c : Core) (f : Feeder) (s : State) (hw : Canonical s) : Ends Canonical (execFeederRefill c f s) := by
  simp +contextual (maxDischargeDepth := 40) [execFeederRefill, hw]

@[simp] theorem groupFire_canon (s : State) (c : Nat) (g : CellGroup) (hw : Canonical s) : Canonical (groupFire s c g) :=
  canonical_of_mem (groupFire_mem s c g) hw

@[simp] theorem execCellGroupFire_canon (c : Core) (g : CellGroup) (s : State) (hw : Canonical s) : Ends Canonical (execCellGroupFire c g s) :=
  ends_of_kept hw (execCellGroupFire_mem c g s)

@[simp] theorem parityHit_canon (s : State) (c : Nat) (arr : Nat) (row : Nat) (col : Nat) (hw : Canonical s) : Canonical (parityHit s c arr row col) :=
  canonical_of_mem (parityHit_mem s c arr row col) hw

@[simp] theorem drainCopy_canon (s : State) (c : Nat) (arr : Nat) (hw : Canonical s) : Canonical (drainCopy s c arr) :=
  canonical_of_mem (drainCopy_mem s c arr) hw

@[simp] theorem execDrainCopy_canon (c : Core) (a : ArrayId) (s : State) (hw : Canonical s) : Ends Canonical (execDrainCopy c a s) :=
  ends_of_kept hw (execDrainCopy_mem c a s)

@[simp] theorem modDrain_canon (s : State) (c : Nat) (id : Nat) (f : DrainRun → DrainRun) (hw : Canonical s) : Canonical (modDrain s c id f) :=
  canonical_of_mem (modDrain_mem s c id f) hw

@[simp] theorem latchCheck_canon (s : State) (c : Nat) (arr : Nat) (cells : List (Nat × Nat)) (hw : Canonical s) : Canonical (latchCheck s c arr cells) :=
  canonical_of_mem (latchCheck_mem s c arr cells) hw

@[simp] theorem drainRow_canon (s : State) (c : Nat) (arr : Nat) (hw : Canonical s) : Canonical (drainRow s c arr) := by
  simp only [drainRow]; (repeat' split) <;> simp +contextual (maxDischargeDepth := 40) [hw]

@[simp] theorem execDrainRow_canon (c : Core) (a : ArrayId) (s : State) (hw : Canonical s) : Ends Canonical (execDrainRow c a s) := by
  simp +contextual (maxDischargeDepth := 40) [execDrainRow, hw]

@[simp] theorem opeWritten_canon (s : State) (d : DrainRun) (q : QEntry) (slot : Nat) (shared : Bool) (z5 : Option Tile) (hw : Canonical s) :
    Canonical (opeWritten s d q slot shared z5) := by
  cases z5 <;> simp +contextual (maxDischargeDepth := 40) [opeWritten, hw]

@[simp] theorem drainClose_canon (s : State) (c : Nat) (p : Prod) (d : DrainRun) (q : QEntry) (hw : Canonical s) : Canonical (drainClose s c p d q) :=
  canonical_of_mem (drainClose_mem s c p d q) hw

@[simp] theorem drainDone_canon (s : State) (c : Nat) (o : Nat) (hw : Canonical s) :
    Canonical (drainDone s c o) := by
  simp only [drainDone]; (repeat' split) <;> simp +contextual (maxDischargeDepth := 40) [hw]

@[simp] theorem execDrainDone_canon (c : Core) (ope : Fin 2) (s : State) (hw : Canonical s) :
    Ends Canonical (execDrainDone c ope s) := by
  simp +contextual (maxDischargeDepth := 40) [execDrainDone, hw]

@[simp] theorem scaledRetry_canon (s : State) (c : Nat) (hw : Canonical s) : Canonical (scaledRetry s c) :=
  canonical_of_mem (scaledRetry_mem s c) hw

@[simp] theorem execScaledRetry_canon (c : Core) (s : State) (hw : Canonical s) : Ends Canonical (execScaledRetry c s) :=
  ends_of_kept hw (execScaledRetry_mem c s)

@[simp] theorem accClose_canon (s : State) (c : Nat) (hw : Canonical s) : Canonical (accClose s c) :=
  canonical_of_mem (accClose_mem s c) hw

@[simp] theorem execAccClose_canon (c : Core) (s : State) (hw : Canonical s) : Ends Canonical (execAccClose c s) :=
  ends_of_kept hw (execAccClose_mem c s)

@[simp] theorem katStart_canon (s : State) (page : Nat) (hw : Canonical s) : Canonical (katStart s page) :=
  canonical_of_mem (katStart_mem s page) hw

@[simp] theorem numCtlWrite_canon (s : State) (page : Nat) (v : Word) (own : Bool) (hw : Canonical s) : Canonical (numCtlWrite s page v own) :=
  canonical_of_mem (numCtlWrite_mem s page v own) hw

@[simp] theorem execSrKatRun_canon (mid : Mid) (block : SrBlock) (value : Word) (s : State) (hw : Canonical s) : Ends Canonical (execSrKatRun mid block value s) :=
  ends_of_kept hw (execSrKatRun_mem mid block value s)

@[simp] theorem sourcePass_canon (s : State) (c : Nat) (i : Nat) (hw : Canonical s) : Canonical (sourcePass s c i) :=
  canonical_of_mem (sourcePass_mem s c i) hw

@[simp] theorem pageSrFail_canon (s : State) (pg : Nat) (hw : Canonical s) : Canonical (pageSrFail s pg) :=
  canonical_of_mem (pageSrFail_mem s pg) hw

@[simp] theorem katDone_canon (s : State) (b : SrBlock) (source : Nat) (pass : Bool) (hw : Canonical s) : Canonical (katDone s b source pass) :=
  canonical_of_mem (katDone_mem s b source pass) hw

@[simp] theorem execSrKatDone_canon (block : SrBlock) (source : Nat) (pass : Bool) (s : State) (hw : Canonical s) : Ends Canonical (execSrKatDone block source pass s) :=
  ends_of_kept hw (execSrKatDone_mem block source pass s)

@[simp] theorem numStepSet_canon (s : State) (c : Nat) (v : Word) (hw : Canonical s) : Canonical (numStepSet s c v) :=
  canonical_of_mem (numStepSet_mem s c v) hw

@[simp] theorem execNumStepWrite_canon (mid : Mid) (c : Core) (value : Word) (s : State) (hw : Canonical s) : Ends Canonical (execNumStepWrite mid c value s) :=
  ends_of_kept hw (execNumStepWrite_mem mid c value s)

end Sys2Proof.Machine
end

