-- ==== Sys2Proof/Laws/MemOpt.lean ====
section
/-! SUPPORT. The operations of Machine/Opt.lean that leave memory alone. -/
namespace Sys2Proof.Machine

@[simp] theorem setLedger_mem (s : State) (p : Nat) (k : Nat) (n : Nat) :
    (setLedger s p k n).mem = s.mem := by
  simp [setLedger]

@[simp] theorem postContribution_mem (s : State) (e : Nat) :
    (postContribution s e).mem = s.mem := by
  simp [postContribution]

@[simp] theorem engCheck_mem (s : State) (page : Nat) (rne : Bool) :
    (engCheck s page rne).mem = s.mem := by
  simp [engCheck]

@[simp] theorem countMarked_mem (s : State) (page : Nat) (a : Nat) (l : List (Byte × Bool)) :
    (countMarked s page a l).mem = s.mem := by
  simp [countMarked]

@[simp] theorem execOptUpdateDone_mem (p : Panel) (k : Nat) (s : State) :
    Kept State.mem s (execOptUpdateDone p k s) := by
  simp [execOptUpdateDone]

@[simp] theorem setLs_mem (s : State) (p : Nat) (n : Int) :
    (setLs s p n).mem = s.mem := by
  simp [setLs]

@[simp] theorem lossStep_mem (s : State) (p : Nat) (commit : Bool) :
    (lossStep s p commit).mem = s.mem := by
  simp [lossStep]

@[simp] theorem paramsStep_mem (s : State) (p : Nat) :
    (paramsStep s p).mem = s.mem := by
  simp [paramsStep]

@[simp] theorem ledgerReset_mem (s : State) (p : Nat) :
    (ledgerReset s p).mem = s.mem := by
  simp [ledgerReset]

@[simp] theorem writeIgn_mem (s : State) (p : Nat) :
    (writeIgn s p).mem = s.mem := by
  simp [writeIgn]

@[simp] theorem optLossWrite_mem (s : State) (p : Nat) (v : Word) :
    (optLossWrite s p v).mem = s.mem := by
  simp [optLossWrite]

@[simp] theorem shardWrite_mem (s : State) (p : Nat) (k : Nat) (off : Nat) (v : Word) :
    (shardWrite s p k off v).mem = s.mem := by
  simp [shardWrite]

@[simp] theorem queueFrames_mem (s : State) (e : Nat) (fs : List WFrame) :
    (queueFrames s e fs).mem = s.mem := by
  simp [queueFrames]

@[simp] theorem optDiscard_mem (s : State) (p : Nat) :
    (optDiscard s p).mem = s.mem := by
  simp [optDiscard]

end Sys2Proof.Machine
end

