-- ==== Sys2Proof/Laws/CanonOpt.lean ====
section
/-! SUPPORT. The operations of Machine/Opt.lean keep memory in its canonical form. -/
namespace Sys2Proof.Machine

@[simp] theorem spanRead_canon (s : State) (a : Nat) (n : Nat) (hw : Canonical s) :
    Canonical ((spanRead s a n).1) := by
  simp +contextual (maxDischargeDepth := 40) [spanRead, hw]

@[simp] theorem panelWrite_canon (s : State) (mid : Nat) (a : Nat) (bytes : List Byte) (hw : Canonical s) :
    Canonical (panelWrite s mid a bytes) := by
  simp +contextual (maxDischargeDepth := 40) [panelWrite, hw]

@[simp] theorem setLedger_canon (s : State) (p : Nat) (k : Nat) (n : Nat) (hw : Canonical s) : Canonical (setLedger s p k n) :=
  canonical_of_mem (setLedger_mem s p k n) hw

@[simp] theorem postContribution_canon (s : State) (e : Nat) (hw : Canonical s) : Canonical (postContribution s e) :=
  canonical_of_mem (postContribution_mem s e) hw

@[simp] theorem engCheck_canon (s : State) (page : Nat) (rne : Bool) (hw : Canonical s) : Canonical (engCheck s page rne) :=
  canonical_of_mem (engCheck_mem s page rne) hw

@[simp] theorem countMarked_canon (s : State) (page : Nat) (a : Nat) (l : List (Byte × Bool)) (hw : Canonical s) : Canonical (countMarked s page a l) :=
  canonical_of_mem (countMarked_mem s page a l) hw

@[simp] theorem planeRead_canon (s : State) (f : Fmt) (a : Nat) (n : Nat) (hw : Canonical s) :
    Canonical ((planeRead s f a n).1) := by
  simp +contextual (maxDischargeDepth := 40) [planeRead, hw]

@[simp] theorem planeWrite_canon (s : State) (p : Nat) (f : Fmt) (a : Nat) (vs : List (FVal × Rnd)) (hw : Canonical s) :
    Canonical (planeWrite s p f a vs) := by
  simp +contextual (maxDischargeDepth := 40) [planeWrite, hw]

@[simp] theorem optUpdate_canon (s : State) (p : Nat) (k : Nat) (hw : Canonical s) :
    Canonical (optUpdate s p k) := by
  simp only [optUpdate]; (repeat' split) <;> simp +contextual (maxDischargeDepth := 40) [hw]

@[simp] theorem execOptUpdate_canon (p : Panel) (k : Nat) (s : State) (hw : Canonical s) :
    Ends Canonical (execOptUpdate p k s) := by
  simp +contextual (maxDischargeDepth := 40) [execOptUpdate, hw]

@[simp] theorem execOptUpdateDone_canon (p : Panel) (k : Nat) (s : State) (hw : Canonical s) : Ends Canonical (execOptUpdateDone p k s) :=
  ends_of_kept hw (execOptUpdateDone_mem p k s)

@[simp] theorem setLs_canon (s : State) (p : Nat) (n : Int) (hw : Canonical s) : Canonical (setLs s p n) :=
  canonical_of_mem (setLs_mem s p n) hw

@[simp] theorem lossStep_canon (s : State) (p : Nat) (commit : Bool) (hw : Canonical s) : Canonical (lossStep s p commit) :=
  canonical_of_mem (lossStep_mem s p commit) hw

@[simp] theorem paramsStep_canon (s : State) (p : Nat) (hw : Canonical s) : Canonical (paramsStep s p) :=
  canonical_of_mem (paramsStep_mem s p) hw

@[simp] theorem ledgerReset_canon (s : State) (p : Nat) (hw : Canonical s) : Canonical (ledgerReset s p) :=
  canonical_of_mem (ledgerReset_mem s p) hw

@[simp] theorem writeIgn_canon (s : State) (p : Nat) (hw : Canonical s) : Canonical (writeIgn s p) :=
  canonical_of_mem (writeIgn_mem s p) hw

@[simp] theorem optLossWrite_canon (s : State) (p : Nat) (v : Word) (hw : Canonical s) : Canonical (optLossWrite s p v) :=
  canonical_of_mem (optLossWrite_mem s p v) hw

@[simp] theorem shardWrite_canon (s : State) (p : Nat) (k : Nat) (off : Nat) (v : Word) (hw : Canonical s) : Canonical (shardWrite s p k off v) :=
  canonical_of_mem (shardWrite_mem s p k off v) hw

@[simp] theorem putResident_canon (s : State) (p : Nat) (k : Nat) (t : Tile) (f : Fmt) (data : List (Byte × Bool)) (scales : List (Byte × Bool)) (hw : Canonical s) : Canonical (putResident s p k t f data scales) := by
  simp +contextual (maxDischargeDepth := 40) [putResident, hw]

@[simp] theorem resTile_canon (s : State) (p : Nat) (k : Nat) (hw : Canonical s) :
    Canonical ((resTile s p k).1) := by
  simp +contextual (maxDischargeDepth := 40) [resTile, hw]

@[simp] theorem copyResident_canon (s : State) (p : Nat) (k : Nat) (hw : Canonical s) :
    Canonical (copyResident s p k) := by
  simp only [copyResident]; (repeat' split) <;> simp +contextual (maxDischargeDepth := 40) [hw]

@[simp] theorem getResident_canon (s : State) (p : Nat) (k : Nat) (hw : Canonical s) :
    Canonical ((getResident s p k).1) := by
  simp only [getResident]; (repeat' split) <;> simp +contextual (maxDischargeDepth := 40) [hw]

@[simp] theorem partBytes_canon (s : State) (p : Nat) (hw : Canonical s) :
    Canonical ((partBytes s p).1) := by
  simp +contextual (maxDischargeDepth := 40) [partBytes, hw]

@[simp] theorem queueFrames_canon (s : State) (e : Nat) (fs : List WFrame) (hw : Canonical s) : Canonical (queueFrames s e fs) :=
  canonical_of_mem (queueFrames_mem s e fs) hw

@[simp] theorem snapStart_canon (s : State) (hw : Canonical s) :
    Canonical (snapStart s) := by
  simp +contextual (maxDischargeDepth := 40) [snapStart, hw]

@[simp] theorem finishVote_canon (s : State) (commit : Bool) (hw : Canonical s) :
    Canonical (finishVote s commit) := by
  simp +contextual (maxDischargeDepth := 40) [finishVote, hw]

@[simp] theorem optDiscard_canon (s : State) (p : Nat) (hw : Canonical s) : Canonical (optDiscard s p) :=
  canonical_of_mem (optDiscard_mem s p) hw

@[simp] theorem applyOutcome_canon (s : State) (discard : Bool) (hw : Canonical s) :
    Canonical (applyOutcome s discard) := by
  simp +contextual (maxDischargeDepth := 40) [applyOutcome, hw]

@[simp] theorem optApply_canon (s : State) (p : Nat) (hw : Canonical s) :
    Canonical (optApply s p) := by
  simp +contextual (maxDischargeDepth := 40) [optApply, hw]

@[simp] theorem optCommit_canon (s : State) (p : Nat) (hw : Canonical s) :
    Canonical (optCommit s p) := by
  simp +contextual (maxDischargeDepth := 40) [optCommit, hw]

@[simp] theorem execOptCommit_canon (p : Panel) (s : State) (hw : Canonical s) :
    Ends Canonical (execOptCommit p s) := by
  simp +contextual (maxDischargeDepth := 40) [execOptCommit, hw]

@[simp] theorem advanceCursor_canon (s : State) (hw : Canonical s) : Canonical (advanceCursor s) := by
  simp +contextual (maxDischargeDepth := 40) [advanceCursor, hw]

@[simp] theorem stepStart_canon (s : State) (hw : Canonical s) : Canonical (stepStart s) := by
  simp +contextual (maxDischargeDepth := 40) [stepStart, hw]

@[simp] theorem execStepStart_canon (s : State) (hw : Canonical s) : Ends Canonical (execStepStart s) := by
  simp +contextual (maxDischargeDepth := 40) [execStepStart, hw]

end Sys2Proof.Machine
end

