-- ==== Sys2Proof/Laws/MemControl.lean ====
section
/-! SUPPORT. The operations of Machine/Control.lean that leave memory alone. -/
namespace Sys2Proof.Machine

@[simp] theorem ctlStart_mem (s : State) (c : Nat) (x : Nat) :
    (ctlStart s c x).mem = s.mem := by
  simp [ctlStart]

@[simp] theorem dropWait_mem (s : State) (c : Nat) (x : Nat) :
    (dropWait s c x).mem = s.mem := by
  simp [dropWait]

@[simp] theorem ctlStop_mem (s : State) (c : Nat) (x : Nat) :
    (ctlStop s c x).mem = s.mem := by
  simp [ctlStop]

@[simp] theorem execDone_mem (s : State) (c : Nat) (x : Nat) :
    (execDone s c x).mem = s.mem := by
  simp [execDone]

@[simp] theorem syncComplete_mem (s : State) (c : Nat) (x : Nat) :
    (syncComplete s c x).mem = s.mem := by
  simp [syncComplete]

@[simp] theorem keptWake_mem (s : State) (c : Nat) (x : Nat) :
    (keptWake s c x).mem = s.mem := by
  simp [keptWake]

@[simp] theorem unhalt_mem (s : State) (c : Nat) (x : Nat) (step : Bool) :
    (unhalt s c x step).mem = s.mem := by
  simp [unhalt]

@[simp] theorem ctlResume_mem (s : State) (c : Nat) (x : Nat) :
    (ctlResume s c x).mem = s.mem := by
  simp [ctlResume]

@[simp] theorem ctlStep_mem (s : State) (c : Nat) (x : Nat) :
    (ctlStep s c x).mem = s.mem := by
  simp [ctlStep]

@[simp] theorem ctxCtlWrite_mem (s : State) (c : Nat) (x : Nat) (v : Word) :
    (ctxCtlWrite s c x v).mem = s.mem := by
  simp [ctxCtlWrite]

@[simp] theorem ctxCtl_mem (mid : Mid) (c : Core) (x : CtxId) (v : Word) (s : State) :
    Kept State.mem s (ctxCtl mid c x v s) := by
  simp [ctxCtl]

@[simp] theorem execStart_mem (mid : Mid) (c : Core) (x : CtxId) (s : State) :
    Kept State.mem s (execStart mid c x s) := by
  simp [execStart]

@[simp] theorem execStop_mem (mid : Mid) (c : Core) (x : CtxId) (s : State) :
    Kept State.mem s (execStop mid c x s) := by
  simp [execStop]

@[simp] theorem execResume_mem (mid : Mid) (c : Core) (x : CtxId) (s : State) :
    Kept State.mem s (execResume mid c x s) := by
  simp [execResume]

@[simp] theorem execStepCtx_mem (mid : Mid) (c : Core) (x : CtxId) (s : State) :
    Kept State.mem s (execStepCtx mid c x s) := by
  simp [execStepCtx]

@[simp] theorem ccCtlWrite_mem (s : State) (c : Nat) (v : Word) :
    (ccCtlWrite s c v).mem = s.mem := by
  simp [ccCtlWrite]

@[simp] theorem execHaltAll_mem (mid : Mid) (c : Core) (s : State) :
    Kept State.mem s (execHaltAll mid c s) := by
  simp [execHaltAll]

@[simp] theorem execResumeAll_mem (mid : Mid) (c : Core) (s : State) :
    Kept State.mem s (execResumeAll mid c s) := by
  simp [execResumeAll]

@[simp] theorem haltCtx_mem (s : State) (c : Nat) (x : Nat) :
    (haltCtx s c x).mem = s.mem := by
  simp [haltCtx]

@[simp] theorem breakHit_mem (s : State) (c : Nat) (x : Nat) :
    (breakHit s c x).mem = s.mem := by
  simp [breakHit]

@[simp] theorem retarget_mem (s : State) (c : Nat) (x : Nat) (pc : Nat) :
    (retarget s c x pc).mem = s.mem := by
  simp [retarget]

@[simp] theorem refuseHere_mem (s : State) (c : Nat) (x : Nat) (code : Nat) (r : Rec) :
    (refuseHere s c x code r).mem = s.mem := by
  simp [refuseHere]

@[simp] theorem enqueue_mem (s : State) (c : Nat) (n : Nat) (q : QEntry) :
    (enqueue s c n q).mem = s.mem := by
  simp [enqueue]

@[simp] theorem setScalar_mem (s : State) (c : Nat) (x : Nat) (n : Nat) (v : Word) :
    (setScalar s c x n v).mem = s.mem := by
  simp [setScalar]

@[simp] theorem startScalar_mem (s : State) (c : Nat) (x : Nat) (a : ScalarAcc) :
    (startScalar s c x a).mem = s.mem := by
  simp [startScalar]

@[simp] theorem execRefetchDone_mem (c : Core) (x : CtxId) (s : State) :
    Kept State.mem s (execRefetchDone c x s) := by
  simp [execRefetchDone]

end Sys2Proof.Machine
end

