-- ==== Sys2Proof/Laws/CanonControl.lean ====
section
/-! SUPPORT. The operations of Machine/Control.lean keep memory in its canonical form. -/
namespace Sys2Proof.Machine

@[simp] theorem ctlStart_canon (s : State) (c : Nat) (x : Nat) (hw : Canonical s) : Canonical (ctlStart s c x) :=
  canonical_of_mem (ctlStart_mem s c x) hw

@[simp] theorem dropWait_canon (s : State) (c : Nat) (x : Nat) (hw : Canonical s) : Canonical (dropWait s c x) :=
  canonical_of_mem (dropWait_mem s c x) hw

@[simp] theorem ctlStop_canon (s : State) (c : Nat) (x : Nat) (hw : Canonical s) : Canonical (ctlStop s c x) :=
  canonical_of_mem (ctlStop_mem s c x) hw

@[simp] theorem execDone_canon (s : State) (c : Nat) (x : Nat) (hw : Canonical s) : Canonical (execDone s c x) :=
  canonical_of_mem (execDone_mem s c x) hw

@[simp] theorem syncComplete_canon (s : State) (c : Nat) (x : Nat) (hw : Canonical s) : Canonical (syncComplete s c x) :=
  canonical_of_mem (syncComplete_mem s c x) hw

@[simp] theorem keptWake_canon (s : State) (c : Nat) (x : Nat) (hw : Canonical s) : Canonical (keptWake s c x) :=
  canonical_of_mem (keptWake_mem s c x) hw

@[simp] theorem unhalt_canon (s : State) (c : Nat) (x : Nat) (step : Bool) (hw : Canonical s) : Canonical (unhalt s c x step) :=
  canonical_of_mem (unhalt_mem s c x step) hw

@[simp] theorem ctlResume_canon (s : State) (c : Nat) (x : Nat) (hw : Canonical s) : Canonical (ctlResume s c x) :=
  canonical_of_mem (ctlResume_mem s c x) hw

@[simp] theorem ctlStep_canon (s : State) (c : Nat) (x : Nat) (hw : Canonical s) : Canonical (ctlStep s c x) :=
  canonical_of_mem (ctlStep_mem s c x) hw

@[simp] theorem ctxCtlWrite_canon (s : State) (c : Nat) (x : Nat) (v : Word) (hw : Canonical s) : Canonical (ctxCtlWrite s c x v) :=
  canonical_of_mem (ctxCtlWrite_mem s c x v) hw

@[simp] theorem ctxCtl_canon (mid : Mid) (c : Core) (x : CtxId) (v : Word) (s : State) (hw : Canonical s) : Ends Canonical (ctxCtl mid c x v s) :=
  ends_of_kept hw (ctxCtl_mem mid c x v s)

@[simp] theorem execStart_canon (mid : Mid) (c : Core) (x : CtxId) (s : State) (hw : Canonical s) : Ends Canonical (execStart mid c x s) :=
  ends_of_kept hw (execStart_mem mid c x s)

@[simp] theorem execStop_canon (mid : Mid) (c : Core) (x : CtxId) (s : State) (hw : Canonical s) : Ends Canonical (execStop mid c x s) :=
  ends_of_kept hw (execStop_mem mid c x s)

@[simp] theorem execResume_canon (mid : Mid) (c : Core) (x : CtxId) (s : State) (hw : Canonical s) : Ends Canonical (execResume mid c x s) :=
  ends_of_kept hw (execResume_mem mid c x s)

@[simp] theorem execStepCtx_canon (mid : Mid) (c : Core) (x : CtxId) (s : State) (hw : Canonical s) : Ends Canonical (execStepCtx mid c x s) :=
  ends_of_kept hw (execStepCtx_mem mid c x s)

@[simp] theorem ccCtlWrite_canon (s : State) (c : Nat) (v : Word) (hw : Canonical s) : Canonical (ccCtlWrite s c v) :=
  canonical_of_mem (ccCtlWrite_mem s c v) hw

@[simp] theorem execHaltAll_canon (mid : Mid) (c : Core) (s : State) (hw : Canonical s) : Ends Canonical (execHaltAll mid c s) :=
  ends_of_kept hw (execHaltAll_mem mid c s)

@[simp] theorem execResumeAll_canon (mid : Mid) (c : Core) (s : State) (hw : Canonical s) : Ends Canonical (execResumeAll mid c s) :=
  ends_of_kept hw (execResumeAll_mem mid c s)

@[simp] theorem fetchRec_canon (s : State) (c : Nat) (x : Nat) (hw : Canonical s) : Canonical (fetchRec s c x) := by
  simp +contextual (maxDischargeDepth := 40) [fetchRec, hw]

@[simp] theorem took_canon (s : State) (c : Nat) (x : Nat) (hw : Canonical s) : Canonical (took s c x) := by
  simp +contextual (maxDischargeDepth := 40) [took, hw]

@[simp] theorem haltCtx_canon (s : State) (c : Nat) (x : Nat) (hw : Canonical s) : Canonical (haltCtx s c x) :=
  canonical_of_mem (haltCtx_mem s c x) hw

@[simp] theorem breakHit_canon (s : State) (c : Nat) (x : Nat) (hw : Canonical s) : Canonical (breakHit s c x) :=
  canonical_of_mem (breakHit_mem s c x) hw

/-- A turn that ends the record's step keeps memory in its form. -/
def GateCanon : Gate → Prop
  | .done t => Canonical t
  | _ => True
theorem takeGate_kept_canon (s : State) (c x : Nat) (row : Nat → Bool) (hw : Canonical s) : GateCanon (takeGate s c x row) := by
  unfold takeGate
  extract_lets k pc free r
  clear_value k pc free r
  (repeat' split) <;> simp +contextual (maxDischargeDepth := 40) [GateCanon, hw]
theorem takeGate_canon {s : State} {c x : Nat} {row : Nat → Bool} {t : State} (h : takeGate s c x row = .done t) (hw : Canonical s) :
    Canonical t := by
  have k := takeGate_kept_canon s c x row hw
  rw [h] at k
  exact k

@[simp] theorem execRec_canon (s : State) (c : Nat) (x : Nat) (op : Nat) (f : State → Rec → State) (hf : ∀ a0 a1, Canonical a0 → Canonical (f a0 a1)) (hw : Canonical s) :
    Canonical (execRec s c x op f) := by
  unfold execRec
  split
  · exact hw
  · next h => exact takeGate_canon h hw
  · exact hf _ _ (by simp +contextual (maxDischargeDepth := 40) [hw])

@[simp] theorem retarget_canon (s : State) (c : Nat) (x : Nat) (pc : Nat) (hw : Canonical s) : Canonical (retarget s c x pc) :=
  canonical_of_mem (retarget_mem s c x pc) hw

@[simp] theorem refuseHere_canon (s : State) (c : Nat) (x : Nat) (code : Nat) (r : Rec) (hw : Canonical s) : Canonical (refuseHere s c x code r) :=
  canonical_of_mem (refuseHere_mem s c x code r) hw

@[simp] theorem enqueue_canon (s : State) (c : Nat) (n : Nat) (q : QEntry) (hw : Canonical s) : Canonical (enqueue s c n q) :=
  canonical_of_mem (enqueue_mem s c n q) hw

@[simp] theorem issue_canon (s : State) (c : Nat) (x : Nat) (n : Nat) (r : Rec) (hw : Canonical s) : Canonical (issue s c x n r) := by
  simp +contextual (maxDischargeDepth := 40) [issue, hw]

@[simp] theorem execEngineRecordIssue_canon (c : Core) (x : CtxId) (s : State) (hw : Canonical s) : Ends Canonical (execEngineRecordIssue c x s) := by
  unfold execEngineRecordIssue
  refine (ends_next _ _).2 ?_
  split
  · exact hw
  · next h => exact takeGate_canon h hw
  · (repeat' split) <;> simp +contextual (maxDischargeDepth := 40) [hw]

@[simp] theorem execNop_canon (c : Core) (x : CtxId) (s : State) (hw : Canonical s) : Ends Canonical (execNop c x s) := by
  simp +contextual (maxDischargeDepth := 40) [execNop, hw]

@[simp] theorem execMark_canon (c : Core) (x : CtxId) (s : State) (hw : Canonical s) : Ends Canonical (execMark c x s) := by
  simp +contextual (maxDischargeDepth := 40) [execMark, hw]

@[simp] theorem execHalt_canon (c : Core) (x : CtxId) (s : State) (hw : Canonical s) : Ends Canonical (execHalt c x s) := by
  simp +contextual (maxDischargeDepth := 40) [execHalt, hw]

@[simp] theorem execFence_canon (c : Core) (x : CtxId) (s : State) (hw : Canonical s) : Ends Canonical (execFence c x s) := by
  simp +contextual (maxDischargeDepth := 40) [execFence, hw]

@[simp] theorem execCtxSeq_canon (c : Core) (x : CtxId) (s : State) (hw : Canonical s) : Ends Canonical (execCtxSeq c x s) := by
  simp +contextual (maxDischargeDepth := 40) [execCtxSeq, hw]

@[simp] theorem setScalar_canon (s : State) (c : Nat) (x : Nat) (n : Nat) (v : Word) (hw : Canonical s) : Canonical (setScalar s c x n v) :=
  canonical_of_mem (setScalar_mem s c x n v) hw

@[simp] theorem execScAlu_canon (c : Core) (x : CtxId) (s : State) (hw : Canonical s) : Ends Canonical (execScAlu c x s) := by
  simp +contextual (maxDischargeDepth := 40) [execScAlu, hw]

@[simp] theorem execScLi_canon (c : Core) (x : CtxId) (s : State) (hw : Canonical s) : Ends Canonical (execScLi c x s) := by
  simp +contextual (maxDischargeDepth := 40) [execScLi, hw]

@[simp] theorem startScalar_canon (s : State) (c : Nat) (x : Nat) (a : ScalarAcc) (hw : Canonical s) : Canonical (startScalar s c x a) :=
  canonical_of_mem (startScalar_mem s c x a) hw

@[simp] theorem execScLd_canon (c : Core) (x : CtxId) (s : State) (hw : Canonical s) : Ends Canonical (execScLd c x s) := by
  simp +contextual (maxDischargeDepth := 40) [execScLd, hw]

@[simp] theorem execScSt_canon (c : Core) (x : CtxId) (s : State) (hw : Canonical s) : Ends Canonical (execScSt c x s) := by
  unfold execScSt
  refine (ends_next _ _).2 (execRec_canon _ _ _ _ _ (fun a r ha => ?_) hw)
  extract_lets
  (repeat' split) <;> simp +contextual (maxDischargeDepth := 40) [ha]

@[simp] theorem execASet_canon (c : Core) (x : CtxId) (s : State) (hw : Canonical s) : Ends Canonical (execASet c x s) := by
  simp +contextual (maxDischargeDepth := 40) [execASet, hw]

@[simp] theorem execPredCmp_canon (c : Core) (x : CtxId) (s : State) (hw : Canonical s) : Ends Canonical (execPredCmp c x s) := by
  simp +contextual (maxDischargeDepth := 40) [execPredCmp, hw]

@[simp] theorem execPredLogic_canon (c : Core) (x : CtxId) (s : State) (hw : Canonical s) : Ends Canonical (execPredLogic c x s) := by
  simp +contextual (maxDischargeDepth := 40) [execPredLogic, hw]

@[simp] theorem execPredFull_canon (c : Core) (x : CtxId) (s : State) (hw : Canonical s) : Ends Canonical (execPredFull c x s) := by
  simp +contextual (maxDischargeDepth := 40) [execPredFull, hw]

@[simp] theorem execPredTask_canon (c : Core) (x : CtxId) (s : State) (hw : Canonical s) : Ends Canonical (execPredTask c x s) := by
  simp +contextual (maxDischargeDepth := 40) [execPredTask, hw]

@[simp] theorem execBr_canon (c : Core) (x : CtxId) (s : State) (hw : Canonical s) : Ends Canonical (execBr c x s) := by
  unfold execBr
  refine (ends_next _ _).2 (execRec_canon _ _ _ _ _ (fun a r ha => ?_) hw)
  extract_lets
  (repeat' split) <;> simp +contextual (maxDischargeDepth := 40) [ha]

@[simp] theorem execLoopBegin_canon (c : Core) (x : CtxId) (s : State) (hw : Canonical s) : Ends Canonical (execLoopBegin c x s) := by
  unfold execLoopBegin
  refine (ends_next _ _).2 (execRec_canon _ _ _ _ _ (fun a r ha => ?_) hw)
  extract_lets n e d
  split
  · exact refuseHere_canon _ _ _ _ _ ha
  · split
    · exact retarget_canon _ _ _ _ ha
    · exact execDone_canon _ _ _ (modCtx_canon _ _ _ _ (wr_canon _ _ _ (wr_canon _ _ _ (wr_canon _ _ _ ha))))

@[simp] theorem execLoopEnd_canon (c : Core) (x : CtxId) (s : State) (hw : Canonical s) : Ends Canonical (execLoopEnd c x s) := by
  simp +contextual (maxDischargeDepth := 40) [execLoopEnd, hw]

@[simp] theorem execLoopBreak_canon (c : Core) (x : CtxId) (s : State) (hw : Canonical s) : Ends Canonical (execLoopBreak c x s) := by
  simp +contextual (maxDischargeDepth := 40) [execLoopBreak, hw]

@[simp] theorem execRefetchDone_canon (c : Core) (x : CtxId) (s : State) (hw : Canonical s) : Ends Canonical (execRefetchDone c x s) :=
  ends_of_kept hw (execRefetchDone_mem c x s)

end Sys2Proof.Machine
end

