-- ==== Sys2Proof/Laws/MemTask.lean ====
section
/-! SUPPORT. The operations of Machine/Task.lean that leave memory alone. -/
namespace Sys2Proof.Machine

@[simp] theorem taskBegin_mem (s : State) (c : Nat) (x : Nat) (r : Rec) :
    (taskBegin s c x r).mem = s.mem := by
  simp only [taskBegin]; (repeat' split) <;> simp

@[simp] theorem taskCommit_mem (s : State) (c : Nat) (x : Nat) (r : Rec) :
    (taskCommit s c x r).mem = s.mem := by
  unfold taskCommit; (repeat' split) <;> simp

@[simp] theorem taskAbort_mem (s : State) (c : Nat) (x : Nat) (r : Rec) :
    (taskAbort s c x r).mem = s.mem := by
  unfold taskAbort; (repeat' split) <;> simp

@[simp] theorem freeLog_mem (s : State) (c : Nat) (x : Nat) :
    (freeLog s c x).mem = s.mem := by
  simp [freeLog]

@[simp] theorem showBits_mem (s : State) (c : Nat) (x : Nat) :
    (showBits s c x).mem = s.mem := by
  simp [showBits]

@[simp] theorem commitApply_mem (s : State) (c : Nat) (x : Nat) :
    (commitApply s c x).mem = s.mem := by
  unfold commitApply; (repeat' split) <;> simp

@[simp] theorem execTaskCommitApply_mem (c : Core) (x : CtxId) (s : State) :
    Kept State.mem s (execTaskCommitApply c x s) := by
  simp [execTaskCommitApply]

@[simp] theorem logFull_mem (s : State) (c : Nat) :
    (logFull s c).mem = s.mem := by
  simp only [logFull]; (repeat' split) <;> simp

@[simp] theorem execLogFull_mem (c : Core) (s : State) :
    Kept State.mem s (execLogFull c s) := by
  simp [execLogFull]

@[simp] theorem closeTaskAcc_mem (s : State) (c : Nat) (x : Nat) :
    (closeTaskAcc s c x).mem = s.mem := by
  simp [closeTaskAcc]

@[simp] theorem discardDone_mem (s : State) (c : Nat) (x : Nat) :
    (discardDone s c x).mem = s.mem := by
  unfold discardDone; (repeat' split) <;> simp

@[simp] theorem execTaskDiscardDone_mem (c : Core) (x : CtxId) (s : State) :
    Kept State.mem s (execTaskDiscardDone c x s) := by
  simp [execTaskDiscardDone]

end Sys2Proof.Machine
end

