-- ==== Sys2Proof/Laws/CanonTask.lean ====
section
/-! SUPPORT. The operations of Machine/Task.lean keep memory in its canonical form. -/
namespace Sys2Proof.Machine

@[simp] theorem taskBegin_canon (s : State) (c : Nat) (x : Nat) (r : Rec) (hw : Canonical s) : Canonical (taskBegin s c x r) :=
  canonical_of_mem (taskBegin_mem s c x r) hw

@[simp] theorem execTaskBegin_canon (c : Core) (x : CtxId) (s : State) (hw : Canonical s) : Ends Canonical (execTaskBegin c x s) := by
  simp +contextual (maxDischargeDepth := 40) [execTaskBegin, hw]

@[simp] theorem taskCommit_canon (s : State) (c : Nat) (x : Nat) (r : Rec) (hw : Canonical s) : Canonical (taskCommit s c x r) :=
  canonical_of_mem (taskCommit_mem s c x r) hw

@[simp] theorem execTaskCommit_canon (c : Core) (x : CtxId) (s : State) (hw : Canonical s) : Ends Canonical (execTaskCommit c x s) := by
  simp +contextual (maxDischargeDepth := 40) [execTaskCommit, hw]

@[simp] theorem taskAbort_canon (s : State) (c : Nat) (x : Nat) (r : Rec) (hw : Canonical s) : Canonical (taskAbort s c x r) :=
  canonical_of_mem (taskAbort_mem s c x r) hw

@[simp] theorem execTaskAbort_canon (c : Core) (x : CtxId) (s : State) (hw : Canonical s) : Ends Canonical (execTaskAbort c x s) := by
  simp +contextual (maxDischargeDepth := 40) [execTaskAbort, hw]

@[simp] theorem freeLog_canon (s : State) (c : Nat) (x : Nat) (hw : Canonical s) : Canonical (freeLog s c x) :=
  canonical_of_mem (freeLog_mem s c x) hw

@[simp] theorem showBits_canon (s : State) (c : Nat) (x : Nat) (hw : Canonical s) : Canonical (showBits s c x) :=
  canonical_of_mem (showBits_mem s c x) hw

@[simp] theorem commitApply_canon (s : State) (c : Nat) (x : Nat) (hw : Canonical s) : Canonical (commitApply s c x) :=
  canonical_of_mem (commitApply_mem s c x) hw

@[simp] theorem execTaskCommitApply_canon (c : Core) (x : CtxId) (s : State) (hw : Canonical s) : Ends Canonical (execTaskCommitApply c x s) :=
  ends_of_kept hw (execTaskCommitApply_mem c x s)

@[simp] theorem taskLogWrite_canon (s : State) (c : Nat) (hw : Canonical s) :
    Canonical (taskLogWrite s c) := by
  simp only [taskLogWrite]; (repeat' split) <;> simp +contextual (maxDischargeDepth := 40) [hw]

@[simp] theorem logFull_canon (s : State) (c : Nat) (hw : Canonical s) : Canonical (logFull s c) :=
  canonical_of_mem (logFull_mem s c) hw

@[simp] theorem execLogFull_canon (c : Core) (s : State) (hw : Canonical s) : Ends Canonical (execLogFull c s) :=
  ends_of_kept hw (execLogFull_mem c s)

@[simp] theorem taskDiscard_canon (s : State) (c : Nat) (x : Nat) (hw : Canonical s) :
    Canonical (taskDiscard s c x) := by
  unfold taskDiscard; (repeat' split) <;> simp +contextual (maxDischargeDepth := 40) [hw]

@[simp] theorem execTaskDiscard_canon (c : Core) (x : CtxId) (s : State) (hw : Canonical s) :
    Ends Canonical (execTaskDiscard c x s) := by
  simp +contextual (maxDischargeDepth := 40) [execTaskDiscard, hw]

@[simp] theorem closeTaskAcc_canon (s : State) (c : Nat) (x : Nat) (hw : Canonical s) : Canonical (closeTaskAcc s c x) :=
  canonical_of_mem (closeTaskAcc_mem s c x) hw

@[simp] theorem discardDone_canon (s : State) (c : Nat) (x : Nat) (hw : Canonical s) : Canonical (discardDone s c x) :=
  canonical_of_mem (discardDone_mem s c x) hw

@[simp] theorem execTaskDiscardDone_canon (c : Core) (x : CtxId) (s : State) (hw : Canonical s) : Ends Canonical (execTaskDiscardDone c x s) :=
  ends_of_kept hw (execTaskDiscardDone_mem c x s)

end Sys2Proof.Machine
end

