-- ==== Sys2Proof/Laws/MemSync.lean ====
section
/-! SUPPORT. The operations of Machine/Sync.lean that leave memory alone. -/
namespace Sys2Proof.Machine

@[simp] theorem sendReq_mem (s : State) (c : Nat) (x : Nat) (r : SyncReq) :
    (sendReq s c x r).mem = s.mem := by
  simp [sendReq]

@[simp] theorem answerReq_mem (s : State) (c : Nat) (x : Nat) (r : SyncReq) (orphan : Bool) (a : SyncAns) :
    (answerReq s c x r orphan a).mem = s.mem := by
  simp [answerReq]

@[simp] theorem countWait_mem (s : State) (c : Nat) (x : Nat) (fe : Bool) :
    (countWait s c x fe).mem = s.mem := by
  simp [countWait]

@[simp] theorem waitReq_mem (s : State) (c : Nat) (x : Nat) (r : SyncReq) (orphan : Bool) (w : WaitCond) (fe : Bool) :
    (waitReq s c x r orphan w fe).mem = s.mem := by
  simp [waitReq]

@[simp] theorem wakeCtx_mem (s : State) (c : Nat) (x : Nat) :
    (wakeCtx s c x).mem = s.mem := by
  simp [wakeCtx]

@[simp] theorem thawWakes_mem (s : State) (c : Nat) :
    (thawWakes s c).mem = s.mem := by
  simp [thawWakes]

@[simp] theorem feRecord_mem (s : State) (c : Nat) (x : Nat) (r : Rec) (writes : Bool) (mk : Nat → SyncReq) :
    (feRecord s c x r writes mk).mem = s.mem := by
  simp only [feRecord]; (repeat' split) <;> simp

@[simp] theorem setFull_mem (s : State) (w : Nat) (b : Bool) :
    (setFull s w b).mem = s.mem := by
  simp [setFull]

@[simp] theorem execYokeRegistration_mem (c : Core) (x : CtxId) (s : State) :
    Kept State.mem s (execYokeRegistration c x s) := by
  unfold execYokeRegistration; (repeat' split) <;> simp

@[simp] theorem execChangeNotice_mem (n : Notice) (s : State) :
    Kept State.mem s (execChangeNotice n s) := by
  unfold execChangeNotice; (repeat' split) <;> simp

@[simp] theorem execSyncWake_mem (c : Core) (s : State) :
    Kept State.mem s (execSyncWake c s) := by
  unfold execSyncWake; (repeat' split) <;> simp

@[simp] theorem syncAnswer_mem (s : State) (c : Nat) (x : Nat) :
    (syncAnswer s c x).mem = s.mem := by
  unfold syncAnswer; (repeat' split) <;> simp

@[simp] theorem execSyncAnswer_mem (c : Core) (x : CtxId) (s : State) :
    Kept State.mem s (execSyncAnswer c x s) := by
  simp [execSyncAnswer]

@[simp] theorem slotRelease_mem (s : State) (slot : Nat) :
    (slotRelease s slot).mem = s.mem := by
  simp [slotRelease]

@[simp] theorem arrival_mem (s : State) (c : Nat) (x : Nat) (r : SyncReq) (orphan : Bool) (slot : Nat) (wait : Bool) :
    (arrival s c x r orphan slot wait).mem = s.mem := by
  simp [arrival]

@[simp] theorem execYokeArrival_mem (c : Core) (x : CtxId) (s : State) :
    Kept State.mem s (execYokeArrival c x s) := by
  unfold execYokeArrival; (repeat' split) <;> simp

@[simp] theorem releaseCtx_mem (s : State) (r : Release) (x : Nat) :
    (releaseCtx s r x).mem = s.mem := by
  unfold releaseCtx; (repeat' split) <;> simp

@[simp] theorem execReleaseArrival_mem (c : Core) (slot : Byte) (s : State) :
    Kept State.mem s (execReleaseArrival c slot s) := by
  unfold execReleaseArrival; (repeat' split) <;> simp

@[simp] theorem slotCtlWrite_mem (s : State) (slot : Nat) (en : Bool) :
    (slotCtlWrite s slot en).mem = s.mem := by
  simp [slotCtlWrite]

@[simp] theorem slotCtlCmd_mem (mid : Mid) (slot : Byte) (en : Bool) (s : State) :
    Kept State.mem s (slotCtlCmd mid slot en s) := by
  simp [slotCtlCmd]

@[simp] theorem execSlotEnable_mem (mid : Mid) (slot : Byte) (s : State) :
    Kept State.mem s (execSlotEnable mid slot s) := by
  simp [execSlotEnable]

@[simp] theorem execSlotDisable_mem (mid : Mid) (slot : Byte) (s : State) :
    Kept State.mem s (execSlotDisable mid slot s) := by
  simp [execSlotDisable]

@[simp] theorem pktNotice_mem (s : State) (k : Nat) :
    (pktNotice s k).mem = s.mem := by
  simp [pktNotice]

@[simp] theorem pktAccept_mem (s : State) (k : Nat) :
    (pktAccept s k).mem = s.mem := by
  simp [pktAccept]

@[simp] theorem pktAborted_mem (s : State) (k : Nat) :
    (pktAborted s k).mem = s.mem := by
  simp [pktAborted]

@[simp] theorem pktReturn_mem (s : State) (k : Nat) :
    (pktReturn s k).mem = s.mem := by
  simp [pktReturn]

@[simp] theorem pktGoWrite_mem (s : State) (k : Nat) :
    (pktGoWrite s k).mem = s.mem := by
  simp [pktGoWrite]

@[simp] theorem svcFlush_mem (s : State) :
    (svcFlush s).mem = s.mem := by
  unfold svcFlush; (repeat' split) <;> simp

@[simp] theorem svcAnswer_mem (s : State) (v : Word) (status : Nat) :
    (svcAnswer s v status).mem = s.mem := by
  simp [svcAnswer]

@[simp] theorem pktTake_mem (s : State) (k : Nat) :
    (pktTake s k).mem = s.mem := by
  simp [pktTake]

@[simp] theorem pktTakeWrite_mem (s : State) (k : Nat) :
    (pktTakeWrite s k).mem = s.mem := by
  simp [pktTakeWrite]

@[simp] theorem pktForeign_mem (s : State) (c : Nat) (x : Nat) (k : Nat) (off : Nat) (r : SyncReq) (orphan : Bool) (pd : Nat) :
    (pktForeign s c x k off r orphan pd).mem = s.mem := by
  simp [pktForeign]

@[simp] theorem pktSendReq_mem (s : State) (c : Nat) (x : Nat) (k : Nat) (ws : List Word) (pd : Nat) (orphan : Bool) :
    (pktSendReq s c x k ws pd orphan).mem = s.mem := by
  simp [pktSendReq]

@[simp] theorem pktRecvReq_mem (s : State) (c : Nat) (x : Nat) (k : Nat) (sbase : Nat) (n : Nat) (pd : Nat) (orphan : Bool) :
    (pktRecvReq s c x k sbase n pd orphan).mem = s.mem := by
  simp [pktRecvReq]

@[simp] theorem execPktGo_mem (src : PktSrc) (k : Fin 512) (s : State) :
    Kept State.mem s (execPktGo src k s) := by
  unfold execPktGo; (repeat' split) <;> simp

@[simp] theorem execPktTake_mem (src : PktSrc) (k : Fin 512) (s : State) :
    Kept State.mem s (execPktTake src k s) := by
  unfold execPktTake; (repeat' split) <;> simp

@[simp] theorem pktClearWrite_mem (s : State) (k : Nat) :
    (pktClearWrite s k).mem = s.mem := by
  simp [pktClearWrite]

@[simp] theorem execPktClear_mem (mid : Mid) (k : Fin 512) (s : State) :
    Kept State.mem s (execPktClear mid k s) := by
  simp [execPktClear]

@[simp] theorem pktLockWrite_mem (s : State) (v : Word) (mantle : Bool) :
    (pktLockWrite s v mantle).mem = s.mem := by
  simp [pktLockWrite]

@[simp] theorem execLockSet_mem (mid : Mid) (s : State) :
    Kept State.mem s (execLockSet mid s) := by
  simp [execLockSet]

@[simp] theorem wpSend_mem (s : State) (w : Nat) :
    (wpSend s w).mem = s.mem := by
  simp [wpSend]

@[simp] theorem mntBtnClear_mem (s : State) (b : Nat) :
    (mntBtnClear s b).mem = s.mem := by
  simp [mntBtnClear]

@[simp] theorem mntPut_mem (s : State) (w : Nat) (v : Word) :
    (mntPut s w v).mem = s.mem := by
  simp [mntPut]

@[simp] theorem mntFlush_mem (s : State) :
    (mntFlush s).mem = s.mem := by
  unfold mntFlush
  apply foldl_mem
  intro a b
  split
  · rfl
  · split <;> simp

@[simp] theorem mntTake_mem (s : State) (w : Nat) :
    (mntTake s w).mem = s.mem := by
  simp [mntTake]

@[simp] theorem mntAnswer_mem (s : State) (w : Nat) (op : Nat) (seq : Nat) (status : Nat) (value : Nat) :
    (mntAnswer s w op seq status value).mem = s.mem := by
  simp [mntAnswer]

@[simp] theorem mntPump_mem (z0 : Nat) (z1 : State) :
    (mntPump z0 z1).mem = z1.mem := by
  induction z0 generalizing z1 with
    | zero => simp [mntPump]
    | succ n ih => simp only [mntPump]; (repeat' split) <;> simp [ih]

@[simp] theorem wpGoWrite_mem (s : State) (w : Nat) :
    (wpGoWrite s w).mem = s.mem := by
  simp [wpGoWrite]

@[simp] theorem wpTakeWrite_mem (s : State) (w : Nat) :
    (wpTakeWrite s w).mem = s.mem := by
  simp [wpTakeWrite]

@[simp] theorem execWpGo_mem (mid : Mid) (w : Fin 16) (s : State) :
    Kept State.mem s (execWpGo mid w s) := by
  simp [execWpGo]

@[simp] theorem execWpTake_mem (mid : Mid) (w : Fin 16) (s : State) :
    Kept State.mem s (execWpTake mid w s) := by
  simp [execWpTake]

@[simp] theorem btnRingWrite_mem (s : State) (receiver : Nat) (v : Word) (mantle : Bool) :
    (btnRingWrite s receiver v mantle).mem = s.mem := by
  simp [btnRingWrite]

@[simp] theorem ringReq_mem (s : State) (c : Nat) (x : Nat) (mid : Nat) (b : Nat) (orphan : Bool) :
    (ringReq s c x mid b orphan).mem = s.mem := by
  simp [ringReq]

@[simp] theorem btnWait_mem (s : State) (c : Nat) (x : Nat) (r : Rec) :
    (btnWait s c x r).mem = s.mem := by
  simp [btnWait]

end Sys2Proof.Machine
end

