-- ==== Sys2Proof/Laws/CanonSync.lean ====
section
/-! SUPPORT. The operations of Machine/Sync.lean keep memory in its canonical form. -/
namespace Sys2Proof.Machine

@[simp] theorem sendReq_canon (s : State) (c : Nat) (x : Nat) (r : SyncReq) (hw : Canonical s) : Canonical (sendReq s c x r) :=
  canonical_of_mem (sendReq_mem s c x r) hw

@[simp] theorem answerReq_canon (s : State) (c : Nat) (x : Nat) (r : SyncReq) (orphan : Bool) (a : SyncAns) (hw : Canonical s) : Canonical (answerReq s c x r orphan a) :=
  canonical_of_mem (answerReq_mem s c x r orphan a) hw

@[simp] theorem countWait_canon (s : State) (c : Nat) (x : Nat) (fe : Bool) (hw : Canonical s) : Canonical (countWait s c x fe) :=
  canonical_of_mem (countWait_mem s c x fe) hw

@[simp] theorem waitReq_canon (s : State) (c : Nat) (x : Nat) (r : SyncReq) (orphan : Bool) (w : WaitCond) (fe : Bool) (hw : Canonical s) : Canonical (waitReq s c x r orphan w fe) :=
  canonical_of_mem (waitReq_mem s c x r orphan w fe) hw

@[simp] theorem wakeCtx_canon (s : State) (c : Nat) (x : Nat) (hw : Canonical s) : Canonical (wakeCtx s c x) :=
  canonical_of_mem (wakeCtx_mem s c x) hw

@[simp] theorem thawWakes_canon (s : State) (c : Nat) (hw : Canonical s) : Canonical (thawWakes s c) :=
  canonical_of_mem (thawWakes_mem s c) hw

@[simp] theorem feRecord_canon (s : State) (c : Nat) (x : Nat) (r : Rec) (writes : Bool) (mk : Nat → SyncReq) (hw : Canonical s) : Canonical (feRecord s c x r writes mk) :=
  canonical_of_mem (feRecord_mem s c x r writes mk) hw

@[simp] theorem execFeTake_canon (c : Core) (x : CtxId) (s : State) (hw : Canonical s) : Ends Canonical (execFeTake c x s) := by
  simp +contextual (maxDischargeDepth := 40) [execFeTake, hw]

@[simp] theorem execFePeek_canon (c : Core) (x : CtxId) (s : State) (hw : Canonical s) : Ends Canonical (execFePeek c x s) := by
  simp +contextual (maxDischargeDepth := 40) [execFePeek, hw]

@[simp] theorem execFePut_canon (c : Core) (x : CtxId) (s : State) (hw : Canonical s) : Ends Canonical (execFePut c x s) := by
  simp +contextual (maxDischargeDepth := 40) [execFePut, hw]

@[simp] theorem execFeSet_canon (c : Core) (x : CtxId) (s : State) (hw : Canonical s) : Ends Canonical (execFeSet c x s) := by
  simp +contextual (maxDischargeDepth := 40) [execFeSet, hw]

@[simp] theorem execFeClear_canon (c : Core) (x : CtxId) (s : State) (hw : Canonical s) : Ends Canonical (execFeClear c x s) := by
  simp +contextual (maxDischargeDepth := 40) [execFeClear, hw]

@[simp] theorem setFull_canon (s : State) (w : Nat) (b : Bool) (hw : Canonical s) : Canonical (setFull s w b) :=
  canonical_of_mem (setFull_mem s w b) hw

@[simp] theorem storeSync_canon (s : State) (w : Nat) (v : Word) (hw : Canonical s) :
    Canonical (storeSync s w v) := by
  simp +contextual (maxDischargeDepth := 40) [storeSync, hw]

@[simp] theorem bankDo_canon (s : State) (c : Nat) (x : Nat) (r : SyncReq) (orphan : Bool) (w : Nat) (ecc : Ecc) (hw : Canonical s) :
    Canonical (bankDo s c x r orphan w ecc) := by
  unfold bankDo; (repeat' split) <;> simp +contextual (maxDischargeDepth := 40) [hw]

@[simp] theorem execSyncBankAccess_canon (c : Core) (x : CtxId) (ecc : Ecc) (s : State) (hw : Canonical s) :
    Ends Canonical (execSyncBankAccess c x ecc s) := by
  simp only [execSyncBankAccess, ends_next]; (repeat' split) <;> simp +contextual (maxDischargeDepth := 40) [hw]

@[simp] theorem execYokeRegistration_canon (c : Core) (x : CtxId) (s : State) (hw : Canonical s) : Ends Canonical (execYokeRegistration c x s) :=
  ends_of_kept hw (execYokeRegistration_mem c x s)

@[simp] theorem execChangeNotice_canon (n : Notice) (s : State) (hw : Canonical s) : Ends Canonical (execChangeNotice n s) :=
  ends_of_kept hw (execChangeNotice_mem n s)

@[simp] theorem execSyncWake_canon (c : Core) (s : State) (hw : Canonical s) : Ends Canonical (execSyncWake c s) :=
  ends_of_kept hw (execSyncWake_mem c s)

@[simp] theorem syncAnswer_canon (s : State) (c : Nat) (x : Nat) (hw : Canonical s) : Canonical (syncAnswer s c x) :=
  canonical_of_mem (syncAnswer_mem s c x) hw

@[simp] theorem execSyncAnswer_canon (c : Core) (x : CtxId) (s : State) (hw : Canonical s) : Ends Canonical (execSyncAnswer c x s) :=
  ends_of_kept hw (execSyncAnswer_mem c x s)

@[simp] theorem execBarArrive_canon (c : Core) (x : CtxId) (s : State) (hw : Canonical s) : Ends Canonical (execBarArrive c x s) := by
  simp +contextual (maxDischargeDepth := 40) [execBarArrive, hw]

@[simp] theorem slotRelease_canon (s : State) (slot : Nat) (hw : Canonical s) : Canonical (slotRelease s slot) :=
  canonical_of_mem (slotRelease_mem s slot) hw

@[simp] theorem arrival_canon (s : State) (c : Nat) (x : Nat) (r : SyncReq) (orphan : Bool) (slot : Nat) (wait : Bool) (hw : Canonical s) : Canonical (arrival s c x r orphan slot wait) :=
  canonical_of_mem (arrival_mem s c x r orphan slot wait) hw

@[simp] theorem execYokeArrival_canon (c : Core) (x : CtxId) (s : State) (hw : Canonical s) : Ends Canonical (execYokeArrival c x s) :=
  ends_of_kept hw (execYokeArrival_mem c x s)

@[simp] theorem releaseCtx_canon (s : State) (r : Release) (x : Nat) (hw : Canonical s) : Canonical (releaseCtx s r x) :=
  canonical_of_mem (releaseCtx_mem s r x) hw

@[simp] theorem execReleaseArrival_canon (c : Core) (slot : Byte) (s : State) (hw : Canonical s) : Ends Canonical (execReleaseArrival c slot s) :=
  ends_of_kept hw (execReleaseArrival_mem c slot s)

@[simp] theorem slotCtlWrite_canon (s : State) (slot : Nat) (en : Bool) (hw : Canonical s) : Canonical (slotCtlWrite s slot en) :=
  canonical_of_mem (slotCtlWrite_mem s slot en) hw

@[simp] theorem slotCtlCmd_canon (mid : Mid) (slot : Byte) (en : Bool) (s : State) (hw : Canonical s) : Ends Canonical (slotCtlCmd mid slot en s) :=
  ends_of_kept hw (slotCtlCmd_mem mid slot en s)

@[simp] theorem execSlotEnable_canon (mid : Mid) (slot : Byte) (s : State) (hw : Canonical s) : Ends Canonical (execSlotEnable mid slot s) :=
  ends_of_kept hw (execSlotEnable_mem mid slot s)

@[simp] theorem execSlotDisable_canon (mid : Mid) (slot : Byte) (s : State) (hw : Canonical s) : Ends Canonical (execSlotDisable mid slot s) :=
  ends_of_kept hw (execSlotDisable_mem mid slot s)

@[simp] theorem pktNotice_canon (s : State) (k : Nat) (hw : Canonical s) : Canonical (pktNotice s k) :=
  canonical_of_mem (pktNotice_mem s k) hw

@[simp] theorem pktAccept_canon (s : State) (k : Nat) (hw : Canonical s) : Canonical (pktAccept s k) :=
  canonical_of_mem (pktAccept_mem s k) hw

@[simp] theorem pktAborted_canon (s : State) (k : Nat) (hw : Canonical s) : Canonical (pktAborted s k) :=
  canonical_of_mem (pktAborted_mem s k) hw

@[simp] theorem pktReturn_canon (s : State) (k : Nat) (hw : Canonical s) : Canonical (pktReturn s k) :=
  canonical_of_mem (pktReturn_mem s k) hw

@[simp] theorem pktGoWrite_canon (s : State) (k : Nat) (hw : Canonical s) : Canonical (pktGoWrite s k) :=
  canonical_of_mem (pktGoWrite_mem s k) hw

@[simp] theorem svcFlush_canon (s : State) (hw : Canonical s) : Canonical (svcFlush s) :=
  canonical_of_mem (svcFlush_mem s) hw

@[simp] theorem svcAnswer_canon (s : State) (v : Word) (status : Nat) (hw : Canonical s) : Canonical (svcAnswer s v status) :=
  canonical_of_mem (svcAnswer_mem s v status) hw

@[simp] theorem pktTake_canon (s : State) (k : Nat) (hw : Canonical s) : Canonical (pktTake s k) :=
  canonical_of_mem (pktTake_mem s k) hw

@[simp] theorem pktTakeWrite_canon (s : State) (k : Nat) (hw : Canonical s) : Canonical (pktTakeWrite s k) :=
  canonical_of_mem (pktTakeWrite_mem s k) hw

@[simp] theorem execPktSend_canon (c : Core) (x : CtxId) (s : State) (hw : Canonical s) : Ends Canonical (execPktSend c x s) := by
  simp +contextual (maxDischargeDepth := 40) [execPktSend, hw]

@[simp] theorem execPktRecv_canon (c : Core) (x : CtxId) (s : State) (hw : Canonical s) : Ends Canonical (execPktRecv c x s) := by
  simp +contextual (maxDischargeDepth := 40) [execPktRecv, hw]

@[simp] theorem pktForeign_canon (s : State) (c : Nat) (x : Nat) (k : Nat) (off : Nat) (r : SyncReq) (orphan : Bool) (pd : Nat) (hw : Canonical s) : Canonical (pktForeign s c x k off r orphan pd) :=
  canonical_of_mem (pktForeign_mem s c x k off r orphan pd) hw

@[simp] theorem pktSendReq_canon (s : State) (c : Nat) (x : Nat) (k : Nat) (ws : List Word) (pd : Nat) (orphan : Bool) (hw : Canonical s) : Canonical (pktSendReq s c x k ws pd orphan) :=
  canonical_of_mem (pktSendReq_mem s c x k ws pd orphan) hw

@[simp] theorem pktRecvReq_canon (s : State) (c : Nat) (x : Nat) (k : Nat) (sbase : Nat) (n : Nat) (pd : Nat) (orphan : Bool) (hw : Canonical s) : Canonical (pktRecvReq s c x k sbase n pd orphan) :=
  canonical_of_mem (pktRecvReq_mem s c x k sbase n pd orphan) hw

@[simp] theorem execPktGo_canon (src : PktSrc) (k : Fin 512) (s : State) (hw : Canonical s) : Ends Canonical (execPktGo src k s) :=
  ends_of_kept hw (execPktGo_mem src k s)

@[simp] theorem execPktTake_canon (src : PktSrc) (k : Fin 512) (s : State) (hw : Canonical s) : Ends Canonical (execPktTake src k s) :=
  ends_of_kept hw (execPktTake_mem src k s)

@[simp] theorem pktClearWrite_canon (s : State) (k : Nat) (hw : Canonical s) : Canonical (pktClearWrite s k) :=
  canonical_of_mem (pktClearWrite_mem s k) hw

@[simp] theorem execPktClear_canon (mid : Mid) (k : Fin 512) (s : State) (hw : Canonical s) : Ends Canonical (execPktClear mid k s) :=
  ends_of_kept hw (execPktClear_mem mid k s)

@[simp] theorem pktLockWrite_canon (s : State) (v : Word) (mantle : Bool) (hw : Canonical s) : Canonical (pktLockWrite s v mantle) :=
  canonical_of_mem (pktLockWrite_mem s v mantle) hw

@[simp] theorem execLockSet_canon (mid : Mid) (s : State) (hw : Canonical s) : Ends Canonical (execLockSet mid s) :=
  ends_of_kept hw (execLockSet_mem mid s)

@[simp] theorem wpSend_canon (s : State) (w : Nat) (hw : Canonical s) : Canonical (wpSend s w) :=
  canonical_of_mem (wpSend_mem s w) hw

@[simp] theorem mntBtnClear_canon (s : State) (b : Nat) (hw : Canonical s) : Canonical (mntBtnClear s b) :=
  canonical_of_mem (mntBtnClear_mem s b) hw

@[simp] theorem mntPut_canon (s : State) (w : Nat) (v : Word) (hw : Canonical s) : Canonical (mntPut s w v) :=
  canonical_of_mem (mntPut_mem s w v) hw

@[simp] theorem mntFlush_canon (s : State) (hw : Canonical s) : Canonical (mntFlush s) :=
  canonical_of_mem (mntFlush_mem s) hw

@[simp] theorem mntTake_canon (s : State) (w : Nat) (hw : Canonical s) : Canonical (mntTake s w) :=
  canonical_of_mem (mntTake_mem s w) hw

@[simp] theorem mntAnswer_canon (s : State) (w : Nat) (op : Nat) (seq : Nat) (status : Nat) (value : Nat) (hw : Canonical s) : Canonical (mntAnswer s w op seq status value) :=
  canonical_of_mem (mntAnswer_mem s w op seq status value) hw

@[simp] theorem mntPump_canon (z0 : Nat) (z1 : State) (hw : Canonical z1) : Canonical (mntPump z0 z1) :=
  canonical_of_mem (mntPump_mem z0 z1) hw

@[simp] theorem wpGoWrite_canon (s : State) (w : Nat) (hw : Canonical s) : Canonical (wpGoWrite s w) :=
  canonical_of_mem (wpGoWrite_mem s w) hw

@[simp] theorem wpTakeWrite_canon (s : State) (w : Nat) (hw : Canonical s) : Canonical (wpTakeWrite s w) :=
  canonical_of_mem (wpTakeWrite_mem s w) hw

@[simp] theorem execWpGo_canon (mid : Mid) (w : Fin 16) (s : State) (hw : Canonical s) : Ends Canonical (execWpGo mid w s) :=
  ends_of_kept hw (execWpGo_mem mid w s)

@[simp] theorem execWpTake_canon (mid : Mid) (w : Fin 16) (s : State) (hw : Canonical s) : Ends Canonical (execWpTake mid w s) :=
  ends_of_kept hw (execWpTake_mem mid w s)

@[simp] theorem btnRingWrite_canon (s : State) (receiver : Nat) (v : Word) (mantle : Bool) (hw : Canonical s) : Canonical (btnRingWrite s receiver v mantle) :=
  canonical_of_mem (btnRingWrite_mem s receiver v mantle) hw

@[simp] theorem ringReq_canon (s : State) (c : Nat) (x : Nat) (mid : Nat) (b : Nat) (orphan : Bool) (hw : Canonical s) : Canonical (ringReq s c x mid b orphan) :=
  canonical_of_mem (ringReq_mem s c x mid b orphan) hw

@[simp] theorem execBtnRing_canon (src : BtnSrc) (s : State) (hw : Canonical s) : Ends Canonical (execBtnRing src s) := by
  cases src with
  | fabric mid r b => simp only [execBtnRing]; simp +contextual (maxDischargeDepth := 40) [hw]
  | ctx c x =>
    simp only [execBtnRing]
    split
    · simp +contextual (maxDischargeDepth := 40) [hw]
    · show Canonical _
      apply execRec_canon
      · intro a r ha
        (repeat' split) <;> simp +contextual (maxDischargeDepth := 40) [ha]
      · exact hw

@[simp] theorem btnWait_canon (s : State) (c : Nat) (x : Nat) (r : Rec) (hw : Canonical s) : Canonical (btnWait s c x r) :=
  canonical_of_mem (btnWait_mem s c x r) hw

@[simp] theorem execBtnWait_canon (c : Core) (x : CtxId) (s : State) (hw : Canonical s) : Ends Canonical (execBtnWait c x s) := by
  simp +contextual (maxDischargeDepth := 40) [execBtnWait, hw]

end Sys2Proof.Machine
end

