-- ==== Sys2Proof/Laws/MemColl.lean ====
section
/-! SUPPORT. The operations of Machine/Coll.lean that leave memory alone. -/
namespace Sys2Proof.Machine

@[simp] theorem setColl_mem (s : State) (p : Nat) (q : List CollCmd) :
    (setColl s p q).mem = s.mem := by
  simp [setColl]

@[simp] theorem modCmd_mem (s : State) (p : Nat) (n : Nat) (f : CollCmd → CollCmd) :
    (modCmd s p n f).mem = s.mem := by
  simp [modCmd]

@[simp] theorem collDone_mem (s : State) (d : Desc) :
    (collDone s d).mem = s.mem := by
  simp [collDone]

@[simp] theorem collRefuse_mem (s : State) (p : Nat) (d : Desc) (code : Nat) (addr : Nat) :
    (collRefuse s p d code addr).mem = s.mem := by
  simp [collRefuse]

@[simp] theorem foldWords_mem (s : State) (p : Nat) :
    (foldWords s p).mem = s.mem := by
  simp [foldWords]

@[simp] theorem collSend_mem (s : State) (p : Nat) (group : Bool) (k : Nat) (f : WFrame) :
    (collSend s p group k f).mem = s.mem := by
  simp [collSend]

@[simp] theorem seenIn_mem (s : State) (i : EngIn) :
    (seenIn s i).mem = s.mem := by
  simp [seenIn]

@[simp] theorem dropIn_mem (s : State) (i : EngIn) :
    (dropIn s i).mem = s.mem := by
  simp [dropIn]

@[simp] theorem collComplete_mem (s : State) (p : Nat) :
    (collComplete s p).mem = s.mem := by
  unfold collComplete; (repeat' split) <;> simp

@[simp] theorem execCollCommandComplete_mem (p : Panel) (s : State) :
    Kept State.mem s (execCollCommandComplete p s) := by
  simp [execCollCommandComplete]

@[simp] theorem sendClose_mem (s : State) (stage : Nat) :
    (sendClose s stage).mem = s.mem := by
  simp [sendClose]

@[simp] theorem closingStart_mem (s : State) :
    (closingStart s).mem = s.mem := by
  simp [closingStart]

@[simp] theorem execClosingPhase_mem (s : State) :
    Kept State.mem s (execClosingPhase s) := by
  simp [execClosingPhase]

@[simp] theorem execClose1Merged_mem (s : State) :
    Kept State.mem s (execClose1Merged s) := by
  unfold execClose1Merged; (repeat' split) <;> simp

end Sys2Proof.Machine
end

