-- ==== Sys2Proof/Laws/CanonColl.lean ====
section
/-! SUPPORT. The operations of Machine/Coll.lean keep memory in its canonical form. -/
namespace Sys2Proof.Machine

@[simp] theorem setColl_canon (s : State) (p : Nat) (q : List CollCmd) (hw : Canonical s) : Canonical (setColl s p q) :=
  canonical_of_mem (setColl_mem s p q) hw

@[simp] theorem modCmd_canon (s : State) (p : Nat) (n : Nat) (f : CollCmd → CollCmd) (hw : Canonical s) : Canonical (modCmd s p n f) :=
  canonical_of_mem (modCmd_mem s p n f) hw

@[simp] theorem collDone_canon (s : State) (d : Desc) (hw : Canonical s) : Canonical (collDone s d) :=
  canonical_of_mem (collDone_mem s d) hw

@[simp] theorem collRefuse_canon (s : State) (p : Nat) (d : Desc) (code : Nat) (addr : Nat) (hw : Canonical s) : Canonical (collRefuse s p d code addr) :=
  canonical_of_mem (collRefuse_mem s p d code addr) hw

@[simp] theorem descsRead_canon (s : State) (a : Nat) (n : Nat) (hw : Canonical s) :
    Canonical ((descsRead s a n).1) := by
  unfold descsRead
  exact canonical_foldl_fst _ (fun a b h => by simp [h]) _ _ hw

@[simp] theorem collTake_canon (s : State) (p : Nat) (hw : Canonical s) :
    Canonical (collTake s p) := by
  unfold collTake
  split
  · exact hw
  · (try simp only [])
    (repeat' split) <;> simp (maxDischargeDepth := 40) [hw]

@[simp] theorem execCollCommandTake_canon (p : Panel) (s : State) (hw : Canonical s) :
    Ends Canonical (execCollCommandTake p s) := by
  simp +contextual (maxDischargeDepth := 40) [execCollCommandTake, hw]

@[simp] theorem runCells_canon (s : State) (t : Tile) (n0 : Nat) (n : Nat) (hw : Canonical s) : Canonical ((runCells s t n0 n).1) := by
  simp +contextual (maxDischargeDepth := 40) [runCells, hw]

@[simp] theorem runRead_canon (s : State) (p : Nat) (t : Tile) (n0 : Nat) (n : Nat) (hw : Canonical s) :
    Canonical ((runRead s p t n0 n).1) := by
  simp +contextual (maxDischargeDepth := 40) [runRead, hw]

@[simp] theorem putRun_canon (s : State) (p : Nat) (c : CollCmd) (pos : Nat) (n : Nat) (data : List Byte) (scales : List Byte) (hw : Canonical s) :
    Canonical (putRun s p c pos n data scales) := by
  unfold putRun
  refine canonical_foldl_fst _ (fun a t h => ?_) _ _ hw
  dsimp only
  split
  · split <;> split <;> simp (maxDischargeDepth := 40) [h]
  · exact h

@[simp] theorem getRun_canon (s : State) (p : Nat) (c : CollCmd) (pos : Nat) (n : Nat) (hw : Canonical s) :
    Canonical ((getRun s p c pos n).1) := by
  unfold getRun
  exact canonical_foldl_fst _ (fun a t h => by (try simp only []); split <;> simp [h]) _ _ hw

@[simp] theorem foldWords_canon (s : State) (p : Nat) (hw : Canonical s) : Canonical (foldWords s p) :=
  canonical_of_mem (foldWords_mem s p) hw

@[simp] theorem collSend_canon (s : State) (p : Nat) (group : Bool) (k : Nat) (f : WFrame) (hw : Canonical s) : Canonical (collSend s p group k f) :=
  canonical_of_mem (collSend_mem s p group k f) hw

@[simp] theorem sendRun_canon (s : State) (p : Nat) (t : Tile) (n0 : Nat) (n : Nat) (kind : Nat) (id : Nat) (group : Bool) (k : Nat) (hw : Canonical s) :
    Canonical (sendRun s p t n0 n kind id group k) := by
  simp +contextual (maxDischargeDepth := 40) [sendRun, hw]

@[simp] theorem collBegin_canon (s : State) (p : Nat) (c : CollCmd) (hw : Canonical s) :
    Canonical (collBegin s p c) := by
  simp +contextual (maxDischargeDepth := 40) [collBegin, hw]

@[simp] theorem collStart_canon (s : State) (p : Nat) (op : Nat) (hw : Canonical s) :
    Canonical (collStart s p op) := by
  unfold collStart; (repeat' split) <;> simp +contextual (maxDischargeDepth := 40) [hw]

@[simp] theorem execAllGather_canon (p : Panel) (s : State) (hw : Canonical s) :
    Ends Canonical (execAllGather p s) := by
  simp +contextual (maxDischargeDepth := 40) [execAllGather, hw]

@[simp] theorem execReduceScatter_canon (p : Panel) (s : State) (hw : Canonical s) :
    Ends Canonical (execReduceScatter p s) := by
  simp +contextual (maxDischargeDepth := 40) [execReduceScatter, hw]

@[simp] theorem execAllReduce_canon (p : Panel) (s : State) (hw : Canonical s) :
    Ends Canonical (execAllReduce p s) := by
  simp +contextual (maxDischargeDepth := 40) [execAllReduce, hw]

@[simp] theorem seenIn_canon (s : State) (i : EngIn) (hw : Canonical s) : Canonical (seenIn s i) :=
  canonical_of_mem (seenIn_mem s i) hw

@[simp] theorem dropIn_canon (s : State) (i : EngIn) (hw : Canonical s) : Canonical (dropIn s i) :=
  canonical_of_mem (dropIn_mem s i) hw

@[simp] theorem settleCmd_canon (s : State) (p : Nat) (num : Nat) (hw : Canonical s) :
    Canonical (settleCmd s p num) := by
  unfold settleCmd; (repeat' split) <;> simp +contextual (maxDischargeDepth := 40) [hw]

@[simp] theorem collFrameRx_canon (s : State) (p : Nat) (hw : Canonical s) :
    Canonical (collFrameRx s p) := by
  simp only [collFrameRx]; (repeat' split) <;> simp +contextual (maxDischargeDepth := 40) [hw]

@[simp] theorem execCollFrameRx_canon (p : Panel) (s : State) (hw : Canonical s) :
    Ends Canonical (execCollFrameRx p s) := by
  simp +contextual (maxDischargeDepth := 40) [execCollFrameRx, hw]

@[simp] theorem collFold_canon (s : State) (p : Nat) (id : Nat) (index : Nat) (hw : Canonical s) :
    Canonical (collFold s p id index) := by
  unfold collFold; (repeat' split) <;> simp +contextual (maxDischargeDepth := 40) [hw]

@[simp] theorem execCollFold_canon (p : Panel) (collId : Nat) (frame : Nat) (s : State) (hw : Canonical s) :
    Ends Canonical (execCollFold p collId frame s) := by
  simp +contextual (maxDischargeDepth := 40) [execCollFold, hw]

@[simp] theorem collComplete_canon (s : State) (p : Nat) (hw : Canonical s) : Canonical (collComplete s p) :=
  canonical_of_mem (collComplete_mem s p) hw

@[simp] theorem execCollCommandComplete_canon (p : Panel) (s : State) (hw : Canonical s) : Ends Canonical (execCollCommandComplete p s) :=
  ends_of_kept hw (execCollCommandComplete_mem p s)

@[simp] theorem sendClose_canon (s : State) (stage : Nat) (hw : Canonical s) : Canonical (sendClose s stage) :=
  canonical_of_mem (sendClose_mem s stage) hw

@[simp] theorem closingStart_canon (s : State) (hw : Canonical s) : Canonical (closingStart s) :=
  canonical_of_mem (closingStart_mem s) hw

@[simp] theorem execClosingPhase_canon (s : State) (hw : Canonical s) : Ends Canonical (execClosingPhase s) :=
  ends_of_kept hw (execClosingPhase_mem s)

@[simp] theorem execClose1Merged_canon (s : State) (hw : Canonical s) : Ends Canonical (execClose1Merged s) :=
  ends_of_kept hw (execClose1Merged_mem s)

@[simp] theorem close2_canon (s : State) (hw : Canonical s) :
    Canonical (close2 s) := by
  unfold close2; (repeat' split) <;> simp +contextual (maxDischargeDepth := 40) [hw]

@[simp] theorem execClose2Merged_canon (s : State) (hw : Canonical s) :
    Ends Canonical (execClose2Merged s) := by
  simp +contextual (maxDischargeDepth := 40) [execClose2Merged, hw]

end Sys2Proof.Machine
end

