-- ==== Sys2Proof/Laws/MemRecovery.lean ====
section
/-! SUPPORT. The operations of Machine/Recovery.lean that leave memory alone. -/
namespace Sys2Proof.Machine

@[simp] theorem putDigest_mem (s : State) (p : Nat) (d : Nat) :
    (putDigest s p d).mem = s.mem := by
  simp [putDigest]

@[simp] theorem askSource_mem (s : State) (e : Nat) (p : Nat) (ws : List Nat) :
    (askSource s e p ws).mem = s.mem := by
  simp [askSource]

@[simp] theorem recEnd_mem (s : State) (n : Nat) :
    (recEnd s n).mem = s.mem := by
  simp [recEnd]

@[simp] theorem abandon_mem (s : State) :
    (abandon s).mem = s.mem := by
  simp [abandon]

@[simp] theorem purgeHeld_mem (s : State) (src : RxStream) :
    (purgeHeld s src).mem = s.mem := by
  simp [purgeHeld]

@[simp] theorem answerSource_mem (s : State) (p : Nat) (i : EngIn) (status : Nat) (flags : Nat) (digest : Nat) (dest : Nat) (bytes : List Byte) :
    (answerSource s p i status flags digest dest bytes).mem = s.mem := by
  simp [answerSource]

@[simp] theorem takeReply_mem (s : State) (p : Nat) :
    (takeReply s p).mem = s.mem := by
  unfold takeReply; (repeat' split) <;> simp

@[simp] theorem takeReplies_mem (s : State) :
    (takeReplies s).mem = s.mem := by
  simp [takeReplies]

end Sys2Proof.Machine
end

