-- ==== Sys2Proof/Laws/CanonRecovery.lean ====
section
/-! SUPPORT. The operations of Machine/Recovery.lean keep memory in its canonical form. -/
namespace Sys2Proof.Machine

@[simp] theorem wordRead_canon (s : State) (a : Nat) (hw : Canonical s) :
    Canonical ((wordRead s a).1) := by
  simp +contextual (maxDischargeDepth := 40) [wordRead, hw]

@[simp] theorem ingestCursor_canon (s : State) (hw : Canonical s) :
    Canonical ((ingestCursor s).1) := by
  simp +contextual (maxDischargeDepth := 40) [ingestCursor, hw]

@[simp] theorem hdrRead_canon (s : State) (a : Nat) (hw : Canonical s) :
    Canonical ((hdrRead s a).1) := by
  simp +contextual (maxDischargeDepth := 40) [hdrRead, hw]

@[simp] theorem copyGranules_canon (s : State) (mid : Nat) (a : Nat) (cells : List (Byte × Bool)) (hw : Canonical s) :
    Canonical (copyGranules s mid a cells) := by
  simp +contextual (maxDischargeDepth := 40) [copyGranules, hw]

@[simp] theorem localSeal_canon (s : State) (p : Nat) (hw : Canonical s) :
    Canonical (localSeal s p) := by
  simp +contextual (maxDischargeDepth := 40) [localSeal, hw]

@[simp] theorem execLocalSlotSealed_canon (p : Panel) (s : State) (hw : Canonical s) :
    Ends Canonical (execLocalSlotSealed p s) := by
  simp +contextual (maxDischargeDepth := 40) [execLocalSlotSealed, hw]

@[simp] theorem putDigest_canon (s : State) (p : Nat) (d : Nat) (hw : Canonical s) : Canonical (putDigest s p d) :=
  canonical_of_mem (putDigest_mem s p d) hw

@[simp] theorem digestPart_canon (s : State) (p : Nat) (hw : Canonical s) :
    Canonical ((digestPart s p).1) := by
  simp +contextual (maxDischargeDepth := 40) [digestPart, hw]

@[simp] theorem digestAll_canon (s : State) (hw : Canonical s) :
    Canonical ((digestAll s).1) := by
  simp +contextual (maxDischargeDepth := 40) [digestAll, hw]

@[simp] theorem mirrorHeader_canon (s : State) (hw : Canonical s) :
    Canonical (mirrorHeader s) := by
  simp +contextual (maxDischargeDepth := 40) [mirrorHeader, hw]

@[simp] theorem execMirrorHeaderWrite_canon (s : State) (hw : Canonical s) :
    Ends Canonical (execMirrorHeaderWrite s) := by
  simp +contextual (maxDischargeDepth := 40) [execMirrorHeaderWrite, hw]

@[simp] theorem askSource_canon (s : State) (e : Nat) (p : Nat) (ws : List Nat) (hw : Canonical s) : Canonical (askSource s e p ws) :=
  canonical_of_mem (askSource_mem s e p ws) hw

@[simp] theorem stampOk_canon (s : State) (n : Nat) (hw : Canonical s) :
    Canonical ((stampOk s n).1) := by
  simp +contextual (maxDischargeDepth := 40) [stampOk, hw]

@[simp] theorem recEnd_canon (s : State) (n : Nat) (hw : Canonical s) : Canonical (recEnd s n) :=
  canonical_of_mem (recEnd_mem s n) hw

@[simp] theorem restorePull_canon (s : State) (replica : Bool) (hw : Canonical s) :
    Canonical (restorePull s replica) := by
  simp +contextual (maxDischargeDepth := 40) [restorePull, hw]

@[simp] theorem residentFull_canon (s : State) (p : Nat) (k : Nat) (hw : Canonical s) :
    Canonical (residentFull s p k) := by
  simp only [residentFull]; (repeat' split) <;> simp +contextual (maxDischargeDepth := 40) [hw]

@[simp] theorem allTilesFull_canon (s : State) (hw : Canonical s) :
    Canonical (allTilesFull s) := by
  simp +contextual (maxDischargeDepth := 40) [allTilesFull, hw]

@[simp] theorem restoreDone_canon (s : State) (n : Nat) (flags : Nat) (hw : Canonical s) :
    Canonical (restoreDone s n flags) := by
  simp +contextual (maxDischargeDepth := 40) [restoreDone, hw]

@[simp] theorem localCheck_canon (s : State) (n : Nat) (hw : Canonical s) :
    Canonical ((localCheck s n).1) := by
  simp +contextual (maxDischargeDepth := 40) [localCheck, hw]

@[simp] theorem localCopy_canon (s : State) (n : Nat) (hw : Canonical s) :
    Canonical (localCopy s n) := by
  simp +contextual (maxDischargeDepth := 40) [localCopy, hw]

@[simp] theorem restoreLocal_canon (s : State) (hw : Canonical s) :
    Canonical (restoreLocal s) := by
  simp only [restoreLocal]; (repeat' split) <;> simp +contextual (maxDischargeDepth := 40) [hw]

@[simp] theorem abandon_canon (s : State) (hw : Canonical s) : Canonical (abandon s) :=
  canonical_of_mem (abandon_mem s) hw

@[simp] theorem rollback_canon (s : State) (hw : Canonical s) :
    Canonical (rollback s) := by
  simp only [rollback]; (repeat' split) <;> simp +contextual (maxDischargeDepth := 40) [hw]

@[simp] theorem purgeHeld_canon (s : State) (src : RxStream) (hw : Canonical s) : Canonical (purgeHeld s src) :=
  canonical_of_mem (purgeHeld_mem s src) hw

@[simp] theorem purge_canon (s : State) (hw : Canonical s) :
    Canonical (purge s) := by
  unfold purge; (repeat' split) <;> simp +contextual (maxDischargeDepth := 40) [hw]

@[simp] theorem verify_canon (s : State) (hw : Canonical s) :
    Canonical (verify s) := by
  simp +contextual (maxDischargeDepth := 40) [verify, hw]

@[simp] theorem adopt_canon (s : State) (discard : Bool) (hw : Canonical s) :
    Canonical (adopt s discard) := by
  simp +contextual (maxDischargeDepth := 40) [adopt, hw]

@[simp] theorem recStart_canon (s : State) (op : Nat) (out : Bool) (hw : Canonical s) :
    Canonical (recStart s op out) := by
  simp +contextual (maxDischargeDepth := 40) [recStart, hw]

@[simp] theorem recCmdWrite_canon (s : State) (p : Nat) (v : Word) (hw : Canonical s) :
    Canonical (recCmdWrite s p v) := by
  simp +contextual (maxDischargeDepth := 40) [recCmdWrite, hw]

@[simp] theorem recCmd_canon (mid : Mid) (v : Word) (s : State) (hw : Canonical s) :
    Ends Canonical (recCmd mid v s) := by
  simp +contextual (maxDischargeDepth := 40) [recCmd, hw]

@[simp] theorem execSnapshot_canon (mid : Mid) (s : State) (hw : Canonical s) :
    Ends Canonical (execSnapshot mid s) := by
  simp +contextual (maxDischargeDepth := 40) [execSnapshot, hw]

@[simp] theorem execRestoreMirror_canon (mid : Mid) (s : State) (hw : Canonical s) :
    Ends Canonical (execRestoreMirror mid s) := by
  simp +contextual (maxDischargeDepth := 40) [execRestoreMirror, hw]

@[simp] theorem execRestoreReplica_canon (mid : Mid) (s : State) (hw : Canonical s) :
    Ends Canonical (execRestoreReplica mid s) := by
  simp +contextual (maxDischargeDepth := 40) [execRestoreReplica, hw]

@[simp] theorem execRestoreLocal_canon (mid : Mid) (s : State) (hw : Canonical s) :
    Ends Canonical (execRestoreLocal mid s) := by
  simp +contextual (maxDischargeDepth := 40) [execRestoreLocal, hw]

@[simp] theorem execVerify_canon (mid : Mid) (s : State) (hw : Canonical s) :
    Ends Canonical (execVerify mid s) := by
  simp +contextual (maxDischargeDepth := 40) [execVerify, hw]

@[simp] theorem execAbandon_canon (mid : Mid) (s : State) (hw : Canonical s) :
    Ends Canonical (execAbandon mid s) := by
  simp +contextual (maxDischargeDepth := 40) [execAbandon, hw]

@[simp] theorem execAdopt_canon (mid : Mid) (outcome : Bool) (s : State) (hw : Canonical s) :
    Ends Canonical (execAdopt mid outcome s) := by
  simp +contextual (maxDischargeDepth := 40) [execAdopt, hw]

@[simp] theorem execRollback_canon (mid : Mid) (s : State) (hw : Canonical s) :
    Ends Canonical (execRollback mid s) := by
  simp +contextual (maxDischargeDepth := 40) [execRollback, hw]

@[simp] theorem execPurge_canon (mid : Mid) (s : State) (hw : Canonical s) :
    Ends Canonical (execPurge mid s) := by
  simp +contextual (maxDischargeDepth := 40) [execPurge, hw]

@[simp] theorem answerSource_canon (s : State) (p : Nat) (i : EngIn) (status : Nat) (flags : Nat) (digest : Nat) (dest : Nat) (bytes : List Byte) (hw : Canonical s) : Canonical (answerSource s p i status flags digest dest bytes) :=
  canonical_of_mem (answerSource_mem s p i status flags digest dest bytes) hw

@[simp] theorem servePull_canon (s : State) (p : Nat) (hw : Canonical s) :
    Canonical (servePull s p) := by
  simp only [servePull]; (repeat' split) <;> simp +contextual (maxDischargeDepth := 40) [hw]

@[simp] theorem execRestorePullRequest_canon (p : Panel) (s : State) (hw : Canonical s) :
    Ends Canonical (execRestorePullRequest p s) := by
  simp +contextual (maxDischargeDepth := 40) [execRestorePullRequest, hw]

@[simp] theorem serveDigest_canon (s : State) (hw : Canonical s) :
    Canonical (serveDigest s) := by
  unfold serveDigest
  refine canonical_foldl _ (fun a b h => ?_) _ _ hw
  split
  · exact h
  · (repeat' split) <;> simp (maxDischargeDepth := 40) [h]

@[simp] theorem execVerifyDigestRequest_canon (s : State) (hw : Canonical s) :
    Ends Canonical (execVerifyDigestRequest s) := by
  simp +contextual (maxDischargeDepth := 40) [execVerifyDigestRequest, hw]

@[simp] theorem takeReply_canon (s : State) (p : Nat) (hw : Canonical s) : Canonical (takeReply s p) :=
  canonical_of_mem (takeReply_mem s p) hw

@[simp] theorem takeReplies_canon (s : State) (hw : Canonical s) : Canonical (takeReplies s) :=
  canonical_of_mem (takeReplies_mem s) hw

@[simp] theorem restoreTiles_canon (s : State) (hw : Canonical s) :
    Canonical (restoreTiles s) := by
  simp +contextual (maxDischargeDepth := 40) [restoreTiles, hw]

@[simp] theorem recComplete_canon (s : State) (hw : Canonical s) :
    Canonical (recComplete s) := by
  simp only [recComplete]; (repeat' split) <;> simp +contextual (maxDischargeDepth := 40) [hw]

@[simp] theorem execRecCommandComplete_canon (s : State) (hw : Canonical s) :
    Ends Canonical (execRecCommandComplete s) := by
  simp +contextual (maxDischargeDepth := 40) [execRecCommandComplete, hw]

end Sys2Proof.Machine
end

