-- ==== Sys2Proof/Laws/MemVector.lean ====
section
/-! SUPPORT. The operations of Machine/Vector.lean that leave memory alone. -/
namespace Sys2Proof.Machine

@[simp] theorem vecDrawCheck_mem (s : State) (c : Nat) (q : QEntry) :
    (vecDrawCheck s c q).mem = s.mem := by
  simp [vecDrawCheck]

end Sys2Proof.Machine
end

