-- ==== Sys2Proof/Laws/CanonVector.lean ====
section
/-! SUPPORT. The operations of Machine/Vector.lean keep memory in its canonical form. -/
namespace Sys2Proof.Machine

@[simp] theorem vecDrawCheck_canon (s : State) (c : Nat) (q : QEntry) (hw : Canonical s) : Canonical (vecDrawCheck s c q) :=
  canonical_of_mem (vecDrawCheck_mem s c q) hw

@[simp] theorem vecFire_canon (s : State) (c : Nat) (q0 : QEntry) (hw : Canonical s) :
    Canonical (vecFire s c q0) := by
  simp only [vecFire]; (repeat' split) <;> simp +contextual (maxDischargeDepth := 40) [hw]

@[simp] theorem vecArrive_canon (s : State) (c : Nat) (op : Nat) (hw : Canonical s) : Canonical (vecArrive s c op) := by
  simp only [vecArrive]; (repeat' split) <;> simp +contextual (maxDischargeDepth := 40) [hw]

@[simp] theorem vecPick_canon (s : State) (c : Nat) (op : Nat) (hw : Canonical s) :
    Canonical (vecPick s c op) := by
  simp only [vecPick]; (repeat' split) <;> simp +contextual (maxDischargeDepth := 40) [hw]

@[simp] theorem vecStep_canon (c : Core) (op : Nat) (s : State) (hw : Canonical s) :
    Ends Canonical (vecStep c op s) := by
  simp +contextual (maxDischargeDepth := 40) [vecStep, hw]

@[simp] theorem execVecEw_canon (c : Core) (s : State) (hw : Canonical s) :
    Ends Canonical (execVecEw c s) := by
  simp +contextual (maxDischargeDepth := 40) [execVecEw, hw]

@[simp] theorem execVecFn_canon (c : Core) (s : State) (hw : Canonical s) :
    Ends Canonical (execVecFn c s) := by
  simp +contextual (maxDischargeDepth := 40) [execVecFn, hw]

@[simp] theorem execVecFnBwd_canon (c : Core) (s : State) (hw : Canonical s) :
    Ends Canonical (execVecFnBwd c s) := by
  simp +contextual (maxDischargeDepth := 40) [execVecFnBwd, hw]

@[simp] theorem execVecRowRed_canon (c : Core) (s : State) (hw : Canonical s) :
    Ends Canonical (execVecRowRed c s) := by
  simp +contextual (maxDischargeDepth := 40) [execVecRowRed, hw]

@[simp] theorem execVecColRed_canon (c : Core) (s : State) (hw : Canonical s) :
    Ends Canonical (execVecColRed c s) := by
  simp +contextual (maxDischargeDepth := 40) [execVecColRed, hw]

@[simp] theorem execVecNormStat_canon (c : Core) (s : State) (hw : Canonical s) :
    Ends Canonical (execVecNormStat c s) := by
  simp +contextual (maxDischargeDepth := 40) [execVecNormStat, hw]

@[simp] theorem execVecNormFwd_canon (c : Core) (s : State) (hw : Canonical s) :
    Ends Canonical (execVecNormFwd c s) := by
  simp +contextual (maxDischargeDepth := 40) [execVecNormFwd, hw]

@[simp] theorem execVecNormBwd_canon (c : Core) (s : State) (hw : Canonical s) :
    Ends Canonical (execVecNormBwd c s) := by
  simp +contextual (maxDischargeDepth := 40) [execVecNormBwd, hw]

@[simp] theorem execVecSmaxFold_canon (c : Core) (s : State) (hw : Canonical s) :
    Ends Canonical (execVecSmaxFold c s) := by
  simp +contextual (maxDischargeDepth := 40) [execVecSmaxFold, hw]

@[simp] theorem execVecSmaxApply_canon (c : Core) (s : State) (hw : Canonical s) :
    Ends Canonical (execVecSmaxApply c s) := by
  simp +contextual (maxDischargeDepth := 40) [execVecSmaxApply, hw]

@[simp] theorem execVecSmaxD_canon (c : Core) (s : State) (hw : Canonical s) :
    Ends Canonical (execVecSmaxD c s) := by
  simp +contextual (maxDischargeDepth := 40) [execVecSmaxD, hw]

@[simp] theorem execVecSmaxBwd_canon (c : Core) (s : State) (hw : Canonical s) :
    Ends Canonical (execVecSmaxBwd c s) := by
  simp +contextual (maxDischargeDepth := 40) [execVecSmaxBwd, hw]

@[simp] theorem execVecDropout_canon (c : Core) (s : State) (hw : Canonical s) :
    Ends Canonical (execVecDropout c s) := by
  simp +contextual (maxDischargeDepth := 40) [execVecDropout, hw]

@[simp] theorem execVecRand_canon (c : Core) (s : State) (hw : Canonical s) :
    Ends Canonical (execVecRand c s) := by
  simp +contextual (maxDischargeDepth := 40) [execVecRand, hw]

@[simp] theorem execVecScatterAdd_canon (c : Core) (s : State) (hw : Canonical s) :
    Ends Canonical (execVecScatterAdd c s) := by
  simp +contextual (maxDischargeDepth := 40) [execVecScatterAdd, hw]

@[simp] theorem vectorComplete_canon (s : State) (c : Nat) (hw : Canonical s) :
    Canonical (vectorComplete s c) := by
  unfold vectorComplete; (repeat' split) <;> simp +contextual (maxDischargeDepth := 40) [hw]

@[simp] theorem execVectorComplete_canon (c : Core) (s : State) (hw : Canonical s) :
    Ends Canonical (execVectorComplete c s) := by
  simp +contextual (maxDischargeDepth := 40) [execVectorComplete, hw]

end Sys2Proof.Machine
end

