-- ==== Sys2Proof/Laws/MemStream.lean ====
section
/-! SUPPORT. The operations of Machine/Stream.lean that leave memory alone. -/
namespace Sys2Proof.Machine

@[simp] theorem fillSlot_mem (s : State) (c : Nat) :
    (fillSlot s c).mem = s.mem := by
  simp only [fillSlot]; (repeat' split) <;> simp

@[simp] theorem fillSlots_mem (s : State) (c : Nat) :
    (fillSlots s c).mem = s.mem := by
  simp [fillSlots]

@[simp] theorem hold_mem (s : State) (c : Nat) (r : StrReq) (t : TagKind) :
    (hold s c r t).mem = s.mem := by
  simp [hold]

@[simp] theorem unpark_mem (s : State) (c : Nat) (ret : Option Returned) :
    (unpark s c ret).mem = s.mem := by
  unfold unpark
  apply foldl_mem
  intro a b
  (repeat' split) <;> simp

@[simp] theorem unparkAll_mem (s : State) (p : Nat) (ret : Option Returned) :
    (unparkAll s p ret).mem = s.mem := by
  simp [unparkAll]

@[simp] theorem streamRequest_mem (s : State) (c : Nat) (slot : Nat) :
    (streamRequest s c slot).mem = s.mem := by
  simp only [streamRequest]; (repeat' split) <;> simp

@[simp] theorem execStreamRequest_mem (c : Core) (slot : Fin 16) (s : State) :
    Kept State.mem s (execStreamRequest c slot s) := by
  simp [execStreamRequest]

@[simp] theorem tagGrant_mem (s : State) (p : Nat) :
    (tagGrant s p).mem = s.mem := by
  simp only [tagGrant]; (repeat' split) <;> simp

@[simp] theorem execTagGrant_mem (p : Panel) (s : State) :
    Kept State.mem s (execTagGrant p s) := by
  simp [execTagGrant]

@[simp] theorem tileFull_mem (s : State) (c : Nat) (q : QEntry) (b : Nat × Nat) (bytes : Nat) :
    (tileFull s c q b bytes).mem = s.mem := by
  simp [tileFull]

@[simp] theorem startRefetch_mem (s : State) (c : Nat) (q : QEntry) :
    (startRefetch s c q).mem = s.mem := by
  simp [startRefetch]

@[simp] theorem eosComplete_mem (s : State) (c : Nat) (q : QEntry) :
    (eosComplete s c q).mem = s.mem := by
  simp [eosComplete]

@[simp] theorem strEosComplete_mem (s : State) (c : Nat) (sid : Nat) :
    (strEosComplete s c sid).mem = s.mem := by
  unfold strEosComplete; (repeat' split) <;> simp

@[simp] theorem execStrEosComplete_mem (c : Core) (sid : Byte) (s : State) :
    Kept State.mem s (execStrEosComplete c sid s) := by
  simp [execStrEosComplete]

@[simp] theorem fbCmdWrite_mem (s : State) (c : Nat) (v : Word) :
    (fbCmdWrite s c v).mem = s.mem := by
  unfold fbCmdWrite; (repeat' split) <;> simp

@[simp] theorem fbSetCmd_mem (mid : Mid) (c : Core) (entry : BitVec 12) (op : Nat) (s : State) :
    Kept State.mem s (fbSetCmd mid c entry op s) := by
  simp [fbSetCmd]

@[simp] theorem execFbSetFull_mem (mid : Mid) (c : Core) (entry : BitVec 12) (s : State) :
    Kept State.mem s (execFbSetFull mid c entry s) := by
  simp [execFbSetFull]

@[simp] theorem execFbSetEmpty_mem (mid : Mid) (c : Core) (entry : BitVec 12) (s : State) :
    Kept State.mem s (execFbSetEmpty mid c entry s) := by
  simp [execFbSetEmpty]

@[simp] theorem execFbParity_mem (c : Core) (entry : BitVec 12) (s : State) :
    Kept State.mem s (execFbParity c entry s) := by
  simp [execFbParity]

@[simp] theorem watchWrite_mem (s : State) (p : Nat) (w : Nat) (limit : Bool) (v : Word) (own : Bool) :
    (watchWrite s p w limit v own).mem = s.mem := by
  simp [watchWrite]

@[simp] theorem execWatchRegionWrite_mem (mid : Mid) (p : Panel) (w : Fin 16) (limit : Bool) (value : Word) (s : State) :
    Kept State.mem s (execWatchRegionWrite mid p w limit value s) := by
  simp [execWatchRegionWrite]

@[simp] theorem watchReport_mem (s : State) (c : Nat) (idx : Nat) (ver : Nat) :
    (watchReport s c idx ver).mem = s.mem := by
  simp [watchReport]

@[simp] theorem execWatchVersionReport_mem (c : Core) (p : Panel) (w : Fin 16) (s : State) :
    Kept State.mem s (execWatchVersionReport c p w s) := by
  simp [execWatchVersionReport]

@[simp] theorem abortStack_mem (s : State) (st : Nat) :
    (abortStack s st).mem = s.mem := by
  simp [abortStack]

@[simp] theorem hemAbort_mem (s : State) (h : Nat) :
    (hemAbort s h).mem = s.mem := by
  simp [hemAbort]

@[simp] theorem execResync_mem (h : HemId) (hemSide : Bool) (s : State) :
    Kept State.mem s (execResync h hemSide s) := by
  simp [execResync]

@[simp] theorem moveReads_mem (s : State) (c : Nat) (run : StrRun) (reads : List (Nat × Nat)) (vers : List (Nat × Nat)) (pois : Nat) :
    (moveReads s c run reads vers pois).mem = s.mem := by
  simp [moveReads]

end Sys2Proof.Machine
end

