-- ==== Sys2Proof/Laws/CanonStream.lean ====
section
/-! SUPPORT. The operations of Machine/Stream.lean keep memory in its canonical form. -/
namespace Sys2Proof.Machine

@[simp] theorem fillSlot_canon (s : State) (c : Nat) (hw : Canonical s) : Canonical (fillSlot s c) :=
  canonical_of_mem (fillSlot_mem s c) hw

@[simp] theorem fillSlots_canon (s : State) (c : Nat) (hw : Canonical s) : Canonical (fillSlots s c) :=
  canonical_of_mem (fillSlots_mem s c) hw

@[simp] theorem hold_canon (s : State) (c : Nat) (r : StrReq) (t : TagKind) (hw : Canonical s) : Canonical (hold s c r t) :=
  canonical_of_mem (hold_mem s c r t) hw

@[simp] theorem unpark_canon (s : State) (c : Nat) (ret : Option Returned) (hw : Canonical s) : Canonical (unpark s c ret) :=
  canonical_of_mem (unpark_mem s c ret) hw

@[simp] theorem unparkAll_canon (s : State) (p : Nat) (ret : Option Returned) (hw : Canonical s) : Canonical (unparkAll s p ret) :=
  canonical_of_mem (unparkAll_mem s p ret) hw

@[simp] theorem streamRequest_canon (s : State) (c : Nat) (slot : Nat) (hw : Canonical s) : Canonical (streamRequest s c slot) :=
  canonical_of_mem (streamRequest_mem s c slot) hw

@[simp] theorem execStreamRequest_canon (c : Core) (slot : Fin 16) (s : State) (hw : Canonical s) : Ends Canonical (execStreamRequest c slot s) :=
  ends_of_kept hw (execStreamRequest_mem c slot s)

@[simp] theorem tagGrant_canon (s : State) (p : Nat) (hw : Canonical s) : Canonical (tagGrant s p) :=
  canonical_of_mem (tagGrant_mem s p) hw

@[simp] theorem execTagGrant_canon (p : Panel) (s : State) (hw : Canonical s) : Ends Canonical (execTagGrant p s) :=
  ends_of_kept hw (execTagGrant_mem p s)

@[simp] theorem fetchSpans_canon (s : State) (spans : List (Nat × Nat)) (hw : Canonical s) :
    Canonical ((fetchSpans s spans).1) := by
  simp +contextual (maxDischargeDepth := 40) [fetchSpans, hw]

@[simp] theorem strWrite_canon (s : State) (c : Nat) (q : QEntry) (ws : List (Nat × List Byte)) (hw : Canonical s) :
    Canonical (strWrite s c q ws) := by
  simp +contextual (maxDischargeDepth := 40) [strWrite, hw]

@[simp] theorem tileFull_canon (s : State) (c : Nat) (q : QEntry) (b : Nat × Nat) (bytes : Nat) (hw : Canonical s) : Canonical (tileFull s c q b bytes) :=
  canonical_of_mem (tileFull_mem s c q b bytes) hw

@[simp] theorem startRefetch_canon (s : State) (c : Nat) (q : QEntry) (hw : Canonical s) : Canonical (startRefetch s c q) :=
  canonical_of_mem (startRefetch_mem s c q) hw

@[simp] theorem finishRun_canon (s : State) (c : Nat) (r : StrRun) (hw : Canonical s) :
    Canonical (finishRun s c r) := by
  simp only [finishRun]; (repeat' split) <;> simp +contextual (maxDischargeDepth := 40) [hw]

@[simp] theorem runSettle_canon (s : State) (c : Nat) (id : Nat) (hw : Canonical s) :
    Canonical (runSettle s c id) := by
  unfold runSettle; (repeat' split) <;> simp +contextual (maxDischargeDepth := 40) [hw]

@[simp] theorem execTaskLogWrite_canon (c : Core) (s : State) (hw : Canonical s) :
    Ends Canonical (execTaskLogWrite c s) := by
  unfold execTaskLogWrite; (repeat' split) <;> simp +contextual (maxDischargeDepth := 40) [hw]

@[simp] theorem strFire_canon (s : State) (c : Nat) (q0 : QEntry) (hw : Canonical s) :
    Canonical (strFire s c q0) := by
  simp only [strFire]; (repeat' split) <;> simp +contextual (maxDischargeDepth := 40) [hw]

@[simp] theorem strHead_canon (s : State) (c : Nat) (op : Nat) (hw : Canonical s) :
    Canonical (strHead s c op) := by
  simp only [strHead]; (repeat' split) <;> simp +contextual (maxDischargeDepth := 40) [hw]

@[simp] theorem execStrMove_canon (c : Core) (s : State) (hw : Canonical s) :
    Ends Canonical (execStrMove c s) := by
  simp +contextual (maxDischargeDepth := 40) [execStrMove, hw]

@[simp] theorem execStrLining_canon (c : Core) (s : State) (hw : Canonical s) :
    Ends Canonical (execStrLining c s) := by
  simp +contextual (maxDischargeDepth := 40) [execStrLining, hw]

@[simp] theorem execStrGather_canon (c : Core) (s : State) (hw : Canonical s) :
    Ends Canonical (execStrGather c s) := by
  simp +contextual (maxDischargeDepth := 40) [execStrGather, hw]

@[simp] theorem execStrScatter_canon (c : Core) (s : State) (hw : Canonical s) :
    Ends Canonical (execStrScatter c s) := by
  simp +contextual (maxDischargeDepth := 40) [execStrScatter, hw]

@[simp] theorem moveReads_canon (s : State) (c : Nat) (run : StrRun) (reads : List (Nat × Nat)) (vers : List (Nat × Nat)) (pois : Nat) (hw : Canonical s) :
    Canonical (moveReads s c run reads vers pois) :=
  canonical_of_mem (moveReads_mem s c run reads vers pois) hw

@[simp] theorem moveRequest_canon (s : State) (c : Nat) (run : StrRun) (r : StrReq) (hw : Canonical s) :
    Canonical (moveRequest s c run r) := by
  simp +contextual (maxDischargeDepth := 40) [moveRequest, hw]

@[simp] theorem requestDone_canon (s : State) (c : Nat) (num : Nat) (hw : Canonical s) : Canonical (requestDone s c num) := by
  simp only [requestDone]; (repeat' split) <;> simp +contextual (maxDischargeDepth := 40) [hw]

@[simp] theorem execStreamRequestDone_canon (c : Core) (req : Nat) (s : State) (hw : Canonical s) : Ends Canonical (execStreamRequestDone c req s) := by
  simp +contextual (maxDischargeDepth := 40) [execStreamRequestDone, hw]

@[simp] theorem eosComplete_canon (s : State) (c : Nat) (q : QEntry) (hw : Canonical s) : Canonical (eosComplete s c q) :=
  canonical_of_mem (eosComplete_mem s c q) hw

@[simp] theorem strEos_canon (s : State) (c : Nat) (hw : Canonical s) : Canonical (strEos s c) := by
  simp only [strEos]; (repeat' split) <;> simp +contextual (maxDischargeDepth := 40) [hw]

@[simp] theorem execStrEos_canon (c : Core) (s : State) (hw : Canonical s) : Ends Canonical (execStrEos c s) := by
  simp +contextual (maxDischargeDepth := 40) [execStrEos, hw]

@[simp] theorem strEosComplete_canon (s : State) (c : Nat) (sid : Nat) (hw : Canonical s) : Canonical (strEosComplete s c sid) :=
  canonical_of_mem (strEosComplete_mem s c sid) hw

@[simp] theorem execStrEosComplete_canon (c : Core) (sid : Byte) (s : State) (hw : Canonical s) : Ends Canonical (execStrEosComplete c sid s) :=
  ends_of_kept hw (execStrEosComplete_mem c sid s)

@[simp] theorem fbCmdWrite_canon (s : State) (c : Nat) (v : Word) (hw : Canonical s) : Canonical (fbCmdWrite s c v) :=
  canonical_of_mem (fbCmdWrite_mem s c v) hw

@[simp] theorem fbSetCmd_canon (mid : Mid) (c : Core) (entry : BitVec 12) (op : Nat) (s : State) (hw : Canonical s) : Ends Canonical (fbSetCmd mid c entry op s) :=
  ends_of_kept hw (fbSetCmd_mem mid c entry op s)

@[simp] theorem execFbSetFull_canon (mid : Mid) (c : Core) (entry : BitVec 12) (s : State) (hw : Canonical s) : Ends Canonical (execFbSetFull mid c entry s) :=
  ends_of_kept hw (execFbSetFull_mem mid c entry s)

@[simp] theorem execFbSetEmpty_canon (mid : Mid) (c : Core) (entry : BitVec 12) (s : State) (hw : Canonical s) : Ends Canonical (execFbSetEmpty mid c entry s) :=
  ends_of_kept hw (execFbSetEmpty_mem mid c entry s)

@[simp] theorem execFbParity_canon (c : Core) (entry : BitVec 12) (s : State) (hw : Canonical s) : Ends Canonical (execFbParity c entry s) :=
  ends_of_kept hw (execFbParity_mem c entry s)

@[simp] theorem watchWrite_canon (s : State) (p : Nat) (w : Nat) (limit : Bool) (v : Word) (own : Bool) (hw : Canonical s) : Canonical (watchWrite s p w limit v own) :=
  canonical_of_mem (watchWrite_mem s p w limit v own) hw

@[simp] theorem execWatchRegionWrite_canon (mid : Mid) (p : Panel) (w : Fin 16) (limit : Bool) (value : Word) (s : State) (hw : Canonical s) : Ends Canonical (execWatchRegionWrite mid p w limit value s) :=
  ends_of_kept hw (execWatchRegionWrite_mem mid p w limit value s)

@[simp] theorem watchReport_canon (s : State) (c : Nat) (idx : Nat) (ver : Nat) (hw : Canonical s) : Canonical (watchReport s c idx ver) :=
  canonical_of_mem (watchReport_mem s c idx ver) hw

@[simp] theorem execWatchVersionReport_canon (c : Core) (p : Panel) (w : Fin 16) (s : State) (hw : Canonical s) : Ends Canonical (execWatchVersionReport c p w s) :=
  ends_of_kept hw (execWatchVersionReport_mem c p w s)

@[simp] theorem csFabric_canon (s : State) (mid : Nat) (a : Nat) (op : MemOp) (e : Ecc) (hw : Canonical s) :
    Canonical (csFabric s mid a op e) := by
  unfold csFabric; (repeat' split) <;> simp +contextual (maxDischargeDepth := 40) [hw]

@[simp] theorem execCsFabricAccess_canon (mid : Mid) (addr : Word) (op : MemOp) (ecc : Ecc) (s : State) (hw : Canonical s) :
    Ends Canonical (execCsFabricAccess mid addr op ecc s) := by
  simp +contextual (maxDischargeDepth := 40) [execCsFabricAccess, hw]

@[simp] theorem abortStack_canon (s : State) (st : Nat) (hw : Canonical s) : Canonical (abortStack s st) :=
  canonical_of_mem (abortStack_mem s st) hw

@[simp] theorem hemAbort_canon (s : State) (h : Nat) (hw : Canonical s) : Canonical (hemAbort s h) :=
  canonical_of_mem (hemAbort_mem s h) hw

@[simp] theorem execResync_canon (h : HemId) (hemSide : Bool) (s : State) (hw : Canonical s) : Ends Canonical (execResync h hemSide s) :=
  ends_of_kept hw (execResync_mem h hemSide s)

end Sys2Proof.Machine
end

