-- ==== Sys2Proof/Laws/MemDomain.lean ====
section
/-! SUPPORT. The operations of Machine/Domain.lean that leave memory alone. -/
namespace Sys2Proof.Machine

@[simp] theorem resetRegs_mem (s : State) (d : Nat) :
    (resetRegs s d).mem = s.mem := by
  simp [resetRegs]

@[simp] theorem resetFreeze_mem (s : State) (d : Nat) :
    (resetFreeze s d).mem = s.mem := by
  unfold resetFreeze
  refine (foldl_mem _ (fun a b => by split <;> (try split) <;> simp) _ _).trans ?_
  simp

@[simp] theorem pocketsDown_mem (s : State) (d : Nat) :
    (pocketsDown s d).mem = s.mem := by
  simp [pocketsDown]

@[simp] theorem buttonsDown_mem (s : State) (d : Nat) :
    (buttonsDown s d).mem = s.mem := by
  simp [buttonsDown]

@[simp] theorem coreSync_mem (s : State) (c : Nat) :
    (coreSync s c).mem = s.mem := by
  simp [coreSync]

@[simp] theorem selfRefresh_mem (s : State) (p : Nat) (on : Bool) :
    (selfRefresh s p on).mem = s.mem := by
  simp [selfRefresh]

@[simp] theorem linkReset_mem (s : State) (p : Nat) :
    (linkReset s p).mem = s.mem := by
  simp [linkReset]

@[simp] theorem seamReset_mem (s : State) (n : Nat) :
    (seamReset s n).mem = s.mem := by
  simp [seamReset]

@[simp] theorem fabReset_mem (s : State) (p : Nat) :
    (fabReset s p).mem = s.mem := by
  simp only [fabReset, fabReset.setBist]
  split <;> simp

@[simp] theorem fabReset.setBist_mem (s : State) (p : Nat) :
    (fabReset.setBist s p).mem = s.mem := by
  simp [fabReset.setBist]

@[simp] theorem cpReset_mem (s : State) :
    (cpReset s).mem = s.mem := by
  simp [cpReset]

@[simp] theorem setState_mem (s : State) (d : Nat) (st : Nat) :
    (setState s d st).mem = s.mem := by
  simp [setState]

@[simp] theorem restoreDelay_mem (s : State) (c : Nat) :
    (restoreDelay s c).mem = s.mem := by
  simp [restoreDelay]

@[simp] theorem loadFw_mem (s : State) (f : Nat) (id : Nat) :
    (loadFw s f id).mem = s.mem := by
  simp [loadFw]

@[simp] theorem bindService_mem (s : State) :
    (bindService s).mem = s.mem := by
  simp [bindService]

@[simp] theorem bootFw_mem (s : State) (p : Nat) :
    (bootFw s p).mem = s.mem := by
  simp [bootFw]

@[simp] theorem domFresh_mem (s : State) (d : Nat) :
    (domFresh s d).mem = s.mem := by
  simp [domFresh]

end Sys2Proof.Machine
end

