-- ==== Sys2Proof/Laws/CanonDomain.lean ====
section
/-! SUPPORT. The operations of Machine/Domain.lean keep memory in its canonical form. -/
namespace Sys2Proof.Machine

@[simp] theorem resetRegs_canon (s : State) (d : Nat) (hw : Canonical s) : Canonical (resetRegs s d) :=
  canonical_of_mem (resetRegs_mem s d) hw

@[simp] theorem resetFreeze_canon (s : State) (d : Nat) (hw : Canonical s) : Canonical (resetFreeze s d) :=
  canonical_of_mem (resetFreeze_mem s d) hw

@[simp] theorem pocketsDown_canon (s : State) (d : Nat) (hw : Canonical s) : Canonical (pocketsDown s d) :=
  canonical_of_mem (pocketsDown_mem s d) hw

@[simp] theorem buttonsDown_canon (s : State) (d : Nat) (hw : Canonical s) : Canonical (buttonsDown s d) :=
  canonical_of_mem (buttonsDown_mem s d) hw

@[simp] theorem coreSync_canon (s : State) (c : Nat) (hw : Canonical s) : Canonical (coreSync s c) :=
  canonical_of_mem (coreSync_mem s c) hw

@[simp] theorem coreReset_canon (s : State) (c : Nat) (hw : Canonical s) :
    Canonical (coreReset s c) := by
  simp +contextual (maxDischargeDepth := 40) [coreReset, hw]

@[simp] theorem llcReset_canon (s : State) (p : Nat) (hw : Canonical s) :
    Canonical (llcReset s p) := by
  simp +contextual (maxDischargeDepth := 40) [llcReset, hw]

@[simp] theorem hbmReset_canon (s : State) (p : Nat) (hw : Canonical s) :
    Canonical (hbmReset s p) := by
  have h := wf_foldl spareLost (fun a b ha => wf_spareLost b ha) (s.mem.spared.filter (fun e => hbmPanel e.gran == p)) hw
  unfold hbmReset
  generalize (s.mem.spared.filter (fun e => hbmPanel e.gran == p)).foldl spareLost s.mem = m at h
  exact h

@[simp] theorem selfRefresh_canon (s : State) (p : Nat) (on : Bool) (hw : Canonical s) : Canonical (selfRefresh s p on) :=
  canonical_of_mem (selfRefresh_mem s p on) hw

@[simp] theorem hbmGone_canon (s : State) (p : Nat) (hw : Canonical s) :
    Canonical (hbmGone s p) := by
  simp +contextual (maxDischargeDepth := 40) [hbmGone, hw]

@[simp] theorem linkReset_canon (s : State) (p : Nat) (hw : Canonical s) : Canonical (linkReset s p) :=
  canonical_of_mem (linkReset_mem s p) hw

@[simp] theorem seamReset_canon (s : State) (n : Nat) (hw : Canonical s) : Canonical (seamReset s n) :=
  canonical_of_mem (seamReset_mem s n) hw

@[simp] theorem fabReset_canon (s : State) (p : Nat) (hw : Canonical s) : Canonical (fabReset s p) :=
  canonical_of_mem (fabReset_mem s p) hw

@[simp] theorem fabReset.setBist_canon (s : State) (p : Nat) (hw : Canonical s) : Canonical (fabReset.setBist s p) :=
  canonical_of_mem (fabReset.setBist_mem s p) hw

@[simp] theorem cpReset_canon (s : State) (hw : Canonical s) : Canonical (cpReset s) :=
  canonical_of_mem (cpReset_mem s) hw

@[simp] theorem setState_canon (s : State) (d : Nat) (st : Nat) (hw : Canonical s) : Canonical (setState s d st) :=
  canonical_of_mem (setState_mem s d st) hw

@[simp] theorem domReset_canon (s : State) (d : Nat) (hw : Canonical s) :
    Canonical (domReset s d) := by
  unfold domReset; (repeat' split) <;> simp +contextual (maxDischargeDepth := 40) [hw]

@[simp] theorem domOff_canon (s : State) (d : Nat) (hw : Canonical s) :
    Canonical (domOff s d) := by
  simp +contextual (maxDischargeDepth := 40) [domOff, hw]

@[simp] theorem domRetain_canon (s : State) (d : Nat) (hw : Canonical s) :
    Canonical (domRetain s d) := by
  simp +contextual (maxDischargeDepth := 40) [domRetain, hw]

@[simp] theorem restoreDelay_canon (s : State) (c : Nat) (hw : Canonical s) : Canonical (restoreDelay s c) :=
  canonical_of_mem (restoreDelay_mem s c) hw

@[simp] theorem loadFw_canon (s : State) (f : Nat) (id : Nat) (hw : Canonical s) : Canonical (loadFw s f id) :=
  canonical_of_mem (loadFw_mem s f id) hw

@[simp] theorem bindService_canon (s : State) (hw : Canonical s) : Canonical (bindService s) :=
  canonical_of_mem (bindService_mem s) hw

@[simp] theorem bootFw_canon (s : State) (p : Nat) (hw : Canonical s) : Canonical (bootFw s p) :=
  canonical_of_mem (bootFw_mem s p) hw

@[simp] theorem domFresh_canon (s : State) (d : Nat) (hw : Canonical s) : Canonical (domFresh s d) :=
  canonical_of_mem (domFresh_mem s d) hw

@[simp] theorem domWake_canon (s : State) (d : Nat) (hw : Canonical s) :
    Canonical (domWake s d) := by
  simp +contextual (maxDischargeDepth := 40) [domWake, hw]

@[simp] theorem domBring_canon (s : State) (d : Nat) (hw : Canonical s) :
    Canonical (domBring s d) := by
  simp +contextual (maxDischargeDepth := 40) [domBring, hw]

end Sys2Proof.Machine
end

