-- ==== Sys2Proof/Laws/MemBist.lean ====
section
/-! SUPPORT. The operations of Machine/Bist.lean that leave memory alone. -/
namespace Sys2Proof.Machine

@[simp] theorem setBist_mem (s : State) (p : Nat) (b : BistSt) :
    (setBist s p b).mem = s.mem := by
  simp [setBist]

@[simp] theorem bistReqWrite_mem (s : State) (p : Nat) (mid : Nat) (addr : Nat) :
    (bistReqWrite s p mid addr).mem = s.mem := by
  simp [bistReqWrite]

@[simp] theorem execBistReq_mem (mid : Mid) (p : Panel) (addr : Word) (s : State) :
    Kept State.mem s (execBistReq mid p addr s) := by
  simp [execBistReq]

@[simp] theorem darnWrite_mem (s : State) (page : Nat) (off : Nat) (v : Word) (own : Bool) :
    (darnWrite s page off v own).mem = s.mem := by
  unfold darnWrite; (repeat' split) <;> simp

@[simp] theorem execDarnWrite_mem (mid : Mid) (page : Nat) (k : Nat) (value : Word) (s : State) :
    Kept State.mem s (execDarnWrite mid page k value s) := by
  unfold execDarnWrite; (repeat' split) <;> simp

@[simp] theorem segRetireWrite_mem (s : State) (page : Nat) (off : Nat) (v : Word) :
    (segRetireWrite s page off v).mem = s.mem := by
  simp [segRetireWrite]

end Sys2Proof.Machine
end

