-- ==== Sys2Proof/Laws/CanonBist.lean ====
section
/-! SUPPORT. The operations of Machine/Bist.lean keep memory in its canonical form. -/
namespace Sys2Proof.Machine

@[simp] theorem setBist_canon (s : State) (p : Nat) (b : BistSt) (hw : Canonical s) : Canonical (setBist s p b) :=
  canonical_of_mem (setBist_mem s p b) hw

@[simp] theorem bistReqWrite_canon (s : State) (p : Nat) (mid : Nat) (addr : Nat) (hw : Canonical s) : Canonical (bistReqWrite s p mid addr) :=
  canonical_of_mem (bistReqWrite_mem s p mid addr) hw

@[simp] theorem execBistReq_canon (mid : Mid) (p : Panel) (addr : Word) (s : State) (hw : Canonical s) : Ends Canonical (execBistReq mid p addr s) :=
  ends_of_kept hw (execBistReq_mem mid p addr s)

@[simp] theorem bistStart_canon (s : State) (p : Nat) (hw : Canonical s) :
    Canonical (bistStart s p) := by
  simp only [bistStart]; (repeat' split) <;> simp +contextual (maxDischargeDepth := 40) [hw]

@[simp] theorem bistChunk_canon (s : State) (p : Nat) (fails : List Nat) (hw : Canonical s) :
    Canonical (bistChunk s p fails) := by
  simp only [bistChunk]; (repeat' split) <;> simp +contextual (maxDischargeDepth := 40) [hw]

@[simp] theorem execBistChunk_canon (p : Panel) (fails : List Nat) (s : State) (hw : Canonical s) :
    Ends Canonical (execBistChunk p fails s) := by
  simp +contextual (maxDischargeDepth := 40) [execBistChunk, hw]

@[simp] theorem bistResult_canon (s : State) (p : Nat) (hw : Canonical s) :
    Canonical (bistResult s p) := by
  simp only [bistResult]; (repeat' split) <;> simp +contextual (maxDischargeDepth := 40) [hw]

@[simp] theorem execBistResult_canon (p : Panel) (s : State) (hw : Canonical s) :
    Ends Canonical (execBistResult p s) := by
  simp +contextual (maxDischargeDepth := 40) [execBistResult, hw]

@[simp] theorem darnWrite_canon (s : State) (page : Nat) (off : Nat) (v : Word) (own : Bool) (hw : Canonical s) : Canonical (darnWrite s page off v own) :=
  canonical_of_mem (darnWrite_mem s page off v own) hw

@[simp] theorem execDarnWrite_canon (mid : Mid) (page : Nat) (k : Nat) (value : Word) (s : State) (hw : Canonical s) : Ends Canonical (execDarnWrite mid page k value s) :=
  ends_of_kept hw (execDarnWrite_mem mid page k value s)

@[simp] theorem segRetireWrite_canon (s : State) (page : Nat) (off : Nat) (v : Word) (hw : Canonical s) : Canonical (segRetireWrite s page off v) :=
  canonical_of_mem (segRetireWrite_mem s page off v) hw

end Sys2Proof.Machine
end

