-- ==== Sys2Proof/Laws/CanonImage.lean ====
section
/-! SUPPORT. The operations of Machine/Image.lean keep memory in its canonical form. -/
namespace Sys2Proof.Machine

@[simp] theorem readStaged_canon (s : State) (off : Nat) (hw : Canonical s) :
    Canonical ((readStaged s off).1) := by
  simp +contextual (maxDischargeDepth := 40) [readStaged, hw]

end Sys2Proof.Machine
end

