-- ==== Sys2Proof/Laws/MemPower.lean ====
section
/-! SUPPORT. The operations of Machine/Power.lean that leave memory alone. -/
namespace Sys2Proof.Machine

@[simp] theorem setPwr_mem (s : State) (f : PwrSt → PwrSt) :
    (setPwr s f).mem = s.mem := by
  simp [setPwr]

@[simp] theorem alertOn_mem (s : State) :
    (alertOn s).mem = s.mem := by
  simp [alertOn]

@[simp] theorem alertSettle_mem (s : State) :
    (alertSettle s).mem = s.mem := by
  simp [alertSettle]

@[simp] theorem endTransitions_mem (s : State) :
    (endTransitions s).mem = s.mem := by
  simp [endTransitions]

@[simp] theorem setReduced_mem (s : State) (on : Bool) :
    (setReduced s on).mem = s.mem := by
  simp [setReduced]

@[simp] theorem seedRails_mem (s : State) :
    (seedRails s).mem = s.mem := by
  simp [seedRails]

@[simp] theorem dropSettings_mem (s : State) :
    (dropSettings s).mem = s.mem := by
  simp [dropSettings]

@[simp] theorem drawKey_mem (s : State) :
    (drawKey s).mem = s.mem := by
  simp [drawKey]

@[simp] theorem cpTrainDone.cpHello_mem (s : State) :
    (cpTrainDone.cpHello s).mem = s.mem := by
  simp [cpTrainDone.cpHello]

@[simp] theorem reducedExit_mem (s : State) :
    (reducedExit s).mem = s.mem := by
  simp [reducedExit]

@[simp] theorem execReducedServiceExit_mem (s : State) :
    Kept State.mem s (execReducedServiceExit s) := by
  simp [execReducedServiceExit]

@[simp] theorem rateTick_mem (s : State) (p : Nat) (measured : Nat) :
    (rateTick s p measured).mem = s.mem := by
  simp [rateTick]

@[simp] theorem execRateLoopTick_mem (p : Panel) (measured : Nat) (s : State) :
    Kept State.mem s (execRateLoopTick p measured s) := by
  simp [execRateLoopTick]

@[simp] theorem powerReading_mem (s : State) (watts : Nat) (mJ : Nat) :
    (powerReading s watts mJ).mem = s.mem := by
  simp [powerReading]

@[simp] theorem execPowerMeasurement_mem (watts : Nat) (mJ : Nat) (s : State) :
    Kept State.mem s (execPowerMeasurement watts mJ s) := by
  simp [execPowerMeasurement]

end Sys2Proof.Machine
end

