-- ==== Sys2Proof/Laws/CanonPower.lean ====
section
/-! SUPPORT. The operations of Machine/Power.lean keep memory in its canonical form. -/
namespace Sys2Proof.Machine

@[simp] theorem reqAccept_canon (s : State) (d : Nat) (req : Nat) (hw : Canonical s) :
    Canonical (reqAccept s d req) := by
  unfold reqAccept
  (try simp only [])
  (repeat' split) <;> simp (maxDischargeDepth := 40) [hw]

@[simp] theorem pwrRequest_canon (s : State) (d : Nat) (req : Nat) (hw : Canonical s) :
    Canonical (pwrRequest s d req) := by
  unfold pwrRequest; (repeat' split) <;> simp +contextual (maxDischargeDepth := 40) [hw]

@[simp] theorem pwrDomainWrite_canon (s : State) (p : Nat) (d : Nat) (v : Word) (hw : Canonical s) :
    Canonical (pwrDomainWrite s p d v) := by
  simp +contextual (maxDischargeDepth := 40) [pwrDomainWrite, hw]

@[simp] theorem pwrReqCmd_canon (mid : Mid) (d : Fin 50) (req : Nat) (s : State) (hw : Canonical s) :
    Ends Canonical (pwrReqCmd mid d req s) := by
  simp +contextual (maxDischargeDepth := 40) [pwrReqCmd, hw]

@[simp] theorem execPwrReqOff_canon (mid : Mid) (d : Fin 50) (s : State) (hw : Canonical s) :
    Ends Canonical (execPwrReqOff mid d s) := by
  simp +contextual (maxDischargeDepth := 40) [execPwrReqOff, hw]

@[simp] theorem execPwrReqRetention_canon (mid : Mid) (d : Fin 50) (s : State) (hw : Canonical s) :
    Ends Canonical (execPwrReqRetention mid d s) := by
  simp +contextual (maxDischargeDepth := 40) [execPwrReqRetention, hw]

@[simp] theorem execPwrReqOn_canon (mid : Mid) (d : Fin 50) (s : State) (hw : Canonical s) :
    Ends Canonical (execPwrReqOn mid d s) := by
  simp +contextual (maxDischargeDepth := 40) [execPwrReqOn, hw]

@[simp] theorem execPwrReqReset_canon (mid : Mid) (d : Fin 50) (s : State) (hw : Canonical s) :
    Ends Canonical (execPwrReqReset mid d s) := by
  simp +contextual (maxDischargeDepth := 40) [execPwrReqReset, hw]

@[simp] theorem transitionDone_canon (s : State) (d : Nat) (hw : Canonical s) :
    Canonical (transitionDone s d) := by
  simp +contextual (maxDischargeDepth := 40) [transitionDone, hw]

@[simp] theorem execPwrTransitionDone_canon (d : Fin 50) (s : State) (hw : Canonical s) :
    Ends Canonical (execPwrTransitionDone d s) := by
  simp +contextual (maxDischargeDepth := 40) [execPwrTransitionDone, hw]

@[simp] theorem setPwr_canon (s : State) (f : PwrSt → PwrSt) (hw : Canonical s) : Canonical (setPwr s f) :=
  canonical_of_mem (setPwr_mem s f) hw

@[simp] theorem alertOn_canon (s : State) (hw : Canonical s) : Canonical (alertOn s) :=
  canonical_of_mem (alertOn_mem s) hw

@[simp] theorem alertSettle_canon (s : State) (hw : Canonical s) : Canonical (alertSettle s) :=
  canonical_of_mem (alertSettle_mem s) hw

@[simp] theorem endTransitions_canon (s : State) (hw : Canonical s) : Canonical (endTransitions s) :=
  canonical_of_mem (endTransitions_mem s) hw

@[simp] theorem setReduced_canon (s : State) (on : Bool) (hw : Canonical s) : Canonical (setReduced s on) :=
  canonical_of_mem (setReduced_mem s on) hw

@[simp] theorem seedRails_canon (s : State) (hw : Canonical s) : Canonical (seedRails s) :=
  canonical_of_mem (seedRails_mem s) hw

@[simp] theorem dropSettings_canon (s : State) (hw : Canonical s) : Canonical (dropSettings s) :=
  canonical_of_mem (dropSettings_mem s) hw

@[simp] theorem drawKey_canon (s : State) (hw : Canonical s) : Canonical (drawKey s) :=
  canonical_of_mem (drawKey_mem s) hw

@[simp] theorem setKey_canon (s : State) (p : Nat) (k : Nat) (n : Nat) (hw : Canonical s) :
    Canonical (setKey s p k n) := by
  simp +contextual (maxDischargeDepth := 40) [setKey, hw]

@[simp] theorem freshSlots_canon (s : State) (p : Nat) (hw : Canonical s) :
    Canonical (freshSlots s p) := by
  simp +contextual (maxDischargeDepth := 40) [freshSlots, hw]

@[simp] theorem freshMemory_canon (s : State) (hw : Canonical s) :
    Canonical (freshMemory s) := by
  simp +contextual (maxDischargeDepth := 40) [freshMemory, hw]

@[simp] theorem mantleStart_canon (s : State) (hw : Canonical s) :
    Canonical (mantleStart s) := by
  simp +contextual (maxDischargeDepth := 40) [mantleStart, hw]

@[simp] theorem powerStep4_canon (s : State) (hw : Canonical s) :
    Canonical (powerStep4 s) := by
  simp +contextual (maxDischargeDepth := 40) [powerStep4, hw]

@[simp] theorem execStandbyPowerOn_canon (s : State) (hw : Canonical s) :
    Ends Canonical (execStandbyPowerOn s) := by
  simp +contextual (maxDischargeDepth := 40) [execStandbyPowerOn, hw]

@[simp] theorem standbyLoss_canon (s : State) (hw : Canonical s) :
    Canonical (standbyLoss s) := by
  show Memory.wf State.reset.mem = true
  rfl

@[simp] theorem execStandbyPowerLoss_canon (s : State) (hw : Canonical s) :
    Ends Canonical (execStandbyPowerLoss s) := by
  simp +contextual (maxDischargeDepth := 40) [execStandbyPowerLoss, hw]

@[simp] theorem execMainPowerGood_canon (s : State) (hw : Canonical s) :
    Ends Canonical (execMainPowerGood s) := by
  simp +contextual (maxDischargeDepth := 40) [execMainPowerGood, hw]

@[simp] theorem cpTrainDone_canon (s : State) (hw : Canonical s) :
    Canonical (cpTrainDone s) := by
  unfold cpTrainDone
  extract_lets k s1 s2 s3
  have h1 : Canonical s1 := by simp (maxDischargeDepth := 40) [s1, cpTrainDone.cpHello, hw]
  clear_value s1
  have h2 : Canonical s2 := by simp [s2, h1]
  clear_value s2
  have h3 : Canonical s3 := canonical_foldl _ (fun a b h => domBring_canon a b h) _ _ h2
  clear_value s3
  (repeat' split) <;> simp [hw, h1, h3]

@[simp] theorem cpTrainDone.cpHello_canon (s : State) (hw : Canonical s) : Canonical (cpTrainDone.cpHello s) :=
  canonical_of_mem (cpTrainDone.cpHello_mem s) hw

@[simp] theorem execCpTrainDone_canon (s : State) (hw : Canonical s) :
    Ends Canonical (execCpTrainDone s) := by
  simp +contextual (maxDischargeDepth := 40) [execCpTrainDone, hw]

@[simp] theorem reducedExit_canon (s : State) (hw : Canonical s) : Canonical (reducedExit s) :=
  canonical_of_mem (reducedExit_mem s) hw

@[simp] theorem execReducedServiceExit_canon (s : State) (hw : Canonical s) : Ends Canonical (execReducedServiceExit s) :=
  ends_of_kept hw (execReducedServiceExit_mem s)

@[simp] theorem inputLow_canon (s : State) (hw : Canonical s) :
    Canonical (inputLow s) := by
  simp +contextual (maxDischargeDepth := 40) [inputLow, hw]

@[simp] theorem execInputLow_canon (s : State) (hw : Canonical s) :
    Ends Canonical (execInputLow s) := by
  simp +contextual (maxDischargeDepth := 40) [execInputLow, hw]

theorem canonical_wasOff {s : State} (h : Canonical s) : Canonical { s with mem := { s.mem with wasOff := [] } } := by
  have hm := canonical_mem h
  simp [hm]

@[simp] theorem domsOff_canon (s : State) (hw : Canonical s) :
    Canonical (domsOff s) := by
  have h1 : Canonical ((List.range 49).foldl (fun s d => setState (domReset s d) d 3) s) :=
    canonical_foldl _ (fun a b h => by simp (maxDischargeDepth := 40) [h]) _ _ hw
  exact canonical_wasOff (endTransitions_canon _ h1)

@[simp] theorem resetAssert_canon (s : State) (hw : Canonical s) :
    Canonical (resetAssert s) := by
  simp +contextual (maxDischargeDepth := 40) [resetAssert, hw]

@[simp] theorem execResetNAssert_canon (s : State) (hw : Canonical s) :
    Ends Canonical (execResetNAssert s) := by
  simp +contextual (maxDischargeDepth := 40) [execResetNAssert, hw]

@[simp] theorem execResetNRelease_canon (s : State) (hw : Canonical s) :
    Ends Canonical (execResetNRelease s) := by
  simp +contextual (maxDischargeDepth := 40) [execResetNRelease, hw]

@[simp] theorem rateTick_canon (s : State) (p : Nat) (measured : Nat) (hw : Canonical s) : Canonical (rateTick s p measured) :=
  canonical_of_mem (rateTick_mem s p measured) hw

@[simp] theorem execRateLoopTick_canon (p : Panel) (measured : Nat) (s : State) (hw : Canonical s) : Ends Canonical (execRateLoopTick p measured s) :=
  ends_of_kept hw (execRateLoopTick_mem p measured s)

@[simp] theorem thermalTrip_canon (s : State) (hw : Canonical s) :
    Canonical (thermalTrip s) := by
  simp +contextual (maxDischargeDepth := 40) [thermalTrip, hw]

@[simp] theorem thermalReading_canon (s : State) (p : Nat) (tj : Nat) (hw : Canonical s) :
    Canonical (thermalReading s p tj) := by
  simp +contextual (maxDischargeDepth := 40) [thermalReading, hw]

@[simp] theorem execThermalReading_canon (p : Panel) (tj : Byte) (s : State) (hw : Canonical s) :
    Ends Canonical (execThermalReading p tj s) := by
  simp +contextual (maxDischargeDepth := 40) [execThermalReading, hw]

@[simp] theorem powerReading_canon (s : State) (watts : Nat) (mJ : Nat) (hw : Canonical s) : Canonical (powerReading s watts mJ) :=
  canonical_of_mem (powerReading_mem s watts mJ) hw

@[simp] theorem execPowerMeasurement_canon (watts : Nat) (mJ : Nat) (s : State) (hw : Canonical s) : Ends Canonical (execPowerMeasurement watts mJ s) :=
  ends_of_kept hw (execPowerMeasurement_mem watts mJ s)

end Sys2Proof.Machine
end

