-- ==== Sys2Proof/Laws/MemMantle.lean ====
section
/-! SUPPORT. The operations of Machine/Mantle.lean that leave memory alone. -/
namespace Sys2Proof.Machine

@[simp] theorem setMnt_mem (s : State) (f : MntSt → MntSt) :
    (setMnt s f).mem = s.mem := by
  simp [setMnt]

@[simp] theorem mntCmd_mem (w : Fin 8) (op : Nat) (s : State) (f : State → Word → State) (hf : ∀ a0 a1, (f a0 a1).mem = a0.mem) :
    Kept State.mem s (mntCmd w op s f) := by
  simp only [mntCmd, kept_next]
  split <;> simp [hf]

@[simp] theorem reply_mem (s : State) (w : Nat) (v : Word) (status : Nat) (value : Nat) :
    (reply s w v status value).mem = s.mem := by
  simp [reply]

@[simp] theorem cpTakes_mem (s : State) :
    (cpTakes s).mem = s.mem := by
  simp [cpTakes]

@[simp] theorem unfreezeMid_mem (s : State) (mid : Nat) :
    (unfreezeMid s mid).mem = s.mem := by
  unfold unfreezeMid; (repeat' split) <;> simp

@[simp] theorem execUnfreeze_mem (w : Fin 8) (s : State) :
    Kept State.mem s (execUnfreeze w s) := by
  simp [execUnfreeze]

@[simp] theorem unfreezePtr_mem (s : State) (e : Nat) :
    (unfreezePtr s e).mem = s.mem := by
  simp [unfreezePtr]

@[simp] theorem execUnfreezePartner_mem (w : Fin 8) (s : State) :
    Kept State.mem s (execUnfreezePartner w s) := by
  simp [execUnfreezePartner]

@[simp] theorem execPortRelease_mem (w : Fin 8) (s : State) :
    Kept State.mem s (execPortRelease w s) := by
  simp [execPortRelease]

@[simp] theorem execLogClear_mem (w : Fin 8) (s : State) :
    Kept State.mem s (execLogClear w s) := by
  simp [execLogClear]

@[simp] theorem execBindUnlock_mem (w : Fin 8) (s : State) :
    Kept State.mem s (execBindUnlock w s) := by
  simp [execBindUnlock]

@[simp] theorem setWindows_mem (s : State) (acc : List Byte) :
    (setWindows s acc).mem = s.mem := by
  simp [setWindows]

@[simp] theorem setOwners_mem (s : State) (acc : List Byte) :
    (setOwners s acc).mem = s.mem := by
  unfold setOwners
  refine foldl_mem _ (fun a b => ?_) _ _
  (repeat' split) <;> simp

@[simp] theorem execJobArm_mem (w : Fin 8) (s : State) :
    Kept State.mem s (execJobArm w s) := by
  unfold execJobArm
  apply mntCmd_mem
  intro a b
  (try simp only [])
  (repeat' split) <;> simp

@[simp] theorem setStat_mem (s : State) (b : Nat) (v : Bool) :
    (setStat s b v).mem = s.mem := by
  simp [setStat]

@[simp] theorem setSession_mem (s : State) (n : Nat) :
    (setSession s n).mem = s.mem := by
  simp [setSession]

@[simp] theorem abandonSweep_mem (s : State) :
    (abandonSweep s).mem = s.mem := by
  simp [abandonSweep]

@[simp] theorem keysLoaded_mem (s : State) :
    (keysLoaded s).mem = s.mem := by
  unfold keysLoaded; (repeat' split) <;> simp

@[simp] theorem execKeyLoad_mem (w : Fin 8) (s : State) :
    Kept State.mem s (execKeyLoad w s) := by
  simp [execKeyLoad]

@[simp] theorem endAttest_mem (s : State) (status : Nat) (value : Nat) :
    (endAttest s status value).mem = s.mem := by
  unfold endAttest; (repeat' split) <;> simp

@[simp] theorem execSessionEnd_mem (w : Fin 8) (s : State) :
    Kept State.mem s (execSessionEnd w s) := by
  simp [execSessionEnd]

@[simp] theorem endReply_mem (s : State) (status : Nat) :
    (endReply s status).mem = s.mem := by
  unfold endReply; (repeat' split) <;> simp

@[simp] theorem issueCert_mem (s : State) (nonce : List Byte) :
    (issueCert s nonce).mem = s.mem := by
  simp [issueCert]

@[simp] theorem execAttest_mem (w : Fin 8) (s : State) :
    Kept State.mem s (execAttest w s) := by
  simp [execAttest]

@[simp] theorem readyAttest_mem (s : State) :
    (readyAttest s).mem = s.mem := by
  unfold readyAttest; (repeat' split) <;> simp

@[simp] theorem execRngHealthFail_mem (s : State) :
    Kept State.mem s (execRngHealthFail s) := by
  simp [execRngHealthFail]

@[simp] theorem toInactive_mem (s : State) (f : Nat) (i : FwImg) :
    (toInactive s f i).mem = s.mem := by
  simp [toInactive]

@[simp] theorem setUpdate_mem (s : State) (n : Nat) :
    (setUpdate s n).mem = s.mem := by
  simp [setUpdate]

@[simp] theorem endUpdate_mem (s : State) :
    (endUpdate s).mem = s.mem := by
  simp [endUpdate]

@[simp] theorem fwActivate_mem (s : State) :
    (fwActivate s).mem = s.mem := by
  unfold fwActivate; (repeat' split) <;> simp

@[simp] theorem execFwActivate_mem (s : State) :
    Kept State.mem s (execFwActivate s) := by
  simp [execFwActivate]

@[simp] theorem execFwStartTimeout_mem (s : State) :
    Kept State.mem s (execFwStartTimeout s) := by
  unfold execFwStartTimeout; (repeat' split) <;> simp

@[simp] theorem execFwAbort_mem (w : Fin 8) (s : State) :
    Kept State.mem s (execFwAbort w s) := by
  simp [execFwAbort]

@[simp] theorem execFuseDarn_mem (w : Fin 8) (s : State) :
    Kept State.mem s (execFuseDarn w s) := by
  unfold execFuseDarn
  apply mntCmd_mem
  intro a b
  (try simp only [])
  (repeat' split) <;> simp

@[simp] theorem flashRecord_mem (s : State) (p : Nat) :
    (flashRecord s p).mem = s.mem := by
  simp [flashRecord]

@[simp] theorem execFlashRecord_mem (p : Panel) (s : State) :
    Kept State.mem s (execFlashRecord p s) := by
  simp [execFlashRecord]

end Sys2Proof.Machine
end

