-- ==== Sys2Proof/Laws/CanonMantle.lean ====
section
/-! SUPPORT. The operations of Machine/Mantle.lean keep memory in its canonical form. -/
namespace Sys2Proof.Machine

@[simp] theorem setMnt_canon (s : State) (f : MntSt → MntSt) (hw : Canonical s) : Canonical (setMnt s f) :=
  canonical_of_mem (setMnt_mem s f) hw

@[simp] theorem mntCmd_canon (w : Fin 8) (op : Nat) (s : State) (f : State → Word → State) (hf : ∀ a0 a1, Canonical a0 → Canonical (f a0 a1)) (hw : Canonical s) :
    Ends Canonical (mntCmd w op s f) := by
  simp only [mntCmd, ends_next]
  split
  · apply mntPump_canon
    exact hf _ _ (by simp (maxDischargeDepth := 40) [hw])
  · exact hw

@[simp] theorem reply_canon (s : State) (w : Nat) (v : Word) (status : Nat) (value : Nat) (hw : Canonical s) : Canonical (reply s w v status value) :=
  canonical_of_mem (reply_mem s w v status value) hw

@[simp] theorem cpTakes_canon (s : State) (hw : Canonical s) : Canonical (cpTakes s) :=
  canonical_of_mem (cpTakes_mem s) hw

@[simp] theorem unfreezeMid_canon (s : State) (mid : Nat) (hw : Canonical s) : Canonical (unfreezeMid s mid) :=
  canonical_of_mem (unfreezeMid_mem s mid) hw

@[simp] theorem execUnfreeze_canon (w : Fin 8) (s : State) (hw : Canonical s) : Ends Canonical (execUnfreeze w s) :=
  ends_of_kept hw (execUnfreeze_mem w s)

@[simp] theorem unfreezePtr_canon (s : State) (e : Nat) (hw : Canonical s) : Canonical (unfreezePtr s e) :=
  canonical_of_mem (unfreezePtr_mem s e) hw

@[simp] theorem execUnfreezePartner_canon (w : Fin 8) (s : State) (hw : Canonical s) : Ends Canonical (execUnfreezePartner w s) :=
  ends_of_kept hw (execUnfreezePartner_mem w s)

@[simp] theorem disablePort_canon (s : State) (p : Nat) (hw : Canonical s) : Canonical (disablePort s p) := by
  simp +contextual (maxDischargeDepth := 40) [disablePort, hw]

@[simp] theorem execPortDisable_canon (w : Fin 8) (s : State) (hw : Canonical s) : Ends Canonical (execPortDisable w s) := by
  simp +contextual (maxDischargeDepth := 40) [execPortDisable, hw]

@[simp] theorem execPortRelease_canon (w : Fin 8) (s : State) (hw : Canonical s) : Ends Canonical (execPortRelease w s) :=
  ends_of_kept hw (execPortRelease_mem w s)

@[simp] theorem execLogClear_canon (w : Fin 8) (s : State) (hw : Canonical s) : Ends Canonical (execLogClear w s) :=
  ends_of_kept hw (execLogClear_mem w s)

@[simp] theorem execBindUnlock_canon (w : Fin 8) (s : State) (hw : Canonical s) : Ends Canonical (execBindUnlock w s) :=
  ends_of_kept hw (execBindUnlock_mem w s)

@[simp] theorem setWindows_canon (s : State) (acc : List Byte) (hw : Canonical s) : Canonical (setWindows s acc) :=
  canonical_of_mem (setWindows_mem s acc) hw

@[simp] theorem setOwners_canon (s : State) (acc : List Byte) (hw : Canonical s) : Canonical (setOwners s acc) :=
  canonical_of_mem (setOwners_mem s acc) hw

@[simp] theorem execJobArm_canon (w : Fin 8) (s : State) (hw : Canonical s) : Ends Canonical (execJobArm w s) :=
  ends_of_kept hw (execJobArm_mem w s)

@[simp] theorem setStat_canon (s : State) (b : Nat) (v : Bool) (hw : Canonical s) : Canonical (setStat s b v) :=
  canonical_of_mem (setStat_mem s b v) hw

@[simp] theorem setSession_canon (s : State) (n : Nat) (hw : Canonical s) : Canonical (setSession s n) :=
  canonical_of_mem (setSession_mem s n) hw

@[simp] theorem abandonSweep_canon (s : State) (hw : Canonical s) : Canonical (abandonSweep s) :=
  canonical_of_mem (abandonSweep_mem s) hw

@[simp] theorem sessionOpen_canon (s : State) (cloak : Bool) (hw : Canonical s) :
    Canonical (sessionOpen s cloak) := by
  simp +contextual (maxDischargeDepth := 40) [sessionOpen, hw]

@[simp] theorem execSessionOpen_canon (w : Fin 8) (s : State) (hw : Canonical s) :
    Ends Canonical (execSessionOpen w s) := by
  simp +contextual (maxDischargeDepth := 40) [execSessionOpen, hw]

@[simp] theorem keysLoaded_canon (s : State) (hw : Canonical s) : Canonical (keysLoaded s) :=
  canonical_of_mem (keysLoaded_mem s) hw

@[simp] theorem execKeyLoad_canon (w : Fin 8) (s : State) (hw : Canonical s) : Ends Canonical (execKeyLoad w s) :=
  ends_of_kept hw (execKeyLoad_mem w s)

@[simp] theorem endAttest_canon (s : State) (status : Nat) (value : Nat) (hw : Canonical s) : Canonical (endAttest s status value) :=
  canonical_of_mem (endAttest_mem s status value) hw

@[simp] theorem execSessionEnd_canon (w : Fin 8) (s : State) (hw : Canonical s) : Ends Canonical (execSessionEnd w s) :=
  ends_of_kept hw (execSessionEnd_mem w s)

@[simp] theorem scrub_canon (s : State) (p : Nat) (hw : Canonical s) :
    Canonical (scrub s p) := by
  simp +contextual (maxDischargeDepth := 40) [scrub, hw]

@[simp] theorem execSessionScrub_canon (p : Panel) (s : State) (hw : Canonical s) :
    Ends Canonical (execSessionScrub p s) := by
  simp +contextual (maxDischargeDepth := 40) [execSessionScrub, hw]

@[simp] theorem zeroise_canon (s : State) (hw : Canonical s) :
    Canonical (zeroise s) := by
  simp +contextual (maxDischargeDepth := 40) [zeroise, hw]

@[simp] theorem endReply_canon (s : State) (status : Nat) (hw : Canonical s) : Canonical (endReply s status) :=
  canonical_of_mem (endReply_mem s status) hw

@[simp] theorem sessionComplete_canon (s : State) (hw : Canonical s) :
    Canonical (sessionComplete s) := by
  simp +contextual (maxDischargeDepth := 40) [sessionComplete, hw]

@[simp] theorem execSessionEndComplete_canon (s : State) (hw : Canonical s) :
    Ends Canonical (execSessionEndComplete s) := by
  simp +contextual (maxDischargeDepth := 40) [execSessionEndComplete, hw]

@[simp] theorem scrubFail_canon (s : State) (hw : Canonical s) :
    Canonical (scrubFail s) := by
  simp +contextual (maxDischargeDepth := 40) [scrubFail, hw]

@[simp] theorem execScrubFail_canon (s : State) (hw : Canonical s) :
    Ends Canonical (execScrubFail s) := by
  simp +contextual (maxDischargeDepth := 40) [execScrubFail, hw]

@[simp] theorem rotatePanel_canon (s : State) (p : Nat) (hw : Canonical s) :
    Canonical (rotatePanel s p) := by
  simp +contextual (maxDischargeDepth := 40) [rotatePanel, hw]

@[simp] theorem execKeyRotate_canon (w : Fin 8) (s : State) (hw : Canonical s) :
    Ends Canonical (execKeyRotate w s) := by
  simp +contextual (maxDischargeDepth := 40) [execKeyRotate, hw]

@[simp] theorem regionDone_canon (s : State) (p : Nat) (r : Nat) (hw : Canonical s) :
    Canonical (regionDone s p r) := by
  simp +contextual (maxDischargeDepth := 40) [regionDone, hw]

@[simp] theorem sweepCopy_canon (s : State) (p : Nat) (a : Nat) (hw : Canonical s) :
    Canonical (sweepCopy s p a) := by
  unfold sweepCopy
  extract_lets x m1 new m2
  have h1 : Canonical x.1 := by simp [x, hw]
  have h4 : Memory.wf m1 = true := by simp [m1, canonical_mem h1]
  clear_value m1
  have h5 : Memory.wf m2 = true := by simp (maxDischargeDepth := 40) [m2, h4]
  clear_value m2
  exact bumpN_canon _ _ _ _ (bumpN_canon _ _ _ _ h5)

@[simp] theorem sweepStep_canon (s : State) (p : Nat) (hw : Canonical s) :
    Canonical (sweepStep s p) := by
  simp +contextual (maxDischargeDepth := 40) [sweepStep, hw]

@[simp] theorem execKeySweepGranule_canon (p : Panel) (s : State) (hw : Canonical s) :
    Ends Canonical (execKeySweepGranule p s) := by
  simp +contextual (maxDischargeDepth := 40) [execKeySweepGranule, hw]

@[simp] theorem issueCert_canon (s : State) (nonce : List Byte) (hw : Canonical s) : Canonical (issueCert s nonce) :=
  canonical_of_mem (issueCert_mem s nonce) hw

@[simp] theorem execAttest_canon (w : Fin 8) (s : State) (hw : Canonical s) : Ends Canonical (execAttest w s) :=
  ends_of_kept hw (execAttest_mem w s)

@[simp] theorem readyAttest_canon (s : State) (hw : Canonical s) : Canonical (readyAttest s) :=
  canonical_of_mem (readyAttest_mem s) hw

@[simp] theorem execRngHealthFail_canon (s : State) (hw : Canonical s) : Ends Canonical (execRngHealthFail s) :=
  ends_of_kept hw (execRngHealthFail_mem s)

@[simp] theorem toInactive_canon (s : State) (f : Nat) (i : FwImg) (hw : Canonical s) : Canonical (toInactive s f i) :=
  canonical_of_mem (toInactive_mem s f i) hw

@[simp] theorem setUpdate_canon (s : State) (n : Nat) (hw : Canonical s) : Canonical (setUpdate s n) :=
  canonical_of_mem (setUpdate_mem s n) hw

@[simp] theorem execFwUpdate_canon (w : Fin 8) (s : State) (hw : Canonical s) :
    Ends Canonical (execFwUpdate w s) := by
  unfold execFwUpdate
  apply mntCmd_canon _ _ _ _ ?_ hw
  intro a b hw
  (try simp only [])
  (repeat' split) <;> simp (maxDischargeDepth := 40) [hw]

@[simp] theorem endUpdate_canon (s : State) (hw : Canonical s) : Canonical (endUpdate s) :=
  canonical_of_mem (endUpdate_mem s) hw

@[simp] theorem fwActivate_canon (s : State) (hw : Canonical s) : Canonical (fwActivate s) :=
  canonical_of_mem (fwActivate_mem s) hw

@[simp] theorem execFwActivate_canon (s : State) (hw : Canonical s) : Ends Canonical (execFwActivate s) :=
  ends_of_kept hw (execFwActivate_mem s)

@[simp] theorem execFwStartTimeout_canon (s : State) (hw : Canonical s) : Ends Canonical (execFwStartTimeout s) :=
  ends_of_kept hw (execFwStartTimeout_mem s)

@[simp] theorem execFwAbort_canon (w : Fin 8) (s : State) (hw : Canonical s) : Ends Canonical (execFwAbort w s) :=
  ends_of_kept hw (execFwAbort_mem w s)

@[simp] theorem execFuseDarn_canon (w : Fin 8) (s : State) (hw : Canonical s) : Ends Canonical (execFuseDarn w s) :=
  ends_of_kept hw (execFuseDarn_mem w s)

@[simp] theorem flashRecord_canon (s : State) (p : Nat) (hw : Canonical s) : Canonical (flashRecord s p) :=
  canonical_of_mem (flashRecord_mem s p) hw

@[simp] theorem execFlashRecord_canon (p : Panel) (s : State) (hw : Canonical s) : Ends Canonical (execFlashRecord p s) :=
  ends_of_kept hw (execFlashRecord_mem p s)

end Sys2Proof.Machine
end

