-- ==== Sys2Proof/Laws/MemRegisters.lean ====
section
/-! SUPPORT. The operations of Machine/Registers.lean that leave memory alone. -/
namespace Sys2Proof.Machine

@[simp] theorem readClears_mem (s : State) (mid : Nat) (page : Nat) (off : Nat) :
    (readClears s mid page off).mem = s.mem := by
  simp [readClears]

@[simp] theorem regRead_mem (s : State) (mid : Nat) (page : Nat) (off : Nat) :
    (regRead s mid page off).mem = s.mem := by
  simp [regRead]

@[simp] theorem writeHdr_mem (s : State) (page : Nat) (off : Nat) (v : Word) (own : Bool) (mantle : Bool) :
    (writeHdr s page off v own mantle).mem = s.mem := by
  unfold writeHdr; (repeat' split) <;> simp

@[simp] theorem writeCore_mem (s : State) (c : Nat) (page : Nat) (off : Nat) (v : Word) (own : Bool) :
    (writeCore s c page off v own).mem = s.mem := by
  simp [writeCore]

@[simp] theorem writeCtx_mem (s : State) (c : Nat) (x : Nat) (page : Nat) (off : Nat) (v : Word) (own : Bool) :
    (writeCtx s c x page off v own).mem = s.mem := by
  simp [writeCtx]

@[simp] theorem btnMaskWrite_mem (s : State) (page : Nat) (v : Word) (own : Bool) :
    (btnMaskWrite s page v own).mem = s.mem := by
  simp [btnMaskWrite]

@[simp] theorem writeBind_mem (s : State) (b : Nat) (page : Nat) (off : Nat) (v : Word) (own : Bool) (mantle : Bool) :
    (writeBind s b page off v own mantle).mem = s.mem := by
  simp [writeBind]

@[simp] theorem writeLink_mem (s : State) (p : Nat) (page : Nat) (off : Nat) (v : Word) (own : Bool) :
    (writeLink s p page off v own).mem = s.mem := by
  simp [writeLink]

@[simp] theorem writeGroup_mem (s : State) (k : Nat) (page : Nat) (off : Nat) (v : Word) (own : Bool) :
    (writeGroup s k page off v own).mem = s.mem := by
  simp [writeGroup]

@[simp] theorem execReadClear_mem (mid : Mid) (addr : Word) (s : State) :
    Kept State.mem s (execReadClear mid addr s) := by
  unfold execReadClear; (repeat' split) <;> simp

@[simp] theorem execAccountingUe_mem (page : Nat) (addr : Word) (s : State) :
    Kept State.mem s (execAccountingUe page addr s) := by
  simp [execAccountingUe]

@[simp] theorem storeLog_mem (s : State) (c : Nat) (x : Nat) (a : Nat) :
    (storeLog s c x a).mem = s.mem := by
  simp [storeLog]

@[simp] theorem scalarEnd_mem (s : State) (c : Nat) (x : Nat) (sd : Option Nat) :
    (scalarEnd s c x sd).mem = s.mem := by
  unfold scalarEnd; (repeat' split) <;> simp

end Sys2Proof.Machine
end

