-- ==== Sys2Proof/Laws/CanonRegisters.lean ====
section
/-! SUPPORT. The operations of Machine/Registers.lean keep memory in its canonical form. -/
namespace Sys2Proof.Machine

@[simp] theorem readClears_canon (s : State) (mid : Nat) (page : Nat) (off : Nat) (hw : Canonical s) : Canonical (readClears s mid page off) :=
  canonical_of_mem (readClears_mem s mid page off) hw

@[simp] theorem regRead_canon (s : State) (mid : Nat) (page : Nat) (off : Nat) (hw : Canonical s) : Canonical (regRead s mid page off) :=
  canonical_of_mem (regRead_mem s mid page off) hw

@[simp] theorem writeHdr_canon (s : State) (page : Nat) (off : Nat) (v : Word) (own : Bool) (mantle : Bool) (hw : Canonical s) : Canonical (writeHdr s page off v own mantle) :=
  canonical_of_mem (writeHdr_mem s page off v own mantle) hw

@[simp] theorem writeCore_canon (s : State) (c : Nat) (page : Nat) (off : Nat) (v : Word) (own : Bool) (hw : Canonical s) : Canonical (writeCore s c page off v own) :=
  canonical_of_mem (writeCore_mem s c page off v own) hw

@[simp] theorem writeCtx_canon (s : State) (c : Nat) (x : Nat) (page : Nat) (off : Nat) (v : Word) (own : Bool) (hw : Canonical s) : Canonical (writeCtx s c x page off v own) :=
  canonical_of_mem (writeCtx_mem s c x page off v own) hw

@[simp] theorem btnMaskWrite_canon (s : State) (page : Nat) (v : Word) (own : Bool) (hw : Canonical s) : Canonical (btnMaskWrite s page v own) :=
  canonical_of_mem (btnMaskWrite_mem s page v own) hw

@[simp] theorem writeBind_canon (s : State) (b : Nat) (page : Nat) (off : Nat) (v : Word) (own : Bool) (mantle : Bool) (hw : Canonical s) : Canonical (writeBind s b page off v own mantle) :=
  canonical_of_mem (writeBind_mem s b page off v own mantle) hw

@[simp] theorem writeHbm_canon (s : State) (st : Nat) (page : Nat) (off : Nat) (v : Word) (own : Bool) (mantle : Bool) (hw : Canonical s) :
    Canonical (writeHbm s st page off v own mantle) := by
  simp +contextual (maxDischargeDepth := 40) [writeHbm, hw]

@[simp] theorem writeLlc_canon (s : State) (p : Nat) (page : Nat) (off : Nat) (v : Word) (own : Bool) (hw : Canonical s) :
    Canonical (writeLlc s p page off v own) := by
  simp +contextual (maxDischargeDepth := 40) [writeLlc, hw]

@[simp] theorem writeLink_canon (s : State) (p : Nat) (page : Nat) (off : Nat) (v : Word) (own : Bool) (hw : Canonical s) : Canonical (writeLink s p page off v own) :=
  canonical_of_mem (writeLink_mem s p page off v own) hw

@[simp] theorem writeGroup_canon (s : State) (k : Nat) (page : Nat) (off : Nat) (v : Word) (own : Bool) (hw : Canonical s) : Canonical (writeGroup s k page off v own) :=
  canonical_of_mem (writeGroup_mem s k page off v own) hw

@[simp] theorem writePower_canon (s : State) (p : Nat) (page : Nat) (off : Nat) (v : Word) (own : Bool) (mantle : Bool) (hw : Canonical s) :
    Canonical (writePower s p page off v own mantle) := by
  simp +contextual (maxDischargeDepth := 40) [writePower, hw]

@[simp] theorem writeBlock_canon (s : State) (k : PageKind) (mid : Nat) (page : Nat) (off : Nat) (v : Word) (own : Bool) (mantle : Bool) (hw : Canonical s) :
    Canonical (writeBlock s k mid page off v own mantle) := by
  unfold writeBlock; (repeat' split) <;> simp +contextual (maxDischargeDepth := 40) [hw]

@[simp] theorem writeReg_canon (s : State) (mid : Nat) (page : Nat) (off : Nat) (v : Word) (hw : Canonical s) :
    Canonical (writeReg s mid page off v) := by
  unfold writeReg; (repeat' split) <;> simp +contextual (maxDischargeDepth := 40) [hw]

@[simp] theorem regWrite_canon (s : State) (mid : Nat) (page : Nat) (off : Nat) (v : Word) (hw : Canonical s) :
    Canonical (regWrite s mid page off v) := by
  simp +contextual (maxDischargeDepth := 40) [regWrite, hw]

@[simp] theorem readWord_canon (s : State) (mid : Nat) (a : Nat) (hw : Canonical s) :
    Canonical (readWord s mid a) := by
  unfold readWord; (repeat' split) <;> simp +contextual (maxDischargeDepth := 40) [hw]

@[simp] theorem writeWord_canon (s : State) (mid : Nat) (a : Nat) (v : Word) (hw : Canonical s) :
    Canonical (writeWord s mid a v) := by
  unfold writeWord; (repeat' split) <;> simp +contextual (maxDischargeDepth := 40) [hw]

@[simp] theorem execReadClear_canon (mid : Mid) (addr : Word) (s : State) (hw : Canonical s) : Ends Canonical (execReadClear mid addr s) :=
  ends_of_kept hw (execReadClear_mem mid addr s)

@[simp] theorem execRegisterWrite_canon (mid : Mid) (addr : Word) (value : Word) (s : State) (hw : Canonical s) :
    Ends Canonical (execRegisterWrite mid addr value s) := by
  simp only [execRegisterWrite, ends_next]; (repeat' split) <;> simp +contextual (maxDischargeDepth := 40) [hw]

@[simp] theorem execAccountingUe_canon (page : Nat) (addr : Word) (s : State) (hw : Canonical s) : Ends Canonical (execAccountingUe page addr s) :=
  ends_of_kept hw (execAccountingUe_mem page addr s)

@[simp] theorem storeLog_canon (s : State) (c : Nat) (x : Nat) (a : Nat) (hw : Canonical s) : Canonical (storeLog s c x a) :=
  canonical_of_mem (storeLog_mem s c x a) hw

@[simp] theorem scalarEnd_canon (s : State) (c : Nat) (x : Nat) (sd : Option Nat) (hw : Canonical s) : Canonical (scalarEnd s c x sd) :=
  canonical_of_mem (scalarEnd_mem s c x sd) hw

@[simp] theorem scalarResponse_canon (s : State) (c : Nat) (x : Nat) (hw : Canonical s) :
    Canonical (scalarResponse s c x) := by
  unfold scalarResponse; (repeat' split) <;> simp +contextual (maxDischargeDepth := 40) [hw]

@[simp] theorem execScalarAccessResponse_canon (c : Core) (x : CtxId) (s : State) (hw : Canonical s) :
    Ends Canonical (execScalarAccessResponse c x s) := by
  simp +contextual (maxDischargeDepth := 40) [execScalarAccessResponse, hw]

end Sys2Proof.Machine
end

