-- ==== Sys2Proof/Laws/MemIngress.lean ====
section
/-! SUPPORT. The operations of Machine/Ingress.lean that leave memory alone. -/
namespace Sys2Proof.Machine

@[simp] theorem frameBusErr_mem (s : State) (e : Nat) :
    (frameBusErr s e).mem = s.mem := by
  unfold frameBusErr; (repeat' split) <;> simp

@[simp] theorem markHanded_mem (s : State) (src : RxStream) (seq : Nat) :
    (markHanded s src seq).mem = s.mem := by
  unfold markHanded; (repeat' split) <;> simp

end Sys2Proof.Machine
end

