-- ==== Sys2Proof/Laws/CanonIngress.lean ====
section
/-! SUPPORT. The operations of Machine/Ingress.lean keep memory in its canonical form. -/
namespace Sys2Proof.Machine

@[simp] theorem frameBusErr_canon (s : State) (e : Nat) (hw : Canonical s) : Canonical (frameBusErr s e) :=
  canonical_of_mem (frameBusErr_mem s e) hw

@[simp] theorem frameWords_canon (z0 : Nat) (z1 : State) (z2 : Nat) (z3 : Nat) (z4 : Nat) (z5 : List Byte) (hw : Canonical z1) :
    Canonical (frameWords z0 z1 z2 z3 z4 z5) := by
  induction z0 generalizing z1 z2 z3 z4 z5 with
    | zero => simpa [frameWords] using hw
    | succ n ih => simp only [frameWords]; (repeat' split) <;> simp +contextual (maxDischargeDepth := 40) [ih, hw]

@[simp] theorem frameWrite_canon (s : State) (e : Nat) (port : Nat) (f : WFrame) (hw : Canonical s) :
    Canonical (frameWrite s e port f) := by
  simp +contextual (maxDischargeDepth := 40) [frameWrite, hw]

@[simp] theorem markHanded_canon (s : State) (src : RxStream) (seq : Nat) (hw : Canonical s) : Canonical (markHanded s src seq) :=
  canonical_of_mem (markHanded_mem s src seq) hw

@[simp] theorem frameStart_canon (s : State) (src : RxStream) (hw : Canonical s) :
    Canonical (frameStart s src) := by
  unfold frameStart; (repeat' split) <;> simp +contextual (maxDischargeDepth := 40) [hw]

@[simp] theorem execFrameWritesStart_canon (src : RxStream) (s : State) (hw : Canonical s) :
    Ends Canonical (execFrameWritesStart src s) := by
  simp +contextual (maxDischargeDepth := 40) [execFrameWritesStart, hw]

end Sys2Proof.Machine
end

