-- ==== Sys2Proof/Laws/MemCtlPort.lean ====
section
/-! SUPPORT. The operations of Machine/CtlPort.lean that leave memory alone. -/
namespace Sys2Proof.Machine

@[simp] theorem setCpStream_mem (s : State) (c : Nat) (v : CpStream) :
    (setCpStream s c v).mem = s.mem := by
  simp [setCpStream]

@[simp] theorem cpEmit_mem (s : State) (f : CpFrame) :
    (cpEmit s f).mem = s.mem := by
  simp [cpEmit]

@[simp] theorem cpSend_mem (s : State) (c : Nat) (opc : Nat) (aux : Nat) (addr : Nat) (payload : List Byte) :
    (cpSend s c opc aux addr payload).mem = s.mem := by
  simp [cpSend]

@[simp] theorem cpSendAck_mem (s : State) (c : Nat) :
    (cpSendAck s c).mem = s.mem := by
  simp [cpSendAck]

@[simp] theorem cpResend_mem (s : State) (c : Nat) :
    (cpResend s c).mem = s.mem := by
  simp [cpResend]

@[simp] theorem cpAcked_mem (s : State) (f : CpFrame) :
    (cpAcked s f).mem = s.mem := by
  simp [cpAcked]

@[simp] theorem cpAckIn_mem (s : State) (c : Nat) (n : Nat) :
    (cpAckIn s c n).mem = s.mem := by
  simp [cpAckIn]

@[simp] theorem cpReceive_mem (s : State) (c : Nat) (f : CpFrame) (crcOk : Bool) (act : State → State) (hact : ∀ t, (act t).mem = t.mem) :
    (cpReceive s c f crcOk act).mem = s.mem := by
  simp only [cpReceive]; (repeat' split) <;> simp_all

@[simp] theorem cpDeliverFrame_mem (s : State) (k : Nat) :
    (cpDeliverFrame s k).mem = s.mem := by
  simp [cpDeliverFrame]

@[simp] theorem cpDeliver_mem (s : State) (k : Nat) :
    (cpDeliver s k).mem = s.mem := by
  unfold cpDeliver; (repeat' split) <;> simp

@[simp] theorem execCpDeliver_mem (k : Nat) (s : State) :
    Kept State.mem s (execCpDeliver k s) := by
  simp [execCpDeliver]

@[simp] theorem execCpAckRx_mem (f : CpFrame) (crcOk : Bool) (s : State) :
    Kept State.mem s (execCpAckRx f crcOk s) := by
  simp [execCpAckRx]

@[simp] theorem execCpRetxTimeout_mem (cls : Fin 3) (s : State) :
    Kept State.mem s (execCpRetxTimeout cls s) := by
  simp [execCpRetxTimeout]

@[simp] theorem execCpAckDelay_mem (cls : Fin 3) (s : State) :
    Kept State.mem s (execCpAckDelay cls s) := by
  simp [execCpAckDelay]

@[simp] theorem cpRestart_mem (s : State) :
    (cpRestart s).mem = s.mem := by
  simp [cpRestart]

@[simp] theorem cpContinue_mem (s : State) (f : CpFrame) :
    (cpContinue s f).mem = s.mem := by
  simp [cpContinue]

@[simp] theorem cpHelloIn_mem (s : State) (f : CpFrame) :
    (cpHelloIn s f).mem = s.mem := by
  simp [cpHelloIn]

@[simp] theorem execCpHelloRx_mem (f : CpFrame) (crcOk : Bool) (s : State) :
    Kept State.mem s (execCpHelloRx f crcOk s) := by
  simp [execCpHelloRx]

@[simp] theorem execCpLinkDrop_mem (s : State) :
    Kept State.mem s (execCpLinkDrop s) := by
  simp [execCpLinkDrop]

end Sys2Proof.Machine
end

