-- ==== Sys2Proof/Laws/CanonCtlPort.lean ====
section
/-! SUPPORT. The operations of Machine/CtlPort.lean keep memory in its canonical form. -/
namespace Sys2Proof.Machine

@[simp] theorem setCpStream_canon (s : State) (c : Nat) (v : CpStream) (hw : Canonical s) : Canonical (setCpStream s c v) :=
  canonical_of_mem (setCpStream_mem s c v) hw

@[simp] theorem cpEmit_canon (s : State) (f : CpFrame) (hw : Canonical s) : Canonical (cpEmit s f) :=
  canonical_of_mem (cpEmit_mem s f) hw

@[simp] theorem cpSend_canon (s : State) (c : Nat) (opc : Nat) (aux : Nat) (addr : Nat) (payload : List Byte) (hw : Canonical s) : Canonical (cpSend s c opc aux addr payload) :=
  canonical_of_mem (cpSend_mem s c opc aux addr payload) hw

@[simp] theorem cpSendAck_canon (s : State) (c : Nat) (hw : Canonical s) : Canonical (cpSendAck s c) :=
  canonical_of_mem (cpSendAck_mem s c) hw

@[simp] theorem cpResend_canon (s : State) (c : Nat) (hw : Canonical s) : Canonical (cpResend s c) :=
  canonical_of_mem (cpResend_mem s c) hw

@[simp] theorem cpAcked_canon (s : State) (f : CpFrame) (hw : Canonical s) : Canonical (cpAcked s f) :=
  canonical_of_mem (cpAcked_mem s f) hw

@[simp] theorem cpAckIn_canon (s : State) (c : Nat) (n : Nat) (hw : Canonical s) : Canonical (cpAckIn s c n) :=
  canonical_of_mem (cpAckIn_mem s c n) hw

@[simp] theorem cpReceive_canon (s : State) (c : Nat) (f : CpFrame) (crcOk : Bool) (act : State → State) (hact : ∀ t, Canonical t → Canonical (act t)) (hw : Canonical s) :
    Canonical (cpReceive s c f crcOk act) := by
  simp +contextual (maxDischargeDepth := 40) [cpReceive, hw, hact]

@[simp] theorem cpWords_canon (z0 : Nat) (z1 : State) (z2 : Nat) (z3 : List Byte) (hw : Canonical z1) :
    Canonical (cpWords z0 z1 z2 z3) := by
  induction z0 generalizing z1 z2 z3 with
    | zero => simpa [cpWords] using hw
    | succ n ih => simp only [cpWords]; (repeat' split) <;> simp +contextual (maxDischargeDepth := 40) [ih, hw]

@[simp] theorem execCpPocketWrite_canon (f : CpFrame) (crcOk : Bool) (s : State) (hw : Canonical s) :
    Ends Canonical (execCpPocketWrite f crcOk s) := by
  simp +contextual (maxDischargeDepth := 40) [execCpPocketWrite, hw]

@[simp] theorem cpStage_canon (s : State) (off : Nat) (b : List Byte) (hw : Canonical s) :
    Canonical (cpStage s off b) := by
  simp +contextual (maxDischargeDepth := 40) [cpStage, hw]

@[simp] theorem execCpImageWrite_canon (f : CpFrame) (crcOk : Bool) (s : State) (hw : Canonical s) :
    Ends Canonical (execCpImageWrite f crcOk s) := by
  simp +contextual (maxDischargeDepth := 40) [execCpImageWrite, hw]

@[simp] theorem cpRegs_canon (z0 : Nat) (z1 : State) (z2 : Nat) (hw : Canonical z1) :
    Canonical ((cpRegs z0 z1 z2).1) := by
  induction z0 generalizing z1 z2 with
    | zero => simpa [cpRegs] using hw
    | succ n ih => simp only [cpRegs]; (repeat' split) <;> simp +contextual (maxDischargeDepth := 40) [ih, hw]

@[simp] theorem cpRead_canon (s : State) (a : Nat) (n : Nat) (hw : Canonical s) :
    Canonical ((cpRead s a n).1) := by
  unfold cpRead; (repeat' split) <;> simp +contextual (maxDischargeDepth := 40) [hw]

@[simp] theorem cpAnswer_canon (s : State) (a : Nat) (n : Nat) (hw : Canonical s) :
    Canonical (cpAnswer s a n) := by
  simp only [cpAnswer]; (repeat' split) <;> simp +contextual (maxDischargeDepth := 40) [hw]

@[simp] theorem execCpTelemetryRead_canon (f : CpFrame) (crcOk : Bool) (s : State) (hw : Canonical s) :
    Ends Canonical (execCpTelemetryRead f crcOk s) := by
  simp +contextual (maxDischargeDepth := 40) [execCpTelemetryRead, hw]

@[simp] theorem cpDeliverFrame_canon (s : State) (k : Nat) (hw : Canonical s) : Canonical (cpDeliverFrame s k) :=
  canonical_of_mem (cpDeliverFrame_mem s k) hw

@[simp] theorem cpDeliver_canon (s : State) (k : Nat) (hw : Canonical s) : Canonical (cpDeliver s k) :=
  canonical_of_mem (cpDeliver_mem s k) hw

@[simp] theorem execCpDeliver_canon (k : Nat) (s : State) (hw : Canonical s) : Ends Canonical (execCpDeliver k s) :=
  ends_of_kept hw (execCpDeliver_mem k s)

@[simp] theorem cpReport_canon (s : State) (hw : Canonical s) :
    Canonical (cpReport s) := by
  simp +contextual (maxDischargeDepth := 40) [cpReport, hw]

@[simp] theorem execCpReport_canon (s : State) (hw : Canonical s) :
    Ends Canonical (execCpReport s) := by
  simp +contextual (maxDischargeDepth := 40) [execCpReport, hw]

@[simp] theorem execCpAckRx_canon (f : CpFrame) (crcOk : Bool) (s : State) (hw : Canonical s) : Ends Canonical (execCpAckRx f crcOk s) :=
  ends_of_kept hw (execCpAckRx_mem f crcOk s)

@[simp] theorem execCpRetxTimeout_canon (cls : Fin 3) (s : State) (hw : Canonical s) : Ends Canonical (execCpRetxTimeout cls s) :=
  ends_of_kept hw (execCpRetxTimeout_mem cls s)

@[simp] theorem execCpAckDelay_canon (cls : Fin 3) (s : State) (hw : Canonical s) : Ends Canonical (execCpAckDelay cls s) :=
  ends_of_kept hw (execCpAckDelay_mem cls s)

@[simp] theorem cpRestart_canon (s : State) (hw : Canonical s) : Canonical (cpRestart s) :=
  canonical_of_mem (cpRestart_mem s) hw

@[simp] theorem cpContinue_canon (s : State) (f : CpFrame) (hw : Canonical s) : Canonical (cpContinue s f) :=
  canonical_of_mem (cpContinue_mem s f) hw

@[simp] theorem cpHelloIn_canon (s : State) (f : CpFrame) (hw : Canonical s) : Canonical (cpHelloIn s f) :=
  canonical_of_mem (cpHelloIn_mem s f) hw

@[simp] theorem execCpHelloRx_canon (f : CpFrame) (crcOk : Bool) (s : State) (hw : Canonical s) : Ends Canonical (execCpHelloRx f crcOk s) :=
  ends_of_kept hw (execCpHelloRx_mem f crcOk s)

@[simp] theorem execCpLinkDrop_canon (s : State) (hw : Canonical s) : Ends Canonical (execCpLinkDrop s) :=
  ends_of_kept hw (execCpLinkDrop_mem s)

end Sys2Proof.Machine
end

