-- ==== Sys2Proof/Laws/MemService.lean ====
section
/-! SUPPORT. The operations of Machine/Service.lean that leave memory alone. -/
namespace Sys2Proof.Machine

@[simp] theorem svcTake_mem (s : State) :
    (svcTake s).mem = s.mem := by
  simp [svcTake]

@[simp] theorem svcCmd_mem (op : Nat) (s : State) (f : State → List Word → State × Option Nat) (hf : ∀ a0 a1, (f a0 a1).1.mem = a0.mem) :
    Kept State.mem s (svcCmd op s f) := by
  simp only [svcCmd, kept_next]
  split
  · rfl
  · (try simp only [])
    split <;> simp [hf]

@[simp] theorem execTelemetryCfg_mem (s : State) :
    Kept State.mem s (execTelemetryCfg s) := by
  simp [execTelemetryCfg]

@[simp] theorem execSleepInstruction_mem (p : Panel) (s : State) :
    Kept State.mem s (execSleepInstruction p s) := by
  simp [execSleepInstruction]

end Sys2Proof.Machine
end

