-- ==== Sys2Proof/Laws/CanonService.lean ====
section
/-! SUPPORT. The operations of Machine/Service.lean keep memory in its canonical form. -/
namespace Sys2Proof.Machine

@[simp] theorem svcTake_canon (s : State) (hw : Canonical s) : Canonical (svcTake s) :=
  canonical_of_mem (svcTake_mem s) hw

@[simp] theorem svcCmd_canon (op : Nat) (s : State) (f : State → List Word → State × Option Nat) (hf : ∀ a0 a1, Canonical a0 → Canonical (f a0 a1).1) (hw : Canonical s) :
    Ends Canonical (svcCmd op s f) := by
  simp only [svcCmd, ends_next]
  split
  · exact hw
  · (try simp only [])
    split <;> simp (maxDischargeDepth := 40) [hf, hw]

@[simp] theorem svcWrite_canon (s : State) (a : Nat) (v : Word) (hw : Canonical s) :
    Canonical (svcWrite s a v) := by
  simp +contextual (maxDischargeDepth := 40) [svcWrite, hw]

@[simp] theorem imageLoad_canon (s : State) (off : Nat) (hw : Canonical s) :
    Canonical ((imageLoad s off).1) := by
  simp +contextual (maxDischargeDepth := 40) [imageLoad, hw]

@[simp] theorem execImageLoad_canon (s : State) (hw : Canonical s) :
    Ends Canonical (execImageLoad s) := by
  simp +contextual (maxDischargeDepth := 40) [execImageLoad, hw]

@[simp] theorem execRankAssign_canon (s : State) (hw : Canonical s) :
    Ends Canonical (execRankAssign s) := by
  simp +contextual (maxDischargeDepth := 40) [execRankAssign, hw]

@[simp] theorem applySection_canon (s : State) (x : Section) (hw : Canonical s) :
    Canonical (applySection s x) := by
  simp +contextual (maxDischargeDepth := 40) [applySection, hw]

@[simp] theorem jobLoad_canon (s : State) (hw : Canonical s) :
    Canonical (jobLoad s) := by
  simp +contextual (maxDischargeDepth := 40) [jobLoad, hw]

@[simp] theorem execJobLoad_canon (s : State) (hw : Canonical s) :
    Ends Canonical (execJobLoad s) := by
  unfold execJobLoad
  split
  · exact hw
  · apply svcCmd_canon <;> (try exact hw)
    intro a b hw
    split <;> simp (maxDischargeDepth := 40) [hw]

@[simp] theorem jobStart_canon (s : State) (hw : Canonical s) :
    Canonical (jobStart s) := by
  simp +contextual (maxDischargeDepth := 40) [jobStart, hw]

@[simp] theorem execJobStart_canon (s : State) (hw : Canonical s) :
    Ends Canonical (execJobStart s) := by
  unfold execJobStart
  apply svcCmd_canon <;> (try exact hw)
  intro a b hw
  (try simp only [])
  (repeat' split) <;> simp (maxDischargeDepth := 40) [hw]

@[simp] theorem jobStop_canon (s : State) (hw : Canonical s) :
    Canonical (jobStop s) := by
  simp +contextual (maxDischargeDepth := 40) [jobStop, hw]

@[simp] theorem execJobStop_canon (s : State) (hw : Canonical s) :
    Ends Canonical (execJobStop s) := by
  simp +contextual (maxDischargeDepth := 40) [execJobStop, hw]

@[simp] theorem execRecv_canon (s : State) (hw : Canonical s) :
    Ends Canonical (execRecv s) := by
  unfold execRecv
  apply svcCmd_canon <;> (try exact hw)
  intro a b hw
  (try simp only [])
  (repeat' split) <;> simp (maxDischargeDepth := 40) [hw]

@[simp] theorem execRedraw_canon (s : State) (hw : Canonical s) :
    Ends Canonical (execRedraw s) := by
  unfold execRedraw
  apply svcCmd_canon <;> (try exact hw)
  intro a b hw
  (try simp only [])
  (repeat' split) <;> simp (maxDischargeDepth := 40) [hw]

@[simp] theorem execPowerCmd_canon (s : State) (hw : Canonical s) :
    Ends Canonical (execPowerCmd s) := by
  unfold execPowerCmd
  apply svcCmd_canon <;> (try exact hw)
  intro a b hw
  (try simp only [])
  (repeat' split) <;> simp (maxDischargeDepth := 40) [hw]

@[simp] theorem execTelemetryCfg_canon (s : State) (hw : Canonical s) : Ends Canonical (execTelemetryCfg s) :=
  ends_of_kept hw (execTelemetryCfg_mem s)

@[simp] theorem execSleepInstruction_canon (p : Panel) (s : State) (hw : Canonical s) : Ends Canonical (execSleepInstruction p s) :=
  ends_of_kept hw (execSleepInstruction_mem p s)

end Sys2Proof.Machine
end

