-- ==== Sys2Proof/Laws/MemFirmware.lean ====
section
/-! SUPPORT. The operations of Machine/Firmware.lean that leave memory alone. -/
namespace Sys2Proof.Machine

@[simp] theorem periodReport_mem (s : State) :
    (periodReport s).mem = s.mem := by
  simp [periodReport]

end Sys2Proof.Machine
end

