-- ==== Sys2Proof/Laws/CanonFirmware.lean ====
section
/-! SUPPORT. The operations of Machine/Firmware.lean keep memory in its canonical form. -/
namespace Sys2Proof.Machine

@[simp] theorem failAct_canon (s : State) (code : Nat) (hw : Canonical s) : Canonical (failAct s code) := by
  simp +contextual (maxDischargeDepth := 40) [failAct, hw]

@[simp] theorem stopAct_canon (s : State) (code : Nat) (hw : Canonical s) : Canonical (stopAct s code) := by
  simp +contextual (maxDischargeDepth := 40) [stopAct, hw]

@[simp] theorem telePut_canon (z0 : State) (z1 : Nat) (z2 : Nat) (z3 : Nat) (z4 : List Byte) (hw : Canonical z0) : Canonical (telePut z0 z1 z2 z3 z4) := by
  induction z4 generalizing z0 z1 z2 z3 with
    | nil => simpa [telePut] using hw
    | cons n l ih => simp only [telePut]; (repeat' split) <;> simp +contextual (maxDischargeDepth := 40) [ih, hw]

@[simp] theorem sendReport_canon (s : State) (hw : Canonical s) : Canonical (sendReport s) := by
  unfold sendReport; (repeat' split) <;> simp +contextual (maxDischargeDepth := 40) [hw]

@[simp] theorem periodReport_canon (s : State) (hw : Canonical s) : Canonical (periodReport s) :=
  canonical_of_mem (periodReport_mem s) hw

@[simp] theorem svcDuty_canon (s : State) (hw : Canonical s) : Canonical (svcDuty s) := by
  simp only [svcDuty]; (repeat' split) <;> simp +contextual (maxDischargeDepth := 40) [hw]

end Sys2Proof.Machine
end

