-- ==== Sys2Proof/Laws/MemHeader.lean ====
section
/-! SUPPORT. The operations of Machine/Header.lean that leave memory alone. -/
namespace Sys2Proof.Machine

@[simp] theorem smbAnswer_mem (s : State) (b : Option (List Byte)) :
    (smbAnswer s b).mem = s.mem := by
  simp [smbAnswer]

@[simp] theorem execSmbStatus_mem (s : State) :
    Kept State.mem s (execSmbStatus s) := by
  simp [execSmbStatus]

@[simp] theorem execRegAddr_mem (addr : Word) (s : State) :
    Kept State.mem s (execRegAddr addr s) := by
  simp [execRegAddr]

@[simp] theorem smbRegRead_mem (s : State) :
    (smbRegRead s).mem = s.mem := by
  unfold smbRegRead; (repeat' split) <;> simp

@[simp] theorem execRegRead_mem (s : State) :
    Kept State.mem s (execRegRead s) := by
  simp [execRegRead]

@[simp] theorem execPowerLimit_mem (watts : BitVec 16) (s : State) :
    Kept State.mem s (execPowerLimit watts s) := by
  simp [execPowerLimit]

@[simp] theorem imgCmd_mem (s : State) (f : State → State) (hf : ∀ t, (f t).mem = t.mem) :
    Kept State.mem s (imgCmd s f) := by
  simp only [imgCmd, kept_next]
  (repeat' split) <;> simp [hf]

@[simp] theorem execImgOffset_mem (off : BitVec 32) (s : State) :
    Kept State.mem s (execImgOffset off s) := by
  simp [execImgOffset]

@[simp] theorem execImgData_mem (bytes : List Byte) (s : State) :
    Kept State.mem s (execImgData bytes s) := by
  simp [execImgData]

@[simp] theorem tapSelect_mem (s : State) (n : Nat) (v : Word) :
    (tapSelect s n v).mem = s.mem := by
  simp [tapSelect]

@[simp] theorem execIdcode_mem (s : State) :
    Kept State.mem s (execIdcode s) := by
  simp [execIdcode]

@[simp] theorem execBypass_mem (s : State) :
    Kept State.mem s (execBypass s) := by
  simp [execBypass]

@[simp] theorem boundary_mem (s : State) (n : Nat) (cells : List Bool) :
    (boundary s n cells).mem = s.mem := by
  simp [boundary]

@[simp] theorem execSamplePreload_mem (pins : List Bool) (s : State) :
    Kept State.mem s (execSamplePreload pins s) := by
  simp [execSamplePreload]

@[simp] theorem execExtest_mem (cells : List Bool) (s : State) :
    Kept State.mem s (execExtest cells s) := by
  simp [execExtest]

end Sys2Proof.Machine
end

