-- ==== Sys2Proof/Laws/CanonHeader.lean ====
section
/-! SUPPORT. The operations of Machine/Header.lean keep memory in its canonical form. -/
namespace Sys2Proof.Machine

@[simp] theorem smbAnswer_canon (s : State) (b : Option (List Byte)) (hw : Canonical s) : Canonical (smbAnswer s b) :=
  canonical_of_mem (smbAnswer_mem s b) hw

@[simp] theorem execSmbStatus_canon (s : State) (hw : Canonical s) : Ends Canonical (execSmbStatus s) :=
  ends_of_kept hw (execSmbStatus_mem s)

@[simp] theorem execRegAddr_canon (addr : Word) (s : State) (hw : Canonical s) : Ends Canonical (execRegAddr addr s) :=
  ends_of_kept hw (execRegAddr_mem addr s)

@[simp] theorem smbRegRead_canon (s : State) (hw : Canonical s) : Canonical (smbRegRead s) :=
  canonical_of_mem (smbRegRead_mem s) hw

@[simp] theorem execRegRead_canon (s : State) (hw : Canonical s) : Ends Canonical (execRegRead s) :=
  ends_of_kept hw (execRegRead_mem s)

@[simp] theorem execPowerLimit_canon (watts : BitVec 16) (s : State) (hw : Canonical s) : Ends Canonical (execPowerLimit watts s) :=
  ends_of_kept hw (execPowerLimit_mem watts s)

@[simp] theorem imgCmd_canon (s : State) (f : State → State) (hf : ∀ t, Canonical t → Canonical (f t)) (hw : Canonical s) :
    Ends Canonical (imgCmd s f) := by
  simp only [imgCmd, ends_next]
  (repeat' split) <;> simp (maxDischargeDepth := 40) [hf, hw]

@[simp] theorem execImgOffset_canon (off : BitVec 32) (s : State) (hw : Canonical s) : Ends Canonical (execImgOffset off s) :=
  ends_of_kept hw (execImgOffset_mem off s)

@[simp] theorem execImgData_canon (bytes : List Byte) (s : State) (hw : Canonical s) : Ends Canonical (execImgData bytes s) :=
  ends_of_kept hw (execImgData_mem bytes s)

@[simp] theorem imgCommit_canon (s : State) (hw : Canonical s) :
    Canonical (imgCommit s) := by
  unfold imgCommit; (repeat' split) <;> simp +contextual (maxDischargeDepth := 40) [hw]

@[simp] theorem execImgCommit_canon (s : State) (hw : Canonical s) :
    Ends Canonical (execImgCommit s) := by
  simp +contextual (maxDischargeDepth := 40) [execImgCommit, hw]

@[simp] theorem tapSelect_canon (s : State) (n : Nat) (v : Word) (hw : Canonical s) : Canonical (tapSelect s n v) :=
  canonical_of_mem (tapSelect_mem s n v) hw

@[simp] theorem execIdcode_canon (s : State) (hw : Canonical s) : Ends Canonical (execIdcode s) :=
  ends_of_kept hw (execIdcode_mem s)

@[simp] theorem execBypass_canon (s : State) (hw : Canonical s) : Ends Canonical (execBypass s) :=
  ends_of_kept hw (execBypass_mem s)

@[simp] theorem boundary_canon (s : State) (n : Nat) (cells : List Bool) (hw : Canonical s) : Canonical (boundary s n cells) :=
  canonical_of_mem (boundary_mem s n cells) hw

@[simp] theorem execSamplePreload_canon (pins : List Bool) (s : State) (hw : Canonical s) : Ends Canonical (execSamplePreload pins s) :=
  ends_of_kept hw (execSamplePreload_mem pins s)

@[simp] theorem execExtest_canon (cells : List Bool) (s : State) (hw : Canonical s) : Ends Canonical (execExtest cells s) :=
  ends_of_kept hw (execExtest_mem cells s)

@[simp] theorem dbgAccess_canon (s : State) (write : Bool) (a : Nat) (v : Word) (hw : Canonical s) :
    Canonical (dbgAccess s write a v) := by
  simp only [dbgAccess]; (repeat' split) <;> simp +contextual (maxDischargeDepth := 40) [hw]

@[simp] theorem execDbgAccess_canon (write : Bool) (addr : Word) (value : Word) (s : State) (hw : Canonical s) :
    Ends Canonical (execDbgAccess write addr value s) := by
  simp +contextual (maxDischargeDepth := 40) [execDbgAccess, hw]

end Sys2Proof.Machine
end

