-- ==== Sys2Proof/Laws/MemTick.lean ====
section
/-! SUPPORT. The operations of Machine/Tick.lean that leave memory alone. -/
namespace Sys2Proof.Machine

@[simp] theorem tickCore_mem (s : State) (c : Nat) (n : Nat) :
    (tickCore s c n).mem = s.mem := by
  simp only [tickCore]; (repeat' split) <;> simp

@[simp] theorem tickHem_mem (s : State) (h : Nat) :
    (tickHem s h).mem = s.mem := by
  simp [tickHem]

end Sys2Proof.Machine
end

