-- ==== Sys2Proof/Laws/CanonTick.lean ====
section
/-! SUPPORT. The operations of Machine/Tick.lean keep memory in its canonical form. -/
namespace Sys2Proof.Machine

@[simp] theorem tickCore_canon (s : State) (c : Nat) (n : Nat) (hw : Canonical s) : Canonical (tickCore s c n) :=
  canonical_of_mem (tickCore_mem s c n) hw

@[simp] theorem tickHem_canon (s : State) (h : Nat) (hw : Canonical s) : Canonical (tickHem s h) :=
  canonical_of_mem (tickHem_mem s h) hw

@[simp] theorem strike_canon (s : State) (n : Nat) (hw : Canonical s) : Canonical (strike s n) := by
  simp only [strike]; (repeat' split) <;> simp +contextual (maxDischargeDepth := 40) [hw]

@[simp] theorem idle_canon (s : State) (hw : Canonical s) : Canonical (idle s) := by
  simp +contextual (maxDischargeDepth := 40) [idle, hw]

end Sys2Proof.Machine
end

