-- ==== Sys2Proof/Laws/Fields.lean ====
section
/-! SUPPORT. Events, counts, Buttons, errors and freezing change registers, wakes on their way and the masters asleep, and nothing else. -/
namespace Sys2Proof.Machine

/-- A projection that sees neither the registers nor the wakes nor the masters asleep. -/
structure Apart {α : Type} (f : State → α) : Prop where
  regs : ∀ s r, f { s with regs := r } = f s
  wakes : ∀ s w, f { s with wakes := w } = f s
  asleep : ∀ s a, f { s with asleep := a } = f s

section
variable {α : Type} {f : State → α} (h : Apart f) (s : State)
include h

theorem wr_apart (k : Nat) (v : Word) : f (wr s k v) = f s := h.regs _ _
theorem wrF_apart (k hi lo n : Nat) : f (wrF s k hi lo n) = f s := wr_apart h _ _ _
theorem wrB_apart (k b : Nat) (v : Bool) : f (wrB s k b v) = f s := wr_apart h _ _ _
theorem bumpReg_apart (k n : Nat) : f (bumpReg s k n) = f s := wr_apart h _ _ _
theorem markSat_apart (page : Nat) : f (markSat s page) = f s := (wrB_apart h _ _ _ _).trans (wrB_apart h _ _ _ _)
theorem bumpBtn_apart (mid off : Nat) : f (bumpBtn s mid off) = f s := by
  simp only [bumpBtn]
  split
  · rw [markSat_apart h, bumpReg_apart h]
  · exact bumpReg_apart h _ _ _
theorem btnWake_apart (mid : Nat) : f (btnWake s mid) = f s := by
  unfold btnWake
  split
  · rfl
  · dsimp only
    split
    · rw [wrF_apart h, wrF_apart h]; exact h.asleep _ _
    · exact h.asleep _ _
theorem ringSet_apart (mid b : Nat) : f (ringSet s mid b) = f s := by
  unfold ringSet
  extract_lets k t1 masked t2
  have h1 : f t1 = f s := (bumpBtn_apart h _ _ _).trans (wrB_apart h _ _ _ _)
  have h2 : f t2 = f s := by
    show f (if _ then _ else _) = _
    split
    · exact (wrB_apart h _ _ _ _).trans h1
    · exact h1
  clear_value t1 t2
  split
  · exact (btnWake_apart h _ _).trans (bumpBtn_apart h _ _ _)
  · rw [btnWake_apart h]
    split
    · exact (h.wakes _ _).trans h2
    · exact h2
theorem ringBtn_apart (mid b : Nat) (m : Bool) : f (ringBtn s mid b m) = f s := by
  unfold ringBtn
  (repeat' split) <;> first | rfl | exact bumpBtn_apart h _ _ _ | exact ringSet_apart h _ _ _
theorem raiseEvt_apart (page b : Nat) : f (raiseEvt s page b) = f s := by
  simp only [raiseEvt]
  (repeat' split) <;> simp only [ringBtn_apart h, wrB_apart h]
theorem bumpN_apart (page off n : Nat) : f (bumpN s page off n) = f s := by
  simp only [bumpN]
  split <;> simp only [raiseEvt_apart h, wrB_apart h, bumpReg_apart h]
theorem bump_apart (page off : Nat) : f (bump s page off) = f s := bumpN_apart h _ _ _ _
theorem bumpHdr_apart (page off : Nat) : f (bumpHdr s page off) = f s := bump_apart h _ _ _
theorem reportErr_apart (page code : Nat) (addr : Word) : f (reportErr s page code addr) = f s := by
  simp only [reportErr]
  rw [raiseEvt_apart h]
  (repeat' split) <;> simp only [wr_apart h, wrB_apart h, bumpHdr_apart h]
theorem setDegraded_apart (page b : Nat) : f (setDegraded s page b) = f s := by
  unfold setDegraded
  split <;> simp only [raiseEvt_apart h, bumpHdr_apart h, wrB_apart h]
theorem clearFlag_apart (page b : Nat) : f (clearFlag s page b) = f s := wrB_apart h _ _ _ _
theorem clipOn_apart (page : Nat) : f (clipOn s page) = f s := by
  unfold clipOn
  split <;> simp only [raiseEvt_apart h, bumpHdr_apart h, wrB_apart h]
theorem clipOff_apart (page : Nat) : f (clipOff s page) = f s := wrB_apart h _ _ _ _
theorem freezePage_apart (page : Nat) : f (freezePage s page) = f s := by
  simp only [freezePage, raiseEvt_apart h, bumpHdr_apart h, wrB_apart h]
theorem setFrozenBit_apart (mid : Nat) (b : Bool) : f (setFrozenBit s mid b) = f s := wrB_apart h _ _ _ _
theorem violLog_apart (mid cause : Nat) (addr : Word) : f (violLog s mid cause addr) = f s := by
  simp only [violLog]
  split <;> simp only [wrF_apart h, wr_apart h, bump_apart h]
theorem violation_apart (mid cause : Nat) (addr : Word) : f (violation s mid cause addr) = f s := by
  simp only [violation]
  (repeat' split) <;> simp only [ringBtn_apart h, violLog_apart h, bump_apart h, setFrozenBit_apart h, freezePage_apart h]
theorem countNum_apart (page : Nat) (e : NumEv) (n : Nat) : f (countNum s page e n) = f s := by
  simp only [countNum, bumpN_apart h, wr_apart h]
end

theorem apart_pending : Apart State.pending := ⟨fun _ _ => rfl, fun _ _ => rfl, fun _ _ => rfl⟩
theorem apart_mem : Apart State.mem := ⟨fun _ _ => rfl, fun _ _ => rfl, fun _ _ => rfl⟩
theorem apart_ctxs : Apart State.ctxs := ⟨fun _ _ => rfl, fun _ _ => rfl, fun _ _ => rfl⟩
theorem apart_cores : Apart State.cores := ⟨fun _ _ => rfl, fun _ _ => rfl, fun _ _ => rfl⟩
theorem apart_fb : Apart State.fb := ⟨fun _ _ => rfl, fun _ _ => rfl, fun _ _ => rfl⟩
theorem apart_sync : Apart State.sync := ⟨fun _ _ => rfl, fun _ _ => rfl, fun _ _ => rfl⟩
theorem apart_slots : Apart State.slots := ⟨fun _ _ => rfl, fun _ _ => rfl, fun _ _ => rfl⟩
theorem apart_toYoke : Apart State.toYoke := ⟨fun _ _ => rfl, fun _ _ => rfl, fun _ _ => rfl⟩
theorem apart_yokeWaits : Apart State.yokeWaits := ⟨fun _ _ => rfl, fun _ _ => rfl, fun _ _ => rfl⟩
theorem apart_releases : Apart State.releases := ⟨fun _ _ => rfl, fun _ _ => rfl, fun _ _ => rfl⟩
theorem apart_orphans : Apart State.orphans := ⟨fun _ _ => rfl, fun _ _ => rfl, fun _ _ => rfl⟩
theorem apart_est : Apart State.est := ⟨fun _ _ => rfl, fun _ _ => rfl, fun _ _ => rfl⟩
theorem apart_hemStopped : Apart State.hemStopped := ⟨fun _ _ => rfl, fun _ _ => rfl, fun _ _ => rfl⟩
theorem apart_resync : Apart State.resync := ⟨fun _ _ => rfl, fun _ _ => rfl, fun _ _ => rfl⟩
theorem apart_breached : Apart State.breached := ⟨fun _ _ => rfl, fun _ _ => rfl, fun _ _ => rfl⟩
theorem apart_katPages : Apart State.katPages := ⟨fun _ _ => rfl, fun _ _ => rfl, fun _ _ => rfl⟩
theorem apart_srFailed : Apart State.srFailed := ⟨fun _ _ => rfl, fun _ _ => rfl, fun _ _ => rfl⟩
theorem apart_srSick : Apart State.srSick := ⟨fun _ _ => rfl, fun _ _ => rfl, fun _ _ => rfl⟩
theorem apart_banks : Apart State.banks := ⟨fun _ _ => rfl, fun _ _ => rfl, fun _ _ => rfl⟩
theorem apart_arbs : Apart State.arbs := ⟨fun _ _ => rfl, fun _ _ => rfl, fun _ _ => rfl⟩
theorem apart_fab : Apart State.fab := ⟨fun _ _ => rfl, fun _ _ => rfl, fun _ _ => rfl⟩
theorem apart_seamRejects : Apart State.seamRejects := ⟨fun _ _ => rfl, fun _ _ => rfl, fun _ _ => rfl⟩
theorem apart_seamTests : Apart State.seamTests := ⟨fun _ _ => rfl, fun _ _ => rfl, fun _ _ => rfl⟩
theorem apart_partners : Apart State.partners := ⟨fun _ _ => rfl, fun _ _ => rfl, fun _ _ => rfl⟩
theorem apart_groups : Apart State.groups := ⟨fun _ _ => rfl, fun _ _ => rfl, fun _ _ => rfl⟩
theorem apart_linkSecret : Apart State.linkSecret := ⟨fun _ _ => rfl, fun _ _ => rfl, fun _ _ => rfl⟩
theorem apart_toEngine : Apart State.toEngine := ⟨fun _ _ => rfl, fun _ _ => rfl, fun _ _ => rfl⟩
theorem apart_outbox : Apart State.outbox := ⟨fun _ _ => rfl, fun _ _ => rfl, fun _ _ => rfl⟩
theorem apart_wire : Apart State.wire := ⟨fun _ _ => rfl, fun _ _ => rfl, fun _ _ => rfl⟩
theorem apart_wireHeld : Apart State.wireHeld := ⟨fun _ _ => rfl, fun _ _ => rfl, fun _ _ => rfl⟩
theorem apart_drr : Apart State.drr := ⟨fun _ _ => rfl, fun _ _ => rfl, fun _ _ => rfl⟩
theorem apart_hellos : Apart State.hellos := ⟨fun _ _ => rfl, fun _ _ => rfl, fun _ _ => rfl⟩
theorem apart_portCoef : Apart State.portCoef := ⟨fun _ _ => rfl, fun _ _ => rfl, fun _ _ => rfl⟩
theorem apart_trainFails : Apart State.trainFails := ⟨fun _ _ => rfl, fun _ _ => rfl, fun _ _ => rfl⟩
theorem apart_portDisabled : Apart State.portDisabled := ⟨fun _ _ => rfl, fun _ _ => rfl, fun _ _ => rfl⟩
theorem apart_coll : Apart State.coll := ⟨fun _ _ => rfl, fun _ _ => rfl, fun _ _ => rfl⟩
theorem apart_collNext : Apart State.collNext := ⟨fun _ _ => rfl, fun _ _ => rfl, fun _ _ => rfl⟩
theorem apart_closing : Apart State.closing := ⟨fun _ _ => rfl, fun _ _ => rfl, fun _ _ => rfl⟩
theorem apart_optWritten : Apart State.optWritten := ⟨fun _ _ => rfl, fun _ _ => rfl, fun _ _ => rfl⟩
theorem apart_optDue : Apart State.optDue := ⟨fun _ _ => rfl, fun _ _ => rfl, fun _ _ => rfl⟩
theorem apart_optWaited : Apart State.optWaited := ⟨fun _ _ => rfl, fun _ _ => rfl, fun _ _ => rfl⟩
theorem apart_mirHeader : Apart State.mirHeader := ⟨fun _ _ => rfl, fun _ _ => rfl, fun _ _ => rfl⟩
theorem apart_sealDue : Apart State.sealDue := ⟨fun _ _ => rfl, fun _ _ => rfl, fun _ _ => rfl⟩
theorem apart_recov : Apart State.recov := ⟨fun _ _ => rfl, fun _ _ => rfl, fun _ _ => rfl⟩
theorem apart_stepMsgs : Apart State.stepMsgs := ⟨fun _ _ => rfl, fun _ _ => rfl, fun _ _ => rfl⟩
theorem apart_rails : Apart State.rails := ⟨fun _ _ => rfl, fun _ _ => rfl, fun _ _ => rfl⟩
theorem apart_pwr : Apart State.pwr := ⟨fun _ _ => rfl, fun _ _ => rfl, fun _ _ => rfl⟩
theorem apart_mnt : Apart State.mnt := ⟨fun _ _ => rfl, fun _ _ => rfl, fun _ _ => rfl⟩
theorem apart_cp : Apart State.cp := ⟨fun _ _ => rfl, fun _ _ => rfl, fun _ _ => rfl⟩
theorem apart_svc : Apart State.svc := ⟨fun _ _ => rfl, fun _ _ => rfl, fun _ _ => rfl⟩
theorem apart_bist : Apart State.bist := ⟨fun _ _ => rfl, fun _ _ => rfl, fun _ _ => rfl⟩
theorem apart_ticks : Apart State.ticks := ⟨fun _ _ => rfl, fun _ _ => rfl, fun _ _ => rfl⟩
theorem apart_trace : Apart State.trace := ⟨fun _ _ => rfl, fun _ _ => rfl, fun _ _ => rfl⟩
theorem apart_resp : Apart State.resp := ⟨fun _ _ => rfl, fun _ _ => rfl, fun _ _ => rfl⟩
theorem apart_free : Apart State.free := ⟨fun _ _ => rfl, fun _ _ => rfl, fun _ _ => rfl⟩

variable (s : State)

@[simp] theorem markSat_ctxs (page : Nat) : (markSat s page).ctxs = s.ctxs := markSat_apart apart_ctxs s page
@[simp] theorem markSat_cores (page : Nat) : (markSat s page).cores = s.cores := markSat_apart apart_cores s page
@[simp] theorem markSat_fb (page : Nat) : (markSat s page).fb = s.fb := markSat_apart apart_fb s page
@[simp] theorem markSat_sync (page : Nat) : (markSat s page).sync = s.sync := markSat_apart apart_sync s page
@[simp] theorem markSat_slots (page : Nat) : (markSat s page).slots = s.slots := markSat_apart apart_slots s page
@[simp] theorem markSat_toYoke (page : Nat) : (markSat s page).toYoke = s.toYoke := markSat_apart apart_toYoke s page
@[simp] theorem markSat_yokeWaits (page : Nat) : (markSat s page).yokeWaits = s.yokeWaits := markSat_apart apart_yokeWaits s page
@[simp] theorem markSat_releases (page : Nat) : (markSat s page).releases = s.releases := markSat_apart apart_releases s page
@[simp] theorem markSat_orphans (page : Nat) : (markSat s page).orphans = s.orphans := markSat_apart apart_orphans s page
@[simp] theorem markSat_est (page : Nat) : (markSat s page).est = s.est := markSat_apart apart_est s page
@[simp] theorem markSat_hemStopped (page : Nat) : (markSat s page).hemStopped = s.hemStopped := markSat_apart apart_hemStopped s page
@[simp] theorem markSat_resync (page : Nat) : (markSat s page).resync = s.resync := markSat_apart apart_resync s page
@[simp] theorem markSat_breached (page : Nat) : (markSat s page).breached = s.breached := markSat_apart apart_breached s page
@[simp] theorem markSat_katPages (page : Nat) : (markSat s page).katPages = s.katPages := markSat_apart apart_katPages s page
@[simp] theorem markSat_srFailed (page : Nat) : (markSat s page).srFailed = s.srFailed := markSat_apart apart_srFailed s page
@[simp] theorem markSat_srSick (page : Nat) : (markSat s page).srSick = s.srSick := markSat_apart apart_srSick s page
@[simp] theorem markSat_banks (page : Nat) : (markSat s page).banks = s.banks := markSat_apart apart_banks s page
@[simp] theorem markSat_arbs (page : Nat) : (markSat s page).arbs = s.arbs := markSat_apart apart_arbs s page
@[simp] theorem markSat_fab (page : Nat) : (markSat s page).fab = s.fab := markSat_apart apart_fab s page
@[simp] theorem markSat_seamRejects (page : Nat) : (markSat s page).seamRejects = s.seamRejects := markSat_apart apart_seamRejects s page
@[simp] theorem markSat_seamTests (page : Nat) : (markSat s page).seamTests = s.seamTests := markSat_apart apart_seamTests s page
@[simp] theorem markSat_partners (page : Nat) : (markSat s page).partners = s.partners := markSat_apart apart_partners s page
@[simp] theorem markSat_groups (page : Nat) : (markSat s page).groups = s.groups := markSat_apart apart_groups s page
@[simp] theorem markSat_linkSecret (page : Nat) : (markSat s page).linkSecret = s.linkSecret := markSat_apart apart_linkSecret s page
@[simp] theorem markSat_toEngine (page : Nat) : (markSat s page).toEngine = s.toEngine := markSat_apart apart_toEngine s page
@[simp] theorem markSat_outbox (page : Nat) : (markSat s page).outbox = s.outbox := markSat_apart apart_outbox s page
@[simp] theorem markSat_wire (page : Nat) : (markSat s page).wire = s.wire := markSat_apart apart_wire s page
@[simp] theorem markSat_wireHeld (page : Nat) : (markSat s page).wireHeld = s.wireHeld := markSat_apart apart_wireHeld s page
@[simp] theorem markSat_drr (page : Nat) : (markSat s page).drr = s.drr := markSat_apart apart_drr s page
@[simp] theorem markSat_hellos (page : Nat) : (markSat s page).hellos = s.hellos := markSat_apart apart_hellos s page
@[simp] theorem markSat_portCoef (page : Nat) : (markSat s page).portCoef = s.portCoef := markSat_apart apart_portCoef s page
@[simp] theorem markSat_trainFails (page : Nat) : (markSat s page).trainFails = s.trainFails := markSat_apart apart_trainFails s page
@[simp] theorem markSat_portDisabled (page : Nat) : (markSat s page).portDisabled = s.portDisabled := markSat_apart apart_portDisabled s page
@[simp] theorem markSat_coll (page : Nat) : (markSat s page).coll = s.coll := markSat_apart apart_coll s page
@[simp] theorem markSat_collNext (page : Nat) : (markSat s page).collNext = s.collNext := markSat_apart apart_collNext s page
@[simp] theorem markSat_closing (page : Nat) : (markSat s page).closing = s.closing := markSat_apart apart_closing s page
@[simp] theorem markSat_optWritten (page : Nat) : (markSat s page).optWritten = s.optWritten := markSat_apart apart_optWritten s page
@[simp] theorem markSat_optDue (page : Nat) : (markSat s page).optDue = s.optDue := markSat_apart apart_optDue s page
@[simp] theorem markSat_optWaited (page : Nat) : (markSat s page).optWaited = s.optWaited := markSat_apart apart_optWaited s page
@[simp] theorem markSat_mirHeader (page : Nat) : (markSat s page).mirHeader = s.mirHeader := markSat_apart apart_mirHeader s page
@[simp] theorem markSat_sealDue (page : Nat) : (markSat s page).sealDue = s.sealDue := markSat_apart apart_sealDue s page
@[simp] theorem markSat_recov (page : Nat) : (markSat s page).recov = s.recov := markSat_apart apart_recov s page
@[simp] theorem markSat_stepMsgs (page : Nat) : (markSat s page).stepMsgs = s.stepMsgs := markSat_apart apart_stepMsgs s page
@[simp] theorem markSat_rails (page : Nat) : (markSat s page).rails = s.rails := markSat_apart apart_rails s page
@[simp] theorem markSat_mnt (page : Nat) : (markSat s page).mnt = s.mnt := markSat_apart apart_mnt s page
@[simp] theorem markSat_cp (page : Nat) : (markSat s page).cp = s.cp := markSat_apart apart_cp s page
@[simp] theorem markSat_svc (page : Nat) : (markSat s page).svc = s.svc := markSat_apart apart_svc s page
@[simp] theorem markSat_bist (page : Nat) : (markSat s page).bist = s.bist := markSat_apart apart_bist s page
@[simp] theorem markSat_ticks (page : Nat) : (markSat s page).ticks = s.ticks := markSat_apart apart_ticks s page
@[simp] theorem markSat_trace (page : Nat) : (markSat s page).trace = s.trace := markSat_apart apart_trace s page
@[simp] theorem markSat_resp (page : Nat) : (markSat s page).resp = s.resp := markSat_apart apart_resp s page
@[simp] theorem markSat_free (page : Nat) : (markSat s page).free = s.free := markSat_apart apart_free s page

@[simp] theorem bumpBtn_ctxs (mid off : Nat) : (bumpBtn s mid off).ctxs = s.ctxs := bumpBtn_apart apart_ctxs s mid off
@[simp] theorem bumpBtn_cores (mid off : Nat) : (bumpBtn s mid off).cores = s.cores := bumpBtn_apart apart_cores s mid off
@[simp] theorem bumpBtn_fb (mid off : Nat) : (bumpBtn s mid off).fb = s.fb := bumpBtn_apart apart_fb s mid off
@[simp] theorem bumpBtn_sync (mid off : Nat) : (bumpBtn s mid off).sync = s.sync := bumpBtn_apart apart_sync s mid off
@[simp] theorem bumpBtn_slots (mid off : Nat) : (bumpBtn s mid off).slots = s.slots := bumpBtn_apart apart_slots s mid off
@[simp] theorem bumpBtn_toYoke (mid off : Nat) : (bumpBtn s mid off).toYoke = s.toYoke := bumpBtn_apart apart_toYoke s mid off
@[simp] theorem bumpBtn_yokeWaits (mid off : Nat) : (bumpBtn s mid off).yokeWaits = s.yokeWaits := bumpBtn_apart apart_yokeWaits s mid off
@[simp] theorem bumpBtn_releases (mid off : Nat) : (bumpBtn s mid off).releases = s.releases := bumpBtn_apart apart_releases s mid off
@[simp] theorem bumpBtn_orphans (mid off : Nat) : (bumpBtn s mid off).orphans = s.orphans := bumpBtn_apart apart_orphans s mid off
@[simp] theorem bumpBtn_est (mid off : Nat) : (bumpBtn s mid off).est = s.est := bumpBtn_apart apart_est s mid off
@[simp] theorem bumpBtn_hemStopped (mid off : Nat) : (bumpBtn s mid off).hemStopped = s.hemStopped := bumpBtn_apart apart_hemStopped s mid off
@[simp] theorem bumpBtn_resync (mid off : Nat) : (bumpBtn s mid off).resync = s.resync := bumpBtn_apart apart_resync s mid off
@[simp] theorem bumpBtn_breached (mid off : Nat) : (bumpBtn s mid off).breached = s.breached := bumpBtn_apart apart_breached s mid off
@[simp] theorem bumpBtn_katPages (mid off : Nat) : (bumpBtn s mid off).katPages = s.katPages := bumpBtn_apart apart_katPages s mid off
@[simp] theorem bumpBtn_srFailed (mid off : Nat) : (bumpBtn s mid off).srFailed = s.srFailed := bumpBtn_apart apart_srFailed s mid off
@[simp] theorem bumpBtn_srSick (mid off : Nat) : (bumpBtn s mid off).srSick = s.srSick := bumpBtn_apart apart_srSick s mid off
@[simp] theorem bumpBtn_banks (mid off : Nat) : (bumpBtn s mid off).banks = s.banks := bumpBtn_apart apart_banks s mid off
@[simp] theorem bumpBtn_arbs (mid off : Nat) : (bumpBtn s mid off).arbs = s.arbs := bumpBtn_apart apart_arbs s mid off
@[simp] theorem bumpBtn_fab (mid off : Nat) : (bumpBtn s mid off).fab = s.fab := bumpBtn_apart apart_fab s mid off
@[simp] theorem bumpBtn_seamRejects (mid off : Nat) : (bumpBtn s mid off).seamRejects = s.seamRejects := bumpBtn_apart apart_seamRejects s mid off
@[simp] theorem bumpBtn_seamTests (mid off : Nat) : (bumpBtn s mid off).seamTests = s.seamTests := bumpBtn_apart apart_seamTests s mid off
@[simp] theorem bumpBtn_partners (mid off : Nat) : (bumpBtn s mid off).partners = s.partners := bumpBtn_apart apart_partners s mid off
@[simp] theorem bumpBtn_groups (mid off : Nat) : (bumpBtn s mid off).groups = s.groups := bumpBtn_apart apart_groups s mid off
@[simp] theorem bumpBtn_linkSecret (mid off : Nat) : (bumpBtn s mid off).linkSecret = s.linkSecret := bumpBtn_apart apart_linkSecret s mid off
@[simp] theorem bumpBtn_toEngine (mid off : Nat) : (bumpBtn s mid off).toEngine = s.toEngine := bumpBtn_apart apart_toEngine s mid off
@[simp] theorem bumpBtn_outbox (mid off : Nat) : (bumpBtn s mid off).outbox = s.outbox := bumpBtn_apart apart_outbox s mid off
@[simp] theorem bumpBtn_wire (mid off : Nat) : (bumpBtn s mid off).wire = s.wire := bumpBtn_apart apart_wire s mid off
@[simp] theorem bumpBtn_wireHeld (mid off : Nat) : (bumpBtn s mid off).wireHeld = s.wireHeld := bumpBtn_apart apart_wireHeld s mid off
@[simp] theorem bumpBtn_drr (mid off : Nat) : (bumpBtn s mid off).drr = s.drr := bumpBtn_apart apart_drr s mid off
@[simp] theorem bumpBtn_hellos (mid off : Nat) : (bumpBtn s mid off).hellos = s.hellos := bumpBtn_apart apart_hellos s mid off
@[simp] theorem bumpBtn_portCoef (mid off : Nat) : (bumpBtn s mid off).portCoef = s.portCoef := bumpBtn_apart apart_portCoef s mid off
@[simp] theorem bumpBtn_trainFails (mid off : Nat) : (bumpBtn s mid off).trainFails = s.trainFails := bumpBtn_apart apart_trainFails s mid off
@[simp] theorem bumpBtn_portDisabled (mid off : Nat) : (bumpBtn s mid off).portDisabled = s.portDisabled := bumpBtn_apart apart_portDisabled s mid off
@[simp] theorem bumpBtn_coll (mid off : Nat) : (bumpBtn s mid off).coll = s.coll := bumpBtn_apart apart_coll s mid off
@[simp] theorem bumpBtn_collNext (mid off : Nat) : (bumpBtn s mid off).collNext = s.collNext := bumpBtn_apart apart_collNext s mid off
@[simp] theorem bumpBtn_closing (mid off : Nat) : (bumpBtn s mid off).closing = s.closing := bumpBtn_apart apart_closing s mid off
@[simp] theorem bumpBtn_optWritten (mid off : Nat) : (bumpBtn s mid off).optWritten = s.optWritten := bumpBtn_apart apart_optWritten s mid off
@[simp] theorem bumpBtn_optDue (mid off : Nat) : (bumpBtn s mid off).optDue = s.optDue := bumpBtn_apart apart_optDue s mid off
@[simp] theorem bumpBtn_optWaited (mid off : Nat) : (bumpBtn s mid off).optWaited = s.optWaited := bumpBtn_apart apart_optWaited s mid off
@[simp] theorem bumpBtn_mirHeader (mid off : Nat) : (bumpBtn s mid off).mirHeader = s.mirHeader := bumpBtn_apart apart_mirHeader s mid off
@[simp] theorem bumpBtn_sealDue (mid off : Nat) : (bumpBtn s mid off).sealDue = s.sealDue := bumpBtn_apart apart_sealDue s mid off
@[simp] theorem bumpBtn_recov (mid off : Nat) : (bumpBtn s mid off).recov = s.recov := bumpBtn_apart apart_recov s mid off
@[simp] theorem bumpBtn_stepMsgs (mid off : Nat) : (bumpBtn s mid off).stepMsgs = s.stepMsgs := bumpBtn_apart apart_stepMsgs s mid off
@[simp] theorem bumpBtn_rails (mid off : Nat) : (bumpBtn s mid off).rails = s.rails := bumpBtn_apart apart_rails s mid off
@[simp] theorem bumpBtn_mnt (mid off : Nat) : (bumpBtn s mid off).mnt = s.mnt := bumpBtn_apart apart_mnt s mid off
@[simp] theorem bumpBtn_cp (mid off : Nat) : (bumpBtn s mid off).cp = s.cp := bumpBtn_apart apart_cp s mid off
@[simp] theorem bumpBtn_svc (mid off : Nat) : (bumpBtn s mid off).svc = s.svc := bumpBtn_apart apart_svc s mid off
@[simp] theorem bumpBtn_bist (mid off : Nat) : (bumpBtn s mid off).bist = s.bist := bumpBtn_apart apart_bist s mid off
@[simp] theorem bumpBtn_ticks (mid off : Nat) : (bumpBtn s mid off).ticks = s.ticks := bumpBtn_apart apart_ticks s mid off
@[simp] theorem bumpBtn_trace (mid off : Nat) : (bumpBtn s mid off).trace = s.trace := bumpBtn_apart apart_trace s mid off
@[simp] theorem bumpBtn_resp (mid off : Nat) : (bumpBtn s mid off).resp = s.resp := bumpBtn_apart apart_resp s mid off
@[simp] theorem bumpBtn_free (mid off : Nat) : (bumpBtn s mid off).free = s.free := bumpBtn_apart apart_free s mid off

@[simp] theorem ringSet_ctxs (mid b : Nat) : (ringSet s mid b).ctxs = s.ctxs := ringSet_apart apart_ctxs s mid b
@[simp] theorem ringSet_cores (mid b : Nat) : (ringSet s mid b).cores = s.cores := ringSet_apart apart_cores s mid b
@[simp] theorem ringSet_fb (mid b : Nat) : (ringSet s mid b).fb = s.fb := ringSet_apart apart_fb s mid b
@[simp] theorem ringSet_sync (mid b : Nat) : (ringSet s mid b).sync = s.sync := ringSet_apart apart_sync s mid b
@[simp] theorem ringSet_slots (mid b : Nat) : (ringSet s mid b).slots = s.slots := ringSet_apart apart_slots s mid b
@[simp] theorem ringSet_toYoke (mid b : Nat) : (ringSet s mid b).toYoke = s.toYoke := ringSet_apart apart_toYoke s mid b
@[simp] theorem ringSet_yokeWaits (mid b : Nat) : (ringSet s mid b).yokeWaits = s.yokeWaits := ringSet_apart apart_yokeWaits s mid b
@[simp] theorem ringSet_releases (mid b : Nat) : (ringSet s mid b).releases = s.releases := ringSet_apart apart_releases s mid b
@[simp] theorem ringSet_orphans (mid b : Nat) : (ringSet s mid b).orphans = s.orphans := ringSet_apart apart_orphans s mid b
@[simp] theorem ringSet_est (mid b : Nat) : (ringSet s mid b).est = s.est := ringSet_apart apart_est s mid b
@[simp] theorem ringSet_hemStopped (mid b : Nat) : (ringSet s mid b).hemStopped = s.hemStopped := ringSet_apart apart_hemStopped s mid b
@[simp] theorem ringSet_resync (mid b : Nat) : (ringSet s mid b).resync = s.resync := ringSet_apart apart_resync s mid b
@[simp] theorem ringSet_breached (mid b : Nat) : (ringSet s mid b).breached = s.breached := ringSet_apart apart_breached s mid b
@[simp] theorem ringSet_katPages (mid b : Nat) : (ringSet s mid b).katPages = s.katPages := ringSet_apart apart_katPages s mid b
@[simp] theorem ringSet_srFailed (mid b : Nat) : (ringSet s mid b).srFailed = s.srFailed := ringSet_apart apart_srFailed s mid b
@[simp] theorem ringSet_srSick (mid b : Nat) : (ringSet s mid b).srSick = s.srSick := ringSet_apart apart_srSick s mid b
@[simp] theorem ringSet_banks (mid b : Nat) : (ringSet s mid b).banks = s.banks := ringSet_apart apart_banks s mid b
@[simp] theorem ringSet_arbs (mid b : Nat) : (ringSet s mid b).arbs = s.arbs := ringSet_apart apart_arbs s mid b
@[simp] theorem ringSet_fab (mid b : Nat) : (ringSet s mid b).fab = s.fab := ringSet_apart apart_fab s mid b
@[simp] theorem ringSet_seamRejects (mid b : Nat) : (ringSet s mid b).seamRejects = s.seamRejects := ringSet_apart apart_seamRejects s mid b
@[simp] theorem ringSet_seamTests (mid b : Nat) : (ringSet s mid b).seamTests = s.seamTests := ringSet_apart apart_seamTests s mid b
@[simp] theorem ringSet_partners (mid b : Nat) : (ringSet s mid b).partners = s.partners := ringSet_apart apart_partners s mid b
@[simp] theorem ringSet_groups (mid b : Nat) : (ringSet s mid b).groups = s.groups := ringSet_apart apart_groups s mid b
@[simp] theorem ringSet_linkSecret (mid b : Nat) : (ringSet s mid b).linkSecret = s.linkSecret := ringSet_apart apart_linkSecret s mid b
@[simp] theorem ringSet_toEngine (mid b : Nat) : (ringSet s mid b).toEngine = s.toEngine := ringSet_apart apart_toEngine s mid b
@[simp] theorem ringSet_outbox (mid b : Nat) : (ringSet s mid b).outbox = s.outbox := ringSet_apart apart_outbox s mid b
@[simp] theorem ringSet_wire (mid b : Nat) : (ringSet s mid b).wire = s.wire := ringSet_apart apart_wire s mid b
@[simp] theorem ringSet_wireHeld (mid b : Nat) : (ringSet s mid b).wireHeld = s.wireHeld := ringSet_apart apart_wireHeld s mid b
@[simp] theorem ringSet_drr (mid b : Nat) : (ringSet s mid b).drr = s.drr := ringSet_apart apart_drr s mid b
@[simp] theorem ringSet_hellos (mid b : Nat) : (ringSet s mid b).hellos = s.hellos := ringSet_apart apart_hellos s mid b
@[simp] theorem ringSet_portCoef (mid b : Nat) : (ringSet s mid b).portCoef = s.portCoef := ringSet_apart apart_portCoef s mid b
@[simp] theorem ringSet_trainFails (mid b : Nat) : (ringSet s mid b).trainFails = s.trainFails := ringSet_apart apart_trainFails s mid b
@[simp] theorem ringSet_portDisabled (mid b : Nat) : (ringSet s mid b).portDisabled = s.portDisabled := ringSet_apart apart_portDisabled s mid b
@[simp] theorem ringSet_coll (mid b : Nat) : (ringSet s mid b).coll = s.coll := ringSet_apart apart_coll s mid b
@[simp] theorem ringSet_collNext (mid b : Nat) : (ringSet s mid b).collNext = s.collNext := ringSet_apart apart_collNext s mid b
@[simp] theorem ringSet_closing (mid b : Nat) : (ringSet s mid b).closing = s.closing := ringSet_apart apart_closing s mid b
@[simp] theorem ringSet_optWritten (mid b : Nat) : (ringSet s mid b).optWritten = s.optWritten := ringSet_apart apart_optWritten s mid b
@[simp] theorem ringSet_optDue (mid b : Nat) : (ringSet s mid b).optDue = s.optDue := ringSet_apart apart_optDue s mid b
@[simp] theorem ringSet_optWaited (mid b : Nat) : (ringSet s mid b).optWaited = s.optWaited := ringSet_apart apart_optWaited s mid b
@[simp] theorem ringSet_mirHeader (mid b : Nat) : (ringSet s mid b).mirHeader = s.mirHeader := ringSet_apart apart_mirHeader s mid b
@[simp] theorem ringSet_sealDue (mid b : Nat) : (ringSet s mid b).sealDue = s.sealDue := ringSet_apart apart_sealDue s mid b
@[simp] theorem ringSet_recov (mid b : Nat) : (ringSet s mid b).recov = s.recov := ringSet_apart apart_recov s mid b
@[simp] theorem ringSet_stepMsgs (mid b : Nat) : (ringSet s mid b).stepMsgs = s.stepMsgs := ringSet_apart apart_stepMsgs s mid b
@[simp] theorem ringSet_rails (mid b : Nat) : (ringSet s mid b).rails = s.rails := ringSet_apart apart_rails s mid b
@[simp] theorem ringSet_mnt (mid b : Nat) : (ringSet s mid b).mnt = s.mnt := ringSet_apart apart_mnt s mid b
@[simp] theorem ringSet_cp (mid b : Nat) : (ringSet s mid b).cp = s.cp := ringSet_apart apart_cp s mid b
@[simp] theorem ringSet_svc (mid b : Nat) : (ringSet s mid b).svc = s.svc := ringSet_apart apart_svc s mid b
@[simp] theorem ringSet_bist (mid b : Nat) : (ringSet s mid b).bist = s.bist := ringSet_apart apart_bist s mid b
@[simp] theorem ringSet_ticks (mid b : Nat) : (ringSet s mid b).ticks = s.ticks := ringSet_apart apart_ticks s mid b
@[simp] theorem ringSet_trace (mid b : Nat) : (ringSet s mid b).trace = s.trace := ringSet_apart apart_trace s mid b
@[simp] theorem ringSet_resp (mid b : Nat) : (ringSet s mid b).resp = s.resp := ringSet_apart apart_resp s mid b
@[simp] theorem ringSet_free (mid b : Nat) : (ringSet s mid b).free = s.free := ringSet_apart apart_free s mid b

@[simp] theorem ringBtn_ctxs (mid b : Nat) (m : Bool) : (ringBtn s mid b m).ctxs = s.ctxs := ringBtn_apart apart_ctxs s mid b m
@[simp] theorem ringBtn_cores (mid b : Nat) (m : Bool) : (ringBtn s mid b m).cores = s.cores := ringBtn_apart apart_cores s mid b m
@[simp] theorem ringBtn_fb (mid b : Nat) (m : Bool) : (ringBtn s mid b m).fb = s.fb := ringBtn_apart apart_fb s mid b m
@[simp] theorem ringBtn_sync (mid b : Nat) (m : Bool) : (ringBtn s mid b m).sync = s.sync := ringBtn_apart apart_sync s mid b m
@[simp] theorem ringBtn_slots (mid b : Nat) (m : Bool) : (ringBtn s mid b m).slots = s.slots := ringBtn_apart apart_slots s mid b m
@[simp] theorem ringBtn_toYoke (mid b : Nat) (m : Bool) : (ringBtn s mid b m).toYoke = s.toYoke := ringBtn_apart apart_toYoke s mid b m
@[simp] theorem ringBtn_yokeWaits (mid b : Nat) (m : Bool) : (ringBtn s mid b m).yokeWaits = s.yokeWaits := ringBtn_apart apart_yokeWaits s mid b m
@[simp] theorem ringBtn_releases (mid b : Nat) (m : Bool) : (ringBtn s mid b m).releases = s.releases := ringBtn_apart apart_releases s mid b m
@[simp] theorem ringBtn_orphans (mid b : Nat) (m : Bool) : (ringBtn s mid b m).orphans = s.orphans := ringBtn_apart apart_orphans s mid b m
@[simp] theorem ringBtn_est (mid b : Nat) (m : Bool) : (ringBtn s mid b m).est = s.est := ringBtn_apart apart_est s mid b m
@[simp] theorem ringBtn_hemStopped (mid b : Nat) (m : Bool) : (ringBtn s mid b m).hemStopped = s.hemStopped := ringBtn_apart apart_hemStopped s mid b m
@[simp] theorem ringBtn_resync (mid b : Nat) (m : Bool) : (ringBtn s mid b m).resync = s.resync := ringBtn_apart apart_resync s mid b m
@[simp] theorem ringBtn_breached (mid b : Nat) (m : Bool) : (ringBtn s mid b m).breached = s.breached := ringBtn_apart apart_breached s mid b m
@[simp] theorem ringBtn_katPages (mid b : Nat) (m : Bool) : (ringBtn s mid b m).katPages = s.katPages := ringBtn_apart apart_katPages s mid b m
@[simp] theorem ringBtn_srFailed (mid b : Nat) (m : Bool) : (ringBtn s mid b m).srFailed = s.srFailed := ringBtn_apart apart_srFailed s mid b m
@[simp] theorem ringBtn_srSick (mid b : Nat) (m : Bool) : (ringBtn s mid b m).srSick = s.srSick := ringBtn_apart apart_srSick s mid b m
@[simp] theorem ringBtn_banks (mid b : Nat) (m : Bool) : (ringBtn s mid b m).banks = s.banks := ringBtn_apart apart_banks s mid b m
@[simp] theorem ringBtn_arbs (mid b : Nat) (m : Bool) : (ringBtn s mid b m).arbs = s.arbs := ringBtn_apart apart_arbs s mid b m
@[simp] theorem ringBtn_fab (mid b : Nat) (m : Bool) : (ringBtn s mid b m).fab = s.fab := ringBtn_apart apart_fab s mid b m
@[simp] theorem ringBtn_seamRejects (mid b : Nat) (m : Bool) : (ringBtn s mid b m).seamRejects = s.seamRejects := ringBtn_apart apart_seamRejects s mid b m
@[simp] theorem ringBtn_seamTests (mid b : Nat) (m : Bool) : (ringBtn s mid b m).seamTests = s.seamTests := ringBtn_apart apart_seamTests s mid b m
@[simp] theorem ringBtn_partners (mid b : Nat) (m : Bool) : (ringBtn s mid b m).partners = s.partners := ringBtn_apart apart_partners s mid b m
@[simp] theorem ringBtn_groups (mid b : Nat) (m : Bool) : (ringBtn s mid b m).groups = s.groups := ringBtn_apart apart_groups s mid b m
@[simp] theorem ringBtn_linkSecret (mid b : Nat) (m : Bool) : (ringBtn s mid b m).linkSecret = s.linkSecret := ringBtn_apart apart_linkSecret s mid b m
@[simp] theorem ringBtn_toEngine (mid b : Nat) (m : Bool) : (ringBtn s mid b m).toEngine = s.toEngine := ringBtn_apart apart_toEngine s mid b m
@[simp] theorem ringBtn_outbox (mid b : Nat) (m : Bool) : (ringBtn s mid b m).outbox = s.outbox := ringBtn_apart apart_outbox s mid b m
@[simp] theorem ringBtn_wire (mid b : Nat) (m : Bool) : (ringBtn s mid b m).wire = s.wire := ringBtn_apart apart_wire s mid b m
@[simp] theorem ringBtn_wireHeld (mid b : Nat) (m : Bool) : (ringBtn s mid b m).wireHeld = s.wireHeld := ringBtn_apart apart_wireHeld s mid b m
@[simp] theorem ringBtn_drr (mid b : Nat) (m : Bool) : (ringBtn s mid b m).drr = s.drr := ringBtn_apart apart_drr s mid b m
@[simp] theorem ringBtn_hellos (mid b : Nat) (m : Bool) : (ringBtn s mid b m).hellos = s.hellos := ringBtn_apart apart_hellos s mid b m
@[simp] theorem ringBtn_portCoef (mid b : Nat) (m : Bool) : (ringBtn s mid b m).portCoef = s.portCoef := ringBtn_apart apart_portCoef s mid b m
@[simp] theorem ringBtn_trainFails (mid b : Nat) (m : Bool) : (ringBtn s mid b m).trainFails = s.trainFails := ringBtn_apart apart_trainFails s mid b m
@[simp] theorem ringBtn_portDisabled (mid b : Nat) (m : Bool) : (ringBtn s mid b m).portDisabled = s.portDisabled := ringBtn_apart apart_portDisabled s mid b m
@[simp] theorem ringBtn_coll (mid b : Nat) (m : Bool) : (ringBtn s mid b m).coll = s.coll := ringBtn_apart apart_coll s mid b m
@[simp] theorem ringBtn_collNext (mid b : Nat) (m : Bool) : (ringBtn s mid b m).collNext = s.collNext := ringBtn_apart apart_collNext s mid b m
@[simp] theorem ringBtn_closing (mid b : Nat) (m : Bool) : (ringBtn s mid b m).closing = s.closing := ringBtn_apart apart_closing s mid b m
@[simp] theorem ringBtn_optWritten (mid b : Nat) (m : Bool) : (ringBtn s mid b m).optWritten = s.optWritten := ringBtn_apart apart_optWritten s mid b m
@[simp] theorem ringBtn_optDue (mid b : Nat) (m : Bool) : (ringBtn s mid b m).optDue = s.optDue := ringBtn_apart apart_optDue s mid b m
@[simp] theorem ringBtn_optWaited (mid b : Nat) (m : Bool) : (ringBtn s mid b m).optWaited = s.optWaited := ringBtn_apart apart_optWaited s mid b m
@[simp] theorem ringBtn_mirHeader (mid b : Nat) (m : Bool) : (ringBtn s mid b m).mirHeader = s.mirHeader := ringBtn_apart apart_mirHeader s mid b m
@[simp] theorem ringBtn_sealDue (mid b : Nat) (m : Bool) : (ringBtn s mid b m).sealDue = s.sealDue := ringBtn_apart apart_sealDue s mid b m
@[simp] theorem ringBtn_recov (mid b : Nat) (m : Bool) : (ringBtn s mid b m).recov = s.recov := ringBtn_apart apart_recov s mid b m
@[simp] theorem ringBtn_stepMsgs (mid b : Nat) (m : Bool) : (ringBtn s mid b m).stepMsgs = s.stepMsgs := ringBtn_apart apart_stepMsgs s mid b m
@[simp] theorem ringBtn_rails (mid b : Nat) (m : Bool) : (ringBtn s mid b m).rails = s.rails := ringBtn_apart apart_rails s mid b m
@[simp] theorem ringBtn_mnt (mid b : Nat) (m : Bool) : (ringBtn s mid b m).mnt = s.mnt := ringBtn_apart apart_mnt s mid b m
@[simp] theorem ringBtn_cp (mid b : Nat) (m : Bool) : (ringBtn s mid b m).cp = s.cp := ringBtn_apart apart_cp s mid b m
@[simp] theorem ringBtn_svc (mid b : Nat) (m : Bool) : (ringBtn s mid b m).svc = s.svc := ringBtn_apart apart_svc s mid b m
@[simp] theorem ringBtn_bist (mid b : Nat) (m : Bool) : (ringBtn s mid b m).bist = s.bist := ringBtn_apart apart_bist s mid b m
@[simp] theorem ringBtn_ticks (mid b : Nat) (m : Bool) : (ringBtn s mid b m).ticks = s.ticks := ringBtn_apart apart_ticks s mid b m
@[simp] theorem ringBtn_trace (mid b : Nat) (m : Bool) : (ringBtn s mid b m).trace = s.trace := ringBtn_apart apart_trace s mid b m
@[simp] theorem ringBtn_resp (mid b : Nat) (m : Bool) : (ringBtn s mid b m).resp = s.resp := ringBtn_apart apart_resp s mid b m
@[simp] theorem ringBtn_free (mid b : Nat) (m : Bool) : (ringBtn s mid b m).free = s.free := ringBtn_apart apart_free s mid b m

@[simp] theorem raiseEvt_ctxs (page b : Nat) : (raiseEvt s page b).ctxs = s.ctxs := raiseEvt_apart apart_ctxs s page b
@[simp] theorem raiseEvt_cores (page b : Nat) : (raiseEvt s page b).cores = s.cores := raiseEvt_apart apart_cores s page b
@[simp] theorem raiseEvt_fb (page b : Nat) : (raiseEvt s page b).fb = s.fb := raiseEvt_apart apart_fb s page b
@[simp] theorem raiseEvt_sync (page b : Nat) : (raiseEvt s page b).sync = s.sync := raiseEvt_apart apart_sync s page b
@[simp] theorem raiseEvt_slots (page b : Nat) : (raiseEvt s page b).slots = s.slots := raiseEvt_apart apart_slots s page b
@[simp] theorem raiseEvt_toYoke (page b : Nat) : (raiseEvt s page b).toYoke = s.toYoke := raiseEvt_apart apart_toYoke s page b
@[simp] theorem raiseEvt_yokeWaits (page b : Nat) : (raiseEvt s page b).yokeWaits = s.yokeWaits := raiseEvt_apart apart_yokeWaits s page b
@[simp] theorem raiseEvt_releases (page b : Nat) : (raiseEvt s page b).releases = s.releases := raiseEvt_apart apart_releases s page b
@[simp] theorem raiseEvt_orphans (page b : Nat) : (raiseEvt s page b).orphans = s.orphans := raiseEvt_apart apart_orphans s page b
@[simp] theorem raiseEvt_est (page b : Nat) : (raiseEvt s page b).est = s.est := raiseEvt_apart apart_est s page b
@[simp] theorem raiseEvt_hemStopped (page b : Nat) : (raiseEvt s page b).hemStopped = s.hemStopped := raiseEvt_apart apart_hemStopped s page b
@[simp] theorem raiseEvt_resync (page b : Nat) : (raiseEvt s page b).resync = s.resync := raiseEvt_apart apart_resync s page b
@[simp] theorem raiseEvt_breached (page b : Nat) : (raiseEvt s page b).breached = s.breached := raiseEvt_apart apart_breached s page b
@[simp] theorem raiseEvt_katPages (page b : Nat) : (raiseEvt s page b).katPages = s.katPages := raiseEvt_apart apart_katPages s page b
@[simp] theorem raiseEvt_srFailed (page b : Nat) : (raiseEvt s page b).srFailed = s.srFailed := raiseEvt_apart apart_srFailed s page b
@[simp] theorem raiseEvt_srSick (page b : Nat) : (raiseEvt s page b).srSick = s.srSick := raiseEvt_apart apart_srSick s page b
@[simp] theorem raiseEvt_banks (page b : Nat) : (raiseEvt s page b).banks = s.banks := raiseEvt_apart apart_banks s page b
@[simp] theorem raiseEvt_arbs (page b : Nat) : (raiseEvt s page b).arbs = s.arbs := raiseEvt_apart apart_arbs s page b
@[simp] theorem raiseEvt_fab (page b : Nat) : (raiseEvt s page b).fab = s.fab := raiseEvt_apart apart_fab s page b
@[simp] theorem raiseEvt_seamRejects (page b : Nat) : (raiseEvt s page b).seamRejects = s.seamRejects := raiseEvt_apart apart_seamRejects s page b
@[simp] theorem raiseEvt_seamTests (page b : Nat) : (raiseEvt s page b).seamTests = s.seamTests := raiseEvt_apart apart_seamTests s page b
@[simp] theorem raiseEvt_partners (page b : Nat) : (raiseEvt s page b).partners = s.partners := raiseEvt_apart apart_partners s page b
@[simp] theorem raiseEvt_groups (page b : Nat) : (raiseEvt s page b).groups = s.groups := raiseEvt_apart apart_groups s page b
@[simp] theorem raiseEvt_linkSecret (page b : Nat) : (raiseEvt s page b).linkSecret = s.linkSecret := raiseEvt_apart apart_linkSecret s page b
@[simp] theorem raiseEvt_toEngine (page b : Nat) : (raiseEvt s page b).toEngine = s.toEngine := raiseEvt_apart apart_toEngine s page b
@[simp] theorem raiseEvt_outbox (page b : Nat) : (raiseEvt s page b).outbox = s.outbox := raiseEvt_apart apart_outbox s page b
@[simp] theorem raiseEvt_wire (page b : Nat) : (raiseEvt s page b).wire = s.wire := raiseEvt_apart apart_wire s page b
@[simp] theorem raiseEvt_wireHeld (page b : Nat) : (raiseEvt s page b).wireHeld = s.wireHeld := raiseEvt_apart apart_wireHeld s page b
@[simp] theorem raiseEvt_drr (page b : Nat) : (raiseEvt s page b).drr = s.drr := raiseEvt_apart apart_drr s page b
@[simp] theorem raiseEvt_hellos (page b : Nat) : (raiseEvt s page b).hellos = s.hellos := raiseEvt_apart apart_hellos s page b
@[simp] theorem raiseEvt_portCoef (page b : Nat) : (raiseEvt s page b).portCoef = s.portCoef := raiseEvt_apart apart_portCoef s page b
@[simp] theorem raiseEvt_trainFails (page b : Nat) : (raiseEvt s page b).trainFails = s.trainFails := raiseEvt_apart apart_trainFails s page b
@[simp] theorem raiseEvt_portDisabled (page b : Nat) : (raiseEvt s page b).portDisabled = s.portDisabled := raiseEvt_apart apart_portDisabled s page b
@[simp] theorem raiseEvt_coll (page b : Nat) : (raiseEvt s page b).coll = s.coll := raiseEvt_apart apart_coll s page b
@[simp] theorem raiseEvt_collNext (page b : Nat) : (raiseEvt s page b).collNext = s.collNext := raiseEvt_apart apart_collNext s page b
@[simp] theorem raiseEvt_closing (page b : Nat) : (raiseEvt s page b).closing = s.closing := raiseEvt_apart apart_closing s page b
@[simp] theorem raiseEvt_optWritten (page b : Nat) : (raiseEvt s page b).optWritten = s.optWritten := raiseEvt_apart apart_optWritten s page b
@[simp] theorem raiseEvt_optDue (page b : Nat) : (raiseEvt s page b).optDue = s.optDue := raiseEvt_apart apart_optDue s page b
@[simp] theorem raiseEvt_optWaited (page b : Nat) : (raiseEvt s page b).optWaited = s.optWaited := raiseEvt_apart apart_optWaited s page b
@[simp] theorem raiseEvt_mirHeader (page b : Nat) : (raiseEvt s page b).mirHeader = s.mirHeader := raiseEvt_apart apart_mirHeader s page b
@[simp] theorem raiseEvt_sealDue (page b : Nat) : (raiseEvt s page b).sealDue = s.sealDue := raiseEvt_apart apart_sealDue s page b
@[simp] theorem raiseEvt_recov (page b : Nat) : (raiseEvt s page b).recov = s.recov := raiseEvt_apart apart_recov s page b
@[simp] theorem raiseEvt_stepMsgs (page b : Nat) : (raiseEvt s page b).stepMsgs = s.stepMsgs := raiseEvt_apart apart_stepMsgs s page b
@[simp] theorem raiseEvt_rails (page b : Nat) : (raiseEvt s page b).rails = s.rails := raiseEvt_apart apart_rails s page b
@[simp] theorem raiseEvt_mnt (page b : Nat) : (raiseEvt s page b).mnt = s.mnt := raiseEvt_apart apart_mnt s page b
@[simp] theorem raiseEvt_cp (page b : Nat) : (raiseEvt s page b).cp = s.cp := raiseEvt_apart apart_cp s page b
@[simp] theorem raiseEvt_svc (page b : Nat) : (raiseEvt s page b).svc = s.svc := raiseEvt_apart apart_svc s page b
@[simp] theorem raiseEvt_bist (page b : Nat) : (raiseEvt s page b).bist = s.bist := raiseEvt_apart apart_bist s page b
@[simp] theorem raiseEvt_ticks (page b : Nat) : (raiseEvt s page b).ticks = s.ticks := raiseEvt_apart apart_ticks s page b
@[simp] theorem raiseEvt_trace (page b : Nat) : (raiseEvt s page b).trace = s.trace := raiseEvt_apart apart_trace s page b
@[simp] theorem raiseEvt_resp (page b : Nat) : (raiseEvt s page b).resp = s.resp := raiseEvt_apart apart_resp s page b
@[simp] theorem raiseEvt_free (page b : Nat) : (raiseEvt s page b).free = s.free := raiseEvt_apart apart_free s page b

@[simp] theorem bumpN_ctxs (page off n : Nat) : (bumpN s page off n).ctxs = s.ctxs := bumpN_apart apart_ctxs s page off n
@[simp] theorem bumpN_cores (page off n : Nat) : (bumpN s page off n).cores = s.cores := bumpN_apart apart_cores s page off n
@[simp] theorem bumpN_fb (page off n : Nat) : (bumpN s page off n).fb = s.fb := bumpN_apart apart_fb s page off n
@[simp] theorem bumpN_sync (page off n : Nat) : (bumpN s page off n).sync = s.sync := bumpN_apart apart_sync s page off n
@[simp] theorem bumpN_slots (page off n : Nat) : (bumpN s page off n).slots = s.slots := bumpN_apart apart_slots s page off n
@[simp] theorem bumpN_toYoke (page off n : Nat) : (bumpN s page off n).toYoke = s.toYoke := bumpN_apart apart_toYoke s page off n
@[simp] theorem bumpN_yokeWaits (page off n : Nat) : (bumpN s page off n).yokeWaits = s.yokeWaits := bumpN_apart apart_yokeWaits s page off n
@[simp] theorem bumpN_releases (page off n : Nat) : (bumpN s page off n).releases = s.releases := bumpN_apart apart_releases s page off n
@[simp] theorem bumpN_orphans (page off n : Nat) : (bumpN s page off n).orphans = s.orphans := bumpN_apart apart_orphans s page off n
@[simp] theorem bumpN_est (page off n : Nat) : (bumpN s page off n).est = s.est := bumpN_apart apart_est s page off n
@[simp] theorem bumpN_hemStopped (page off n : Nat) : (bumpN s page off n).hemStopped = s.hemStopped := bumpN_apart apart_hemStopped s page off n
@[simp] theorem bumpN_resync (page off n : Nat) : (bumpN s page off n).resync = s.resync := bumpN_apart apart_resync s page off n
@[simp] theorem bumpN_breached (page off n : Nat) : (bumpN s page off n).breached = s.breached := bumpN_apart apart_breached s page off n
@[simp] theorem bumpN_katPages (page off n : Nat) : (bumpN s page off n).katPages = s.katPages := bumpN_apart apart_katPages s page off n
@[simp] theorem bumpN_srFailed (page off n : Nat) : (bumpN s page off n).srFailed = s.srFailed := bumpN_apart apart_srFailed s page off n
@[simp] theorem bumpN_srSick (page off n : Nat) : (bumpN s page off n).srSick = s.srSick := bumpN_apart apart_srSick s page off n
@[simp] theorem bumpN_banks (page off n : Nat) : (bumpN s page off n).banks = s.banks := bumpN_apart apart_banks s page off n
@[simp] theorem bumpN_arbs (page off n : Nat) : (bumpN s page off n).arbs = s.arbs := bumpN_apart apart_arbs s page off n
@[simp] theorem bumpN_fab (page off n : Nat) : (bumpN s page off n).fab = s.fab := bumpN_apart apart_fab s page off n
@[simp] theorem bumpN_seamRejects (page off n : Nat) : (bumpN s page off n).seamRejects = s.seamRejects := bumpN_apart apart_seamRejects s page off n
@[simp] theorem bumpN_seamTests (page off n : Nat) : (bumpN s page off n).seamTests = s.seamTests := bumpN_apart apart_seamTests s page off n
@[simp] theorem bumpN_partners (page off n : Nat) : (bumpN s page off n).partners = s.partners := bumpN_apart apart_partners s page off n
@[simp] theorem bumpN_groups (page off n : Nat) : (bumpN s page off n).groups = s.groups := bumpN_apart apart_groups s page off n
@[simp] theorem bumpN_linkSecret (page off n : Nat) : (bumpN s page off n).linkSecret = s.linkSecret := bumpN_apart apart_linkSecret s page off n
@[simp] theorem bumpN_toEngine (page off n : Nat) : (bumpN s page off n).toEngine = s.toEngine := bumpN_apart apart_toEngine s page off n
@[simp] theorem bumpN_outbox (page off n : Nat) : (bumpN s page off n).outbox = s.outbox := bumpN_apart apart_outbox s page off n
@[simp] theorem bumpN_wire (page off n : Nat) : (bumpN s page off n).wire = s.wire := bumpN_apart apart_wire s page off n
@[simp] theorem bumpN_wireHeld (page off n : Nat) : (bumpN s page off n).wireHeld = s.wireHeld := bumpN_apart apart_wireHeld s page off n
@[simp] theorem bumpN_drr (page off n : Nat) : (bumpN s page off n).drr = s.drr := bumpN_apart apart_drr s page off n
@[simp] theorem bumpN_hellos (page off n : Nat) : (bumpN s page off n).hellos = s.hellos := bumpN_apart apart_hellos s page off n
@[simp] theorem bumpN_portCoef (page off n : Nat) : (bumpN s page off n).portCoef = s.portCoef := bumpN_apart apart_portCoef s page off n
@[simp] theorem bumpN_trainFails (page off n : Nat) : (bumpN s page off n).trainFails = s.trainFails := bumpN_apart apart_trainFails s page off n
@[simp] theorem bumpN_portDisabled (page off n : Nat) : (bumpN s page off n).portDisabled = s.portDisabled := bumpN_apart apart_portDisabled s page off n
@[simp] theorem bumpN_coll (page off n : Nat) : (bumpN s page off n).coll = s.coll := bumpN_apart apart_coll s page off n
@[simp] theorem bumpN_collNext (page off n : Nat) : (bumpN s page off n).collNext = s.collNext := bumpN_apart apart_collNext s page off n
@[simp] theorem bumpN_closing (page off n : Nat) : (bumpN s page off n).closing = s.closing := bumpN_apart apart_closing s page off n
@[simp] theorem bumpN_optWritten (page off n : Nat) : (bumpN s page off n).optWritten = s.optWritten := bumpN_apart apart_optWritten s page off n
@[simp] theorem bumpN_optDue (page off n : Nat) : (bumpN s page off n).optDue = s.optDue := bumpN_apart apart_optDue s page off n
@[simp] theorem bumpN_optWaited (page off n : Nat) : (bumpN s page off n).optWaited = s.optWaited := bumpN_apart apart_optWaited s page off n
@[simp] theorem bumpN_mirHeader (page off n : Nat) : (bumpN s page off n).mirHeader = s.mirHeader := bumpN_apart apart_mirHeader s page off n
@[simp] theorem bumpN_sealDue (page off n : Nat) : (bumpN s page off n).sealDue = s.sealDue := bumpN_apart apart_sealDue s page off n
@[simp] theorem bumpN_recov (page off n : Nat) : (bumpN s page off n).recov = s.recov := bumpN_apart apart_recov s page off n
@[simp] theorem bumpN_stepMsgs (page off n : Nat) : (bumpN s page off n).stepMsgs = s.stepMsgs := bumpN_apart apart_stepMsgs s page off n
@[simp] theorem bumpN_rails (page off n : Nat) : (bumpN s page off n).rails = s.rails := bumpN_apart apart_rails s page off n
@[simp] theorem bumpN_mnt (page off n : Nat) : (bumpN s page off n).mnt = s.mnt := bumpN_apart apart_mnt s page off n
@[simp] theorem bumpN_cp (page off n : Nat) : (bumpN s page off n).cp = s.cp := bumpN_apart apart_cp s page off n
@[simp] theorem bumpN_svc (page off n : Nat) : (bumpN s page off n).svc = s.svc := bumpN_apart apart_svc s page off n
@[simp] theorem bumpN_bist (page off n : Nat) : (bumpN s page off n).bist = s.bist := bumpN_apart apart_bist s page off n
@[simp] theorem bumpN_ticks (page off n : Nat) : (bumpN s page off n).ticks = s.ticks := bumpN_apart apart_ticks s page off n
@[simp] theorem bumpN_trace (page off n : Nat) : (bumpN s page off n).trace = s.trace := bumpN_apart apart_trace s page off n
@[simp] theorem bumpN_resp (page off n : Nat) : (bumpN s page off n).resp = s.resp := bumpN_apart apart_resp s page off n
@[simp] theorem bumpN_free (page off n : Nat) : (bumpN s page off n).free = s.free := bumpN_apart apart_free s page off n

@[simp] theorem bump_ctxs (page off : Nat) : (bump s page off).ctxs = s.ctxs := bump_apart apart_ctxs s page off
@[simp] theorem bump_cores (page off : Nat) : (bump s page off).cores = s.cores := bump_apart apart_cores s page off
@[simp] theorem bump_fb (page off : Nat) : (bump s page off).fb = s.fb := bump_apart apart_fb s page off
@[simp] theorem bump_sync (page off : Nat) : (bump s page off).sync = s.sync := bump_apart apart_sync s page off
@[simp] theorem bump_slots (page off : Nat) : (bump s page off).slots = s.slots := bump_apart apart_slots s page off
@[simp] theorem bump_toYoke (page off : Nat) : (bump s page off).toYoke = s.toYoke := bump_apart apart_toYoke s page off
@[simp] theorem bump_yokeWaits (page off : Nat) : (bump s page off).yokeWaits = s.yokeWaits := bump_apart apart_yokeWaits s page off
@[simp] theorem bump_releases (page off : Nat) : (bump s page off).releases = s.releases := bump_apart apart_releases s page off
@[simp] theorem bump_orphans (page off : Nat) : (bump s page off).orphans = s.orphans := bump_apart apart_orphans s page off
@[simp] theorem bump_est (page off : Nat) : (bump s page off).est = s.est := bump_apart apart_est s page off
@[simp] theorem bump_hemStopped (page off : Nat) : (bump s page off).hemStopped = s.hemStopped := bump_apart apart_hemStopped s page off
@[simp] theorem bump_resync (page off : Nat) : (bump s page off).resync = s.resync := bump_apart apart_resync s page off
@[simp] theorem bump_breached (page off : Nat) : (bump s page off).breached = s.breached := bump_apart apart_breached s page off
@[simp] theorem bump_katPages (page off : Nat) : (bump s page off).katPages = s.katPages := bump_apart apart_katPages s page off
@[simp] theorem bump_srFailed (page off : Nat) : (bump s page off).srFailed = s.srFailed := bump_apart apart_srFailed s page off
@[simp] theorem bump_srSick (page off : Nat) : (bump s page off).srSick = s.srSick := bump_apart apart_srSick s page off
@[simp] theorem bump_banks (page off : Nat) : (bump s page off).banks = s.banks := bump_apart apart_banks s page off
@[simp] theorem bump_arbs (page off : Nat) : (bump s page off).arbs = s.arbs := bump_apart apart_arbs s page off
@[simp] theorem bump_fab (page off : Nat) : (bump s page off).fab = s.fab := bump_apart apart_fab s page off
@[simp] theorem bump_seamRejects (page off : Nat) : (bump s page off).seamRejects = s.seamRejects := bump_apart apart_seamRejects s page off
@[simp] theorem bump_seamTests (page off : Nat) : (bump s page off).seamTests = s.seamTests := bump_apart apart_seamTests s page off
@[simp] theorem bump_partners (page off : Nat) : (bump s page off).partners = s.partners := bump_apart apart_partners s page off
@[simp] theorem bump_groups (page off : Nat) : (bump s page off).groups = s.groups := bump_apart apart_groups s page off
@[simp] theorem bump_linkSecret (page off : Nat) : (bump s page off).linkSecret = s.linkSecret := bump_apart apart_linkSecret s page off
@[simp] theorem bump_toEngine (page off : Nat) : (bump s page off).toEngine = s.toEngine := bump_apart apart_toEngine s page off
@[simp] theorem bump_outbox (page off : Nat) : (bump s page off).outbox = s.outbox := bump_apart apart_outbox s page off
@[simp] theorem bump_wire (page off : Nat) : (bump s page off).wire = s.wire := bump_apart apart_wire s page off
@[simp] theorem bump_wireHeld (page off : Nat) : (bump s page off).wireHeld = s.wireHeld := bump_apart apart_wireHeld s page off
@[simp] theorem bump_drr (page off : Nat) : (bump s page off).drr = s.drr := bump_apart apart_drr s page off
@[simp] theorem bump_hellos (page off : Nat) : (bump s page off).hellos = s.hellos := bump_apart apart_hellos s page off
@[simp] theorem bump_portCoef (page off : Nat) : (bump s page off).portCoef = s.portCoef := bump_apart apart_portCoef s page off
@[simp] theorem bump_trainFails (page off : Nat) : (bump s page off).trainFails = s.trainFails := bump_apart apart_trainFails s page off
@[simp] theorem bump_portDisabled (page off : Nat) : (bump s page off).portDisabled = s.portDisabled := bump_apart apart_portDisabled s page off
@[simp] theorem bump_coll (page off : Nat) : (bump s page off).coll = s.coll := bump_apart apart_coll s page off
@[simp] theorem bump_collNext (page off : Nat) : (bump s page off).collNext = s.collNext := bump_apart apart_collNext s page off
@[simp] theorem bump_closing (page off : Nat) : (bump s page off).closing = s.closing := bump_apart apart_closing s page off
@[simp] theorem bump_optWritten (page off : Nat) : (bump s page off).optWritten = s.optWritten := bump_apart apart_optWritten s page off
@[simp] theorem bump_optDue (page off : Nat) : (bump s page off).optDue = s.optDue := bump_apart apart_optDue s page off
@[simp] theorem bump_optWaited (page off : Nat) : (bump s page off).optWaited = s.optWaited := bump_apart apart_optWaited s page off
@[simp] theorem bump_mirHeader (page off : Nat) : (bump s page off).mirHeader = s.mirHeader := bump_apart apart_mirHeader s page off
@[simp] theorem bump_sealDue (page off : Nat) : (bump s page off).sealDue = s.sealDue := bump_apart apart_sealDue s page off
@[simp] theorem bump_recov (page off : Nat) : (bump s page off).recov = s.recov := bump_apart apart_recov s page off
@[simp] theorem bump_stepMsgs (page off : Nat) : (bump s page off).stepMsgs = s.stepMsgs := bump_apart apart_stepMsgs s page off
@[simp] theorem bump_rails (page off : Nat) : (bump s page off).rails = s.rails := bump_apart apart_rails s page off
@[simp] theorem bump_mnt (page off : Nat) : (bump s page off).mnt = s.mnt := bump_apart apart_mnt s page off
@[simp] theorem bump_cp (page off : Nat) : (bump s page off).cp = s.cp := bump_apart apart_cp s page off
@[simp] theorem bump_svc (page off : Nat) : (bump s page off).svc = s.svc := bump_apart apart_svc s page off
@[simp] theorem bump_bist (page off : Nat) : (bump s page off).bist = s.bist := bump_apart apart_bist s page off
@[simp] theorem bump_ticks (page off : Nat) : (bump s page off).ticks = s.ticks := bump_apart apart_ticks s page off
@[simp] theorem bump_trace (page off : Nat) : (bump s page off).trace = s.trace := bump_apart apart_trace s page off
@[simp] theorem bump_resp (page off : Nat) : (bump s page off).resp = s.resp := bump_apart apart_resp s page off
@[simp] theorem bump_free (page off : Nat) : (bump s page off).free = s.free := bump_apart apart_free s page off

@[simp] theorem bumpHdr_ctxs (page off : Nat) : (bumpHdr s page off).ctxs = s.ctxs := bumpHdr_apart apart_ctxs s page off
@[simp] theorem bumpHdr_cores (page off : Nat) : (bumpHdr s page off).cores = s.cores := bumpHdr_apart apart_cores s page off
@[simp] theorem bumpHdr_fb (page off : Nat) : (bumpHdr s page off).fb = s.fb := bumpHdr_apart apart_fb s page off
@[simp] theorem bumpHdr_sync (page off : Nat) : (bumpHdr s page off).sync = s.sync := bumpHdr_apart apart_sync s page off
@[simp] theorem bumpHdr_slots (page off : Nat) : (bumpHdr s page off).slots = s.slots := bumpHdr_apart apart_slots s page off
@[simp] theorem bumpHdr_toYoke (page off : Nat) : (bumpHdr s page off).toYoke = s.toYoke := bumpHdr_apart apart_toYoke s page off
@[simp] theorem bumpHdr_yokeWaits (page off : Nat) : (bumpHdr s page off).yokeWaits = s.yokeWaits := bumpHdr_apart apart_yokeWaits s page off
@[simp] theorem bumpHdr_releases (page off : Nat) : (bumpHdr s page off).releases = s.releases := bumpHdr_apart apart_releases s page off
@[simp] theorem bumpHdr_orphans (page off : Nat) : (bumpHdr s page off).orphans = s.orphans := bumpHdr_apart apart_orphans s page off
@[simp] theorem bumpHdr_est (page off : Nat) : (bumpHdr s page off).est = s.est := bumpHdr_apart apart_est s page off
@[simp] theorem bumpHdr_hemStopped (page off : Nat) : (bumpHdr s page off).hemStopped = s.hemStopped := bumpHdr_apart apart_hemStopped s page off
@[simp] theorem bumpHdr_resync (page off : Nat) : (bumpHdr s page off).resync = s.resync := bumpHdr_apart apart_resync s page off
@[simp] theorem bumpHdr_breached (page off : Nat) : (bumpHdr s page off).breached = s.breached := bumpHdr_apart apart_breached s page off
@[simp] theorem bumpHdr_katPages (page off : Nat) : (bumpHdr s page off).katPages = s.katPages := bumpHdr_apart apart_katPages s page off
@[simp] theorem bumpHdr_srFailed (page off : Nat) : (bumpHdr s page off).srFailed = s.srFailed := bumpHdr_apart apart_srFailed s page off
@[simp] theorem bumpHdr_srSick (page off : Nat) : (bumpHdr s page off).srSick = s.srSick := bumpHdr_apart apart_srSick s page off
@[simp] theorem bumpHdr_banks (page off : Nat) : (bumpHdr s page off).banks = s.banks := bumpHdr_apart apart_banks s page off
@[simp] theorem bumpHdr_arbs (page off : Nat) : (bumpHdr s page off).arbs = s.arbs := bumpHdr_apart apart_arbs s page off
@[simp] theorem bumpHdr_fab (page off : Nat) : (bumpHdr s page off).fab = s.fab := bumpHdr_apart apart_fab s page off
@[simp] theorem bumpHdr_seamRejects (page off : Nat) : (bumpHdr s page off).seamRejects = s.seamRejects := bumpHdr_apart apart_seamRejects s page off
@[simp] theorem bumpHdr_seamTests (page off : Nat) : (bumpHdr s page off).seamTests = s.seamTests := bumpHdr_apart apart_seamTests s page off
@[simp] theorem bumpHdr_partners (page off : Nat) : (bumpHdr s page off).partners = s.partners := bumpHdr_apart apart_partners s page off
@[simp] theorem bumpHdr_groups (page off : Nat) : (bumpHdr s page off).groups = s.groups := bumpHdr_apart apart_groups s page off
@[simp] theorem bumpHdr_linkSecret (page off : Nat) : (bumpHdr s page off).linkSecret = s.linkSecret := bumpHdr_apart apart_linkSecret s page off
@[simp] theorem bumpHdr_toEngine (page off : Nat) : (bumpHdr s page off).toEngine = s.toEngine := bumpHdr_apart apart_toEngine s page off
@[simp] theorem bumpHdr_outbox (page off : Nat) : (bumpHdr s page off).outbox = s.outbox := bumpHdr_apart apart_outbox s page off
@[simp] theorem bumpHdr_wire (page off : Nat) : (bumpHdr s page off).wire = s.wire := bumpHdr_apart apart_wire s page off
@[simp] theorem bumpHdr_wireHeld (page off : Nat) : (bumpHdr s page off).wireHeld = s.wireHeld := bumpHdr_apart apart_wireHeld s page off
@[simp] theorem bumpHdr_drr (page off : Nat) : (bumpHdr s page off).drr = s.drr := bumpHdr_apart apart_drr s page off
@[simp] theorem bumpHdr_hellos (page off : Nat) : (bumpHdr s page off).hellos = s.hellos := bumpHdr_apart apart_hellos s page off
@[simp] theorem bumpHdr_portCoef (page off : Nat) : (bumpHdr s page off).portCoef = s.portCoef := bumpHdr_apart apart_portCoef s page off
@[simp] theorem bumpHdr_trainFails (page off : Nat) : (bumpHdr s page off).trainFails = s.trainFails := bumpHdr_apart apart_trainFails s page off
@[simp] theorem bumpHdr_portDisabled (page off : Nat) : (bumpHdr s page off).portDisabled = s.portDisabled := bumpHdr_apart apart_portDisabled s page off
@[simp] theorem bumpHdr_coll (page off : Nat) : (bumpHdr s page off).coll = s.coll := bumpHdr_apart apart_coll s page off
@[simp] theorem bumpHdr_collNext (page off : Nat) : (bumpHdr s page off).collNext = s.collNext := bumpHdr_apart apart_collNext s page off
@[simp] theorem bumpHdr_closing (page off : Nat) : (bumpHdr s page off).closing = s.closing := bumpHdr_apart apart_closing s page off
@[simp] theorem bumpHdr_optWritten (page off : Nat) : (bumpHdr s page off).optWritten = s.optWritten := bumpHdr_apart apart_optWritten s page off
@[simp] theorem bumpHdr_optDue (page off : Nat) : (bumpHdr s page off).optDue = s.optDue := bumpHdr_apart apart_optDue s page off
@[simp] theorem bumpHdr_optWaited (page off : Nat) : (bumpHdr s page off).optWaited = s.optWaited := bumpHdr_apart apart_optWaited s page off
@[simp] theorem bumpHdr_mirHeader (page off : Nat) : (bumpHdr s page off).mirHeader = s.mirHeader := bumpHdr_apart apart_mirHeader s page off
@[simp] theorem bumpHdr_sealDue (page off : Nat) : (bumpHdr s page off).sealDue = s.sealDue := bumpHdr_apart apart_sealDue s page off
@[simp] theorem bumpHdr_recov (page off : Nat) : (bumpHdr s page off).recov = s.recov := bumpHdr_apart apart_recov s page off
@[simp] theorem bumpHdr_stepMsgs (page off : Nat) : (bumpHdr s page off).stepMsgs = s.stepMsgs := bumpHdr_apart apart_stepMsgs s page off
@[simp] theorem bumpHdr_rails (page off : Nat) : (bumpHdr s page off).rails = s.rails := bumpHdr_apart apart_rails s page off
@[simp] theorem bumpHdr_mnt (page off : Nat) : (bumpHdr s page off).mnt = s.mnt := bumpHdr_apart apart_mnt s page off
@[simp] theorem bumpHdr_cp (page off : Nat) : (bumpHdr s page off).cp = s.cp := bumpHdr_apart apart_cp s page off
@[simp] theorem bumpHdr_svc (page off : Nat) : (bumpHdr s page off).svc = s.svc := bumpHdr_apart apart_svc s page off
@[simp] theorem bumpHdr_bist (page off : Nat) : (bumpHdr s page off).bist = s.bist := bumpHdr_apart apart_bist s page off
@[simp] theorem bumpHdr_ticks (page off : Nat) : (bumpHdr s page off).ticks = s.ticks := bumpHdr_apart apart_ticks s page off
@[simp] theorem bumpHdr_trace (page off : Nat) : (bumpHdr s page off).trace = s.trace := bumpHdr_apart apart_trace s page off
@[simp] theorem bumpHdr_resp (page off : Nat) : (bumpHdr s page off).resp = s.resp := bumpHdr_apart apart_resp s page off
@[simp] theorem bumpHdr_free (page off : Nat) : (bumpHdr s page off).free = s.free := bumpHdr_apart apart_free s page off

@[simp] theorem reportErr_ctxs (page code : Nat) (addr : Word) : (reportErr s page code addr).ctxs = s.ctxs := reportErr_apart apart_ctxs s page code addr
@[simp] theorem reportErr_cores (page code : Nat) (addr : Word) : (reportErr s page code addr).cores = s.cores := reportErr_apart apart_cores s page code addr
@[simp] theorem reportErr_fb (page code : Nat) (addr : Word) : (reportErr s page code addr).fb = s.fb := reportErr_apart apart_fb s page code addr
@[simp] theorem reportErr_sync (page code : Nat) (addr : Word) : (reportErr s page code addr).sync = s.sync := reportErr_apart apart_sync s page code addr
@[simp] theorem reportErr_slots (page code : Nat) (addr : Word) : (reportErr s page code addr).slots = s.slots := reportErr_apart apart_slots s page code addr
@[simp] theorem reportErr_toYoke (page code : Nat) (addr : Word) : (reportErr s page code addr).toYoke = s.toYoke := reportErr_apart apart_toYoke s page code addr
@[simp] theorem reportErr_yokeWaits (page code : Nat) (addr : Word) : (reportErr s page code addr).yokeWaits = s.yokeWaits := reportErr_apart apart_yokeWaits s page code addr
@[simp] theorem reportErr_releases (page code : Nat) (addr : Word) : (reportErr s page code addr).releases = s.releases := reportErr_apart apart_releases s page code addr
@[simp] theorem reportErr_orphans (page code : Nat) (addr : Word) : (reportErr s page code addr).orphans = s.orphans := reportErr_apart apart_orphans s page code addr
@[simp] theorem reportErr_est (page code : Nat) (addr : Word) : (reportErr s page code addr).est = s.est := reportErr_apart apart_est s page code addr
@[simp] theorem reportErr_hemStopped (page code : Nat) (addr : Word) : (reportErr s page code addr).hemStopped = s.hemStopped := reportErr_apart apart_hemStopped s page code addr
@[simp] theorem reportErr_resync (page code : Nat) (addr : Word) : (reportErr s page code addr).resync = s.resync := reportErr_apart apart_resync s page code addr
@[simp] theorem reportErr_breached (page code : Nat) (addr : Word) : (reportErr s page code addr).breached = s.breached := reportErr_apart apart_breached s page code addr
@[simp] theorem reportErr_katPages (page code : Nat) (addr : Word) : (reportErr s page code addr).katPages = s.katPages := reportErr_apart apart_katPages s page code addr
@[simp] theorem reportErr_srFailed (page code : Nat) (addr : Word) : (reportErr s page code addr).srFailed = s.srFailed := reportErr_apart apart_srFailed s page code addr
@[simp] theorem reportErr_srSick (page code : Nat) (addr : Word) : (reportErr s page code addr).srSick = s.srSick := reportErr_apart apart_srSick s page code addr
@[simp] theorem reportErr_banks (page code : Nat) (addr : Word) : (reportErr s page code addr).banks = s.banks := reportErr_apart apart_banks s page code addr
@[simp] theorem reportErr_arbs (page code : Nat) (addr : Word) : (reportErr s page code addr).arbs = s.arbs := reportErr_apart apart_arbs s page code addr
@[simp] theorem reportErr_fab (page code : Nat) (addr : Word) : (reportErr s page code addr).fab = s.fab := reportErr_apart apart_fab s page code addr
@[simp] theorem reportErr_seamRejects (page code : Nat) (addr : Word) : (reportErr s page code addr).seamRejects = s.seamRejects := reportErr_apart apart_seamRejects s page code addr
@[simp] theorem reportErr_seamTests (page code : Nat) (addr : Word) : (reportErr s page code addr).seamTests = s.seamTests := reportErr_apart apart_seamTests s page code addr
@[simp] theorem reportErr_partners (page code : Nat) (addr : Word) : (reportErr s page code addr).partners = s.partners := reportErr_apart apart_partners s page code addr
@[simp] theorem reportErr_groups (page code : Nat) (addr : Word) : (reportErr s page code addr).groups = s.groups := reportErr_apart apart_groups s page code addr
@[simp] theorem reportErr_linkSecret (page code : Nat) (addr : Word) : (reportErr s page code addr).linkSecret = s.linkSecret := reportErr_apart apart_linkSecret s page code addr
@[simp] theorem reportErr_toEngine (page code : Nat) (addr : Word) : (reportErr s page code addr).toEngine = s.toEngine := reportErr_apart apart_toEngine s page code addr
@[simp] theorem reportErr_outbox (page code : Nat) (addr : Word) : (reportErr s page code addr).outbox = s.outbox := reportErr_apart apart_outbox s page code addr
@[simp] theorem reportErr_wire (page code : Nat) (addr : Word) : (reportErr s page code addr).wire = s.wire := reportErr_apart apart_wire s page code addr
@[simp] theorem reportErr_wireHeld (page code : Nat) (addr : Word) : (reportErr s page code addr).wireHeld = s.wireHeld := reportErr_apart apart_wireHeld s page code addr
@[simp] theorem reportErr_drr (page code : Nat) (addr : Word) : (reportErr s page code addr).drr = s.drr := reportErr_apart apart_drr s page code addr
@[simp] theorem reportErr_hellos (page code : Nat) (addr : Word) : (reportErr s page code addr).hellos = s.hellos := reportErr_apart apart_hellos s page code addr
@[simp] theorem reportErr_portCoef (page code : Nat) (addr : Word) : (reportErr s page code addr).portCoef = s.portCoef := reportErr_apart apart_portCoef s page code addr
@[simp] theorem reportErr_trainFails (page code : Nat) (addr : Word) : (reportErr s page code addr).trainFails = s.trainFails := reportErr_apart apart_trainFails s page code addr
@[simp] theorem reportErr_portDisabled (page code : Nat) (addr : Word) : (reportErr s page code addr).portDisabled = s.portDisabled := reportErr_apart apart_portDisabled s page code addr
@[simp] theorem reportErr_coll (page code : Nat) (addr : Word) : (reportErr s page code addr).coll = s.coll := reportErr_apart apart_coll s page code addr
@[simp] theorem reportErr_collNext (page code : Nat) (addr : Word) : (reportErr s page code addr).collNext = s.collNext := reportErr_apart apart_collNext s page code addr
@[simp] theorem reportErr_closing (page code : Nat) (addr : Word) : (reportErr s page code addr).closing = s.closing := reportErr_apart apart_closing s page code addr
@[simp] theorem reportErr_optWritten (page code : Nat) (addr : Word) : (reportErr s page code addr).optWritten = s.optWritten := reportErr_apart apart_optWritten s page code addr
@[simp] theorem reportErr_optDue (page code : Nat) (addr : Word) : (reportErr s page code addr).optDue = s.optDue := reportErr_apart apart_optDue s page code addr
@[simp] theorem reportErr_optWaited (page code : Nat) (addr : Word) : (reportErr s page code addr).optWaited = s.optWaited := reportErr_apart apart_optWaited s page code addr
@[simp] theorem reportErr_mirHeader (page code : Nat) (addr : Word) : (reportErr s page code addr).mirHeader = s.mirHeader := reportErr_apart apart_mirHeader s page code addr
@[simp] theorem reportErr_sealDue (page code : Nat) (addr : Word) : (reportErr s page code addr).sealDue = s.sealDue := reportErr_apart apart_sealDue s page code addr
@[simp] theorem reportErr_recov (page code : Nat) (addr : Word) : (reportErr s page code addr).recov = s.recov := reportErr_apart apart_recov s page code addr
@[simp] theorem reportErr_stepMsgs (page code : Nat) (addr : Word) : (reportErr s page code addr).stepMsgs = s.stepMsgs := reportErr_apart apart_stepMsgs s page code addr
@[simp] theorem reportErr_rails (page code : Nat) (addr : Word) : (reportErr s page code addr).rails = s.rails := reportErr_apart apart_rails s page code addr
@[simp] theorem reportErr_mnt (page code : Nat) (addr : Word) : (reportErr s page code addr).mnt = s.mnt := reportErr_apart apart_mnt s page code addr
@[simp] theorem reportErr_cp (page code : Nat) (addr : Word) : (reportErr s page code addr).cp = s.cp := reportErr_apart apart_cp s page code addr
@[simp] theorem reportErr_svc (page code : Nat) (addr : Word) : (reportErr s page code addr).svc = s.svc := reportErr_apart apart_svc s page code addr
@[simp] theorem reportErr_bist (page code : Nat) (addr : Word) : (reportErr s page code addr).bist = s.bist := reportErr_apart apart_bist s page code addr
@[simp] theorem reportErr_ticks (page code : Nat) (addr : Word) : (reportErr s page code addr).ticks = s.ticks := reportErr_apart apart_ticks s page code addr
@[simp] theorem reportErr_trace (page code : Nat) (addr : Word) : (reportErr s page code addr).trace = s.trace := reportErr_apart apart_trace s page code addr
@[simp] theorem reportErr_resp (page code : Nat) (addr : Word) : (reportErr s page code addr).resp = s.resp := reportErr_apart apart_resp s page code addr
@[simp] theorem reportErr_free (page code : Nat) (addr : Word) : (reportErr s page code addr).free = s.free := reportErr_apart apart_free s page code addr

@[simp] theorem setDegraded_ctxs (page b : Nat) : (setDegraded s page b).ctxs = s.ctxs := setDegraded_apart apart_ctxs s page b
@[simp] theorem setDegraded_cores (page b : Nat) : (setDegraded s page b).cores = s.cores := setDegraded_apart apart_cores s page b
@[simp] theorem setDegraded_fb (page b : Nat) : (setDegraded s page b).fb = s.fb := setDegraded_apart apart_fb s page b
@[simp] theorem setDegraded_sync (page b : Nat) : (setDegraded s page b).sync = s.sync := setDegraded_apart apart_sync s page b
@[simp] theorem setDegraded_slots (page b : Nat) : (setDegraded s page b).slots = s.slots := setDegraded_apart apart_slots s page b
@[simp] theorem setDegraded_toYoke (page b : Nat) : (setDegraded s page b).toYoke = s.toYoke := setDegraded_apart apart_toYoke s page b
@[simp] theorem setDegraded_yokeWaits (page b : Nat) : (setDegraded s page b).yokeWaits = s.yokeWaits := setDegraded_apart apart_yokeWaits s page b
@[simp] theorem setDegraded_releases (page b : Nat) : (setDegraded s page b).releases = s.releases := setDegraded_apart apart_releases s page b
@[simp] theorem setDegraded_orphans (page b : Nat) : (setDegraded s page b).orphans = s.orphans := setDegraded_apart apart_orphans s page b
@[simp] theorem setDegraded_est (page b : Nat) : (setDegraded s page b).est = s.est := setDegraded_apart apart_est s page b
@[simp] theorem setDegraded_hemStopped (page b : Nat) : (setDegraded s page b).hemStopped = s.hemStopped := setDegraded_apart apart_hemStopped s page b
@[simp] theorem setDegraded_resync (page b : Nat) : (setDegraded s page b).resync = s.resync := setDegraded_apart apart_resync s page b
@[simp] theorem setDegraded_breached (page b : Nat) : (setDegraded s page b).breached = s.breached := setDegraded_apart apart_breached s page b
@[simp] theorem setDegraded_katPages (page b : Nat) : (setDegraded s page b).katPages = s.katPages := setDegraded_apart apart_katPages s page b
@[simp] theorem setDegraded_srFailed (page b : Nat) : (setDegraded s page b).srFailed = s.srFailed := setDegraded_apart apart_srFailed s page b
@[simp] theorem setDegraded_srSick (page b : Nat) : (setDegraded s page b).srSick = s.srSick := setDegraded_apart apart_srSick s page b
@[simp] theorem setDegraded_banks (page b : Nat) : (setDegraded s page b).banks = s.banks := setDegraded_apart apart_banks s page b
@[simp] theorem setDegraded_arbs (page b : Nat) : (setDegraded s page b).arbs = s.arbs := setDegraded_apart apart_arbs s page b
@[simp] theorem setDegraded_fab (page b : Nat) : (setDegraded s page b).fab = s.fab := setDegraded_apart apart_fab s page b
@[simp] theorem setDegraded_seamRejects (page b : Nat) : (setDegraded s page b).seamRejects = s.seamRejects := setDegraded_apart apart_seamRejects s page b
@[simp] theorem setDegraded_seamTests (page b : Nat) : (setDegraded s page b).seamTests = s.seamTests := setDegraded_apart apart_seamTests s page b
@[simp] theorem setDegraded_partners (page b : Nat) : (setDegraded s page b).partners = s.partners := setDegraded_apart apart_partners s page b
@[simp] theorem setDegraded_groups (page b : Nat) : (setDegraded s page b).groups = s.groups := setDegraded_apart apart_groups s page b
@[simp] theorem setDegraded_linkSecret (page b : Nat) : (setDegraded s page b).linkSecret = s.linkSecret := setDegraded_apart apart_linkSecret s page b
@[simp] theorem setDegraded_toEngine (page b : Nat) : (setDegraded s page b).toEngine = s.toEngine := setDegraded_apart apart_toEngine s page b
@[simp] theorem setDegraded_outbox (page b : Nat) : (setDegraded s page b).outbox = s.outbox := setDegraded_apart apart_outbox s page b
@[simp] theorem setDegraded_wire (page b : Nat) : (setDegraded s page b).wire = s.wire := setDegraded_apart apart_wire s page b
@[simp] theorem setDegraded_wireHeld (page b : Nat) : (setDegraded s page b).wireHeld = s.wireHeld := setDegraded_apart apart_wireHeld s page b
@[simp] theorem setDegraded_drr (page b : Nat) : (setDegraded s page b).drr = s.drr := setDegraded_apart apart_drr s page b
@[simp] theorem setDegraded_hellos (page b : Nat) : (setDegraded s page b).hellos = s.hellos := setDegraded_apart apart_hellos s page b
@[simp] theorem setDegraded_portCoef (page b : Nat) : (setDegraded s page b).portCoef = s.portCoef := setDegraded_apart apart_portCoef s page b
@[simp] theorem setDegraded_trainFails (page b : Nat) : (setDegraded s page b).trainFails = s.trainFails := setDegraded_apart apart_trainFails s page b
@[simp] theorem setDegraded_portDisabled (page b : Nat) : (setDegraded s page b).portDisabled = s.portDisabled := setDegraded_apart apart_portDisabled s page b
@[simp] theorem setDegraded_coll (page b : Nat) : (setDegraded s page b).coll = s.coll := setDegraded_apart apart_coll s page b
@[simp] theorem setDegraded_collNext (page b : Nat) : (setDegraded s page b).collNext = s.collNext := setDegraded_apart apart_collNext s page b
@[simp] theorem setDegraded_closing (page b : Nat) : (setDegraded s page b).closing = s.closing := setDegraded_apart apart_closing s page b
@[simp] theorem setDegraded_optWritten (page b : Nat) : (setDegraded s page b).optWritten = s.optWritten := setDegraded_apart apart_optWritten s page b
@[simp] theorem setDegraded_optDue (page b : Nat) : (setDegraded s page b).optDue = s.optDue := setDegraded_apart apart_optDue s page b
@[simp] theorem setDegraded_optWaited (page b : Nat) : (setDegraded s page b).optWaited = s.optWaited := setDegraded_apart apart_optWaited s page b
@[simp] theorem setDegraded_mirHeader (page b : Nat) : (setDegraded s page b).mirHeader = s.mirHeader := setDegraded_apart apart_mirHeader s page b
@[simp] theorem setDegraded_sealDue (page b : Nat) : (setDegraded s page b).sealDue = s.sealDue := setDegraded_apart apart_sealDue s page b
@[simp] theorem setDegraded_recov (page b : Nat) : (setDegraded s page b).recov = s.recov := setDegraded_apart apart_recov s page b
@[simp] theorem setDegraded_stepMsgs (page b : Nat) : (setDegraded s page b).stepMsgs = s.stepMsgs := setDegraded_apart apart_stepMsgs s page b
@[simp] theorem setDegraded_rails (page b : Nat) : (setDegraded s page b).rails = s.rails := setDegraded_apart apart_rails s page b
@[simp] theorem setDegraded_mnt (page b : Nat) : (setDegraded s page b).mnt = s.mnt := setDegraded_apart apart_mnt s page b
@[simp] theorem setDegraded_cp (page b : Nat) : (setDegraded s page b).cp = s.cp := setDegraded_apart apart_cp s page b
@[simp] theorem setDegraded_svc (page b : Nat) : (setDegraded s page b).svc = s.svc := setDegraded_apart apart_svc s page b
@[simp] theorem setDegraded_bist (page b : Nat) : (setDegraded s page b).bist = s.bist := setDegraded_apart apart_bist s page b
@[simp] theorem setDegraded_ticks (page b : Nat) : (setDegraded s page b).ticks = s.ticks := setDegraded_apart apart_ticks s page b
@[simp] theorem setDegraded_trace (page b : Nat) : (setDegraded s page b).trace = s.trace := setDegraded_apart apart_trace s page b
@[simp] theorem setDegraded_resp (page b : Nat) : (setDegraded s page b).resp = s.resp := setDegraded_apart apart_resp s page b
@[simp] theorem setDegraded_free (page b : Nat) : (setDegraded s page b).free = s.free := setDegraded_apart apart_free s page b

@[simp] theorem clearFlag_ctxs (page b : Nat) : (clearFlag s page b).ctxs = s.ctxs := clearFlag_apart apart_ctxs s page b
@[simp] theorem clearFlag_cores (page b : Nat) : (clearFlag s page b).cores = s.cores := clearFlag_apart apart_cores s page b
@[simp] theorem clearFlag_fb (page b : Nat) : (clearFlag s page b).fb = s.fb := clearFlag_apart apart_fb s page b
@[simp] theorem clearFlag_sync (page b : Nat) : (clearFlag s page b).sync = s.sync := clearFlag_apart apart_sync s page b
@[simp] theorem clearFlag_slots (page b : Nat) : (clearFlag s page b).slots = s.slots := clearFlag_apart apart_slots s page b
@[simp] theorem clearFlag_toYoke (page b : Nat) : (clearFlag s page b).toYoke = s.toYoke := clearFlag_apart apart_toYoke s page b
@[simp] theorem clearFlag_yokeWaits (page b : Nat) : (clearFlag s page b).yokeWaits = s.yokeWaits := clearFlag_apart apart_yokeWaits s page b
@[simp] theorem clearFlag_releases (page b : Nat) : (clearFlag s page b).releases = s.releases := clearFlag_apart apart_releases s page b
@[simp] theorem clearFlag_orphans (page b : Nat) : (clearFlag s page b).orphans = s.orphans := clearFlag_apart apart_orphans s page b
@[simp] theorem clearFlag_est (page b : Nat) : (clearFlag s page b).est = s.est := clearFlag_apart apart_est s page b
@[simp] theorem clearFlag_hemStopped (page b : Nat) : (clearFlag s page b).hemStopped = s.hemStopped := clearFlag_apart apart_hemStopped s page b
@[simp] theorem clearFlag_resync (page b : Nat) : (clearFlag s page b).resync = s.resync := clearFlag_apart apart_resync s page b
@[simp] theorem clearFlag_breached (page b : Nat) : (clearFlag s page b).breached = s.breached := clearFlag_apart apart_breached s page b
@[simp] theorem clearFlag_katPages (page b : Nat) : (clearFlag s page b).katPages = s.katPages := clearFlag_apart apart_katPages s page b
@[simp] theorem clearFlag_srFailed (page b : Nat) : (clearFlag s page b).srFailed = s.srFailed := clearFlag_apart apart_srFailed s page b
@[simp] theorem clearFlag_srSick (page b : Nat) : (clearFlag s page b).srSick = s.srSick := clearFlag_apart apart_srSick s page b
@[simp] theorem clearFlag_banks (page b : Nat) : (clearFlag s page b).banks = s.banks := clearFlag_apart apart_banks s page b
@[simp] theorem clearFlag_arbs (page b : Nat) : (clearFlag s page b).arbs = s.arbs := clearFlag_apart apart_arbs s page b
@[simp] theorem clearFlag_fab (page b : Nat) : (clearFlag s page b).fab = s.fab := clearFlag_apart apart_fab s page b
@[simp] theorem clearFlag_seamRejects (page b : Nat) : (clearFlag s page b).seamRejects = s.seamRejects := clearFlag_apart apart_seamRejects s page b
@[simp] theorem clearFlag_seamTests (page b : Nat) : (clearFlag s page b).seamTests = s.seamTests := clearFlag_apart apart_seamTests s page b
@[simp] theorem clearFlag_partners (page b : Nat) : (clearFlag s page b).partners = s.partners := clearFlag_apart apart_partners s page b
@[simp] theorem clearFlag_groups (page b : Nat) : (clearFlag s page b).groups = s.groups := clearFlag_apart apart_groups s page b
@[simp] theorem clearFlag_linkSecret (page b : Nat) : (clearFlag s page b).linkSecret = s.linkSecret := clearFlag_apart apart_linkSecret s page b
@[simp] theorem clearFlag_toEngine (page b : Nat) : (clearFlag s page b).toEngine = s.toEngine := clearFlag_apart apart_toEngine s page b
@[simp] theorem clearFlag_outbox (page b : Nat) : (clearFlag s page b).outbox = s.outbox := clearFlag_apart apart_outbox s page b
@[simp] theorem clearFlag_wire (page b : Nat) : (clearFlag s page b).wire = s.wire := clearFlag_apart apart_wire s page b
@[simp] theorem clearFlag_wireHeld (page b : Nat) : (clearFlag s page b).wireHeld = s.wireHeld := clearFlag_apart apart_wireHeld s page b
@[simp] theorem clearFlag_drr (page b : Nat) : (clearFlag s page b).drr = s.drr := clearFlag_apart apart_drr s page b
@[simp] theorem clearFlag_hellos (page b : Nat) : (clearFlag s page b).hellos = s.hellos := clearFlag_apart apart_hellos s page b
@[simp] theorem clearFlag_portCoef (page b : Nat) : (clearFlag s page b).portCoef = s.portCoef := clearFlag_apart apart_portCoef s page b
@[simp] theorem clearFlag_trainFails (page b : Nat) : (clearFlag s page b).trainFails = s.trainFails := clearFlag_apart apart_trainFails s page b
@[simp] theorem clearFlag_portDisabled (page b : Nat) : (clearFlag s page b).portDisabled = s.portDisabled := clearFlag_apart apart_portDisabled s page b
@[simp] theorem clearFlag_coll (page b : Nat) : (clearFlag s page b).coll = s.coll := clearFlag_apart apart_coll s page b
@[simp] theorem clearFlag_collNext (page b : Nat) : (clearFlag s page b).collNext = s.collNext := clearFlag_apart apart_collNext s page b
@[simp] theorem clearFlag_closing (page b : Nat) : (clearFlag s page b).closing = s.closing := clearFlag_apart apart_closing s page b
@[simp] theorem clearFlag_optWritten (page b : Nat) : (clearFlag s page b).optWritten = s.optWritten := clearFlag_apart apart_optWritten s page b
@[simp] theorem clearFlag_optDue (page b : Nat) : (clearFlag s page b).optDue = s.optDue := clearFlag_apart apart_optDue s page b
@[simp] theorem clearFlag_optWaited (page b : Nat) : (clearFlag s page b).optWaited = s.optWaited := clearFlag_apart apart_optWaited s page b
@[simp] theorem clearFlag_mirHeader (page b : Nat) : (clearFlag s page b).mirHeader = s.mirHeader := clearFlag_apart apart_mirHeader s page b
@[simp] theorem clearFlag_sealDue (page b : Nat) : (clearFlag s page b).sealDue = s.sealDue := clearFlag_apart apart_sealDue s page b
@[simp] theorem clearFlag_recov (page b : Nat) : (clearFlag s page b).recov = s.recov := clearFlag_apart apart_recov s page b
@[simp] theorem clearFlag_stepMsgs (page b : Nat) : (clearFlag s page b).stepMsgs = s.stepMsgs := clearFlag_apart apart_stepMsgs s page b
@[simp] theorem clearFlag_rails (page b : Nat) : (clearFlag s page b).rails = s.rails := clearFlag_apart apart_rails s page b
@[simp] theorem clearFlag_mnt (page b : Nat) : (clearFlag s page b).mnt = s.mnt := clearFlag_apart apart_mnt s page b
@[simp] theorem clearFlag_cp (page b : Nat) : (clearFlag s page b).cp = s.cp := clearFlag_apart apart_cp s page b
@[simp] theorem clearFlag_svc (page b : Nat) : (clearFlag s page b).svc = s.svc := clearFlag_apart apart_svc s page b
@[simp] theorem clearFlag_bist (page b : Nat) : (clearFlag s page b).bist = s.bist := clearFlag_apart apart_bist s page b
@[simp] theorem clearFlag_ticks (page b : Nat) : (clearFlag s page b).ticks = s.ticks := clearFlag_apart apart_ticks s page b
@[simp] theorem clearFlag_trace (page b : Nat) : (clearFlag s page b).trace = s.trace := clearFlag_apart apart_trace s page b
@[simp] theorem clearFlag_resp (page b : Nat) : (clearFlag s page b).resp = s.resp := clearFlag_apart apart_resp s page b
@[simp] theorem clearFlag_free (page b : Nat) : (clearFlag s page b).free = s.free := clearFlag_apart apart_free s page b

@[simp] theorem clipOn_ctxs (page : Nat) : (clipOn s page).ctxs = s.ctxs := clipOn_apart apart_ctxs s page
@[simp] theorem clipOn_cores (page : Nat) : (clipOn s page).cores = s.cores := clipOn_apart apart_cores s page
@[simp] theorem clipOn_fb (page : Nat) : (clipOn s page).fb = s.fb := clipOn_apart apart_fb s page
@[simp] theorem clipOn_sync (page : Nat) : (clipOn s page).sync = s.sync := clipOn_apart apart_sync s page
@[simp] theorem clipOn_slots (page : Nat) : (clipOn s page).slots = s.slots := clipOn_apart apart_slots s page
@[simp] theorem clipOn_toYoke (page : Nat) : (clipOn s page).toYoke = s.toYoke := clipOn_apart apart_toYoke s page
@[simp] theorem clipOn_yokeWaits (page : Nat) : (clipOn s page).yokeWaits = s.yokeWaits := clipOn_apart apart_yokeWaits s page
@[simp] theorem clipOn_releases (page : Nat) : (clipOn s page).releases = s.releases := clipOn_apart apart_releases s page
@[simp] theorem clipOn_orphans (page : Nat) : (clipOn s page).orphans = s.orphans := clipOn_apart apart_orphans s page
@[simp] theorem clipOn_est (page : Nat) : (clipOn s page).est = s.est := clipOn_apart apart_est s page
@[simp] theorem clipOn_hemStopped (page : Nat) : (clipOn s page).hemStopped = s.hemStopped := clipOn_apart apart_hemStopped s page
@[simp] theorem clipOn_resync (page : Nat) : (clipOn s page).resync = s.resync := clipOn_apart apart_resync s page
@[simp] theorem clipOn_breached (page : Nat) : (clipOn s page).breached = s.breached := clipOn_apart apart_breached s page
@[simp] theorem clipOn_katPages (page : Nat) : (clipOn s page).katPages = s.katPages := clipOn_apart apart_katPages s page
@[simp] theorem clipOn_srFailed (page : Nat) : (clipOn s page).srFailed = s.srFailed := clipOn_apart apart_srFailed s page
@[simp] theorem clipOn_srSick (page : Nat) : (clipOn s page).srSick = s.srSick := clipOn_apart apart_srSick s page
@[simp] theorem clipOn_banks (page : Nat) : (clipOn s page).banks = s.banks := clipOn_apart apart_banks s page
@[simp] theorem clipOn_arbs (page : Nat) : (clipOn s page).arbs = s.arbs := clipOn_apart apart_arbs s page
@[simp] theorem clipOn_fab (page : Nat) : (clipOn s page).fab = s.fab := clipOn_apart apart_fab s page
@[simp] theorem clipOn_seamRejects (page : Nat) : (clipOn s page).seamRejects = s.seamRejects := clipOn_apart apart_seamRejects s page
@[simp] theorem clipOn_seamTests (page : Nat) : (clipOn s page).seamTests = s.seamTests := clipOn_apart apart_seamTests s page
@[simp] theorem clipOn_partners (page : Nat) : (clipOn s page).partners = s.partners := clipOn_apart apart_partners s page
@[simp] theorem clipOn_groups (page : Nat) : (clipOn s page).groups = s.groups := clipOn_apart apart_groups s page
@[simp] theorem clipOn_linkSecret (page : Nat) : (clipOn s page).linkSecret = s.linkSecret := clipOn_apart apart_linkSecret s page
@[simp] theorem clipOn_toEngine (page : Nat) : (clipOn s page).toEngine = s.toEngine := clipOn_apart apart_toEngine s page
@[simp] theorem clipOn_outbox (page : Nat) : (clipOn s page).outbox = s.outbox := clipOn_apart apart_outbox s page
@[simp] theorem clipOn_wire (page : Nat) : (clipOn s page).wire = s.wire := clipOn_apart apart_wire s page
@[simp] theorem clipOn_wireHeld (page : Nat) : (clipOn s page).wireHeld = s.wireHeld := clipOn_apart apart_wireHeld s page
@[simp] theorem clipOn_drr (page : Nat) : (clipOn s page).drr = s.drr := clipOn_apart apart_drr s page
@[simp] theorem clipOn_hellos (page : Nat) : (clipOn s page).hellos = s.hellos := clipOn_apart apart_hellos s page
@[simp] theorem clipOn_portCoef (page : Nat) : (clipOn s page).portCoef = s.portCoef := clipOn_apart apart_portCoef s page
@[simp] theorem clipOn_trainFails (page : Nat) : (clipOn s page).trainFails = s.trainFails := clipOn_apart apart_trainFails s page
@[simp] theorem clipOn_portDisabled (page : Nat) : (clipOn s page).portDisabled = s.portDisabled := clipOn_apart apart_portDisabled s page
@[simp] theorem clipOn_coll (page : Nat) : (clipOn s page).coll = s.coll := clipOn_apart apart_coll s page
@[simp] theorem clipOn_collNext (page : Nat) : (clipOn s page).collNext = s.collNext := clipOn_apart apart_collNext s page
@[simp] theorem clipOn_closing (page : Nat) : (clipOn s page).closing = s.closing := clipOn_apart apart_closing s page
@[simp] theorem clipOn_optWritten (page : Nat) : (clipOn s page).optWritten = s.optWritten := clipOn_apart apart_optWritten s page
@[simp] theorem clipOn_optDue (page : Nat) : (clipOn s page).optDue = s.optDue := clipOn_apart apart_optDue s page
@[simp] theorem clipOn_optWaited (page : Nat) : (clipOn s page).optWaited = s.optWaited := clipOn_apart apart_optWaited s page
@[simp] theorem clipOn_mirHeader (page : Nat) : (clipOn s page).mirHeader = s.mirHeader := clipOn_apart apart_mirHeader s page
@[simp] theorem clipOn_sealDue (page : Nat) : (clipOn s page).sealDue = s.sealDue := clipOn_apart apart_sealDue s page
@[simp] theorem clipOn_recov (page : Nat) : (clipOn s page).recov = s.recov := clipOn_apart apart_recov s page
@[simp] theorem clipOn_stepMsgs (page : Nat) : (clipOn s page).stepMsgs = s.stepMsgs := clipOn_apart apart_stepMsgs s page
@[simp] theorem clipOn_rails (page : Nat) : (clipOn s page).rails = s.rails := clipOn_apart apart_rails s page
@[simp] theorem clipOn_mnt (page : Nat) : (clipOn s page).mnt = s.mnt := clipOn_apart apart_mnt s page
@[simp] theorem clipOn_cp (page : Nat) : (clipOn s page).cp = s.cp := clipOn_apart apart_cp s page
@[simp] theorem clipOn_svc (page : Nat) : (clipOn s page).svc = s.svc := clipOn_apart apart_svc s page
@[simp] theorem clipOn_bist (page : Nat) : (clipOn s page).bist = s.bist := clipOn_apart apart_bist s page
@[simp] theorem clipOn_ticks (page : Nat) : (clipOn s page).ticks = s.ticks := clipOn_apart apart_ticks s page
@[simp] theorem clipOn_trace (page : Nat) : (clipOn s page).trace = s.trace := clipOn_apart apart_trace s page
@[simp] theorem clipOn_resp (page : Nat) : (clipOn s page).resp = s.resp := clipOn_apart apart_resp s page
@[simp] theorem clipOn_free (page : Nat) : (clipOn s page).free = s.free := clipOn_apart apart_free s page

@[simp] theorem clipOff_ctxs (page : Nat) : (clipOff s page).ctxs = s.ctxs := clipOff_apart apart_ctxs s page
@[simp] theorem clipOff_cores (page : Nat) : (clipOff s page).cores = s.cores := clipOff_apart apart_cores s page
@[simp] theorem clipOff_fb (page : Nat) : (clipOff s page).fb = s.fb := clipOff_apart apart_fb s page
@[simp] theorem clipOff_sync (page : Nat) : (clipOff s page).sync = s.sync := clipOff_apart apart_sync s page
@[simp] theorem clipOff_slots (page : Nat) : (clipOff s page).slots = s.slots := clipOff_apart apart_slots s page
@[simp] theorem clipOff_toYoke (page : Nat) : (clipOff s page).toYoke = s.toYoke := clipOff_apart apart_toYoke s page
@[simp] theorem clipOff_yokeWaits (page : Nat) : (clipOff s page).yokeWaits = s.yokeWaits := clipOff_apart apart_yokeWaits s page
@[simp] theorem clipOff_releases (page : Nat) : (clipOff s page).releases = s.releases := clipOff_apart apart_releases s page
@[simp] theorem clipOff_orphans (page : Nat) : (clipOff s page).orphans = s.orphans := clipOff_apart apart_orphans s page
@[simp] theorem clipOff_est (page : Nat) : (clipOff s page).est = s.est := clipOff_apart apart_est s page
@[simp] theorem clipOff_hemStopped (page : Nat) : (clipOff s page).hemStopped = s.hemStopped := clipOff_apart apart_hemStopped s page
@[simp] theorem clipOff_resync (page : Nat) : (clipOff s page).resync = s.resync := clipOff_apart apart_resync s page
@[simp] theorem clipOff_breached (page : Nat) : (clipOff s page).breached = s.breached := clipOff_apart apart_breached s page
@[simp] theorem clipOff_katPages (page : Nat) : (clipOff s page).katPages = s.katPages := clipOff_apart apart_katPages s page
@[simp] theorem clipOff_srFailed (page : Nat) : (clipOff s page).srFailed = s.srFailed := clipOff_apart apart_srFailed s page
@[simp] theorem clipOff_srSick (page : Nat) : (clipOff s page).srSick = s.srSick := clipOff_apart apart_srSick s page
@[simp] theorem clipOff_banks (page : Nat) : (clipOff s page).banks = s.banks := clipOff_apart apart_banks s page
@[simp] theorem clipOff_arbs (page : Nat) : (clipOff s page).arbs = s.arbs := clipOff_apart apart_arbs s page
@[simp] theorem clipOff_fab (page : Nat) : (clipOff s page).fab = s.fab := clipOff_apart apart_fab s page
@[simp] theorem clipOff_seamRejects (page : Nat) : (clipOff s page).seamRejects = s.seamRejects := clipOff_apart apart_seamRejects s page
@[simp] theorem clipOff_seamTests (page : Nat) : (clipOff s page).seamTests = s.seamTests := clipOff_apart apart_seamTests s page
@[simp] theorem clipOff_partners (page : Nat) : (clipOff s page).partners = s.partners := clipOff_apart apart_partners s page
@[simp] theorem clipOff_groups (page : Nat) : (clipOff s page).groups = s.groups := clipOff_apart apart_groups s page
@[simp] theorem clipOff_linkSecret (page : Nat) : (clipOff s page).linkSecret = s.linkSecret := clipOff_apart apart_linkSecret s page
@[simp] theorem clipOff_toEngine (page : Nat) : (clipOff s page).toEngine = s.toEngine := clipOff_apart apart_toEngine s page
@[simp] theorem clipOff_outbox (page : Nat) : (clipOff s page).outbox = s.outbox := clipOff_apart apart_outbox s page
@[simp] theorem clipOff_wire (page : Nat) : (clipOff s page).wire = s.wire := clipOff_apart apart_wire s page
@[simp] theorem clipOff_wireHeld (page : Nat) : (clipOff s page).wireHeld = s.wireHeld := clipOff_apart apart_wireHeld s page
@[simp] theorem clipOff_drr (page : Nat) : (clipOff s page).drr = s.drr := clipOff_apart apart_drr s page
@[simp] theorem clipOff_hellos (page : Nat) : (clipOff s page).hellos = s.hellos := clipOff_apart apart_hellos s page
@[simp] theorem clipOff_portCoef (page : Nat) : (clipOff s page).portCoef = s.portCoef := clipOff_apart apart_portCoef s page
@[simp] theorem clipOff_trainFails (page : Nat) : (clipOff s page).trainFails = s.trainFails := clipOff_apart apart_trainFails s page
@[simp] theorem clipOff_portDisabled (page : Nat) : (clipOff s page).portDisabled = s.portDisabled := clipOff_apart apart_portDisabled s page
@[simp] theorem clipOff_coll (page : Nat) : (clipOff s page).coll = s.coll := clipOff_apart apart_coll s page
@[simp] theorem clipOff_collNext (page : Nat) : (clipOff s page).collNext = s.collNext := clipOff_apart apart_collNext s page
@[simp] theorem clipOff_closing (page : Nat) : (clipOff s page).closing = s.closing := clipOff_apart apart_closing s page
@[simp] theorem clipOff_optWritten (page : Nat) : (clipOff s page).optWritten = s.optWritten := clipOff_apart apart_optWritten s page
@[simp] theorem clipOff_optDue (page : Nat) : (clipOff s page).optDue = s.optDue := clipOff_apart apart_optDue s page
@[simp] theorem clipOff_optWaited (page : Nat) : (clipOff s page).optWaited = s.optWaited := clipOff_apart apart_optWaited s page
@[simp] theorem clipOff_mirHeader (page : Nat) : (clipOff s page).mirHeader = s.mirHeader := clipOff_apart apart_mirHeader s page
@[simp] theorem clipOff_sealDue (page : Nat) : (clipOff s page).sealDue = s.sealDue := clipOff_apart apart_sealDue s page
@[simp] theorem clipOff_recov (page : Nat) : (clipOff s page).recov = s.recov := clipOff_apart apart_recov s page
@[simp] theorem clipOff_stepMsgs (page : Nat) : (clipOff s page).stepMsgs = s.stepMsgs := clipOff_apart apart_stepMsgs s page
@[simp] theorem clipOff_rails (page : Nat) : (clipOff s page).rails = s.rails := clipOff_apart apart_rails s page
@[simp] theorem clipOff_mnt (page : Nat) : (clipOff s page).mnt = s.mnt := clipOff_apart apart_mnt s page
@[simp] theorem clipOff_cp (page : Nat) : (clipOff s page).cp = s.cp := clipOff_apart apart_cp s page
@[simp] theorem clipOff_svc (page : Nat) : (clipOff s page).svc = s.svc := clipOff_apart apart_svc s page
@[simp] theorem clipOff_bist (page : Nat) : (clipOff s page).bist = s.bist := clipOff_apart apart_bist s page
@[simp] theorem clipOff_ticks (page : Nat) : (clipOff s page).ticks = s.ticks := clipOff_apart apart_ticks s page
@[simp] theorem clipOff_trace (page : Nat) : (clipOff s page).trace = s.trace := clipOff_apart apart_trace s page
@[simp] theorem clipOff_resp (page : Nat) : (clipOff s page).resp = s.resp := clipOff_apart apart_resp s page
@[simp] theorem clipOff_free (page : Nat) : (clipOff s page).free = s.free := clipOff_apart apart_free s page

@[simp] theorem freezePage_ctxs (page : Nat) : (freezePage s page).ctxs = s.ctxs := freezePage_apart apart_ctxs s page
@[simp] theorem freezePage_cores (page : Nat) : (freezePage s page).cores = s.cores := freezePage_apart apart_cores s page
@[simp] theorem freezePage_fb (page : Nat) : (freezePage s page).fb = s.fb := freezePage_apart apart_fb s page
@[simp] theorem freezePage_sync (page : Nat) : (freezePage s page).sync = s.sync := freezePage_apart apart_sync s page
@[simp] theorem freezePage_slots (page : Nat) : (freezePage s page).slots = s.slots := freezePage_apart apart_slots s page
@[simp] theorem freezePage_toYoke (page : Nat) : (freezePage s page).toYoke = s.toYoke := freezePage_apart apart_toYoke s page
@[simp] theorem freezePage_yokeWaits (page : Nat) : (freezePage s page).yokeWaits = s.yokeWaits := freezePage_apart apart_yokeWaits s page
@[simp] theorem freezePage_releases (page : Nat) : (freezePage s page).releases = s.releases := freezePage_apart apart_releases s page
@[simp] theorem freezePage_orphans (page : Nat) : (freezePage s page).orphans = s.orphans := freezePage_apart apart_orphans s page
@[simp] theorem freezePage_est (page : Nat) : (freezePage s page).est = s.est := freezePage_apart apart_est s page
@[simp] theorem freezePage_hemStopped (page : Nat) : (freezePage s page).hemStopped = s.hemStopped := freezePage_apart apart_hemStopped s page
@[simp] theorem freezePage_resync (page : Nat) : (freezePage s page).resync = s.resync := freezePage_apart apart_resync s page
@[simp] theorem freezePage_breached (page : Nat) : (freezePage s page).breached = s.breached := freezePage_apart apart_breached s page
@[simp] theorem freezePage_katPages (page : Nat) : (freezePage s page).katPages = s.katPages := freezePage_apart apart_katPages s page
@[simp] theorem freezePage_srFailed (page : Nat) : (freezePage s page).srFailed = s.srFailed := freezePage_apart apart_srFailed s page
@[simp] theorem freezePage_srSick (page : Nat) : (freezePage s page).srSick = s.srSick := freezePage_apart apart_srSick s page
@[simp] theorem freezePage_banks (page : Nat) : (freezePage s page).banks = s.banks := freezePage_apart apart_banks s page
@[simp] theorem freezePage_arbs (page : Nat) : (freezePage s page).arbs = s.arbs := freezePage_apart apart_arbs s page
@[simp] theorem freezePage_fab (page : Nat) : (freezePage s page).fab = s.fab := freezePage_apart apart_fab s page
@[simp] theorem freezePage_seamRejects (page : Nat) : (freezePage s page).seamRejects = s.seamRejects := freezePage_apart apart_seamRejects s page
@[simp] theorem freezePage_seamTests (page : Nat) : (freezePage s page).seamTests = s.seamTests := freezePage_apart apart_seamTests s page
@[simp] theorem freezePage_partners (page : Nat) : (freezePage s page).partners = s.partners := freezePage_apart apart_partners s page
@[simp] theorem freezePage_groups (page : Nat) : (freezePage s page).groups = s.groups := freezePage_apart apart_groups s page
@[simp] theorem freezePage_linkSecret (page : Nat) : (freezePage s page).linkSecret = s.linkSecret := freezePage_apart apart_linkSecret s page
@[simp] theorem freezePage_toEngine (page : Nat) : (freezePage s page).toEngine = s.toEngine := freezePage_apart apart_toEngine s page
@[simp] theorem freezePage_outbox (page : Nat) : (freezePage s page).outbox = s.outbox := freezePage_apart apart_outbox s page
@[simp] theorem freezePage_wire (page : Nat) : (freezePage s page).wire = s.wire := freezePage_apart apart_wire s page
@[simp] theorem freezePage_wireHeld (page : Nat) : (freezePage s page).wireHeld = s.wireHeld := freezePage_apart apart_wireHeld s page
@[simp] theorem freezePage_drr (page : Nat) : (freezePage s page).drr = s.drr := freezePage_apart apart_drr s page
@[simp] theorem freezePage_hellos (page : Nat) : (freezePage s page).hellos = s.hellos := freezePage_apart apart_hellos s page
@[simp] theorem freezePage_portCoef (page : Nat) : (freezePage s page).portCoef = s.portCoef := freezePage_apart apart_portCoef s page
@[simp] theorem freezePage_trainFails (page : Nat) : (freezePage s page).trainFails = s.trainFails := freezePage_apart apart_trainFails s page
@[simp] theorem freezePage_portDisabled (page : Nat) : (freezePage s page).portDisabled = s.portDisabled := freezePage_apart apart_portDisabled s page
@[simp] theorem freezePage_coll (page : Nat) : (freezePage s page).coll = s.coll := freezePage_apart apart_coll s page
@[simp] theorem freezePage_collNext (page : Nat) : (freezePage s page).collNext = s.collNext := freezePage_apart apart_collNext s page
@[simp] theorem freezePage_closing (page : Nat) : (freezePage s page).closing = s.closing := freezePage_apart apart_closing s page
@[simp] theorem freezePage_optWritten (page : Nat) : (freezePage s page).optWritten = s.optWritten := freezePage_apart apart_optWritten s page
@[simp] theorem freezePage_optDue (page : Nat) : (freezePage s page).optDue = s.optDue := freezePage_apart apart_optDue s page
@[simp] theorem freezePage_optWaited (page : Nat) : (freezePage s page).optWaited = s.optWaited := freezePage_apart apart_optWaited s page
@[simp] theorem freezePage_mirHeader (page : Nat) : (freezePage s page).mirHeader = s.mirHeader := freezePage_apart apart_mirHeader s page
@[simp] theorem freezePage_sealDue (page : Nat) : (freezePage s page).sealDue = s.sealDue := freezePage_apart apart_sealDue s page
@[simp] theorem freezePage_recov (page : Nat) : (freezePage s page).recov = s.recov := freezePage_apart apart_recov s page
@[simp] theorem freezePage_stepMsgs (page : Nat) : (freezePage s page).stepMsgs = s.stepMsgs := freezePage_apart apart_stepMsgs s page
@[simp] theorem freezePage_rails (page : Nat) : (freezePage s page).rails = s.rails := freezePage_apart apart_rails s page
@[simp] theorem freezePage_mnt (page : Nat) : (freezePage s page).mnt = s.mnt := freezePage_apart apart_mnt s page
@[simp] theorem freezePage_cp (page : Nat) : (freezePage s page).cp = s.cp := freezePage_apart apart_cp s page
@[simp] theorem freezePage_svc (page : Nat) : (freezePage s page).svc = s.svc := freezePage_apart apart_svc s page
@[simp] theorem freezePage_bist (page : Nat) : (freezePage s page).bist = s.bist := freezePage_apart apart_bist s page
@[simp] theorem freezePage_ticks (page : Nat) : (freezePage s page).ticks = s.ticks := freezePage_apart apart_ticks s page
@[simp] theorem freezePage_trace (page : Nat) : (freezePage s page).trace = s.trace := freezePage_apart apart_trace s page
@[simp] theorem freezePage_resp (page : Nat) : (freezePage s page).resp = s.resp := freezePage_apart apart_resp s page
@[simp] theorem freezePage_free (page : Nat) : (freezePage s page).free = s.free := freezePage_apart apart_free s page

@[simp] theorem setFrozenBit_ctxs (mid : Nat) (b : Bool) : (setFrozenBit s mid b).ctxs = s.ctxs := setFrozenBit_apart apart_ctxs s mid b
@[simp] theorem setFrozenBit_cores (mid : Nat) (b : Bool) : (setFrozenBit s mid b).cores = s.cores := setFrozenBit_apart apart_cores s mid b
@[simp] theorem setFrozenBit_fb (mid : Nat) (b : Bool) : (setFrozenBit s mid b).fb = s.fb := setFrozenBit_apart apart_fb s mid b
@[simp] theorem setFrozenBit_sync (mid : Nat) (b : Bool) : (setFrozenBit s mid b).sync = s.sync := setFrozenBit_apart apart_sync s mid b
@[simp] theorem setFrozenBit_slots (mid : Nat) (b : Bool) : (setFrozenBit s mid b).slots = s.slots := setFrozenBit_apart apart_slots s mid b
@[simp] theorem setFrozenBit_toYoke (mid : Nat) (b : Bool) : (setFrozenBit s mid b).toYoke = s.toYoke := setFrozenBit_apart apart_toYoke s mid b
@[simp] theorem setFrozenBit_yokeWaits (mid : Nat) (b : Bool) : (setFrozenBit s mid b).yokeWaits = s.yokeWaits := setFrozenBit_apart apart_yokeWaits s mid b
@[simp] theorem setFrozenBit_releases (mid : Nat) (b : Bool) : (setFrozenBit s mid b).releases = s.releases := setFrozenBit_apart apart_releases s mid b
@[simp] theorem setFrozenBit_orphans (mid : Nat) (b : Bool) : (setFrozenBit s mid b).orphans = s.orphans := setFrozenBit_apart apart_orphans s mid b
@[simp] theorem setFrozenBit_est (mid : Nat) (b : Bool) : (setFrozenBit s mid b).est = s.est := setFrozenBit_apart apart_est s mid b
@[simp] theorem setFrozenBit_hemStopped (mid : Nat) (b : Bool) : (setFrozenBit s mid b).hemStopped = s.hemStopped := setFrozenBit_apart apart_hemStopped s mid b
@[simp] theorem setFrozenBit_resync (mid : Nat) (b : Bool) : (setFrozenBit s mid b).resync = s.resync := setFrozenBit_apart apart_resync s mid b
@[simp] theorem setFrozenBit_breached (mid : Nat) (b : Bool) : (setFrozenBit s mid b).breached = s.breached := setFrozenBit_apart apart_breached s mid b
@[simp] theorem setFrozenBit_katPages (mid : Nat) (b : Bool) : (setFrozenBit s mid b).katPages = s.katPages := setFrozenBit_apart apart_katPages s mid b
@[simp] theorem setFrozenBit_srFailed (mid : Nat) (b : Bool) : (setFrozenBit s mid b).srFailed = s.srFailed := setFrozenBit_apart apart_srFailed s mid b
@[simp] theorem setFrozenBit_srSick (mid : Nat) (b : Bool) : (setFrozenBit s mid b).srSick = s.srSick := setFrozenBit_apart apart_srSick s mid b
@[simp] theorem setFrozenBit_banks (mid : Nat) (b : Bool) : (setFrozenBit s mid b).banks = s.banks := setFrozenBit_apart apart_banks s mid b
@[simp] theorem setFrozenBit_arbs (mid : Nat) (b : Bool) : (setFrozenBit s mid b).arbs = s.arbs := setFrozenBit_apart apart_arbs s mid b
@[simp] theorem setFrozenBit_fab (mid : Nat) (b : Bool) : (setFrozenBit s mid b).fab = s.fab := setFrozenBit_apart apart_fab s mid b
@[simp] theorem setFrozenBit_seamRejects (mid : Nat) (b : Bool) : (setFrozenBit s mid b).seamRejects = s.seamRejects := setFrozenBit_apart apart_seamRejects s mid b
@[simp] theorem setFrozenBit_seamTests (mid : Nat) (b : Bool) : (setFrozenBit s mid b).seamTests = s.seamTests := setFrozenBit_apart apart_seamTests s mid b
@[simp] theorem setFrozenBit_partners (mid : Nat) (b : Bool) : (setFrozenBit s mid b).partners = s.partners := setFrozenBit_apart apart_partners s mid b
@[simp] theorem setFrozenBit_groups (mid : Nat) (b : Bool) : (setFrozenBit s mid b).groups = s.groups := setFrozenBit_apart apart_groups s mid b
@[simp] theorem setFrozenBit_linkSecret (mid : Nat) (b : Bool) : (setFrozenBit s mid b).linkSecret = s.linkSecret := setFrozenBit_apart apart_linkSecret s mid b
@[simp] theorem setFrozenBit_toEngine (mid : Nat) (b : Bool) : (setFrozenBit s mid b).toEngine = s.toEngine := setFrozenBit_apart apart_toEngine s mid b
@[simp] theorem setFrozenBit_outbox (mid : Nat) (b : Bool) : (setFrozenBit s mid b).outbox = s.outbox := setFrozenBit_apart apart_outbox s mid b
@[simp] theorem setFrozenBit_wire (mid : Nat) (b : Bool) : (setFrozenBit s mid b).wire = s.wire := setFrozenBit_apart apart_wire s mid b
@[simp] theorem setFrozenBit_wireHeld (mid : Nat) (b : Bool) : (setFrozenBit s mid b).wireHeld = s.wireHeld := setFrozenBit_apart apart_wireHeld s mid b
@[simp] theorem setFrozenBit_drr (mid : Nat) (b : Bool) : (setFrozenBit s mid b).drr = s.drr := setFrozenBit_apart apart_drr s mid b
@[simp] theorem setFrozenBit_hellos (mid : Nat) (b : Bool) : (setFrozenBit s mid b).hellos = s.hellos := setFrozenBit_apart apart_hellos s mid b
@[simp] theorem setFrozenBit_portCoef (mid : Nat) (b : Bool) : (setFrozenBit s mid b).portCoef = s.portCoef := setFrozenBit_apart apart_portCoef s mid b
@[simp] theorem setFrozenBit_trainFails (mid : Nat) (b : Bool) : (setFrozenBit s mid b).trainFails = s.trainFails := setFrozenBit_apart apart_trainFails s mid b
@[simp] theorem setFrozenBit_portDisabled (mid : Nat) (b : Bool) : (setFrozenBit s mid b).portDisabled = s.portDisabled := setFrozenBit_apart apart_portDisabled s mid b
@[simp] theorem setFrozenBit_coll (mid : Nat) (b : Bool) : (setFrozenBit s mid b).coll = s.coll := setFrozenBit_apart apart_coll s mid b
@[simp] theorem setFrozenBit_collNext (mid : Nat) (b : Bool) : (setFrozenBit s mid b).collNext = s.collNext := setFrozenBit_apart apart_collNext s mid b
@[simp] theorem setFrozenBit_closing (mid : Nat) (b : Bool) : (setFrozenBit s mid b).closing = s.closing := setFrozenBit_apart apart_closing s mid b
@[simp] theorem setFrozenBit_optWritten (mid : Nat) (b : Bool) : (setFrozenBit s mid b).optWritten = s.optWritten := setFrozenBit_apart apart_optWritten s mid b
@[simp] theorem setFrozenBit_optDue (mid : Nat) (b : Bool) : (setFrozenBit s mid b).optDue = s.optDue := setFrozenBit_apart apart_optDue s mid b
@[simp] theorem setFrozenBit_optWaited (mid : Nat) (b : Bool) : (setFrozenBit s mid b).optWaited = s.optWaited := setFrozenBit_apart apart_optWaited s mid b
@[simp] theorem setFrozenBit_mirHeader (mid : Nat) (b : Bool) : (setFrozenBit s mid b).mirHeader = s.mirHeader := setFrozenBit_apart apart_mirHeader s mid b
@[simp] theorem setFrozenBit_sealDue (mid : Nat) (b : Bool) : (setFrozenBit s mid b).sealDue = s.sealDue := setFrozenBit_apart apart_sealDue s mid b
@[simp] theorem setFrozenBit_recov (mid : Nat) (b : Bool) : (setFrozenBit s mid b).recov = s.recov := setFrozenBit_apart apart_recov s mid b
@[simp] theorem setFrozenBit_stepMsgs (mid : Nat) (b : Bool) : (setFrozenBit s mid b).stepMsgs = s.stepMsgs := setFrozenBit_apart apart_stepMsgs s mid b
@[simp] theorem setFrozenBit_rails (mid : Nat) (b : Bool) : (setFrozenBit s mid b).rails = s.rails := setFrozenBit_apart apart_rails s mid b
@[simp] theorem setFrozenBit_mnt (mid : Nat) (b : Bool) : (setFrozenBit s mid b).mnt = s.mnt := setFrozenBit_apart apart_mnt s mid b
@[simp] theorem setFrozenBit_cp (mid : Nat) (b : Bool) : (setFrozenBit s mid b).cp = s.cp := setFrozenBit_apart apart_cp s mid b
@[simp] theorem setFrozenBit_svc (mid : Nat) (b : Bool) : (setFrozenBit s mid b).svc = s.svc := setFrozenBit_apart apart_svc s mid b
@[simp] theorem setFrozenBit_bist (mid : Nat) (b : Bool) : (setFrozenBit s mid b).bist = s.bist := setFrozenBit_apart apart_bist s mid b
@[simp] theorem setFrozenBit_ticks (mid : Nat) (b : Bool) : (setFrozenBit s mid b).ticks = s.ticks := setFrozenBit_apart apart_ticks s mid b
@[simp] theorem setFrozenBit_trace (mid : Nat) (b : Bool) : (setFrozenBit s mid b).trace = s.trace := setFrozenBit_apart apart_trace s mid b
@[simp] theorem setFrozenBit_resp (mid : Nat) (b : Bool) : (setFrozenBit s mid b).resp = s.resp := setFrozenBit_apart apart_resp s mid b
@[simp] theorem setFrozenBit_free (mid : Nat) (b : Bool) : (setFrozenBit s mid b).free = s.free := setFrozenBit_apart apart_free s mid b

@[simp] theorem violLog_ctxs (mid cause : Nat) (addr : Word) : (violLog s mid cause addr).ctxs = s.ctxs := violLog_apart apart_ctxs s mid cause addr
@[simp] theorem violLog_cores (mid cause : Nat) (addr : Word) : (violLog s mid cause addr).cores = s.cores := violLog_apart apart_cores s mid cause addr
@[simp] theorem violLog_fb (mid cause : Nat) (addr : Word) : (violLog s mid cause addr).fb = s.fb := violLog_apart apart_fb s mid cause addr
@[simp] theorem violLog_sync (mid cause : Nat) (addr : Word) : (violLog s mid cause addr).sync = s.sync := violLog_apart apart_sync s mid cause addr
@[simp] theorem violLog_slots (mid cause : Nat) (addr : Word) : (violLog s mid cause addr).slots = s.slots := violLog_apart apart_slots s mid cause addr
@[simp] theorem violLog_toYoke (mid cause : Nat) (addr : Word) : (violLog s mid cause addr).toYoke = s.toYoke := violLog_apart apart_toYoke s mid cause addr
@[simp] theorem violLog_yokeWaits (mid cause : Nat) (addr : Word) : (violLog s mid cause addr).yokeWaits = s.yokeWaits := violLog_apart apart_yokeWaits s mid cause addr
@[simp] theorem violLog_releases (mid cause : Nat) (addr : Word) : (violLog s mid cause addr).releases = s.releases := violLog_apart apart_releases s mid cause addr
@[simp] theorem violLog_orphans (mid cause : Nat) (addr : Word) : (violLog s mid cause addr).orphans = s.orphans := violLog_apart apart_orphans s mid cause addr
@[simp] theorem violLog_est (mid cause : Nat) (addr : Word) : (violLog s mid cause addr).est = s.est := violLog_apart apart_est s mid cause addr
@[simp] theorem violLog_hemStopped (mid cause : Nat) (addr : Word) : (violLog s mid cause addr).hemStopped = s.hemStopped := violLog_apart apart_hemStopped s mid cause addr
@[simp] theorem violLog_resync (mid cause : Nat) (addr : Word) : (violLog s mid cause addr).resync = s.resync := violLog_apart apart_resync s mid cause addr
@[simp] theorem violLog_breached (mid cause : Nat) (addr : Word) : (violLog s mid cause addr).breached = s.breached := violLog_apart apart_breached s mid cause addr
@[simp] theorem violLog_katPages (mid cause : Nat) (addr : Word) : (violLog s mid cause addr).katPages = s.katPages := violLog_apart apart_katPages s mid cause addr
@[simp] theorem violLog_srFailed (mid cause : Nat) (addr : Word) : (violLog s mid cause addr).srFailed = s.srFailed := violLog_apart apart_srFailed s mid cause addr
@[simp] theorem violLog_srSick (mid cause : Nat) (addr : Word) : (violLog s mid cause addr).srSick = s.srSick := violLog_apart apart_srSick s mid cause addr
@[simp] theorem violLog_banks (mid cause : Nat) (addr : Word) : (violLog s mid cause addr).banks = s.banks := violLog_apart apart_banks s mid cause addr
@[simp] theorem violLog_arbs (mid cause : Nat) (addr : Word) : (violLog s mid cause addr).arbs = s.arbs := violLog_apart apart_arbs s mid cause addr
@[simp] theorem violLog_fab (mid cause : Nat) (addr : Word) : (violLog s mid cause addr).fab = s.fab := violLog_apart apart_fab s mid cause addr
@[simp] theorem violLog_seamRejects (mid cause : Nat) (addr : Word) : (violLog s mid cause addr).seamRejects = s.seamRejects := violLog_apart apart_seamRejects s mid cause addr
@[simp] theorem violLog_seamTests (mid cause : Nat) (addr : Word) : (violLog s mid cause addr).seamTests = s.seamTests := violLog_apart apart_seamTests s mid cause addr
@[simp] theorem violLog_partners (mid cause : Nat) (addr : Word) : (violLog s mid cause addr).partners = s.partners := violLog_apart apart_partners s mid cause addr
@[simp] theorem violLog_groups (mid cause : Nat) (addr : Word) : (violLog s mid cause addr).groups = s.groups := violLog_apart apart_groups s mid cause addr
@[simp] theorem violLog_linkSecret (mid cause : Nat) (addr : Word) : (violLog s mid cause addr).linkSecret = s.linkSecret := violLog_apart apart_linkSecret s mid cause addr
@[simp] theorem violLog_toEngine (mid cause : Nat) (addr : Word) : (violLog s mid cause addr).toEngine = s.toEngine := violLog_apart apart_toEngine s mid cause addr
@[simp] theorem violLog_outbox (mid cause : Nat) (addr : Word) : (violLog s mid cause addr).outbox = s.outbox := violLog_apart apart_outbox s mid cause addr
@[simp] theorem violLog_wire (mid cause : Nat) (addr : Word) : (violLog s mid cause addr).wire = s.wire := violLog_apart apart_wire s mid cause addr
@[simp] theorem violLog_wireHeld (mid cause : Nat) (addr : Word) : (violLog s mid cause addr).wireHeld = s.wireHeld := violLog_apart apart_wireHeld s mid cause addr
@[simp] theorem violLog_drr (mid cause : Nat) (addr : Word) : (violLog s mid cause addr).drr = s.drr := violLog_apart apart_drr s mid cause addr
@[simp] theorem violLog_hellos (mid cause : Nat) (addr : Word) : (violLog s mid cause addr).hellos = s.hellos := violLog_apart apart_hellos s mid cause addr
@[simp] theorem violLog_portCoef (mid cause : Nat) (addr : Word) : (violLog s mid cause addr).portCoef = s.portCoef := violLog_apart apart_portCoef s mid cause addr
@[simp] theorem violLog_trainFails (mid cause : Nat) (addr : Word) : (violLog s mid cause addr).trainFails = s.trainFails := violLog_apart apart_trainFails s mid cause addr
@[simp] theorem violLog_portDisabled (mid cause : Nat) (addr : Word) : (violLog s mid cause addr).portDisabled = s.portDisabled := violLog_apart apart_portDisabled s mid cause addr
@[simp] theorem violLog_coll (mid cause : Nat) (addr : Word) : (violLog s mid cause addr).coll = s.coll := violLog_apart apart_coll s mid cause addr
@[simp] theorem violLog_collNext (mid cause : Nat) (addr : Word) : (violLog s mid cause addr).collNext = s.collNext := violLog_apart apart_collNext s mid cause addr
@[simp] theorem violLog_closing (mid cause : Nat) (addr : Word) : (violLog s mid cause addr).closing = s.closing := violLog_apart apart_closing s mid cause addr
@[simp] theorem violLog_optWritten (mid cause : Nat) (addr : Word) : (violLog s mid cause addr).optWritten = s.optWritten := violLog_apart apart_optWritten s mid cause addr
@[simp] theorem violLog_optDue (mid cause : Nat) (addr : Word) : (violLog s mid cause addr).optDue = s.optDue := violLog_apart apart_optDue s mid cause addr
@[simp] theorem violLog_optWaited (mid cause : Nat) (addr : Word) : (violLog s mid cause addr).optWaited = s.optWaited := violLog_apart apart_optWaited s mid cause addr
@[simp] theorem violLog_mirHeader (mid cause : Nat) (addr : Word) : (violLog s mid cause addr).mirHeader = s.mirHeader := violLog_apart apart_mirHeader s mid cause addr
@[simp] theorem violLog_sealDue (mid cause : Nat) (addr : Word) : (violLog s mid cause addr).sealDue = s.sealDue := violLog_apart apart_sealDue s mid cause addr
@[simp] theorem violLog_recov (mid cause : Nat) (addr : Word) : (violLog s mid cause addr).recov = s.recov := violLog_apart apart_recov s mid cause addr
@[simp] theorem violLog_stepMsgs (mid cause : Nat) (addr : Word) : (violLog s mid cause addr).stepMsgs = s.stepMsgs := violLog_apart apart_stepMsgs s mid cause addr
@[simp] theorem violLog_rails (mid cause : Nat) (addr : Word) : (violLog s mid cause addr).rails = s.rails := violLog_apart apart_rails s mid cause addr
@[simp] theorem violLog_mnt (mid cause : Nat) (addr : Word) : (violLog s mid cause addr).mnt = s.mnt := violLog_apart apart_mnt s mid cause addr
@[simp] theorem violLog_cp (mid cause : Nat) (addr : Word) : (violLog s mid cause addr).cp = s.cp := violLog_apart apart_cp s mid cause addr
@[simp] theorem violLog_svc (mid cause : Nat) (addr : Word) : (violLog s mid cause addr).svc = s.svc := violLog_apart apart_svc s mid cause addr
@[simp] theorem violLog_bist (mid cause : Nat) (addr : Word) : (violLog s mid cause addr).bist = s.bist := violLog_apart apart_bist s mid cause addr
@[simp] theorem violLog_ticks (mid cause : Nat) (addr : Word) : (violLog s mid cause addr).ticks = s.ticks := violLog_apart apart_ticks s mid cause addr
@[simp] theorem violLog_trace (mid cause : Nat) (addr : Word) : (violLog s mid cause addr).trace = s.trace := violLog_apart apart_trace s mid cause addr
@[simp] theorem violLog_resp (mid cause : Nat) (addr : Word) : (violLog s mid cause addr).resp = s.resp := violLog_apart apart_resp s mid cause addr
@[simp] theorem violLog_free (mid cause : Nat) (addr : Word) : (violLog s mid cause addr).free = s.free := violLog_apart apart_free s mid cause addr

@[simp] theorem violation_ctxs (mid cause : Nat) (addr : Word) : (violation s mid cause addr).ctxs = s.ctxs := violation_apart apart_ctxs s mid cause addr
@[simp] theorem violation_cores (mid cause : Nat) (addr : Word) : (violation s mid cause addr).cores = s.cores := violation_apart apart_cores s mid cause addr
@[simp] theorem violation_fb (mid cause : Nat) (addr : Word) : (violation s mid cause addr).fb = s.fb := violation_apart apart_fb s mid cause addr
@[simp] theorem violation_sync (mid cause : Nat) (addr : Word) : (violation s mid cause addr).sync = s.sync := violation_apart apart_sync s mid cause addr
@[simp] theorem violation_slots (mid cause : Nat) (addr : Word) : (violation s mid cause addr).slots = s.slots := violation_apart apart_slots s mid cause addr
@[simp] theorem violation_toYoke (mid cause : Nat) (addr : Word) : (violation s mid cause addr).toYoke = s.toYoke := violation_apart apart_toYoke s mid cause addr
@[simp] theorem violation_yokeWaits (mid cause : Nat) (addr : Word) : (violation s mid cause addr).yokeWaits = s.yokeWaits := violation_apart apart_yokeWaits s mid cause addr
@[simp] theorem violation_releases (mid cause : Nat) (addr : Word) : (violation s mid cause addr).releases = s.releases := violation_apart apart_releases s mid cause addr
@[simp] theorem violation_orphans (mid cause : Nat) (addr : Word) : (violation s mid cause addr).orphans = s.orphans := violation_apart apart_orphans s mid cause addr
@[simp] theorem violation_est (mid cause : Nat) (addr : Word) : (violation s mid cause addr).est = s.est := violation_apart apart_est s mid cause addr
@[simp] theorem violation_hemStopped (mid cause : Nat) (addr : Word) : (violation s mid cause addr).hemStopped = s.hemStopped := violation_apart apart_hemStopped s mid cause addr
@[simp] theorem violation_resync (mid cause : Nat) (addr : Word) : (violation s mid cause addr).resync = s.resync := violation_apart apart_resync s mid cause addr
@[simp] theorem violation_breached (mid cause : Nat) (addr : Word) : (violation s mid cause addr).breached = s.breached := violation_apart apart_breached s mid cause addr
@[simp] theorem violation_katPages (mid cause : Nat) (addr : Word) : (violation s mid cause addr).katPages = s.katPages := violation_apart apart_katPages s mid cause addr
@[simp] theorem violation_srFailed (mid cause : Nat) (addr : Word) : (violation s mid cause addr).srFailed = s.srFailed := violation_apart apart_srFailed s mid cause addr
@[simp] theorem violation_srSick (mid cause : Nat) (addr : Word) : (violation s mid cause addr).srSick = s.srSick := violation_apart apart_srSick s mid cause addr
@[simp] theorem violation_banks (mid cause : Nat) (addr : Word) : (violation s mid cause addr).banks = s.banks := violation_apart apart_banks s mid cause addr
@[simp] theorem violation_arbs (mid cause : Nat) (addr : Word) : (violation s mid cause addr).arbs = s.arbs := violation_apart apart_arbs s mid cause addr
@[simp] theorem violation_fab (mid cause : Nat) (addr : Word) : (violation s mid cause addr).fab = s.fab := violation_apart apart_fab s mid cause addr
@[simp] theorem violation_seamRejects (mid cause : Nat) (addr : Word) : (violation s mid cause addr).seamRejects = s.seamRejects := violation_apart apart_seamRejects s mid cause addr
@[simp] theorem violation_seamTests (mid cause : Nat) (addr : Word) : (violation s mid cause addr).seamTests = s.seamTests := violation_apart apart_seamTests s mid cause addr
@[simp] theorem violation_partners (mid cause : Nat) (addr : Word) : (violation s mid cause addr).partners = s.partners := violation_apart apart_partners s mid cause addr
@[simp] theorem violation_groups (mid cause : Nat) (addr : Word) : (violation s mid cause addr).groups = s.groups := violation_apart apart_groups s mid cause addr
@[simp] theorem violation_linkSecret (mid cause : Nat) (addr : Word) : (violation s mid cause addr).linkSecret = s.linkSecret := violation_apart apart_linkSecret s mid cause addr
@[simp] theorem violation_toEngine (mid cause : Nat) (addr : Word) : (violation s mid cause addr).toEngine = s.toEngine := violation_apart apart_toEngine s mid cause addr
@[simp] theorem violation_outbox (mid cause : Nat) (addr : Word) : (violation s mid cause addr).outbox = s.outbox := violation_apart apart_outbox s mid cause addr
@[simp] theorem violation_wire (mid cause : Nat) (addr : Word) : (violation s mid cause addr).wire = s.wire := violation_apart apart_wire s mid cause addr
@[simp] theorem violation_wireHeld (mid cause : Nat) (addr : Word) : (violation s mid cause addr).wireHeld = s.wireHeld := violation_apart apart_wireHeld s mid cause addr
@[simp] theorem violation_drr (mid cause : Nat) (addr : Word) : (violation s mid cause addr).drr = s.drr := violation_apart apart_drr s mid cause addr
@[simp] theorem violation_hellos (mid cause : Nat) (addr : Word) : (violation s mid cause addr).hellos = s.hellos := violation_apart apart_hellos s mid cause addr
@[simp] theorem violation_portCoef (mid cause : Nat) (addr : Word) : (violation s mid cause addr).portCoef = s.portCoef := violation_apart apart_portCoef s mid cause addr
@[simp] theorem violation_trainFails (mid cause : Nat) (addr : Word) : (violation s mid cause addr).trainFails = s.trainFails := violation_apart apart_trainFails s mid cause addr
@[simp] theorem violation_portDisabled (mid cause : Nat) (addr : Word) : (violation s mid cause addr).portDisabled = s.portDisabled := violation_apart apart_portDisabled s mid cause addr
@[simp] theorem violation_coll (mid cause : Nat) (addr : Word) : (violation s mid cause addr).coll = s.coll := violation_apart apart_coll s mid cause addr
@[simp] theorem violation_collNext (mid cause : Nat) (addr : Word) : (violation s mid cause addr).collNext = s.collNext := violation_apart apart_collNext s mid cause addr
@[simp] theorem violation_closing (mid cause : Nat) (addr : Word) : (violation s mid cause addr).closing = s.closing := violation_apart apart_closing s mid cause addr
@[simp] theorem violation_optWritten (mid cause : Nat) (addr : Word) : (violation s mid cause addr).optWritten = s.optWritten := violation_apart apart_optWritten s mid cause addr
@[simp] theorem violation_optDue (mid cause : Nat) (addr : Word) : (violation s mid cause addr).optDue = s.optDue := violation_apart apart_optDue s mid cause addr
@[simp] theorem violation_optWaited (mid cause : Nat) (addr : Word) : (violation s mid cause addr).optWaited = s.optWaited := violation_apart apart_optWaited s mid cause addr
@[simp] theorem violation_mirHeader (mid cause : Nat) (addr : Word) : (violation s mid cause addr).mirHeader = s.mirHeader := violation_apart apart_mirHeader s mid cause addr
@[simp] theorem violation_sealDue (mid cause : Nat) (addr : Word) : (violation s mid cause addr).sealDue = s.sealDue := violation_apart apart_sealDue s mid cause addr
@[simp] theorem violation_recov (mid cause : Nat) (addr : Word) : (violation s mid cause addr).recov = s.recov := violation_apart apart_recov s mid cause addr
@[simp] theorem violation_stepMsgs (mid cause : Nat) (addr : Word) : (violation s mid cause addr).stepMsgs = s.stepMsgs := violation_apart apart_stepMsgs s mid cause addr
@[simp] theorem violation_rails (mid cause : Nat) (addr : Word) : (violation s mid cause addr).rails = s.rails := violation_apart apart_rails s mid cause addr
@[simp] theorem violation_mnt (mid cause : Nat) (addr : Word) : (violation s mid cause addr).mnt = s.mnt := violation_apart apart_mnt s mid cause addr
@[simp] theorem violation_cp (mid cause : Nat) (addr : Word) : (violation s mid cause addr).cp = s.cp := violation_apart apart_cp s mid cause addr
@[simp] theorem violation_svc (mid cause : Nat) (addr : Word) : (violation s mid cause addr).svc = s.svc := violation_apart apart_svc s mid cause addr
@[simp] theorem violation_bist (mid cause : Nat) (addr : Word) : (violation s mid cause addr).bist = s.bist := violation_apart apart_bist s mid cause addr
@[simp] theorem violation_ticks (mid cause : Nat) (addr : Word) : (violation s mid cause addr).ticks = s.ticks := violation_apart apart_ticks s mid cause addr
@[simp] theorem violation_trace (mid cause : Nat) (addr : Word) : (violation s mid cause addr).trace = s.trace := violation_apart apart_trace s mid cause addr
@[simp] theorem violation_resp (mid cause : Nat) (addr : Word) : (violation s mid cause addr).resp = s.resp := violation_apart apart_resp s mid cause addr
@[simp] theorem violation_free (mid cause : Nat) (addr : Word) : (violation s mid cause addr).free = s.free := violation_apart apart_free s mid cause addr

@[simp] theorem countNum_ctxs (page : Nat) (e : NumEv) (n : Nat) : (countNum s page e n).ctxs = s.ctxs := countNum_apart apart_ctxs s page e n
@[simp] theorem countNum_cores (page : Nat) (e : NumEv) (n : Nat) : (countNum s page e n).cores = s.cores := countNum_apart apart_cores s page e n
@[simp] theorem countNum_fb (page : Nat) (e : NumEv) (n : Nat) : (countNum s page e n).fb = s.fb := countNum_apart apart_fb s page e n
@[simp] theorem countNum_sync (page : Nat) (e : NumEv) (n : Nat) : (countNum s page e n).sync = s.sync := countNum_apart apart_sync s page e n
@[simp] theorem countNum_slots (page : Nat) (e : NumEv) (n : Nat) : (countNum s page e n).slots = s.slots := countNum_apart apart_slots s page e n
@[simp] theorem countNum_toYoke (page : Nat) (e : NumEv) (n : Nat) : (countNum s page e n).toYoke = s.toYoke := countNum_apart apart_toYoke s page e n
@[simp] theorem countNum_yokeWaits (page : Nat) (e : NumEv) (n : Nat) : (countNum s page e n).yokeWaits = s.yokeWaits := countNum_apart apart_yokeWaits s page e n
@[simp] theorem countNum_releases (page : Nat) (e : NumEv) (n : Nat) : (countNum s page e n).releases = s.releases := countNum_apart apart_releases s page e n
@[simp] theorem countNum_orphans (page : Nat) (e : NumEv) (n : Nat) : (countNum s page e n).orphans = s.orphans := countNum_apart apart_orphans s page e n
@[simp] theorem countNum_est (page : Nat) (e : NumEv) (n : Nat) : (countNum s page e n).est = s.est := countNum_apart apart_est s page e n
@[simp] theorem countNum_hemStopped (page : Nat) (e : NumEv) (n : Nat) : (countNum s page e n).hemStopped = s.hemStopped := countNum_apart apart_hemStopped s page e n
@[simp] theorem countNum_resync (page : Nat) (e : NumEv) (n : Nat) : (countNum s page e n).resync = s.resync := countNum_apart apart_resync s page e n
@[simp] theorem countNum_breached (page : Nat) (e : NumEv) (n : Nat) : (countNum s page e n).breached = s.breached := countNum_apart apart_breached s page e n
@[simp] theorem countNum_katPages (page : Nat) (e : NumEv) (n : Nat) : (countNum s page e n).katPages = s.katPages := countNum_apart apart_katPages s page e n
@[simp] theorem countNum_srFailed (page : Nat) (e : NumEv) (n : Nat) : (countNum s page e n).srFailed = s.srFailed := countNum_apart apart_srFailed s page e n
@[simp] theorem countNum_srSick (page : Nat) (e : NumEv) (n : Nat) : (countNum s page e n).srSick = s.srSick := countNum_apart apart_srSick s page e n
@[simp] theorem countNum_banks (page : Nat) (e : NumEv) (n : Nat) : (countNum s page e n).banks = s.banks := countNum_apart apart_banks s page e n
@[simp] theorem countNum_arbs (page : Nat) (e : NumEv) (n : Nat) : (countNum s page e n).arbs = s.arbs := countNum_apart apart_arbs s page e n
@[simp] theorem countNum_fab (page : Nat) (e : NumEv) (n : Nat) : (countNum s page e n).fab = s.fab := countNum_apart apart_fab s page e n
@[simp] theorem countNum_seamRejects (page : Nat) (e : NumEv) (n : Nat) : (countNum s page e n).seamRejects = s.seamRejects := countNum_apart apart_seamRejects s page e n
@[simp] theorem countNum_seamTests (page : Nat) (e : NumEv) (n : Nat) : (countNum s page e n).seamTests = s.seamTests := countNum_apart apart_seamTests s page e n
@[simp] theorem countNum_partners (page : Nat) (e : NumEv) (n : Nat) : (countNum s page e n).partners = s.partners := countNum_apart apart_partners s page e n
@[simp] theorem countNum_groups (page : Nat) (e : NumEv) (n : Nat) : (countNum s page e n).groups = s.groups := countNum_apart apart_groups s page e n
@[simp] theorem countNum_linkSecret (page : Nat) (e : NumEv) (n : Nat) : (countNum s page e n).linkSecret = s.linkSecret := countNum_apart apart_linkSecret s page e n
@[simp] theorem countNum_toEngine (page : Nat) (e : NumEv) (n : Nat) : (countNum s page e n).toEngine = s.toEngine := countNum_apart apart_toEngine s page e n
@[simp] theorem countNum_outbox (page : Nat) (e : NumEv) (n : Nat) : (countNum s page e n).outbox = s.outbox := countNum_apart apart_outbox s page e n
@[simp] theorem countNum_wire (page : Nat) (e : NumEv) (n : Nat) : (countNum s page e n).wire = s.wire := countNum_apart apart_wire s page e n
@[simp] theorem countNum_wireHeld (page : Nat) (e : NumEv) (n : Nat) : (countNum s page e n).wireHeld = s.wireHeld := countNum_apart apart_wireHeld s page e n
@[simp] theorem countNum_drr (page : Nat) (e : NumEv) (n : Nat) : (countNum s page e n).drr = s.drr := countNum_apart apart_drr s page e n
@[simp] theorem countNum_hellos (page : Nat) (e : NumEv) (n : Nat) : (countNum s page e n).hellos = s.hellos := countNum_apart apart_hellos s page e n
@[simp] theorem countNum_portCoef (page : Nat) (e : NumEv) (n : Nat) : (countNum s page e n).portCoef = s.portCoef := countNum_apart apart_portCoef s page e n
@[simp] theorem countNum_trainFails (page : Nat) (e : NumEv) (n : Nat) : (countNum s page e n).trainFails = s.trainFails := countNum_apart apart_trainFails s page e n
@[simp] theorem countNum_portDisabled (page : Nat) (e : NumEv) (n : Nat) : (countNum s page e n).portDisabled = s.portDisabled := countNum_apart apart_portDisabled s page e n
@[simp] theorem countNum_coll (page : Nat) (e : NumEv) (n : Nat) : (countNum s page e n).coll = s.coll := countNum_apart apart_coll s page e n
@[simp] theorem countNum_collNext (page : Nat) (e : NumEv) (n : Nat) : (countNum s page e n).collNext = s.collNext := countNum_apart apart_collNext s page e n
@[simp] theorem countNum_closing (page : Nat) (e : NumEv) (n : Nat) : (countNum s page e n).closing = s.closing := countNum_apart apart_closing s page e n
@[simp] theorem countNum_optWritten (page : Nat) (e : NumEv) (n : Nat) : (countNum s page e n).optWritten = s.optWritten := countNum_apart apart_optWritten s page e n
@[simp] theorem countNum_optDue (page : Nat) (e : NumEv) (n : Nat) : (countNum s page e n).optDue = s.optDue := countNum_apart apart_optDue s page e n
@[simp] theorem countNum_optWaited (page : Nat) (e : NumEv) (n : Nat) : (countNum s page e n).optWaited = s.optWaited := countNum_apart apart_optWaited s page e n
@[simp] theorem countNum_mirHeader (page : Nat) (e : NumEv) (n : Nat) : (countNum s page e n).mirHeader = s.mirHeader := countNum_apart apart_mirHeader s page e n
@[simp] theorem countNum_sealDue (page : Nat) (e : NumEv) (n : Nat) : (countNum s page e n).sealDue = s.sealDue := countNum_apart apart_sealDue s page e n
@[simp] theorem countNum_recov (page : Nat) (e : NumEv) (n : Nat) : (countNum s page e n).recov = s.recov := countNum_apart apart_recov s page e n
@[simp] theorem countNum_stepMsgs (page : Nat) (e : NumEv) (n : Nat) : (countNum s page e n).stepMsgs = s.stepMsgs := countNum_apart apart_stepMsgs s page e n
@[simp] theorem countNum_rails (page : Nat) (e : NumEv) (n : Nat) : (countNum s page e n).rails = s.rails := countNum_apart apart_rails s page e n
@[simp] theorem countNum_mnt (page : Nat) (e : NumEv) (n : Nat) : (countNum s page e n).mnt = s.mnt := countNum_apart apart_mnt s page e n
@[simp] theorem countNum_cp (page : Nat) (e : NumEv) (n : Nat) : (countNum s page e n).cp = s.cp := countNum_apart apart_cp s page e n
@[simp] theorem countNum_svc (page : Nat) (e : NumEv) (n : Nat) : (countNum s page e n).svc = s.svc := countNum_apart apart_svc s page e n
@[simp] theorem countNum_bist (page : Nat) (e : NumEv) (n : Nat) : (countNum s page e n).bist = s.bist := countNum_apart apart_bist s page e n
@[simp] theorem countNum_ticks (page : Nat) (e : NumEv) (n : Nat) : (countNum s page e n).ticks = s.ticks := countNum_apart apart_ticks s page e n
@[simp] theorem countNum_trace (page : Nat) (e : NumEv) (n : Nat) : (countNum s page e n).trace = s.trace := countNum_apart apart_trace s page e n
@[simp] theorem countNum_resp (page : Nat) (e : NumEv) (n : Nat) : (countNum s page e n).resp = s.resp := countNum_apart apart_resp s page e n
@[simp] theorem countNum_free (page : Nat) (e : NumEv) (n : Nat) : (countNum s page e n).free = s.free := countNum_apart apart_free s page e n

end Sys2Proof.Machine
end

