-- ==== Sys2Proof/Laws/Regs.lean ====
section
/-! SUPPORT. Reads of registers after writes: whole words, fields and bits; what the shared operations (counts, events, Buttons, freezing)
leave alone. -/
namespace Sys2Proof.Machine

/-! ## Bits and fields of a word -/

theorem getLsbD_maskHL (hi lo i : Nat) (h : hi < 64) : (maskHL hi lo).getLsbD i = decide (lo ≤ i ∧ i ≤ hi) := by
  unfold maskHL
  rw [BitVec.getLsbD_ofNat, Nat.testBit_shiftLeft, Nat.testBit_two_pow_sub_one]
  by_cases h1 : lo ≤ i <;> by_cases h2 : i ≤ hi <;> simp [h1, h2] <;> omega

theorem getLsbD_setBits (v : Word) (hi lo n i : Nat) (h : hi < 64) :
    (setBits v hi lo n).getLsbD i = if lo ≤ i ∧ i ≤ hi then n.testBit (i - lo) else v.getLsbD i := by
  unfold setBits
  simp only [BitVec.getLsbD_or, BitVec.getLsbD_and, BitVec.getLsbD_not, getLsbD_maskHL _ _ _ h, BitVec.getLsbD_ofNat,
    Nat.testBit_shiftLeft]
  by_cases hi64 : i < 64
  · by_cases hr : lo ≤ i ∧ i ≤ hi
    · simp [hr, hi64]
    · simp [hr, hi64]
  · have : ¬(lo ≤ i ∧ i ≤ hi) := by omega
    simp [hi64, this, BitVec.getLsbD_of_ge v i (by omega)]

theorem bits_eq_iff {w : Nat} (v : BitVec w) (hi lo n : Nat) (hl : lo ≤ hi) :
    bits v hi lo = n % 2 ^ (hi + 1 - lo) ↔ ∀ i, lo ≤ i → i ≤ hi → v.getLsbD i = n.testBit (i - lo) := by
  unfold bits
  rw [Nat.shiftRight_eq_div_pow]
  constructor
  · intro h i h1 h2
    have := congrArg (fun x => x.testBit (i - lo)) h
    simp only [Nat.testBit_mod_two_pow, Nat.testBit_div_two_pow] at this
    have h3 : i - lo < hi + 1 - lo := by omega
    simp only [h3, decide_true, Bool.true_and, Nat.sub_add_cancel h1] at this
    simpa [BitVec.getLsbD] using this
  · intro h
    apply Nat.eq_of_testBit_eq
    intro j
    simp only [Nat.testBit_mod_two_pow, Nat.testBit_div_two_pow]
    by_cases hj : j < hi + 1 - lo
    · have := h (j + lo) (by omega) (by omega)
      simp only [hj, decide_true, Bool.true_and]
      simpa [BitVec.getLsbD, Nat.add_comm] using this
    · simp [hj]

@[simp] theorem bits_setBits_self (v : Word) (hi lo n : Nat) (h : hi < 64) (hl : lo ≤ hi) : bits (setBits v hi lo n) hi lo = n % 2 ^ (hi + 1 - lo) := by
  rw [bits_eq_iff _ _ _ _ hl]
  intro i h1 h2
  simp [getLsbD_setBits _ _ _ _ _ h, h1, h2]

theorem bits_congr {w : Nat} (u v : BitVec w) (hi lo : Nat) (hl : lo ≤ hi) (h : ∀ i, lo ≤ i → i ≤ hi → u.getLsbD i = v.getLsbD i) : bits u hi lo = bits v hi lo := by
  have e : bits v hi lo = bits v hi lo % 2 ^ (hi + 1 - lo) := by simp [bits]
  rw [e, bits_eq_iff _ _ _ _ hl]
  intro i h1 h2
  rw [h i h1 h2]
  exact (bits_eq_iff v hi lo _ hl).1 e i h1 h2

/-- A field apart from the one written keeps its value. -/
theorem bits_setBits_apart (v : Word) (hi lo n hi' lo' : Nat) (h : hi < 64) (hl : lo' ≤ hi') (hd : hi < lo' ∨ hi' < lo) :
    bits (setBits v hi lo n) hi' lo' = bits v hi' lo' := by
  apply bits_congr _ _ _ _ hl
  intro i h1 h2
  rw [getLsbD_setBits _ _ _ _ _ h, if_neg (by omega)]

@[simp] theorem bitAt_setBit_self (v : Word) (i : Nat) (b : Bool) (h : i < 64) : bitAt (setBit v i b) i = b := by
  unfold bitAt setBit
  rw [getLsbD_setBits _ _ _ _ _ h]
  cases b <;> simp

theorem bitAt_setBit_ne (v : Word) (i j : Nat) (b : Bool) (h : i < 64) (hj : j ≠ i) : bitAt (setBit v i b) j = bitAt v j := by
  unfold bitAt setBit
  rw [getLsbD_setBits _ _ _ _ _ h, if_neg (by omega)]

theorem bitAt_setBits_apart (v : Word) (hi lo n j : Nat) (h : hi < 64) (hd : j < lo ∨ hi < j) : bitAt (setBits v hi lo n) j = bitAt v j := by
  unfold bitAt
  rw [getLsbD_setBits _ _ _ _ _ h, if_neg (by omega)]

theorem bits_setBit_apart (v : Word) (i : Nat) (b : Bool) (hi lo : Nat) (h : i < 64) (hl : lo ≤ hi) (hd : i < lo ∨ hi < i) :
    bits (setBit v i b) hi lo = bits v hi lo := by
  unfold setBit
  exact bits_setBits_apart _ _ _ _ _ _ h hl hd

/-! ## Registers -/

theorem rd_wr (s : State) (k : Nat) (v : Word) (j : Nat) : rd (wr s k v) j = if j = k then v else rd s j := by
  unfold rd wr
  exact tabGet_tabSet _ _ _ _
@[simp] theorem rd_wr_self (s : State) (k : Nat) (v : Word) : rd (wr s k v) k = v := by simp [rd_wr]
theorem rd_wr_ne (s : State) {k j : Nat} (v : Word) (h : j ≠ k) : rd (wr s k v) j = rd s j := by simp [rd_wr, h]
theorem rd_congr {s t : State} (h : t.regs = s.regs) (k : Nat) : rd t k = rd s k := by rw [rd, rd, h]
theorem rdB_congr {s t : State} (h : t.regs = s.regs) (k b : Nat) : rdB t k b = rdB s k b := by rw [rdB, rdB, rd_congr h]
theorem rdF_congr {s t : State} (h : t.regs = s.regs) (k hi lo : Nat) : rdF t k hi lo = rdF s k hi lo := by rw [rdF, rdF, rd_congr h]
@[simp] theorem rd_setResp (s : State) (r : Resp) (k : Nat) : rd (setResp s r) k = rd s k := rfl
@[simp] theorem rd_setCtx (s : State) (c x : Nat) (v : Ctx) (k : Nat) : rd (setCtx s c x v) k = rd s k := rfl
@[simp] theorem rd_modCtx (s : State) (c x : Nat) (f : Ctx → Ctx) (k : Nat) : rd (modCtx s c x f) k = rd s k := rfl
@[simp] theorem rd_setCore (s : State) (c : Nat) (v : CoreSt) (k : Nat) : rd (setCore s c v) k = rd s k := rfl
@[simp] theorem rd_modCore (s : State) (c : Nat) (f : CoreSt → CoreSt) (k : Nat) : rd (modCore s c f) k = rd s k := rfl
@[simp] theorem rd_setFb (s : State) (c e : Nat) (v : FbEntry) (k : Nat) : rd (setFb s c e v) k = rd s k := rfl
@[simp] theorem rd_setSync (s : State) (w : Nat) (v : SyncFlags) (k : Nat) : rd (setSync s w v) k = rd s k := rfl
@[simp] theorem rd_setSlot (s : State) (n : Nat) (v : SlotSt) (k : Nat) : rd (setSlot s n v) k = rd s k := rfl
theorem rd_wrF_ne (s : State) {k j : Nat} (hi lo n : Nat) (h : j ≠ k) : rd (wrF s k hi lo n) j = rd s j := rd_wr_ne _ _ h
theorem rd_wrB_ne (s : State) {k j : Nat} (b : Nat) (v : Bool) (h : j ≠ k) : rd (wrB s k b v) j = rd s j := rd_wr_ne _ _ h
@[simp] theorem rdB_wrB_self (s : State) (k b : Nat) (v : Bool) (h : b < 64) : rdB (wrB s k b v) k b = v := by
  simp [rdB, wrB, h]
@[simp] theorem rdF_wrF_self (s : State) (k hi lo n : Nat) (h : hi < 64) (hl : lo ≤ hi) : rdF (wrF s k hi lo n) k hi lo = n % 2 ^ (hi + 1 - lo) := by
  simp [rdF, wrF, h, hl]
theorem rdB_wrB_ne (s : State) (k b j : Nat) (v : Bool) (h : b < 64) (hj : j ≠ b) : rdB (wrB s k b v) k j = rdB s k j := by
  simp [rdB, wrB, bitAt_setBit_ne _ _ _ _ h hj]
theorem rdB_wrF_apart (s : State) (k hi lo n j : Nat) (h : hi < 64) (hd : j < lo ∨ hi < j) : rdB (wrF s k hi lo n) k j = rdB s k j := by
  simp [rdB, wrF, bitAt_setBits_apart _ _ _ _ _ h hd]
theorem rdF_wrB_apart (s : State) (k b : Nat) (v : Bool) (hi lo : Nat) (h : b < 64) (hl : lo ≤ hi) (hd : b < lo ∨ hi < b) :
    rdF (wrB s k b v) k hi lo = rdF s k hi lo := by
  simp [rdF, wrB, bits_setBit_apart _ _ _ _ _ h hl hd]
theorem rdF_wrF_apart (s : State) (k hi lo n hi' lo' : Nat) (h : hi < 64) (hl : lo' ≤ hi') (hd : hi < lo' ∨ hi' < lo) :
    rdF (wrF s k hi lo n) k hi' lo' = rdF s k hi' lo' := by
  simp [rdF, wrF, bits_setBits_apart _ _ _ _ _ _ h hl hd]
theorem rdB_of_rd {s t : State} {k : Nat} (h : rd t k = rd s k) (b : Nat) : rdB t k b = rdB s k b := by rw [rdB, rdB, h]
theorem rdF_of_rd {s t : State} {k : Nat} (h : rd t k = rd s k) (hi lo : Nat) : rdF t k hi lo = rdF s k hi lo := by rw [rdF, rdF, h]

/-! ## What events and counts leave alone

A register is plain where no event, Button or wake writes it. -/

theorem plain_ne_btn {k : Nat} (h : plainKey k) {mid off : Nat} (hm : mid < 1024) (ho : 0x100 ≤ off ∧ off < 4096) : k ≠ reg (pgBtn mid) off := by
  rintro rfl
  have := h.2.2.1
  simp only [reg, pgBtn] at this
  omega

theorem plain_ne_stat {k : Nat} (h : plainKey k) (page : Nat) : k ≠ reg page R_BLK_STAT := by
  rintro rfl
  have := h.1
  simp only [reg, R_BLK_STAT] at this
  omega

theorem plain_ne_evt {k : Nat} (h : plainKey k) (page : Nat) : k ≠ reg page R_BLK_EVT := by
  rintro rfl
  have := h.2.1
  simp only [reg, R_BLK_EVT] at this
  omega

theorem plain_ne_dom {k : Nat} (h : plainKey k) (d : Nat) (hd : d < 50) : k ≠ kDom d := by
  rintro rfl
  have h2 := h.2.2.2
  have e2 : kDom d % 4096 = R_PWR_DOMAIN + 8 * d := by
    unfold kDom reg pgPwr
    rw [Nat.add_comm, Nat.add_mul_mod_self_right, Nat.mod_eq_of_lt]
    unfold R_PWR_DOMAIN; omega
  have hp : domPanel d < 4 := by unfold domPanel; (repeat' split) <;> omega
  have hr : R_PWR_DOMAIN + 8 * d < 4096 := by unfold R_PWR_DOMAIN; omega
  have e : kDom d / 4096 = 0x5400 + domPanel d := by
    unfold kDom reg pgPwr
    rw [Nat.add_comm, Nat.add_mul_div_right _ _ (by decide), Nat.div_eq_of_lt hr, Nat.zero_add]
  rw [e, e2] at h2
  omega

@[simp] theorem rd_bumpReg_ne (s : State) {k j : Nat} (n : Nat) (h : j ≠ k) : rd (bumpReg s k n) j = rd s j := rd_wr_ne _ _ h

theorem rd_markSat (s : State) (page : Nat) {k : Nat} (h : plainKey k) : rd (markSat s page) k = rd s k := by
  simp [markSat, wrB, rd_wr, plain_ne_stat h, plain_ne_evt h]

theorem rd_bumpBtn (s : State) {mid off k : Nat} (h : plainKey k) (hm : mid < 1024) (ho : 0x100 ≤ off ∧ off < 4096) : rd (bumpBtn s mid off) k = rd s k := by
  simp only [bumpBtn]
  split
  · rw [rd_markSat _ _ h, rd_bumpReg_ne _ _ (plain_ne_btn h hm ho)]
  · rw [rd_bumpReg_ne _ _ (plain_ne_btn h hm ho)]

theorem hasButtons_lt {mid : Nat} (h : hasButtons mid = true) : mid < 0xF1 := by
  simp [hasButtons] at h; omega

theorem midDomain_lt (mid : Nat) : midDomain mid < 50 := by
  unfold midDomain
  (repeat' split) <;> omega

theorem rd_btnWake (s : State) {mid k : Nat} (h : plainKey k) : rd (btnWake s mid) k = rd s k := by
  have hd : ∀ d, d < 50 → k ≠ kDom d := plain_ne_dom h
  unfold btnWake
  split
  · rfl
  · dsimp only
    split
    · rw [rd_wrF_ne _ _ _ _ (hd _ (midDomain_lt _)), rd_wrF_ne _ _ _ _ (hd _ (midDomain_lt _))]
      rfl
    · rfl

theorem rd_ringSet (s : State) {mid b k : Nat} (h : plainKey k) (hm : mid < 1024) : rd (ringSet s mid b) k = rd s k := by
  have hp := plain_ne_btn h hm (off := R_BTN_PEND) (by decide)
  unfold ringSet
  extract_lets kp t1 masked t2
  have h1 : rd t1 k = rd s k := by
    rw [rd_bumpBtn _ h hm (show 0x100 ≤ R_BTN_RING_CNT ∧ R_BTN_RING_CNT < 4096 by decide), rd_wrB_ne _ _ _ hp]
  have h2 : rd t2 k = rd s k := by
    show rd (if _ then _ else _) k = _
    split
    · rw [rd_wrB_ne _ _ _ (plain_ne_evt h _), h1]
    · exact h1
  clear_value t1 t2
  split
  · rw [rd_btnWake _ h]
    exact rd_bumpBtn s h hm (show 0x100 ≤ R_BTN_MERGE_CNT ∧ R_BTN_MERGE_CNT < 4096 by decide)
  · rw [rd_btnWake _ h]
    split
    · exact h2
    · exact h2

@[simp] theorem rd_ringBtn (s : State) (mid b : Nat) (m : Bool) {k : Nat} (h : plainKey k) : rd (ringBtn s mid b m) k = rd s k := by
  unfold ringBtn
  split
  · rfl
  · next hb =>
    have hm : mid < 1024 := by
      have := hasButtons_lt (mid := mid) (by simpa using hb)
      omega
    split
    · exact rd_bumpBtn s h hm (show 0x100 ≤ R_BTN_DROP_CNT ∧ R_BTN_DROP_CNT < 4096 by decide)
    · split
      · exact rd_bumpBtn s h hm (show 0x100 ≤ R_BTN_DROP_CNT ∧ R_BTN_DROP_CNT < 4096 by decide)
      · exact rd_ringSet s h hm

@[simp] theorem rd_raiseEvt (s : State) (page b : Nat) {k : Nat} (h : plainKey k) : rd (raiseEvt s page b) k = rd s k := by
  have e : rd (wrB s (reg (mainPage page) R_BLK_EVT) b true) k = rd s k := rd_wrB_ne _ _ _ (plain_ne_evt h _)
  simp only [raiseEvt]
  split
  · exact e
  · split
    · rw [rd_ringBtn _ _ _ _ h, e]
    · exact e

theorem rd_bumpN (s : State) (page off n : Nat) {k : Nat} (h : plainKey k) (hk : k ≠ reg page off) : rd (bumpN s page off n) k = rd s k := by
  simp only [bumpN]
  split
  · rw [rd_raiseEvt _ _ _ h, rd_wrB_ne _ _ _ (plain_ne_stat h _), rd_bumpReg_ne _ _ hk]
  · rw [rd_bumpReg_ne _ _ hk]

/-- A count goes up by `n` and stops at its maximum (R26). -/
theorem rd_bumpN_self (s : State) (page off n : Nat) (h : plainKey (reg page off)) :
    rd (bumpN s page off n) (reg page off) = w64 (min ((rd s (reg page off)).toNat + n) maxWord) := by
  simp only [bumpN]
  split
  · rw [rd_raiseEvt _ _ _ h, rd_wrB_ne _ _ _ (plain_ne_stat h _)]
    simp [bumpReg]
  · simp [bumpReg]

theorem plain_hdr (page : Nat) {off : Nat} (h : off < 0x100) (h1 : off ≠ R_BLK_STAT) (h2 : off ≠ R_BLK_EVT) : plainKey (reg page off) := by
  unfold plainKey reg
  rw [Nat.add_comm, Nat.add_mul_mod_self_right, Nat.mod_eq_of_lt (by omega)]
  exact ⟨h1, h2, fun _ => h, fun _ => by unfold R_PWR_DOMAIN; omega⟩
theorem rd_bump (s : State) (page off : Nat) {k : Nat} (h : plainKey k) (hk : k ≠ reg page off) : rd (bump s page off) k = rd s k := rd_bumpN _ _ _ _ h hk
theorem rd_bump_self (s : State) (page off : Nat) (h : plainKey (reg page off)) :
    rd (bump s page off) (reg page off) = w64 (min ((rd s (reg page off)).toNat + 1) maxWord) := rd_bumpN_self _ _ _ _ h

/-- The bits of a register of BLK_EVT stay set when an event is raised. -/
theorem rdB_raiseEvt_btnpage (s : State) (page b : Nat) (h : mainPage page / 1024 = 6) (hb : b < 64) :
    rdB (raiseEvt s page b) (reg (mainPage page) R_BLK_EVT) b = true := by
  simp [raiseEvt, h, hb]

end Sys2Proof.Machine
end

