-- ==== Sys2Proof/Laws/Guard.lean ====
section
/-! SUPPORT. What a register write by a master does, once for every command that is one. -/
namespace Sys2Proof.Machine

/-- A write that is performed: counted, answered, and its effect. -/
theorem MayWrite.guard {s : State} {mid page off : Nat} {v : Word} (h : MayWrite s mid page off v) (act : State → State) :
    guardWrite s mid page off v act = act (setResp (bumpHdr s page R_BLK_WR_CNT) .ok) := by
  unfold guardWrite
  rw [if_neg (by simp [h.1]), h.2]

/-- A violating write. -/
theorem guardWrite_violation {s : State} {mid page off cause : Nat} {v : Word} (hm : isMaster mid = true)
    (h : verdict s mid page off v = .violation cause) (act : State → State) :
    guardWrite s mid page off v act = pageViolation s mid page off cause := by
  unfold guardWrite
  rw [if_neg (by simp [hm]), h]

/-- The state in which the effect of a performed write takes place. -/
abbrev wrote (s : State) (page : Nat) : State := setResp (bumpHdr s page R_BLK_WR_CNT) .ok

theorem rd_wrote (s : State) (page : Nat) {k : Nat} (h : plainKey k) (hk : k ≠ reg (mainPage page) R_BLK_WR_CNT) : rd (wrote s page) k = rd s k := by
  rw [wrote, rd_setResp, bumpHdr, rd_bump _ _ _ h hk]

theorem wrote_apart {α : Type} {f : State → α} (h : Apart f) (hr : ∀ s r, f { s with resp := r } = f s) (s : State) (page : Nat) :
    f (wrote s page) = f s := by
  rw [wrote, setResp, hr, bumpHdr_apart h]

/-- A plain key in a page that is neither a Button page nor a power page. -/
theorem plain_block {page off : Nat} (h6 : page / 1024 ≠ 6) (h15 : page / 1024 ≠ 0x15) (ho : off < 4096) (h : 0x100 ≤ off) : plainKey (reg page off) := by
  unfold plainKey reg
  have e1 : (page * 4096 + off) % 4096 = off := by omega
  have e2 : (page * 4096 + off) / 4096 = page := by omega
  rw [e1, e2]
  exact ⟨by unfold R_BLK_STAT; omega, by unfold R_BLK_EVT; omega, fun h => absurd h h6, fun h => absurd h h15⟩

theorem reg_ne_wr {page off p2 : Nat} (ho : off < 4096) (h : 0x100 ≤ off) : reg page off ≠ reg p2 R_BLK_WR_CNT := by
  unfold reg R_BLK_WR_CNT; omega

theorem kind_button (page : Nat) (h : page / 1024 = 6) {k : PageKind} (hk : pageKind page = some k) : ∃ m, k = .button m := by
  unfold pageKind at hk
  simp only [h] at hk
  split at hk
  · simp at hk; exact ⟨_, hk.symm⟩
  · simp at hk

theorem kind_power (page : Nat) (h : page / 1024 = 0x15) {k : PageKind} (hk : pageKind page = some k) : ∃ m, k = .power m := by
  unfold pageKind at hk
  simp only [h] at hk
  split at hk
  · simp at hk; exact ⟨_, hk.symm⟩
  · simp at hk

end Sys2Proof.Machine
end

