-- ==== Sys2Proof/Laws/PinsOps.lean ====
section
/-! SUPPORT. The operations of Machine/Ops.lean that leave the pins and the power-up state alone. -/
namespace Sys2Proof.Machine

@[simp] theorem foldl_pwr {β : Type} (f : State → β → State) (h : ∀ a b, (f a b).pwr = a.pwr) (l : List β) (a : State) :
    (l.foldl f a).pwr = a.pwr := foldl_keeps State.pwr f h l a

@[simp] theorem foldl_fst_pwr {α β : Type} (f : State × α → β → State × α) (h : ∀ a b, (f a b).1.pwr = a.1.pwr) (l : List β) (a : State × α) :
    (l.foldl f a).1.pwr = a.1.pwr := foldl_keeps (fun a : State × α => a.1.pwr) f h l a

@[simp] theorem foldr_pwr {β : Type} (f : β → State → State) (h : ∀ b a, (f b a).pwr = a.pwr) (l : List β) (a : State) :
    (l.foldr f a).pwr = a.pwr := by
  induction l with
  | nil => rfl
  | cons b l ih => simp [h, ih]

@[simp] theorem ite_pwr (c : Prop) [Decidable c] (a b : State) : (if c then a else b).pwr = if c then a.pwr else b.pwr := apply_ite _ _ _ _

@[simp] theorem wr_pwr (s : State) (k : Nat) (v : Word) :
    (wr s k v).pwr = s.pwr := by
  simp [wr]

@[simp] theorem wrF_pwr (s : State) (k : Nat) (hi : Nat) (lo : Nat) (n : Nat) :
    (wrF s k hi lo n).pwr = s.pwr := by
  simp [wrF]

@[simp] theorem wrB_pwr (s : State) (k : Nat) (b : Nat) (v : Bool) :
    (wrB s k b v).pwr = s.pwr := by
  simp [wrB]

@[simp] theorem wrOr_pwr (s : State) (k : Nat) (m : Word) :
    (wrOr s k m).pwr = s.pwr := by
  simp [wrOr]

@[simp] theorem setCtx_pwr (s : State) (c : Nat) (x : Nat) (v : Ctx) :
    (setCtx s c x v).pwr = s.pwr := by
  simp [setCtx]

@[simp] theorem setCore_pwr (s : State) (c : Nat) (v : CoreSt) :
    (setCore s c v).pwr = s.pwr := by
  simp [setCore]

@[simp] theorem setFb_pwr (s : State) (c : Nat) (e : Nat) (v : FbEntry) :
    (setFb s c e v).pwr = s.pwr := by
  simp [setFb]

@[simp] theorem setSync_pwr (s : State) (w : Nat) (v : SyncFlags) :
    (setSync s w v).pwr = s.pwr := by
  simp [setSync]

@[simp] theorem setSlot_pwr (s : State) (k : Nat) (v : SlotSt) :
    (setSlot s k v).pwr = s.pwr := by
  simp [setSlot]

@[simp] theorem setEst_pwr (s : State) (c : Nat) (sid : Nat) (v : StrEst) :
    (setEst s c sid v).pwr = s.pwr := by
  simp [setEst]

@[simp] theorem cpPut_pwr (s : State) (f : CpFrame) :
    (cpPut s f).pwr = s.pwr := by
  simp [cpPut]

@[simp] theorem bumpReg_pwr (s : State) (k : Nat) (n : Nat) :
    (bumpReg s k n).pwr = s.pwr := by
  simp [bumpReg]

@[simp] theorem markSat_pwr (s : State) (page : Nat) :
    (markSat s page).pwr = s.pwr := by
  simp [markSat]

@[simp] theorem bumpBtn_pwr (s : State) (mid : Nat) (off : Nat) :
    (bumpBtn s mid off).pwr = s.pwr := by
  simp [bumpBtn]

@[simp] theorem btnWake_pwr (s : State) (mid : Nat) :
    (btnWake s mid).pwr = s.pwr := by
  simp [btnWake]

@[simp] theorem ringSet_pwr (s : State) (mid : Nat) (b : Nat) :
    (ringSet s mid b).pwr = s.pwr := by
  simp [ringSet]

@[simp] theorem ringBtn_pwr (s : State) (mid : Nat) (b : Nat) (byMantle : Bool) :
    (ringBtn s mid b byMantle).pwr = s.pwr := by
  simp [ringBtn]

@[simp] theorem raiseEvt_pwr (s : State) (page : Nat) (b : Nat) :
    (raiseEvt s page b).pwr = s.pwr := by
  simp [raiseEvt]

@[simp] theorem bumpN_pwr (s : State) (page : Nat) (off : Nat) (n : Nat) :
    (bumpN s page off n).pwr = s.pwr := by
  simp [bumpN]

@[simp] theorem bump_pwr (s : State) (page : Nat) (off : Nat) :
    (bump s page off).pwr = s.pwr := by
  simp [bump]

@[simp] theorem bumpHdr_pwr (s : State) (page : Nat) (off : Nat) :
    (bumpHdr s page off).pwr = s.pwr := by
  simp [bumpHdr]

@[simp] theorem reportErr_pwr (s : State) (page : Nat) (code : Nat) (addr : Word) :
    (reportErr s page code addr).pwr = s.pwr := by
  simp [reportErr]

@[simp] theorem setDegraded_pwr (s : State) (page : Nat) (b : Nat) :
    (setDegraded s page b).pwr = s.pwr := by
  simp [setDegraded]

@[simp] theorem clearFlag_pwr (s : State) (page : Nat) (b : Nat) :
    (clearFlag s page b).pwr = s.pwr := by
  simp [clearFlag]

@[simp] theorem clipOn_pwr (s : State) (page : Nat) :
    (clipOn s page).pwr = s.pwr := by
  simp [clipOn]

@[simp] theorem clipOff_pwr (s : State) (page : Nat) :
    (clipOff s page).pwr = s.pwr := by
  simp [clipOff]

@[simp] theorem freezePage_pwr (s : State) (page : Nat) :
    (freezePage s page).pwr = s.pwr := by
  simp [freezePage]

@[simp] theorem countNum_pwr (s : State) (page : Nat) (e : NumEv) (retries : Nat) :
    (countNum s page e retries).pwr = s.pwr := by
  simp [countNum]

@[simp] theorem setFrozenBit_pwr (s : State) (mid : Nat) (b : Bool) :
    (setFrozenBit s mid b).pwr = s.pwr := by
  simp [setFrozenBit]

@[simp] theorem violLog_pwr (s : State) (mid : Nat) (cause : Nat) (addr : Word) :
    (violLog s mid cause addr).pwr = s.pwr := by
  simp [violLog]

@[simp] theorem violation_pwr (s : State) (mid : Nat) (cause : Nat) (addr : Word) :
    (violation s mid cause addr).pwr = s.pwr := by
  unfold violation; (repeat' split) <;> simp

@[simp] theorem judgeFailed_pwr (s : State) (code : Nat) :
    (judgeFailed s code).pwr = s.pwr := by
  simp [judgeFailed]

@[simp] theorem stopOwed_pwr (s : State) (code : Nat) :
    (stopOwed s code).pwr = s.pwr := by
  simp [stopOwed]

@[simp] theorem report_pwr (s : State) (kind : Nat) (value : Nat) :
    (report s kind value).pwr = s.pwr := by
  simp [report]

@[simp] theorem setResp_pwr (s : State) (r : Resp) :
    (setResp s r).pwr = s.pwr := by
  simp [setResp]

@[simp] theorem modCtx_pwr (s : State) (c : Nat) (x : Nat) (f : Ctx → Ctx) :
    (modCtx s c x f).pwr = s.pwr := by
  simp [modCtx]

@[simp] theorem modCore_pwr (s : State) (c : Nat) (f : CoreSt → CoreSt) :
    (modCore s c f).pwr = s.pwr := by
  simp [modCore]

end Sys2Proof.Machine
end

