-- ==== Sys2Proof/Laws/PinsMem.lean ====
section
/-! SUPPORT. The operations of Machine/Mem.lean that leave the pins and the power-up state alone. -/
namespace Sys2Proof.Machine

@[simp] theorem hbmErr_pwr (s : State) (g : Nat) (code : Nat) (source : Nat) :
    (hbmErr s g code source).pwr = s.pwr := by
  simp [hbmErr]

@[simp] theorem granFix_pwr (s : State) (g : Nat) :
    (granFix s g).pwr = s.pwr := by
  simp [granFix]

@[simp] theorem hbmOffline_pwr (s : State) (a : Nat) :
    (hbmOffline s a).pwr = s.pwr := by
  simp [hbmOffline]

@[simp] theorem granRead_pwr (s : State) (g : Nat) :
    (granRead s g).1.pwr = s.pwr := by
  unfold granRead; (repeat' split) <;> simp

@[simp] theorem granStore_pwr (s : State) (g : Nat) (bytes : List Byte) (pois : Bool) :
    (granStore s g bytes pois).pwr = s.pwr := by
  simp [granStore]

@[simp] theorem granWrite_pwr (s : State) (g : Nat) (bytes : List Byte) (pois : Bool) :
    (granWrite s g bytes pois).pwr = s.pwr := by
  simp [granWrite]

@[simp] theorem granMerge_pwr (s : State) (g : Nat) (o : Nat) (new : List Byte) (pois : Bool) :
    (granMerge s g o new pois).pwr = s.pwr := by
  simp [granMerge]

@[simp] theorem llcPut_pwr (s : State) (line : Nat) (l : LlcLine) :
    (llcPut s line l).pwr = s.pwr := by
  simp [llcPut]

@[simp] theorem llcDrop_pwr (s : State) (line : Nat) :
    (llcDrop s line).pwr = s.pwr := by
  simp [llcDrop]

@[simp] theorem llcScan_pwr (s : State) (line : Nat) :
    (llcScan s line).pwr = s.pwr := by
  unfold llcScan; (repeat' split) <;> simp

@[simp] theorem llcWriteBack_pwr (s : State) (line : Nat) (l : LlcLine) :
    (llcWriteBack s line l).pwr = s.pwr := by
  simp [llcWriteBack]

@[simp] theorem llcEnsure_pwr (s : State) (line : Nat) :
    (llcEnsure s line).pwr = s.pwr := by
  simp only [llcEnsure]; (repeat' split) <;> simp

@[simp] theorem hbmChunk_pwr (s : State) (a : Nat) (n : Nat) :
    (hbmChunk s a n).1.pwr = s.pwr := by
  unfold hbmChunk
  simp only []
  split
  · simp
  · by_cases h : a % 128 < 64 <;> by_cases h2 : 64 < a % 128 + n <;> simp [h, h2]

@[simp] theorem hbmRead_pwr (z0 : Nat) (z1 : State) (z2 : Nat) (z3 : Nat) :
    (hbmRead z0 z1 z2 z3).1.pwr = z1.pwr := by
  induction z0 generalizing z1 z2 z3 with
    | zero => simp [hbmRead]
    | succ n ih => simp only [hbmRead]; (repeat' split) <;> simp [ih]

@[simp] theorem csUe_pwr (s : State) (c : Nat) (a : Nat) (feeds : Bool) :
    (csUe s c a feeds).pwr = s.pwr := by
  simp [csUe]

@[simp] theorem csFix_pwr (s : State) (c : Nat) (w : Nat) :
    (csFix s c w).pwr = s.pwr := by
  simp [csFix]

@[simp] theorem csWord_pwr (s : State) (c : Nat) (w : Nat) (feeds : Bool) :
    (csWord s c w feeds).pwr = s.pwr := by
  simp [csWord]

@[simp] theorem csCheck_pwr (s : State) (c : Nat) (a : Nat) (n : Nat) (feeds : Bool) :
    (csCheck s c a n feeds).pwr = s.pwr := by
  simp [csCheck]

@[simp] theorem csEcc_pwr (s : State) (c : Nat) (a : Nat) (e : Ecc) :
    (csEcc s c a e).pwr = s.pwr := by
  unfold csEcc; (repeat' split) <;> simp

@[simp] theorem winCheck_pwr (s : State) (p : Nat) (a : Nat) (n : Nat) :
    (winCheck s p a n).pwr = s.pwr := by
  simp [winCheck]

@[simp] theorem readMem_pwr (s : State) (a : Nat) (n : Nat) (cc : Bool) (feeds : Bool) :
    (readMem s a n cc feeds).st.pwr = s.pwr := by
  unfold readMem; (repeat' split) <;> simp

@[simp] theorem watchBump_pwr (s : State) (a : Nat) (n : Nat) :
    (watchBump s a n).pwr = s.pwr := by
  simp [watchBump]

@[simp] theorem hbmWriteChunk_pwr (s : State) (a : Nat) (bytes : List Byte) (pois : Bool) :
    (hbmWriteChunk s a bytes pois).pwr = s.pwr := by
  simp only [hbmWriteChunk]; (repeat' split) <;> simp

@[simp] theorem hbmWrite_pwr (z0 : Nat) (z1 : State) (z2 : Nat) (z3 : List Byte) (z4 : Bool) :
    (hbmWrite z0 z1 z2 z3 z4).pwr = z1.pwr := by
  induction z0 generalizing z1 z2 z3 z4 with
    | zero => simp [hbmWrite]
    | succ n ih => simp only [hbmWrite]; (repeat' split) <;> simp [ih]

@[simp] theorem storeMem_pwr (s : State) (a : Nat) (bytes : List Byte) (pois : Bool) :
    (storeMem s a bytes pois).pwr = s.pwr := by
  unfold storeMem; (repeat' split) <;> simp

@[simp] theorem askBanks_pwr (s : State) (cls : Nat) (per : Nat) (rs : List (Nat × Nat)) :
    (askBanks s cls per rs).pwr = s.pwr := by
  simp [askBanks]

@[simp] theorem tickBanks_pwr (s : State) (c : Nat) (n : Nat) :
    (tickBanks s c n).pwr = s.pwr := by
  simp [tickBanks]

@[simp] theorem writeMem_pwr (s : State) (mid : Nat) (a : Nat) (bytes : List Byte) (pois : Bool) :
    (writeMem s mid a bytes pois).st.pwr = s.pwr := by
  simp only [writeMem]; (repeat' split) <;> simp

end Sys2Proof.Machine
end

