-- ==== Sys2Proof/Laws/PinsOperands.lean ====
section
/-! SUPPORT. The operations of Machine/Operands.lean that leave the pins and the power-up state alone. -/
namespace Sys2Proof.Machine

@[simp] theorem setPred_pwr (s : State) (c : Nat) (x : Nat) (p : Nat) (b : Bool) :
    (setPred s c x p b).pwr = s.pwr := by
  simp [setPred]

@[simp] theorem postInc_pwr (s : State) (c : Nat) (x : Nat) (r : Rec) (lo : Nat) :
    (postInc s c x r lo).pwr = s.pwr := by
  simp [postInc]

@[simp] theorem postIncs_pwr (s : State) (c : Nat) (x : Nat) (r : Rec) :
    (postIncs s c x r).pwr = s.pwr := by
  simp [postIncs]

end Sys2Proof.Machine
end

