-- ==== Sys2Proof/Laws/PinsAccess.lean ====
section
/-! SUPPORT. The operations of Machine/Access.lean that leave the pins and the power-up state alone. -/
namespace Sys2Proof.Machine

@[simp] theorem pageViolation_pwr (s : State) (mid : Nat) (page : Nat) (off : Nat) (cause : Nat) :
    (pageViolation s mid page off cause).pwr = s.pwr := by
  simp [pageViolation]

@[simp] theorem guardWrite_pwr (s : State) (mid : Nat) (page : Nat) (off : Nat) (v : Word) (act : State → State) (hact : ∀ t, (act t).pwr = t.pwr) :
    (guardWrite s mid page off v act).pwr = s.pwr := by
  simp only [guardWrite]; (repeat' split) <;> simp_all

@[simp] theorem fieldWrite_pwr (s : State) (page : Nat) (off : Nat) (v : Word) (own : Bool) (mantle : Bool) :
    (fieldWrite s page off v own mantle).pwr = s.pwr := by
  simp [fieldWrite]

@[simp] theorem breach_pwr (s : State) (page : Nat) (mids : List Nat) (addr : Word) :
    (breach s page mids addr).pwr = s.pwr := by
  simp [breach]

end Sys2Proof.Machine
end

