-- ==== Sys2Proof/Laws/PinsFabric.lean ====
section
/-! SUPPORT. The operations of Machine/Fabric.lean that leave the pins and the power-up state alone. -/
namespace Sys2Proof.Machine

@[simp] theorem setArb_pwr (s : State) (p : Nat) (x : Nat) (y : Nat) (out : Nat) (v : ArbSt) :
    (setArb s p x y out v).pwr = s.pwr := by
  simp [setArb]

@[simp] theorem noteReserve_pwr (z0 : State) (z1 : Nat) (z2 : FabSlot) :
    (noteReserve z0 z1 z2).pwr = z0.pwr := by
  unfold noteReserve; (repeat' split) <;> simp

@[simp] theorem arbPass_pwr (s : State) (p : Nat) (x : Nat) (y : Nat) (out : Nat) (m : FabMsg) (slot : FabSlot) :
    (arbPass s p x y out m slot).pwr = s.pwr := by
  simp only [arbPass]; (repeat' split) <;> simp

theorem fabEnter_kept_pwr {s t : State} {m : FabMsg} (h : fabEnter s m = some t) : t.pwr = s.pwr := by
  simp only [fabEnter] at h
  split at h
  · simp at h
  · obtain ⟨sl, -, rfl⟩ := Option.map_eq_some_iff.1 h
    simp

@[simp] theorem fabEnterAll_pwr (s : State) :
    (fabEnterAll s).pwr = s.pwr := by
  unfold fabEnterAll
  apply foldl_pwr
  intro a b
  cases h : fabEnter a b with
  | none => simp
  | some t => simp [fabEnter_kept_pwr h]

@[simp] theorem fabServe_pwr (s : State) (b : FabBlock) (c : Nat) (out : List FabReq) :
    (fabServe s b c out).pwr = s.pwr := by
  unfold fabServe
  split
  · rfl
  split
  · rfl
  rename_i m _ _
  cases h : out.foldl (fun o r => o.bind (fun s => fabEnter { s with fab := s.fab ++ [fabSent r] } (fabSent r))) (some { s with fab := s.fab.erase m }) with
  | none => simp
  | some t =>
    have key := optFold_keeps (fun u : State => u.pwr = s.pwr) (fun s r => fabEnter { s with fab := s.fab ++ [fabSent r] } (fabSent r))
      (fun u r t h hu => (fabEnter_kept_pwr h).trans hu) out _ t (fun u hu => by cases hu; rfl) h
    simpa using key

@[simp] theorem fabDo_pwr (z0 : State) (z1 : FabIn) :
    (fabDo z0 z1).pwr = z0.pwr := by
  unfold fabDo; (repeat' split) <;> simp

@[simp] theorem fabDuring_pwr (s : State) (l : List FabIn) :
    (fabDuring s l).pwr = s.pwr := by
  simp [fabDuring]

@[simp] theorem arbStart_pwr (s : State) (p : Nat) (x : Nat) (y : Nat) (out : Nat) :
    (arbStart s p x y out).pwr = s.pwr := by
  simp only [arbStart]; (repeat' split) <;> simp

@[simp] theorem arbDecide_pwr (s : State) (p : Nat) (x : Nat) (y : Nat) (out : Nat) (from' : List FabMsg) :
    (arbDecide s p x y out from').pwr = s.pwr := by
  simp only [arbDecide]; (repeat' split) <;> simp

@[simp] theorem arbGrant_pwr (s : State) (p : Nat) (x : Nat) (y : Nat) (out : Nat) (during : List FabIn) :
    (arbGrant s p x y out during).pwr = s.pwr := by
  simp [arbGrant]

@[simp] theorem execArbiterGrant_pwr (p : Panel) (x : Fin 4) (y : Fin 4) (out : Nat) (during : List FabIn) (s : State) :
    Kept State.pwr s (execArbiterGrant p x y out during s) := by
  simp [execArbiterGrant]

@[simp] theorem arbCommitWrite_pwr (s : State) (p : Nat) (v : Word) :
    (arbCommitWrite s p v).pwr = s.pwr := by
  simp [arbCommitWrite]

@[simp] theorem execArbCommit_pwr (mid : Mid) (p : Panel) (s : State) :
    Kept State.pwr s (execArbCommit mid p s) := by
  simp [execArbCommit]

@[simp] theorem execArbCommitDone_pwr (p : Panel) (s : State) :
    Kept State.pwr s (execArbCommitDone p s) := by
  simp [execArbCommitDone]

@[simp] theorem seamMap_pwr (s : State) (n : Nat) (dirB : Bool) (f : FabFlit → FabFlit) :
    (seamMap s n dirB f).pwr = s.pwr := by
  simp [seamMap]

@[simp] theorem seamArrive_pwr (s : State) (n : Nat) (dirB : Bool) :
    (seamArrive s n dirB).pwr = s.pwr := by
  simp [seamArrive]

@[simp] theorem tickSeams_pwr (s : State) :
    (tickSeams s).pwr = s.pwr := by
  simp [tickSeams]

@[simp] theorem seamTestBit_pwr (s : State) (n : Nat) :
    (seamTestBit s n).pwr = s.pwr := by
  simp [seamTestBit]

@[simp] theorem seamMove_pwr (s : State) (n : Nat) (dirB : Bool) (g : Nat) :
    (seamMove s n dirB g).pwr = s.pwr := by
  simp [seamMove]

@[simp] theorem seamReject_pwr (s : State) (n : Nat) (dirB : Bool) (g : Nat) (flits : Nat) :
    (seamReject s n dirB g flits).pwr = s.pwr := by
  simp [seamReject]

@[simp] theorem execSeamCrcReject_pwr (n : Panel) (dirB : Bool) (g : Fin 8) (i : Fin 64) (s : State) :
    Kept State.pwr s (execSeamCrcReject n dirB g i s) := by
  simp [execSeamCrcReject]

@[simp] theorem seamReturn_pwr (s : State) (n : Nat) :
    (seamReturn s n).pwr = s.pwr := by
  simp [seamReturn]

@[simp] theorem seamFail_pwr (s : State) (n : Nat) :
    (seamFail s n).pwr = s.pwr := by
  simp only [seamFail]; (repeat' split) <;> simp

@[simp] theorem seamRetire_pwr (s : State) (n : Nat) (dirB : Bool) (g : Nat) :
    (seamRetire s n dirB g).pwr = s.pwr := by
  simp [seamRetire]

@[simp] theorem seamTestEnd_pwr (s : State) (n : Nat) (dirB : Bool) (g : Nat) (failing : Nat) :
    (seamTestEnd s n dirB g failing).pwr = s.pwr := by
  simp [seamTestEnd]

@[simp] theorem execSeamLaneTestEnd_pwr (n : Panel) (dirB : Bool) (g : Fin 8) (failing : Nat) (s : State) :
    Kept State.pwr s (execSeamLaneTestEnd n dirB g failing s) := by
  simp [execSeamLaneTestEnd]

@[simp] theorem rerouteBit_pwr (s : State) (p : Nat) :
    (rerouteBit s p).pwr = s.pwr := by
  simp [rerouteBit]

@[simp] theorem seamTrain_pwr (s : State) (n : Nat) :
    (seamTrain s n).pwr = s.pwr := by
  simp [seamTrain]

end Sys2Proof.Machine
end

