-- ==== Sys2Proof/Laws/PinsRails.lean ====
section
/-! SUPPORT. The operations of Machine/Rails.lean that leave the pins and the power-up state alone. -/
namespace Sys2Proof.Machine

@[simp] theorem setRail_pwr (s : State) (p : Nat) (v : RailSt) :
    (setRail s p v).pwr = s.pwr := by
  simp [setRail]

@[simp] theorem setVcore_pwr (s : State) (p : Nat) (v : Nat) :
    (setVcore s p v).pwr = s.pwr := by
  simp [setVcore]

@[simp] theorem setVfab_pwr (s : State) (p : Nat) (v : Nat) :
    (setVfab s p v).pwr = s.pwr := by
  simp [setVfab]

@[simp] theorem setCause_pwr (s : State) (p : Nat) (n : Nat) :
    (setCause s p n).pwr = s.pwr := by
  simp [setCause]

@[simp] theorem limitPage_pwr (on : Bool) (s : State) (page : Nat) :
    (limitPage on s page).pwr = s.pwr := by
  simp [limitPage]

@[simp] theorem railSettle_pwr (s : State) (p : Nat) :
    (railSettle s p).pwr = s.pwr := by
  simp [railSettle]

@[simp] theorem lowerVcore_pwr (s : State) (p : Nat) (mv : Nat) (cause : Nat) :
    (lowerVcore s p mv cause).pwr = s.pwr := by
  simp [lowerVcore]

@[simp] theorem lowerVfab_pwr (s : State) (p : Nat) (mv : Nat) (cause : Nat) :
    (lowerVfab s p mv cause).pwr = s.pwr := by
  simp [lowerVfab]

@[simp] theorem raiseRails_pwr (s : State) (p : Nat) (now : Nat) :
    (raiseRails s p now).pwr = s.pwr := by
  simp [raiseRails]

@[simp] theorem critReading_pwr (s : State) (st : Nat) (crit : Bool) (below : Bool) :
    (critReading s st crit below).pwr = s.pwr := by
  simp [critReading]

end Sys2Proof.Machine
end

