-- ==== Sys2Proof/Laws/PinsMemory.lean ====
section
/-! SUPPORT. The operations of Machine/Memory.lean that leave the pins and the power-up state alone. -/
namespace Sys2Proof.Machine

@[simp] theorem hbmEcc_pwr (s : State) (g : Nat) (e : Ecc) :
    (hbmEcc s g e).pwr = s.pwr := by
  unfold hbmEcc; (repeat' split) <;> simp

@[simp] theorem hbmAccess_pwr (s : State) (a : Nat) (op : MemOp) (e : Ecc) :
    (hbmAccess s a op e).pwr = s.pwr := by
  unfold hbmAccess; (repeat' split) <;> simp

@[simp] theorem execHbmAccess_pwr (addr : Word) (op : MemOp) (ecc : Ecc) (s : State) :
    Kept State.pwr s (execHbmAccess addr op ecc s) := by
  simp [execHbmAccess]

@[simp] theorem trainDone_pwr (s : State) (st : Nat) (full : Bool) (ok : Bool) :
    (trainDone s st full ok).pwr = s.pwr := by
  simp [trainDone]

@[simp] theorem execHbmTrainDone_pwr (st : Stack) (full : Bool) (ok : Bool) (s : State) :
    Kept State.pwr s (execHbmTrainDone st full ok s) := by
  simp [execHbmTrainDone]

@[simp] theorem ieeeWrite_pwr (s : State) (st : Nat) (v : Word) (own : Bool) :
    (ieeeWrite s st v own).pwr = s.pwr := by
  simp [ieeeWrite]

@[simp] theorem execHbm1500Go_pwr (mid : Mid) (st : Stack) (ctl : Word) (s : State) :
    Kept State.pwr s (execHbm1500Go mid st ctl s) := by
  simp [execHbm1500Go]

@[simp] theorem ieeeDone_pwr (s : State) (st : Nat) (out : Word) :
    (ieeeDone s st out).pwr = s.pwr := by
  unfold ieeeDone; (repeat' split) <;> simp

@[simp] theorem execHbm1500Done_pwr (st : Stack) (out : Word) (s : State) :
    Kept State.pwr s (execHbm1500Done st out s) := by
  simp [execHbm1500Done]

@[simp] theorem scrubGranule_pwr (s : State) (st : Nat) (a : Nat) (e : Ecc) (last : Bool) :
    (scrubGranule s st a e last).pwr = s.pwr := by
  simp [scrubGranule]

@[simp] theorem execHbmScrubGranule_pwr (st : Stack) (addr : Word) (ecc : Ecc) (last : Bool) (s : State) :
    Kept State.pwr s (execHbmScrubGranule st addr ecc last s) := by
  simp [execHbmScrubGranule]

@[simp] theorem hbmClip_pwr (s : State) (st : Nat) :
    (hbmClip s st).pwr = s.pwr := by
  simp [hbmClip]

@[simp] theorem thermalNotice_pwr (s : State) :
    (thermalNotice s).pwr = s.pwr := by
  simp [thermalNotice]

@[simp] theorem tempReading_pwr (s : State) (st : Nat) (temp : Nat) (rise : Bool) :
    (tempReading s st temp rise).pwr = s.pwr := by
  simp [tempReading]

@[simp] theorem execHbmTempReading_pwr (st : Stack) (temp : Byte) (riseAllowed : Bool) (s : State) :
    Kept State.pwr s (execHbmTempReading st temp riseAllowed s) := by
  simp [execHbmTempReading]

@[simp] theorem execThrottleWindow_pwr (st : Stack) (s : State) :
    Kept State.pwr s (execThrottleWindow st s) := by
  simp [execThrottleWindow]

@[simp] theorem repairResult_pwr (s : State) (st : Nat) (n : Nat) :
    (repairResult s st n).pwr = s.pwr := by
  simp [repairResult]

@[simp] theorem spareGranule_pwr (s : State) (st : Nat) (g : Nat) (e : Ecc) :
    (spareGranule s st g e).pwr = s.pwr := by
  simp [spareGranule]

@[simp] theorem repairWrite_pwr (s : State) (st : Nat) (v : Word) (e : Ecc) :
    (repairWrite s st v e).pwr = s.pwr := by
  simp [repairWrite]

@[simp] theorem execSoftRepair_pwr (mid : Mid) (st : Stack) (addr : Word) (s : State) :
    Kept State.pwr s (execSoftRepair mid st addr s) := by
  simp [execSoftRepair]

@[simp] theorem repairDone_pwr (s : State) (st : Nat) (resource : Bool) :
    (repairDone s st resource).pwr = s.pwr := by
  simp [repairDone]

@[simp] theorem execSoftRepairDone_pwr (st : Stack) (resource : Bool) (s : State) :
    Kept State.pwr s (execSoftRepairDone st resource s) := by
  simp [execSoftRepairDone]

@[simp] theorem execSparingEntry_pwr (mid : Mid) (st : Stack) (addr : Word) (ecc : Ecc) (s : State) :
    Kept State.pwr s (execSparingEntry mid st addr ecc s) := by
  simp [execSparingEntry]

@[simp] theorem retireWrite_pwr (s : State) (st : Nat) (e : Nat) (v : Word) (own : Bool) :
    (retireWrite s st e v own).pwr = s.pwr := by
  simp [retireWrite]

@[simp] theorem execRetireWrite_pwr (mid : Mid) (st : Stack) (e : Byte) (value : Word) (s : State) :
    Kept State.pwr s (execRetireWrite mid st e value s) := by
  simp [execRetireWrite]

@[simp] theorem llcPoison_pwr (s : State) (a : Nat) :
    (llcPoison s a).pwr = s.pwr := by
  unfold llcPoison; (repeat' split) <;> simp

@[simp] theorem llcEcc_pwr (s : State) (p : Nat) (a : Nat) (e : LlcEcc) :
    (llcEcc s p a e).pwr = s.pwr := by
  unfold llcEcc; (repeat' split) <;> simp

@[simp] theorem llcAccess_pwr (s : State) (mid : Nat) (a : Nat) (op : MemOp) (e : LlcEcc) :
    (llcAccess s mid a op e).pwr = s.pwr := by
  unfold llcAccess; (repeat' split) <;> simp

@[simp] theorem execLlcAccess_pwr (mid : Mid) (addr : Word) (op : MemOp) (ecc : LlcEcc) (s : State) :
    Kept State.pwr s (execLlcAccess mid addr op ecc s) := by
  simp [execLlcAccess]

@[simp] theorem wayModeWrite_pwr (s : State) (p : Nat) (v : Word) :
    (wayModeWrite s p v).pwr = s.pwr := by
  simp [wayModeWrite]

@[simp] theorem execLlcWayModeWrite_pwr (mid : Mid) (p : Panel) (value : BitVec 16) (s : State) :
    Kept State.pwr s (execLlcWayModeWrite mid p value s) := by
  simp [execLlcWayModeWrite]

@[simp] theorem writeBackLines_pwr (s : State) (lines : List Nat) :
    (writeBackLines s lines).pwr = s.pwr := by
  unfold writeBackLines
  apply foldl_pwr
  intro a b
  (repeat' split) <;> simp

@[simp] theorem zeroWay_pwr (s : State) (p : Nat) (w : Nat) :
    (zeroWay s p w).pwr = s.pwr := by
  simp [zeroWay]

@[simp] theorem wayChangeDone_pwr (s : State) (p : Nat) :
    (wayChangeDone s p).pwr = s.pwr := by
  simp [wayChangeDone]

@[simp] theorem execWayChangeDone_pwr (p : Panel) (s : State) :
    Kept State.pwr s (execWayChangeDone p s) := by
  simp [execWayChangeDone]

@[simp] theorem flushStart_pwr (s : State) (p : Nat) :
    (flushStart s p).pwr = s.pwr := by
  simp [flushStart]

@[simp] theorem execFlush_pwr (mid : Mid) (p : Panel) (s : State) :
    Kept State.pwr s (execFlush mid p s) := by
  simp [execFlush]

@[simp] theorem flushDone_pwr (s : State) (p : Nat) :
    (flushDone s p).pwr = s.pwr := by
  simp [flushDone]

@[simp] theorem execFlushDone_pwr (p : Panel) (s : State) :
    Kept State.pwr s (execFlushDone p s) := by
  simp [execFlushDone]

end Sys2Proof.Machine
end

