-- ==== Sys2Proof/Laws/PinsWire.lean ====
section
/-! SUPPORT. The operations of Machine/Wire.lean that leave power-up and the pins alone. -/
namespace Sys2Proof.Machine

@[simp] theorem setDrr_pwr (s : State) (p : Nat) (v : DrrSt) :
    (setDrr s p v).pwr = s.pwr := by
  simp [setDrr]

end Sys2Proof.Machine
end

