-- ==== Sys2Proof/Laws/PinsLink.lean ====
section
/-! SUPPORT. The operations of Machine/Link.lean that leave the pins and the power-up state alone. -/
namespace Sys2Proof.Machine

@[simp] theorem setPtr_pwr (s : State) (e : Nat) (v : Partner) :
    (setPtr s e v).pwr = s.pwr := by
  simp [setPtr]

@[simp] theorem modPtr_pwr (s : State) (e : Nat) (f : Partner → Partner) :
    (modPtr s e f).pwr = s.pwr := by
  simp [modPtr]

@[simp] theorem setGrp_pwr (s : State) (g : Nat) (v : GroupSt) :
    (setGrp s g v).pwr = s.pwr := by
  simp [setGrp]

@[simp] theorem modGrp_pwr (s : State) (g : Nat) (f : GroupSt → GroupSt) :
    (modGrp s g f).pwr = s.pwr := by
  simp [modGrp]

@[simp] theorem emitFrame_pwr (s : State) (p : Nat) (dst : Nat) (f : WFrame) :
    (emitFrame s p dst f).pwr = s.pwr := by
  simp [emitFrame]

@[simp] theorem sendFrame_pwr (s : State) (e : Nat) (port : Nat) (f : WFrame) :
    (sendFrame s e port f).pwr = s.pwr := by
  simp [sendFrame]

@[simp] theorem sendCtl_pwr (s : State) (e : Nat) (c : Nat) (type : Nat) (attr : Nat) (port : Option Nat) :
    (sendCtl s e c type attr port).pwr = s.pwr := by
  simp only [sendCtl]; (repeat' split) <;> simp

@[simp] theorem takeGrpXseq_pwr (s : State) (c : Nat) :
    (takeGrpXseq s c).1.pwr = s.pwr := by
  simp [takeGrpXseq]

@[simp] theorem replayPut_pwr (s : State) (p : Nat) (slot : Nat) (b : List Byte) :
    (replayPut s p slot b).pwr = s.pwr := by
  simp [replayPut]

@[simp] theorem replayGet_pwr (s : State) (p : Nat) (slot : Nat) (f : WFrame) :
    (replayGet s p slot f).1.pwr = s.pwr := by
  simp only [replayGet]; (repeat' split) <;> simp

@[simp] theorem sendGrpCtl_pwr (s : State) (g : Nat) (type : Nat) :
    (sendGrpCtl s g type).pwr = s.pwr := by
  simp only [sendGrpCtl]; (repeat' split) <;> simp

@[simp] theorem sendLeg_pwr (s : State) (g : Nat) (l : Nat) (t : GTx) (retx : Bool) (nack : Bool) :
    (sendLeg s g l t retx nack).pwr = s.pwr := by
  simp only [sendLeg]; (repeat' split) <;> simp

@[simp] theorem takeCredit_pwr (s : State) (e : Nat) (c : Nat) :
    (takeCredit s e c).pwr = s.pwr := by
  simp [takeCredit]

@[simp] theorem serveLeg_pwr (z0 : Nat) (z1 : State) (z2 : Nat) (z3 : Nat) :
    (serveLeg z0 z1 z2 z3).pwr = z1.pwr := by
  induction z0 generalizing z1 z2 z3 with
    | zero => simp [serveLeg]
    | succ n ih => simp only [serveLeg]; (repeat' split) <;> simp [ih]

@[simp] theorem detachLeg_pwr (s : State) (g : Nat) (l : Nat) :
    (detachLeg s g l).pwr = s.pwr := by
  simp [detachLeg]

@[simp] theorem judgeLegs_pwr (s : State) (g : Nat) :
    (judgeLegs s g).pwr = s.pwr := by
  unfold judgeLegs
  apply foldl_pwr
  intro a b
  (repeat' split) <;> simp

@[simp] theorem serveLegs_pwr (s : State) (g : Nat) :
    (serveLegs s g).pwr = s.pwr := by
  simp [serveLegs]

@[simp] theorem creditIn_pwr (s : State) (e : Nat) (c : Nat) (credit : Nat) :
    (creditIn s e c credit).pwr = s.pwr := by
  simp [creditIn]

@[simp] theorem clearReports_pwr (s : State) (e : Nat) (ports : List Nat) :
    (clearReports s e ports).pwr = s.pwr := by
  simp [clearReports]

@[simp] theorem reportPort_pwr (s : State) (e : Nat) (i : Nat) :
    (reportPort s e i).pwr = s.pwr := by
  simp [reportPort]

@[simp] theorem mirrorSettle_pwr (s : State) :
    (mirrorSettle s).pwr = s.pwr := by
  unfold mirrorSettle; (repeat' split) <;> simp

@[simp] theorem snapSettle_pwr (s : State) :
    (snapSettle s).pwr = s.pwr := by
  simp [snapSettle]

@[simp] theorem ackIn_pwr (s : State) (e : Nat) (f : WFrame) :
    (ackIn s e f).pwr = s.pwr := by
  simp [ackIn]

@[simp] theorem retransmit_pwr (s : State) (e : Nat) (t : TxFrame) (nack : Bool) :
    (retransmit s e t nack).pwr = s.pwr := by
  simp only [retransmit]; (repeat' split) <;> simp

@[simp] theorem nackIn_pwr (s : State) (e : Nat) (f : WFrame) :
    (nackIn s e f).pwr = s.pwr := by
  simp [nackIn]

@[simp] theorem resendLeg_pwr (s : State) (g : Nat) (l : Nat) (e : Nat) (t : GTx) :
    (resendLeg s g l e t).pwr = s.pwr := by
  unfold resendLeg; (repeat' split) <;> simp

@[simp] theorem legAcked_pwr (s : State) (g : Nat) (l : Nat) (e : Nat) (f : WFrame) :
    (legAcked s g l e f).pwr = s.pwr := by
  simp [legAcked]

@[simp] theorem legNacked_pwr (s : State) (g : Nat) (l : Nat) (e : Nat) (f : WFrame) :
    (legNacked s g l e f).pwr = s.pwr := by
  simp [legNacked]

@[simp] theorem legAck_pwr (s : State) (g : Nat) (l : Nat) (e : Nat) (f : WFrame) (nack : Bool) :
    (legAck s g l e f nack).pwr = s.pwr := by
  simp [legAck]

@[simp] theorem rxCheck_pwr (s : State) (p : Nat) (f : WFrame) (chk : RxCheck) :
    (rxCheck s p f chk).1.pwr = s.pwr := by
  simp only [rxCheck]; (repeat' split) <;> simp

@[simp] theorem receive_pwr (s : State) (p : Nat) (f : WFrame) (chk : RxCheck) (type : Nat) (act : State → RxTo → State) (hact : ∀ a0 a1, (act a0 a1).pwr = a0.pwr) :
    (receive s p f chk type act).pwr = s.pwr := by
  simp only [receive]; (repeat' split) <;> simp_all

@[simp] theorem noteXseq_pwr (s : State) (e : Nat) (f : WFrame) :
    (noteXseq s e f).pwr = s.pwr := by
  simp [noteXseq]

@[simp] theorem dataUni_pwr (s : State) (p : Nat) (e : Nat) (f : WFrame) :
    (dataUni s p e f).pwr = s.pwr := by
  simp [dataUni]

@[simp] theorem dataMember_pwr (s : State) (p : Nat) (e : Nat) (g : Nat) (own : Bool) (f : WFrame) :
    (dataMember s p e g own f).pwr = s.pwr := by
  simp [dataMember]

@[simp] theorem execDataFrameRx_pwr (p : Port) (f : WFrame) (chk : RxCheck) (s : State) :
    Kept State.pwr s (execDataFrameRx p f chk s) := by
  simp only [execDataFrameRx, kept_next]
  apply receive_pwr
  intro a b
  cases b <;> simp

@[simp] theorem freeSlot_pwr (s : State) (src : RxStream) (seq : Nat) (credit : Bool) :
    (freeSlot s src seq credit).pwr = s.pwr := by
  unfold freeSlot; (repeat' split) <;> simp

@[simp] theorem ingressFreeze_pwr (s : State) (src : RxStream) (seq : Nat) :
    (ingressFreeze s src seq).pwr = s.pwr := by
  unfold ingressFreeze; (repeat' split) <;> simp

@[simp] theorem probeAnswered_pwr (s : State) (e : Nat) (p : Nat) :
    (probeAnswered s e p).pwr = s.pwr := by
  simp [probeAnswered]

@[simp] theorem legsOfEntry_pwr (s : State) (e : Nat) :
    (legsOfEntry s e).pwr = s.pwr := by
  simp [legsOfEntry]

@[simp] theorem execAckFrameRx_pwr (p : Port) (f : WFrame) (chk : RxCheck) (s : State) :
    Kept State.pwr s (execAckFrameRx p f chk s) := by
  simp only [execAckFrameRx, kept_next]
  apply receive_pwr
  intro a b
  cases b <;> simp <;> split <;> simp

@[simp] theorem execNackFrameRx_pwr (p : Port) (f : WFrame) (chk : RxCheck) (s : State) :
    Kept State.pwr s (execNackFrameRx p f chk s) := by
  simp only [execNackFrameRx, kept_next]
  apply receive_pwr
  intro a b
  cases b <;> simp <;> split <;> simp

@[simp] theorem execKeepaliveRx_pwr (p : Port) (f : WFrame) (chk : RxCheck) (s : State) :
    Kept State.pwr s (execKeepaliveRx p f chk s) := by
  simp only [execKeepaliveRx, kept_next]
  apply receive_pwr
  intro a b
  cases b <;> simp <;> (repeat' split) <;> simp

@[simp] theorem takeOut_pwr (s : State) (group : Bool) (k : Nat) (f : WFrame) :
    (takeOut s group k f).pwr = s.pwr := by
  simp [takeOut]

@[simp] theorem queueOut_pwr (s : State) (o : Bool × Nat × WFrame) :
    (queueOut s o).pwr = s.pwr := by
  simp [queueOut]

@[simp] theorem portTurn_pwr (s : State) (p : Nat) (c : Nat) (len : Nat) :
    (portTurn s p c len).1.pwr = s.pwr := by
  simp only [portTurn]; (repeat' split) <;> simp

@[simp] theorem dataTx_pwr (s : State) (e : Nat) (f : WFrame) :
    (dataTx s e f).pwr = s.pwr := by
  unfold dataTx; (repeat' split) <;> simp

@[simp] theorem execDataFrameTx_pwr (e : Nat) (f : WFrame) (s : State) :
    Kept State.pwr s (execDataFrameTx e f s) := by
  simp [execDataFrameTx]

@[simp] theorem execAckDelay_pwr (src : RxStream) (s : State) :
    Kept State.pwr s (execAckDelay src s) := by
  unfold execAckDelay; (repeat' split) <;> simp

@[simp] theorem regroup_pwr (s : State) (g : Nat) (t : GTx) :
    (regroup s g t).pwr = s.pwr := by
  simp only [regroup]; (repeat' split) <;> simp

@[simp] theorem timeout_pwr (s : State) (d : TxStream) :
    (timeout s d).pwr = s.pwr := by
  unfold timeout
  split
  · (repeat' split) <;> simp
  · split
    · rfl
    · split
      · rfl
      · simp only [regroup_pwr]
        refine (foldl_pwr _ (fun a b => ?_) _ _).trans (by simp)
        split <;> simp
  · (repeat' split) <;> simp

@[simp] theorem execRetxTimeout_pwr (dst : TxStream) (s : State) :
    Kept State.pwr s (execRetxTimeout dst s) := by
  simp [execRetxTimeout]

@[simp] theorem execProbeKeepalive_pwr (e : Nat) (p : Port) (s : State) :
    Kept State.pwr s (execProbeKeepalive e p s) := by
  simp [execProbeKeepalive]

@[simp] theorem liveness_pwr (s : State) (e : Nat) :
    (liveness s e).pwr = s.pwr := by
  simp [liveness]

@[simp] theorem execLivenessWindow_pwr (e : Nat) (s : State) :
    Kept State.pwr s (execLivenessWindow e s) := by
  simp [execLivenessWindow]

@[simp] theorem groupTx_pwr (s : State) (g : Nat) (f : WFrame) :
    (groupTx s g f).pwr = s.pwr := by
  unfold groupTx; (repeat' split) <;> simp

@[simp] theorem execGroupFrameTx_pwr (g : Nat) (f : WFrame) (s : State) :
    Kept State.pwr s (execGroupFrameTx g f s) := by
  simp [execGroupFrameTx]

@[simp] theorem failover_pwr (s : State) (p : Nat) :
    (failover s p).pwr = s.pwr := by
  simp [failover]

@[simp] theorem portBtn_pwr (s : State) (p : Nat) :
    (portBtn s p).pwr = s.pwr := by
  simp [portBtn]

@[simp] theorem portTo_pwr (s : State) (p : Nat) (st : Nat) :
    (portTo s p st).pwr = s.pwr := by
  simp [portTo]

@[simp] theorem trainCount_pwr (s : State) (p : Nat) :
    (trainCount s p).pwr = s.pwr := by
  simp [trainCount]

@[simp] theorem trainStart_pwr (s : State) (p : Nat) :
    (trainStart s p).pwr = s.pwr := by
  simp [trainStart]

@[simp] theorem portRise_pwr (s : State) (p : Nat) :
    (portRise s p).pwr = s.pwr := by
  simp [portRise]

@[simp] theorem linkCtlWrite_pwr (s : State) (p : Nat) (v : Word) (own : Bool) :
    (linkCtlWrite s p v own).pwr = s.pwr := by
  simp [linkCtlWrite]

@[simp] theorem execEnable_pwr (mid : Mid) (p : Port) (value : Bool) (s : State) :
    Kept State.pwr s (execEnable mid p value s) := by
  simp [execEnable]

@[simp] theorem execRetrain_pwr (mid : Mid) (p : Port) (s : State) :
    Kept State.pwr s (execRetrain mid p s) := by
  simp [execRetrain]

@[simp] theorem portAligned_pwr (s : State) (p : Nat) :
    (portAligned s p).pwr = s.pwr := by
  simp [portAligned]

@[simp] theorem linkTrainDone_pwr (s : State) (p : Nat) (ok : Bool) :
    (linkTrainDone s p ok).pwr = s.pwr := by
  simp [linkTrainDone]

@[simp] theorem execLinkTrainDone_pwr (p : Port) (ok : Bool) (s : State) :
    Kept State.pwr s (execLinkTrainDone p ok s) := by
  simp [execLinkTrainDone]

@[simp] theorem linkDown_pwr (s : State) (p : Nat) (fault : Bool) :
    (linkDown s p fault).pwr = s.pwr := by
  simp [linkDown]

@[simp] theorem execLinkDown_pwr (p : Port) (remoteFault : Bool) (s : State) :
    Kept State.pwr s (execLinkDown p remoteFault s) := by
  simp [execLinkDown]

@[simp] theorem execLldpCapture_pwr (p : Port) (bytes : List Byte) (s : State) :
    Kept State.pwr s (execLldpCapture p bytes s) := by
  simp [execLldpCapture]

@[simp] theorem linkMacWrite_pwr (s : State) (p : Nat) (v : Word) :
    (linkMacWrite s p v).pwr = s.pwr := by
  simp [linkMacWrite]

@[simp] theorem execLinkMacWrite_pwr (mid : Mid) (p : Port) (addr : BitVec 48) (s : State) :
    Kept State.pwr s (execLinkMacWrite mid p addr s) := by
  simp [execLinkMacWrite]

@[simp] theorem execHello_pwr (p : Port) (addr : BitVec 48) (s : State) :
    Kept State.pwr s (execHello p addr s) := by
  simp [execHello]

@[simp] theorem execPfcReceived_pwr (p : Port) (classes : BitVec 8) (time : Nat) (s : State) :
    Kept State.pwr s (execPfcReceived p classes time s) := by
  simp [execPfcReceived]

@[simp] theorem execPfcPauseEnd_pwr (p : Port) (s : State) :
    Kept State.pwr s (execPfcPauseEnd p s) := by
  simp [execPfcPauseEnd]

@[simp] theorem cmdResult_pwr (s : State) (p : Nat) (n : Nat) (busy : Bool) :
    (cmdResult s p n busy).pwr = s.pwr := by
  simp [cmdResult]

@[simp] theorem loadEntry_pwr (s : State) (e : Nat) (v : Word × Word) :
    (loadEntry s e v).pwr = s.pwr := by
  simp [loadEntry]

@[simp] theorem partnerCmdWrite_pwr (s : State) (p : Nat) (v : Word) :
    (partnerCmdWrite s p v).pwr = s.pwr := by
  simp only [partnerCmdWrite]; (repeat' split) <;> simp

@[simp] theorem execLoad_pwr (mid : Mid) (link : Panel) (e : Nat) (s : State) :
    Kept State.pwr s (execLoad mid link e s) := by
  simp [execLoad]

@[simp] theorem execPartnerRedraw_pwr (mid : Mid) (link : Panel) (e : Nat) (s : State) :
    Kept State.pwr s (execPartnerRedraw mid link e s) := by
  simp [execPartnerRedraw]

@[simp] theorem execRemove_pwr (mid : Mid) (link : Panel) (e : Nat) (s : State) :
    Kept State.pwr s (execRemove mid link e s) := by
  simp [execRemove]

@[simp] theorem auditLegs_pwr (s : State) (e : Nat) :
    (auditLegs s e).pwr = s.pwr := by
  unfold auditLegs
  apply foldl_pwr
  intro a b
  split <;> simp

@[simp] theorem creditAudit_pwr (s : State) (e : Nat) :
    (creditAudit s e).pwr = s.pwr := by
  simp only [creditAudit, modGrp_pwr, implies_true, foldl_pwr, bump_pwr, wr_pwr, ite_pwr, cmdResult_pwr, loadEntry_pwr, setPtr_pwr,
    auditLegs_pwr, ite_self, breach_pwr]

@[simp] theorem execCreditAudit_pwr (e : Nat) (s : State) :
    Kept State.pwr s (execCreditAudit e s) := by
  simp [execCreditAudit]

@[simp] theorem grpCfgWrite_pwr (s : State) (g : Nat) (v : Word) :
    (grpCfgWrite s g v).pwr = s.pwr := by
  simp [grpCfgWrite]

@[simp] theorem execGroupValidWrite_pwr (mid : Mid) (g : Nat) (value : Word) (s : State) :
    Kept State.pwr s (execGroupValidWrite mid g value s) := by
  simp [execGroupValidWrite]

@[simp] theorem selfRankWrite_pwr (s : State) (p : Nat) (v : Word) :
    (selfRankWrite s p v).pwr = s.pwr := by
  simp [selfRankWrite]

@[simp] theorem execSelfRankWrite_pwr (mid : Mid) (link : Panel) (value : Word) (s : State) :
    Kept State.pwr s (execSelfRankWrite mid link value s) := by
  simp [execSelfRankWrite]

end Sys2Proof.Machine
end

