-- ==== Sys2Proof/Laws/PinsFlags.lean ====
section
/-! SUPPORT. The operations of Machine/Flags.lean that leave the pins and the power-up state alone. -/
namespace Sys2Proof.Machine

@[simp] theorem fbSave_pwr (s : State) (c : Nat) (e : Nat) (task : Option Nat) :
    (fbSave s c e task).pwr = s.pwr := by
  unfold fbSave; (repeat' split) <;> simp

@[simp] theorem freeWatch_pwr (s : State) (c : Nat) (e : Nat) :
    (freeWatch s c e).pwr = s.pwr := by
  simp [freeWatch]

@[simp] theorem estFull_pwr (s : State) (c : Nat) (sid : Nat) (bytes : Nat) :
    (estFull s c sid bytes).pwr = s.pwr := by
  simp [estFull]

@[simp] theorem estRelease_pwr (s : State) (c : Nat) (sid : Nat) (bytes : Nat) :
    (estRelease s c sid bytes).pwr = s.pwr := by
  simp [estRelease]

@[simp] theorem fbFire_pwr (s : State) (task : Option Nat) (compute : Bool) (z3 : Option (Nat × Nat)) :
    (fbFire s task compute z3).pwr = s.pwr := by
  cases z3 <;> simp only [fbFire] <;> (repeat' split) <;> simp

@[simp] theorem fbComplete_pwr (s : State) (z1 : Option (Nat × Nat)) :
    (fbComplete s z1).pwr = s.pwr := by
  cases z1 <;> simp [fbComplete]

@[simp] theorem fbGiveUp_pwr (s : State) (z1 : Option (Nat × Nat)) :
    (fbGiveUp s z1).pwr = s.pwr := by
  cases z1 <;> simp [fbGiveUp]

@[simp] theorem fbRead_pwr (s : State) (z1 : Option (Nat × Nat)) :
    (fbRead s z1).pwr = s.pwr := by
  cases z1 <;> simp only [fbRead] <;> (repeat' split) <;> simp

@[simp] theorem fbRelease_pwr (s : State) (task : Option Nat) (z2 : Option (Nat × Nat)) :
    (fbRelease s task z2).pwr = s.pwr := by
  cases z2 <;> simp only [fbRelease] <;> (repeat' split) <;> simp

@[simp] theorem fbCmd_pwr (s : State) (c : Nat) (e : Nat) (full : Bool) :
    (fbCmd s c e full).pwr = s.pwr := by
  simp [fbCmd]

@[simp] theorem fbParity_pwr (s : State) (c : Nat) (e : Nat) :
    (fbParity s c e).pwr = s.pwr := by
  simp [fbParity]

end Sys2Proof.Machine
end

