-- ==== Sys2Proof/Laws/PinsEngine.lean ====
section
/-! SUPPORT. The operations of Machine/Engine.lean that leave the pins and the power-up state alone. -/
namespace Sys2Proof.Machine

@[simp] theorem modEntry_pwr (s : State) (c : Nat) (id : Nat) (f : QEntry → QEntry) :
    (modEntry s c id f).pwr = s.pwr := by
  simp [modEntry]

@[simp] theorem dropEntry_pwr (s : State) (c : Nat) (id : Nat) :
    (dropEntry s c id).pwr = s.pwr := by
  simp [dropEntry]

@[simp] theorem setPc_pwr (s : State) (c : Nat) (x : Nat) (pc : Nat) :
    (setPc s c x pc).pwr = s.pwr := by
  simp [setPc]

@[simp] theorem readyCtx_pwr (s : State) (c : Nat) (x : Nat) :
    (readyCtx s c x).pwr = s.pwr := by
  simp [readyCtx]

@[simp] theorem closeAcc_pwr (s : State) (c : Nat) (x : Nat) :
    (closeAcc s c x).pwr = s.pwr := by
  simp [closeAcc]

@[simp] theorem settleCtx_pwr (s : State) (c : Nat) (x : Nat) :
    (settleCtx s c x).pwr = s.pwr := by
  simp only [settleCtx]; (repeat' split) <;> simp

@[simp] theorem settle_pwr (s : State) (c : Nat) :
    (settle s c).pwr = s.pwr := by
  simp [settle]

@[simp] theorem removeCommand_pwr (s : State) (c : Nat) (id : Nat) :
    (removeCommand s c id).pwr = s.pwr := by
  simp [removeCommand]

@[simp] theorem removeWaiting_pwr (s : State) (c : Nat) (x : Nat) :
    (removeWaiting s c x).pwr = s.pwr := by
  simp [removeWaiting]

@[simp] theorem beginDiscard_pwr (s : State) (c : Nat) (x : Nat) (how : TaskEnd) :
    (beginDiscard s c x how).pwr = s.pwr := by
  unfold beginDiscard; (repeat' split) <;> simp

@[simp] theorem dropYoke_pwr (s : State) (c : Nat) (x : Nat) :
    (dropYoke s c x).pwr = s.pwr := by
  simp [dropYoke]

@[simp] theorem orphanReq_pwr (s : State) (c : Nat) (x : Nat) :
    (orphanReq s c x).pwr = s.pwr := by
  unfold orphanReq; (repeat' split) <;> simp

@[simp] theorem refuse_pwr (s : State) (c : Nat) (x : Nat) (code : Nat) (pc : Nat) (tag : Nat) :
    (refuse s c x code pc tag).pwr = s.pwr := by
  simp [refuse]

@[simp] theorem refuseEntry_pwr (s : State) (c : Nat) (q : QEntry) (code : Nat) :
    (refuseEntry s c q code).pwr = s.pwr := by
  simp [refuseEntry]

@[simp] theorem descCheck_pwr (s : State) (c : Nat) (cls : Nat) (q : QEntry) :
    (descCheck s c cls q).pwr = s.pwr := by
  simp [descCheck]

@[simp] theorem fireBits_pwr (s : State) (c : Nat) (q : QEntry) :
    (fireBits s c q).pwr = s.pwr := by
  simp [fireBits]

@[simp] theorem fireEntry_pwr (s : State) (c : Nat) (q : QEntry) :
    (fireEntry s c q).pwr = s.pwr := by
  simp [fireEntry]

@[simp] theorem engWrite_pwr (s : State) (c : Nat) (q : QEntry) (ws : List (Nat × List Byte)) :
    (engWrite s c q ws).pwr = s.pwr := by
  simp [engWrite]

@[simp] theorem writeShift_pwr (s : State) (q : QEntry) (lo : Nat) (n : Nat) :
    (writeShift s q lo n).pwr = s.pwr := by
  simp [writeShift]

@[simp] theorem logShifts_pwr (s : State) (c : Nat) (q : QEntry) (l : List (Nat × Nat)) :
    (logShifts s c q l).pwr = s.pwr := by
  simp [logShifts]

@[simp] theorem finishEntry_pwr (s : State) (c : Nat) (q : QEntry) :
    (finishEntry s c q).pwr = s.pwr := by
  simp [finishEntry]

end Sys2Proof.Machine
end

