-- ==== Sys2Proof/Laws/PinsTiming.lean ====
section
/-! SUPPORT. The operations of Machine/Timing.lean that leave the pins and the power-up state alone. -/
namespace Sys2Proof.Machine

@[simp] theorem marginRead_pwr (s : State) (c : Nat) (margin : Nat) :
    (marginRead s c margin).pwr = s.pwr := by
  simp [marginRead]

@[simp] theorem execDlMarginLow_pwr (c : Core) (margin : Byte) (s : State) :
    Kept State.pwr s (execDlMarginLow c margin s) := by
  simp [execDlMarginLow]

@[simp] theorem startKat_pwr (s : State) (c : Nat) :
    (startKat s c).pwr = s.pwr := by
  simp [startKat]

@[simp] theorem recalStart_pwr (s : State) (c : Nat) :
    (recalStart s c).pwr = s.pwr := by
  simp [recalStart]

@[simp] theorem execRecal_pwr (mid : Mid) (c : Core) (s : State) :
    Kept State.pwr s (execRecal mid c s) := by
  simp [execRecal]

@[simp] theorem recalDone_pwr (s : State) (c : Nat) (replica : Nat) (margin : Nat) :
    (recalDone s c replica margin).pwr = s.pwr := by
  simp [recalDone]

@[simp] theorem execDlRecalDone_pwr (c : Core) (replica : Nat) (margin : Byte) (s : State) :
    Kept State.pwr s (execDlRecalDone c replica margin s) := by
  simp [execDlRecalDone]

@[simp] theorem execHemClockStop_pwr (h : HemId) (s : State) :
    Kept State.pwr s (execHemClockStop h s) := by
  simp [execHemClockStop]

@[simp] theorem hemRelease_pwr (s : State) (h : Nat) :
    (hemRelease s h).pwr = s.pwr := by
  simp [hemRelease]

@[simp] theorem execHemClockRun_pwr (h : HemId) (s : State) :
    Kept State.pwr s (execHemClockRun h s) := by
  simp [execHemClockRun]

@[simp] theorem execHemClockLoss_pwr (h : HemId) (s : State) :
    Kept State.pwr s (execHemClockLoss h s) := by
  simp [execHemClockLoss]

@[simp] theorem execOverrun_pwr (h : HemId) (s : State) :
    Kept State.pwr s (execOverrun h s) := by
  simp [execOverrun]

@[simp] theorem resyncStart_pwr (s : State) (h : Nat) (hemSide : Bool) :
    (resyncStart s h hemSide).pwr = s.pwr := by
  simp [resyncStart]

@[simp] theorem resyncReady_pwr (s : State) (h : Nat) (hemSide : Bool) :
    (resyncReady s h hemSide).pwr = s.pwr := by
  simp [resyncReady]

@[simp] theorem execResyncReady_pwr (h : HemId) (hemSide : Bool) (s : State) :
    Kept State.pwr s (execResyncReady h hemSide s) := by
  simp [execResyncReady]

end Sys2Proof.Machine
end

