-- ==== Sys2Proof/Laws/PinsOpe.lean ====
section
/-! SUPPORT. The operations of Machine/Ope.lean that leave the pins and the power-up state alone. -/
namespace Sys2Proof.Machine

@[simp] theorem sourceFail_pwr (s : State) (c : Nat) (i : Nat) :
    (sourceFail s c i).pwr = s.pwr := by
  simp [sourceFail]

@[simp] theorem drawCheck_pwr (s : State) (c : Nat) (i : Nat) (draws : Bool) :
    (drawCheck s c i draws).pwr = s.pwr := by
  simp [drawCheck]

@[simp] theorem setRun_pwr (s : State) (c : Nat) (r : OpeRun) :
    (setRun s c r).pwr = s.pwr := by
  simp [setRun]

@[simp] theorem addEv_pwr (s : State) (c : Nat) (p : Prod) (r : OpeRun) (e : NumEv) :
    (addEv s c p r e).1.pwr = s.pwr := by
  unfold addEv; (repeat' split) <;> simp

@[simp] theorem zeroStep_pwr (s : State) (c : Nat) (id : Nat) :
    (zeroStep s c id).pwr = s.pwr := by
  unfold zeroStep; (repeat' split) <;> simp

@[simp] theorem endStep_pwr (s : State) (c : Nat) (id : Nat) :
    (endStep s c id).pwr = s.pwr := by
  unfold endStep; (repeat' split) <;> simp

@[simp] theorem stepSettle_pwr (s : State) (c : Nat) :
    (stepSettle s c).pwr = s.pwr := by
  unfold stepSettle; (repeat' split) <;> simp

@[simp] theorem productFire_pwr (s : State) (c : Nat) (q : QEntry) (p : Prod) :
    (productFire s c q p).pwr = s.pwr := by
  simp [productFire]

@[simp] theorem opeProduct_pwr (s : State) (c : Nat) :
    (opeProduct s c).pwr = s.pwr := by
  simp only [opeProduct]; (repeat' split) <;> simp

@[simp] theorem execOpeProduct_pwr (c : Core) (s : State) :
    Kept State.pwr s (execOpeProduct c s) := by
  simp [execOpeProduct]

@[simp] theorem feedOne_pwr (s : State) (c : Nat) (f : Feeder) :
    (feedOne s c f).pwr = s.pwr := by
  unfold feedOne; (repeat' split) <;> simp

@[simp] theorem execFeederRefill_pwr (c : Core) (f : Feeder) (s : State) :
    Kept State.pwr s (execFeederRefill c f s) := by
  simp [execFeederRefill]

@[simp] theorem groupFire_pwr (s : State) (c : Nat) (g : CellGroup) :
    (groupFire s c g).pwr = s.pwr := by
  simp only [groupFire]; (repeat' split) <;> simp

@[simp] theorem execCellGroupFire_pwr (c : Core) (g : CellGroup) (s : State) :
    Kept State.pwr s (execCellGroupFire c g s) := by
  simp [execCellGroupFire]

@[simp] theorem parityHit_pwr (s : State) (c : Nat) (arr : Nat) (row : Nat) (col : Nat) :
    (parityHit s c arr row col).pwr = s.pwr := by
  simp [parityHit]

@[simp] theorem drainCopy_pwr (s : State) (c : Nat) (arr : Nat) :
    (drainCopy s c arr).pwr = s.pwr := by
  unfold drainCopy; (repeat' split) <;> simp

@[simp] theorem execDrainCopy_pwr (c : Core) (a : ArrayId) (s : State) :
    Kept State.pwr s (execDrainCopy c a s) := by
  simp [execDrainCopy]

@[simp] theorem modDrain_pwr (s : State) (c : Nat) (id : Nat) (f : DrainRun → DrainRun) :
    (modDrain s c id f).pwr = s.pwr := by
  simp [modDrain]

@[simp] theorem latchCheck_pwr (s : State) (c : Nat) (arr : Nat) (cells : List (Nat × Nat)) :
    (latchCheck s c arr cells).pwr = s.pwr := by
  simp [latchCheck]

@[simp] theorem drainRow_pwr (s : State) (c : Nat) (arr : Nat) :
    (drainRow s c arr).pwr = s.pwr := by
  simp only [drainRow]; (repeat' split) <;> simp

@[simp] theorem execDrainRow_pwr (c : Core) (a : ArrayId) (s : State) :
    Kept State.pwr s (execDrainRow c a s) := by
  simp [execDrainRow]

@[simp] theorem opeWritten_pwr (s : State) (d : DrainRun) (q : QEntry) (slot : Nat) (shared : Bool) (z5 : Option Tile) :
    (opeWritten s d q slot shared z5).pwr = s.pwr := by
  cases z5 <;> simp [opeWritten]

@[simp] theorem drainClose_pwr (s : State) (c : Nat) (p : Prod) (d : DrainRun) (q : QEntry) :
    (drainClose s c p d q).pwr = s.pwr := by
  simp [drainClose]

@[simp] theorem drainDone_pwr (s : State) (c : Nat) (o : Nat) :
    (drainDone s c o).pwr = s.pwr := by
  simp only [drainDone]; (repeat' split) <;> simp

@[simp] theorem execDrainDone_pwr (c : Core) (ope : Fin 2) (s : State) :
    Kept State.pwr s (execDrainDone c ope s) := by
  simp [execDrainDone]

@[simp] theorem scaledRetry_pwr (s : State) (c : Nat) :
    (scaledRetry s c).pwr = s.pwr := by
  simp only [scaledRetry]; (repeat' split) <;> simp

@[simp] theorem execScaledRetry_pwr (c : Core) (s : State) :
    Kept State.pwr s (execScaledRetry c s) := by
  simp [execScaledRetry]

@[simp] theorem accClose_pwr (s : State) (c : Nat) :
    (accClose s c).pwr = s.pwr := by
  simp only [accClose]; (repeat' split) <;> simp

@[simp] theorem execAccClose_pwr (c : Core) (s : State) :
    Kept State.pwr s (execAccClose c s) := by
  simp [execAccClose]

@[simp] theorem katStart_pwr (s : State) (page : Nat) :
    (katStart s page).pwr = s.pwr := by
  simp [katStart]

@[simp] theorem numCtlWrite_pwr (s : State) (page : Nat) (v : Word) (own : Bool) :
    (numCtlWrite s page v own).pwr = s.pwr := by
  simp [numCtlWrite]

@[simp] theorem execSrKatRun_pwr (mid : Mid) (block : SrBlock) (value : Word) (s : State) :
    Kept State.pwr s (execSrKatRun mid block value s) := by
  simp [execSrKatRun]

@[simp] theorem sourcePass_pwr (s : State) (c : Nat) (i : Nat) :
    (sourcePass s c i).pwr = s.pwr := by
  simp [sourcePass]

@[simp] theorem pageSrFail_pwr (s : State) (pg : Nat) :
    (pageSrFail s pg).pwr = s.pwr := by
  simp [pageSrFail]

@[simp] theorem katDone_pwr (s : State) (b : SrBlock) (source : Nat) (pass : Bool) :
    (katDone s b source pass).pwr = s.pwr := by
  unfold katDone; (repeat' split) <;> simp

@[simp] theorem execSrKatDone_pwr (block : SrBlock) (source : Nat) (pass : Bool) (s : State) :
    Kept State.pwr s (execSrKatDone block source pass s) := by
  simp [execSrKatDone]

@[simp] theorem numStepSet_pwr (s : State) (c : Nat) (v : Word) :
    (numStepSet s c v).pwr = s.pwr := by
  simp [numStepSet]

@[simp] theorem execNumStepWrite_pwr (mid : Mid) (c : Core) (value : Word) (s : State) :
    Kept State.pwr s (execNumStepWrite mid c value s) := by
  simp [execNumStepWrite]

end Sys2Proof.Machine
end

