-- ==== Sys2Proof/Laws/PinsOpt.lean ====
section
/-! SUPPORT. The operations of Machine/Opt.lean that leave the pins and the power-up state alone. -/
namespace Sys2Proof.Machine

@[simp] theorem spanRead_pwr (s : State) (a : Nat) (n : Nat) :
    (spanRead s a n).1.pwr = s.pwr := by
  simp only [spanRead]; (repeat' split) <;> simp

@[simp] theorem panelWrite_pwr (s : State) (mid : Nat) (a : Nat) (bytes : List Byte) :
    (panelWrite s mid a bytes).pwr = s.pwr := by
  simp [panelWrite]

@[simp] theorem setLedger_pwr (s : State) (p : Nat) (k : Nat) (n : Nat) :
    (setLedger s p k n).pwr = s.pwr := by
  simp [setLedger]

@[simp] theorem postContribution_pwr (s : State) (e : Nat) :
    (postContribution s e).pwr = s.pwr := by
  simp [postContribution]

@[simp] theorem engCheck_pwr (s : State) (page : Nat) (rne : Bool) :
    (engCheck s page rne).pwr = s.pwr := by
  simp [engCheck]

@[simp] theorem countMarked_pwr (s : State) (page : Nat) (a : Nat) (l : List (Byte × Bool)) :
    (countMarked s page a l).pwr = s.pwr := by
  simp [countMarked]

@[simp] theorem planeRead_pwr (s : State) (f : Fmt) (a : Nat) (n : Nat) :
    (planeRead s f a n).1.pwr = s.pwr := by
  simp [planeRead]

@[simp] theorem planeWrite_pwr (s : State) (p : Nat) (f : Fmt) (a : Nat) (vs : List (FVal × Rnd)) :
    (planeWrite s p f a vs).pwr = s.pwr := by
  simp [planeWrite]

@[simp] theorem optUpdate_pwr (s : State) (p : Nat) (k : Nat) :
    (optUpdate s p k).pwr = s.pwr := by
  unfold optUpdate; (repeat' split) <;> simp

@[simp] theorem execOptUpdate_pwr (p : Panel) (k : Nat) (s : State) :
    Kept State.pwr s (execOptUpdate p k s) := by
  simp [execOptUpdate]

@[simp] theorem execOptUpdateDone_pwr (p : Panel) (k : Nat) (s : State) :
    Kept State.pwr s (execOptUpdateDone p k s) := by
  simp [execOptUpdateDone]

@[simp] theorem setLs_pwr (s : State) (p : Nat) (n : Int) :
    (setLs s p n).pwr = s.pwr := by
  simp [setLs]

@[simp] theorem lossStep_pwr (s : State) (p : Nat) (commit : Bool) :
    (lossStep s p commit).pwr = s.pwr := by
  simp [lossStep]

@[simp] theorem paramsStep_pwr (s : State) (p : Nat) :
    (paramsStep s p).pwr = s.pwr := by
  simp [paramsStep]

@[simp] theorem ledgerReset_pwr (s : State) (p : Nat) :
    (ledgerReset s p).pwr = s.pwr := by
  simp [ledgerReset]

@[simp] theorem writeIgn_pwr (s : State) (p : Nat) :
    (writeIgn s p).pwr = s.pwr := by
  simp [writeIgn]

@[simp] theorem optLossWrite_pwr (s : State) (p : Nat) (v : Word) :
    (optLossWrite s p v).pwr = s.pwr := by
  simp [optLossWrite]

@[simp] theorem shardWrite_pwr (s : State) (p : Nat) (k : Nat) (off : Nat) (v : Word) :
    (shardWrite s p k off v).pwr = s.pwr := by
  simp [shardWrite]

@[simp] theorem putResident_pwr (s : State) (p : Nat) (k : Nat) (t : Tile) (f : Fmt) (data : List (Byte × Bool)) (scales : List (Byte × Bool)) :
    (putResident s p k t f data scales).pwr = s.pwr := by
  simp [putResident]

@[simp] theorem resTile_pwr (s : State) (p : Nat) (k : Nat) :
    (resTile s p k).1.pwr = s.pwr := by
  simp [resTile]

@[simp] theorem copyResident_pwr (s : State) (p : Nat) (k : Nat) :
    (copyResident s p k).pwr = s.pwr := by
  simp only [copyResident]; (repeat' split) <;> simp

@[simp] theorem getResident_pwr (s : State) (p : Nat) (k : Nat) :
    (getResident s p k).1.pwr = s.pwr := by
  unfold getResident
  (try simp only [])
  split
  · simp
  · split <;> simp

@[simp] theorem partBytes_pwr (s : State) (p : Nat) :
    (partBytes s p).1.pwr = s.pwr := by
  simp [partBytes, apply_ite Prod.fst]

@[simp] theorem queueFrames_pwr (s : State) (e : Nat) (fs : List WFrame) :
    (queueFrames s e fs).pwr = s.pwr := by
  simp [queueFrames]

@[simp] theorem snapStart_pwr (s : State) :
    (snapStart s).pwr = s.pwr := by
  simp [snapStart]

@[simp] theorem finishVote_pwr (s : State) (commit : Bool) :
    (finishVote s commit).pwr = s.pwr := by
  simp [finishVote]

@[simp] theorem optDiscard_pwr (s : State) (p : Nat) :
    (optDiscard s p).pwr = s.pwr := by
  simp [optDiscard]

@[simp] theorem applyOutcome_pwr (s : State) (discard : Bool) :
    (applyOutcome s discard).pwr = s.pwr := by
  simp [applyOutcome]

@[simp] theorem optApply_pwr (s : State) (p : Nat) :
    (optApply s p).pwr = s.pwr := by
  simp [optApply]

@[simp] theorem optCommit_pwr (s : State) (p : Nat) :
    (optCommit s p).pwr = s.pwr := by
  simp [optCommit]

@[simp] theorem execOptCommit_pwr (p : Panel) (s : State) :
    Kept State.pwr s (execOptCommit p s) := by
  simp [execOptCommit]

@[simp] theorem advanceCursor_pwr (s : State) :
    (advanceCursor s).pwr = s.pwr := by
  simp [advanceCursor]

@[simp] theorem stepStart_pwr (s : State) :
    (stepStart s).pwr = s.pwr := by
  simp [stepStart]

@[simp] theorem execStepStart_pwr (s : State) :
    Kept State.pwr s (execStepStart s) := by
  simp [execStepStart]

end Sys2Proof.Machine
end

