-- ==== Sys2Proof/Laws/PinsControl.lean ====
section
/-! SUPPORT. The operations of Machine/Control.lean that leave the pins and the power-up state alone. -/
namespace Sys2Proof.Machine

@[simp] theorem ctlStart_pwr (s : State) (c : Nat) (x : Nat) :
    (ctlStart s c x).pwr = s.pwr := by
  simp [ctlStart]

@[simp] theorem dropWait_pwr (s : State) (c : Nat) (x : Nat) :
    (dropWait s c x).pwr = s.pwr := by
  simp [dropWait]

@[simp] theorem ctlStop_pwr (s : State) (c : Nat) (x : Nat) :
    (ctlStop s c x).pwr = s.pwr := by
  simp [ctlStop]

@[simp] theorem execDone_pwr (s : State) (c : Nat) (x : Nat) :
    (execDone s c x).pwr = s.pwr := by
  simp [execDone]

@[simp] theorem syncComplete_pwr (s : State) (c : Nat) (x : Nat) :
    (syncComplete s c x).pwr = s.pwr := by
  simp [syncComplete]

@[simp] theorem keptWake_pwr (s : State) (c : Nat) (x : Nat) :
    (keptWake s c x).pwr = s.pwr := by
  simp [keptWake]

@[simp] theorem unhalt_pwr (s : State) (c : Nat) (x : Nat) (step : Bool) :
    (unhalt s c x step).pwr = s.pwr := by
  simp [unhalt]

@[simp] theorem ctlResume_pwr (s : State) (c : Nat) (x : Nat) :
    (ctlResume s c x).pwr = s.pwr := by
  simp [ctlResume]

@[simp] theorem ctlStep_pwr (s : State) (c : Nat) (x : Nat) :
    (ctlStep s c x).pwr = s.pwr := by
  simp [ctlStep]

@[simp] theorem ctxCtlWrite_pwr (s : State) (c : Nat) (x : Nat) (v : Word) :
    (ctxCtlWrite s c x v).pwr = s.pwr := by
  simp [ctxCtlWrite]

@[simp] theorem ctxCtl_pwr (mid : Mid) (c : Core) (x : CtxId) (v : Word) (s : State) :
    Kept State.pwr s (ctxCtl mid c x v s) := by
  simp [ctxCtl]

@[simp] theorem execStart_pwr (mid : Mid) (c : Core) (x : CtxId) (s : State) :
    Kept State.pwr s (execStart mid c x s) := by
  simp [execStart]

@[simp] theorem execStop_pwr (mid : Mid) (c : Core) (x : CtxId) (s : State) :
    Kept State.pwr s (execStop mid c x s) := by
  simp [execStop]

@[simp] theorem execResume_pwr (mid : Mid) (c : Core) (x : CtxId) (s : State) :
    Kept State.pwr s (execResume mid c x s) := by
  simp [execResume]

@[simp] theorem execStepCtx_pwr (mid : Mid) (c : Core) (x : CtxId) (s : State) :
    Kept State.pwr s (execStepCtx mid c x s) := by
  simp [execStepCtx]

@[simp] theorem ccCtlWrite_pwr (s : State) (c : Nat) (v : Word) :
    (ccCtlWrite s c v).pwr = s.pwr := by
  simp [ccCtlWrite]

@[simp] theorem execHaltAll_pwr (mid : Mid) (c : Core) (s : State) :
    Kept State.pwr s (execHaltAll mid c s) := by
  simp [execHaltAll]

@[simp] theorem execResumeAll_pwr (mid : Mid) (c : Core) (s : State) :
    Kept State.pwr s (execResumeAll mid c s) := by
  simp [execResumeAll]

@[simp] theorem fetchRec_pwr (s : State) (c : Nat) (x : Nat) :
    (fetchRec s c x).pwr = s.pwr := by
  simp [fetchRec]

@[simp] theorem took_pwr (s : State) (c : Nat) (x : Nat) :
    (took s c x).pwr = s.pwr := by
  simp [took]

@[simp] theorem haltCtx_pwr (s : State) (c : Nat) (x : Nat) :
    (haltCtx s c x).pwr = s.pwr := by
  simp [haltCtx]

@[simp] theorem breakHit_pwr (s : State) (c : Nat) (x : Nat) :
    (breakHit s c x).pwr = s.pwr := by
  simp [breakHit]

/-- A turn that ends the record's step keeps a projection. -/
def GateKeptPwr {α : Type} (f : State → α) (s : State) : Gate → Prop
  | .done t => f t = f s
  | _ => True
theorem takeGate_kept_pwr (s : State) (c x : Nat) (row : Nat → Bool) : GateKeptPwr State.pwr s (takeGate s c x row) := by
  unfold takeGate
  extract_lets k pc free r
  clear_value k pc free r
  (repeat' split) <;> simp [GateKeptPwr]
theorem takeGate_pwr {s : State} {c x : Nat} {row : Nat → Bool} {t : State} (h : takeGate s c x row = .done t) :
    t.pwr = s.pwr := by
  have k := takeGate_kept_pwr s c x row
  rw [h] at k
  exact k

@[simp] theorem execRec_pwr (s : State) (c : Nat) (x : Nat) (op : Nat) (f : State → Rec → State) (hf : ∀ a0 a1, (f a0 a1).pwr = a0.pwr) :
    (execRec s c x op f).pwr = s.pwr := by
  unfold execRec
  split
  · rfl
  · next h => exact takeGate_pwr h
  · simp [hf]

@[simp] theorem retarget_pwr (s : State) (c : Nat) (x : Nat) (pc : Nat) :
    (retarget s c x pc).pwr = s.pwr := by
  simp [retarget]

@[simp] theorem refuseHere_pwr (s : State) (c : Nat) (x : Nat) (code : Nat) (r : Rec) :
    (refuseHere s c x code r).pwr = s.pwr := by
  simp [refuseHere]

@[simp] theorem enqueue_pwr (s : State) (c : Nat) (n : Nat) (q : QEntry) :
    (enqueue s c n q).pwr = s.pwr := by
  simp [enqueue]

@[simp] theorem issue_pwr (s : State) (c : Nat) (x : Nat) (n : Nat) (r : Rec) :
    (issue s c x n r).pwr = s.pwr := by
  simp [issue]

@[simp] theorem execEngineRecordIssue_pwr (c : Core) (x : CtxId) (s : State) :
    Kept State.pwr s (execEngineRecordIssue c x s) := by
  simp only [execEngineRecordIssue, kept_next]
  split
  · rfl
  · next h => exact takeGate_pwr h
  · (repeat' split) <;> simp

@[simp] theorem execNop_pwr (c : Core) (x : CtxId) (s : State) :
    Kept State.pwr s (execNop c x s) := by
  simp [execNop]

@[simp] theorem execMark_pwr (c : Core) (x : CtxId) (s : State) :
    Kept State.pwr s (execMark c x s) := by
  simp [execMark]

@[simp] theorem execHalt_pwr (c : Core) (x : CtxId) (s : State) :
    Kept State.pwr s (execHalt c x s) := by
  simp [execHalt]

@[simp] theorem execFence_pwr (c : Core) (x : CtxId) (s : State) :
    Kept State.pwr s (execFence c x s) := by
  simp [execFence]

@[simp] theorem execCtxSeq_pwr (c : Core) (x : CtxId) (s : State) :
    Kept State.pwr s (execCtxSeq c x s) := by
  simp [execCtxSeq]

@[simp] theorem setScalar_pwr (s : State) (c : Nat) (x : Nat) (n : Nat) (v : Word) :
    (setScalar s c x n v).pwr = s.pwr := by
  simp [setScalar]

@[simp] theorem execScAlu_pwr (c : Core) (x : CtxId) (s : State) :
    Kept State.pwr s (execScAlu c x s) := by
  simp [execScAlu]

@[simp] theorem execScLi_pwr (c : Core) (x : CtxId) (s : State) :
    Kept State.pwr s (execScLi c x s) := by
  simp [execScLi]

@[simp] theorem startScalar_pwr (s : State) (c : Nat) (x : Nat) (a : ScalarAcc) :
    (startScalar s c x a).pwr = s.pwr := by
  simp [startScalar]

@[simp] theorem execScLd_pwr (c : Core) (x : CtxId) (s : State) :
    Kept State.pwr s (execScLd c x s) := by
  simp [execScLd]

@[simp] theorem execScSt_pwr (c : Core) (x : CtxId) (s : State) :
    Kept State.pwr s (execScSt c x s) := by
  simp only [execScSt, kept_next]
  apply execRec_pwr
  intro a b
  (try simp only [])
  (repeat' split) <;> simp

@[simp] theorem execASet_pwr (c : Core) (x : CtxId) (s : State) :
    Kept State.pwr s (execASet c x s) := by
  simp [execASet]

@[simp] theorem execPredCmp_pwr (c : Core) (x : CtxId) (s : State) :
    Kept State.pwr s (execPredCmp c x s) := by
  simp [execPredCmp]

@[simp] theorem execPredLogic_pwr (c : Core) (x : CtxId) (s : State) :
    Kept State.pwr s (execPredLogic c x s) := by
  simp [execPredLogic]

@[simp] theorem execPredFull_pwr (c : Core) (x : CtxId) (s : State) :
    Kept State.pwr s (execPredFull c x s) := by
  simp [execPredFull]

@[simp] theorem execPredTask_pwr (c : Core) (x : CtxId) (s : State) :
    Kept State.pwr s (execPredTask c x s) := by
  simp [execPredTask]

@[simp] theorem execBr_pwr (c : Core) (x : CtxId) (s : State) :
    Kept State.pwr s (execBr c x s) := by
  simp only [execBr, kept_next]
  apply execRec_pwr
  intro a b
  (try simp only [])
  (repeat' split) <;> simp

@[simp] theorem execLoopBegin_pwr (c : Core) (x : CtxId) (s : State) :
    Kept State.pwr s (execLoopBegin c x s) := by
  simp only [execLoopBegin, kept_next]
  apply execRec_pwr
  intro a b
  (try simp only [])
  (repeat' split) <;> simp

@[simp] theorem execLoopEnd_pwr (c : Core) (x : CtxId) (s : State) :
    Kept State.pwr s (execLoopEnd c x s) := by
  simp [execLoopEnd]

@[simp] theorem execLoopBreak_pwr (c : Core) (x : CtxId) (s : State) :
    Kept State.pwr s (execLoopBreak c x s) := by
  simp [execLoopBreak]

@[simp] theorem execRefetchDone_pwr (c : Core) (x : CtxId) (s : State) :
    Kept State.pwr s (execRefetchDone c x s) := by
  simp [execRefetchDone]

end Sys2Proof.Machine
end

