-- ==== Sys2Proof/Laws/PinsTask.lean ====
section
/-! SUPPORT. The operations of Machine/Task.lean that leave the pins and the power-up state alone. -/
namespace Sys2Proof.Machine

@[simp] theorem taskBegin_pwr (s : State) (c : Nat) (x : Nat) (r : Rec) :
    (taskBegin s c x r).pwr = s.pwr := by
  simp only [taskBegin]; (repeat' split) <;> simp

@[simp] theorem execTaskBegin_pwr (c : Core) (x : CtxId) (s : State) :
    Kept State.pwr s (execTaskBegin c x s) := by
  simp [execTaskBegin]

@[simp] theorem taskCommit_pwr (s : State) (c : Nat) (x : Nat) (r : Rec) :
    (taskCommit s c x r).pwr = s.pwr := by
  unfold taskCommit; (repeat' split) <;> simp

@[simp] theorem execTaskCommit_pwr (c : Core) (x : CtxId) (s : State) :
    Kept State.pwr s (execTaskCommit c x s) := by
  simp [execTaskCommit]

@[simp] theorem taskAbort_pwr (s : State) (c : Nat) (x : Nat) (r : Rec) :
    (taskAbort s c x r).pwr = s.pwr := by
  unfold taskAbort; (repeat' split) <;> simp

@[simp] theorem execTaskAbort_pwr (c : Core) (x : CtxId) (s : State) :
    Kept State.pwr s (execTaskAbort c x s) := by
  simp [execTaskAbort]

@[simp] theorem freeLog_pwr (s : State) (c : Nat) (x : Nat) :
    (freeLog s c x).pwr = s.pwr := by
  simp [freeLog]

@[simp] theorem showBits_pwr (s : State) (c : Nat) (x : Nat) :
    (showBits s c x).pwr = s.pwr := by
  simp [showBits]

@[simp] theorem commitApply_pwr (s : State) (c : Nat) (x : Nat) :
    (commitApply s c x).pwr = s.pwr := by
  unfold commitApply; (repeat' split) <;> simp

@[simp] theorem execTaskCommitApply_pwr (c : Core) (x : CtxId) (s : State) :
    Kept State.pwr s (execTaskCommitApply c x s) := by
  simp [execTaskCommitApply]

@[simp] theorem taskLogWrite_pwr (s : State) (c : Nat) :
    (taskLogWrite s c).pwr = s.pwr := by
  simp only [taskLogWrite]; (repeat' split) <;> simp

@[simp] theorem logFull_pwr (s : State) (c : Nat) :
    (logFull s c).pwr = s.pwr := by
  simp only [logFull]; (repeat' split) <;> simp

@[simp] theorem execLogFull_pwr (c : Core) (s : State) :
    Kept State.pwr s (execLogFull c s) := by
  simp [execLogFull]

@[simp] theorem taskDiscard_pwr (s : State) (c : Nat) (x : Nat) :
    (taskDiscard s c x).pwr = s.pwr := by
  unfold taskDiscard
  split
  · split
    · rfl
    · (try simp only [])
      split <;> simp
  · rfl

@[simp] theorem execTaskDiscard_pwr (c : Core) (x : CtxId) (s : State) :
    Kept State.pwr s (execTaskDiscard c x s) := by
  simp [execTaskDiscard]

@[simp] theorem closeTaskAcc_pwr (s : State) (c : Nat) (x : Nat) :
    (closeTaskAcc s c x).pwr = s.pwr := by
  simp [closeTaskAcc]

@[simp] theorem discardDone_pwr (s : State) (c : Nat) (x : Nat) :
    (discardDone s c x).pwr = s.pwr := by
  unfold discardDone; (repeat' split) <;> simp

@[simp] theorem execTaskDiscardDone_pwr (c : Core) (x : CtxId) (s : State) :
    Kept State.pwr s (execTaskDiscardDone c x s) := by
  simp [execTaskDiscardDone]

end Sys2Proof.Machine
end

