-- ==== Sys2Proof/Laws/PinsSync.lean ====
section
/-! SUPPORT. The operations of Machine/Sync.lean that leave the pins and the power-up state alone. -/
namespace Sys2Proof.Machine

@[simp] theorem sendReq_pwr (s : State) (c : Nat) (x : Nat) (r : SyncReq) :
    (sendReq s c x r).pwr = s.pwr := by
  simp [sendReq]

@[simp] theorem answerReq_pwr (s : State) (c : Nat) (x : Nat) (r : SyncReq) (orphan : Bool) (a : SyncAns) :
    (answerReq s c x r orphan a).pwr = s.pwr := by
  simp [answerReq]

@[simp] theorem countWait_pwr (s : State) (c : Nat) (x : Nat) (fe : Bool) :
    (countWait s c x fe).pwr = s.pwr := by
  simp [countWait]

@[simp] theorem waitReq_pwr (s : State) (c : Nat) (x : Nat) (r : SyncReq) (orphan : Bool) (w : WaitCond) (fe : Bool) :
    (waitReq s c x r orphan w fe).pwr = s.pwr := by
  simp [waitReq]

@[simp] theorem wakeCtx_pwr (s : State) (c : Nat) (x : Nat) :
    (wakeCtx s c x).pwr = s.pwr := by
  simp [wakeCtx]

@[simp] theorem thawWakes_pwr (s : State) (c : Nat) :
    (thawWakes s c).pwr = s.pwr := by
  simp [thawWakes]

@[simp] theorem feRecord_pwr (s : State) (c : Nat) (x : Nat) (r : Rec) (writes : Bool) (mk : Nat → SyncReq) :
    (feRecord s c x r writes mk).pwr = s.pwr := by
  simp only [feRecord]; (repeat' split) <;> simp

@[simp] theorem execFeTake_pwr (c : Core) (x : CtxId) (s : State) :
    Kept State.pwr s (execFeTake c x s) := by
  simp [execFeTake]

@[simp] theorem execFePeek_pwr (c : Core) (x : CtxId) (s : State) :
    Kept State.pwr s (execFePeek c x s) := by
  simp [execFePeek]

@[simp] theorem execFePut_pwr (c : Core) (x : CtxId) (s : State) :
    Kept State.pwr s (execFePut c x s) := by
  simp [execFePut]

@[simp] theorem execFeSet_pwr (c : Core) (x : CtxId) (s : State) :
    Kept State.pwr s (execFeSet c x s) := by
  simp [execFeSet]

@[simp] theorem execFeClear_pwr (c : Core) (x : CtxId) (s : State) :
    Kept State.pwr s (execFeClear c x s) := by
  simp [execFeClear]

@[simp] theorem setFull_pwr (s : State) (w : Nat) (b : Bool) :
    (setFull s w b).pwr = s.pwr := by
  simp [setFull]

@[simp] theorem storeSync_pwr (s : State) (w : Nat) (v : Word) :
    (storeSync s w v).pwr = s.pwr := by
  simp [storeSync]

@[simp] theorem bankDo_pwr (s : State) (c : Nat) (x : Nat) (r : SyncReq) (orphan : Bool) (w : Nat) (ecc : Ecc) :
    (bankDo s c x r orphan w ecc).pwr = s.pwr := by
  unfold bankDo; (repeat' split) <;> simp

@[simp] theorem execSyncBankAccess_pwr (c : Core) (x : CtxId) (ecc : Ecc) (s : State) :
    Kept State.pwr s (execSyncBankAccess c x ecc s) := by
  unfold execSyncBankAccess; (repeat' split) <;> simp

@[simp] theorem execYokeRegistration_pwr (c : Core) (x : CtxId) (s : State) :
    Kept State.pwr s (execYokeRegistration c x s) := by
  unfold execYokeRegistration; (repeat' split) <;> simp

@[simp] theorem execChangeNotice_pwr (n : Notice) (s : State) :
    Kept State.pwr s (execChangeNotice n s) := by
  unfold execChangeNotice; (repeat' split) <;> simp

@[simp] theorem execSyncWake_pwr (c : Core) (s : State) :
    Kept State.pwr s (execSyncWake c s) := by
  unfold execSyncWake; (repeat' split) <;> simp

@[simp] theorem syncAnswer_pwr (s : State) (c : Nat) (x : Nat) :
    (syncAnswer s c x).pwr = s.pwr := by
  unfold syncAnswer; (repeat' split) <;> simp

@[simp] theorem execSyncAnswer_pwr (c : Core) (x : CtxId) (s : State) :
    Kept State.pwr s (execSyncAnswer c x s) := by
  simp [execSyncAnswer]

@[simp] theorem execBarArrive_pwr (c : Core) (x : CtxId) (s : State) :
    Kept State.pwr s (execBarArrive c x s) := by
  simp [execBarArrive]

@[simp] theorem slotRelease_pwr (s : State) (slot : Nat) :
    (slotRelease s slot).pwr = s.pwr := by
  simp [slotRelease]

@[simp] theorem arrival_pwr (s : State) (c : Nat) (x : Nat) (r : SyncReq) (orphan : Bool) (slot : Nat) (wait : Bool) :
    (arrival s c x r orphan slot wait).pwr = s.pwr := by
  simp [arrival]

@[simp] theorem execYokeArrival_pwr (c : Core) (x : CtxId) (s : State) :
    Kept State.pwr s (execYokeArrival c x s) := by
  unfold execYokeArrival; (repeat' split) <;> simp

@[simp] theorem releaseCtx_pwr (s : State) (r : Release) (x : Nat) :
    (releaseCtx s r x).pwr = s.pwr := by
  unfold releaseCtx; (repeat' split) <;> simp

@[simp] theorem execReleaseArrival_pwr (c : Core) (slot : Byte) (s : State) :
    Kept State.pwr s (execReleaseArrival c slot s) := by
  unfold execReleaseArrival; (repeat' split) <;> simp

@[simp] theorem slotCtlWrite_pwr (s : State) (slot : Nat) (en : Bool) :
    (slotCtlWrite s slot en).pwr = s.pwr := by
  simp [slotCtlWrite]

@[simp] theorem slotCtlCmd_pwr (mid : Mid) (slot : Byte) (en : Bool) (s : State) :
    Kept State.pwr s (slotCtlCmd mid slot en s) := by
  simp [slotCtlCmd]

@[simp] theorem execSlotEnable_pwr (mid : Mid) (slot : Byte) (s : State) :
    Kept State.pwr s (execSlotEnable mid slot s) := by
  simp [execSlotEnable]

@[simp] theorem execSlotDisable_pwr (mid : Mid) (slot : Byte) (s : State) :
    Kept State.pwr s (execSlotDisable mid slot s) := by
  simp [execSlotDisable]

@[simp] theorem pktNotice_pwr (s : State) (k : Nat) :
    (pktNotice s k).pwr = s.pwr := by
  simp [pktNotice]

@[simp] theorem pktAccept_pwr (s : State) (k : Nat) :
    (pktAccept s k).pwr = s.pwr := by
  simp [pktAccept]

@[simp] theorem pktAborted_pwr (s : State) (k : Nat) :
    (pktAborted s k).pwr = s.pwr := by
  simp [pktAborted]

@[simp] theorem pktReturn_pwr (s : State) (k : Nat) :
    (pktReturn s k).pwr = s.pwr := by
  simp [pktReturn]

@[simp] theorem pktGoWrite_pwr (s : State) (k : Nat) :
    (pktGoWrite s k).pwr = s.pwr := by
  simp [pktGoWrite]

@[simp] theorem svcFlush_pwr (s : State) :
    (svcFlush s).pwr = s.pwr := by
  unfold svcFlush; (repeat' split) <;> simp

@[simp] theorem svcAnswer_pwr (s : State) (v : Word) (status : Nat) :
    (svcAnswer s v status).pwr = s.pwr := by
  simp [svcAnswer]

@[simp] theorem pktTake_pwr (s : State) (k : Nat) :
    (pktTake s k).pwr = s.pwr := by
  simp [pktTake]

@[simp] theorem pktTakeWrite_pwr (s : State) (k : Nat) :
    (pktTakeWrite s k).pwr = s.pwr := by
  simp [pktTakeWrite]

@[simp] theorem execPktSend_pwr (c : Core) (x : CtxId) (s : State) :
    Kept State.pwr s (execPktSend c x s) := by
  simp [execPktSend]

@[simp] theorem execPktRecv_pwr (c : Core) (x : CtxId) (s : State) :
    Kept State.pwr s (execPktRecv c x s) := by
  simp [execPktRecv]

@[simp] theorem pktForeign_pwr (s : State) (c : Nat) (x : Nat) (k : Nat) (off : Nat) (r : SyncReq) (orphan : Bool) (pd : Nat) :
    (pktForeign s c x k off r orphan pd).pwr = s.pwr := by
  simp [pktForeign]

@[simp] theorem pktSendReq_pwr (s : State) (c : Nat) (x : Nat) (k : Nat) (ws : List Word) (pd : Nat) (orphan : Bool) :
    (pktSendReq s c x k ws pd orphan).pwr = s.pwr := by
  simp [pktSendReq]

@[simp] theorem pktRecvReq_pwr (s : State) (c : Nat) (x : Nat) (k : Nat) (sbase : Nat) (n : Nat) (pd : Nat) (orphan : Bool) :
    (pktRecvReq s c x k sbase n pd orphan).pwr = s.pwr := by
  simp [pktRecvReq]

@[simp] theorem execPktGo_pwr (src : PktSrc) (k : Fin 512) (s : State) :
    Kept State.pwr s (execPktGo src k s) := by
  unfold execPktGo; (repeat' split) <;> simp

@[simp] theorem execPktTake_pwr (src : PktSrc) (k : Fin 512) (s : State) :
    Kept State.pwr s (execPktTake src k s) := by
  unfold execPktTake; (repeat' split) <;> simp

@[simp] theorem pktClearWrite_pwr (s : State) (k : Nat) :
    (pktClearWrite s k).pwr = s.pwr := by
  simp [pktClearWrite]

@[simp] theorem execPktClear_pwr (mid : Mid) (k : Fin 512) (s : State) :
    Kept State.pwr s (execPktClear mid k s) := by
  simp [execPktClear]

@[simp] theorem pktLockWrite_pwr (s : State) (v : Word) (mantle : Bool) :
    (pktLockWrite s v mantle).pwr = s.pwr := by
  simp [pktLockWrite]

@[simp] theorem execLockSet_pwr (mid : Mid) (s : State) :
    Kept State.pwr s (execLockSet mid s) := by
  simp [execLockSet]

@[simp] theorem wpSend_pwr (s : State) (w : Nat) :
    (wpSend s w).pwr = s.pwr := by
  simp [wpSend]

@[simp] theorem mntBtnClear_pwr (s : State) (b : Nat) :
    (mntBtnClear s b).pwr = s.pwr := by
  simp [mntBtnClear]

@[simp] theorem mntPut_pwr (s : State) (w : Nat) (v : Word) :
    (mntPut s w v).pwr = s.pwr := by
  simp [mntPut]

@[simp] theorem mntFlush_pwr (s : State) :
    (mntFlush s).pwr = s.pwr := by
  unfold mntFlush
  apply foldl_pwr
  intro a b
  split
  · rfl
  · split <;> simp

@[simp] theorem mntTake_pwr (s : State) (w : Nat) :
    (mntTake s w).pwr = s.pwr := by
  simp [mntTake]

@[simp] theorem mntAnswer_pwr (s : State) (w : Nat) (op : Nat) (seq : Nat) (status : Nat) (value : Nat) :
    (mntAnswer s w op seq status value).pwr = s.pwr := by
  simp [mntAnswer]

@[simp] theorem mntPump_pwr (z0 : Nat) (z1 : State) :
    (mntPump z0 z1).pwr = z1.pwr := by
  induction z0 generalizing z1 with
    | zero => simp [mntPump]
    | succ n ih => simp only [mntPump]; (repeat' split) <;> simp [ih]

@[simp] theorem wpGoWrite_pwr (s : State) (w : Nat) :
    (wpGoWrite s w).pwr = s.pwr := by
  simp [wpGoWrite]

@[simp] theorem wpTakeWrite_pwr (s : State) (w : Nat) :
    (wpTakeWrite s w).pwr = s.pwr := by
  simp [wpTakeWrite]

@[simp] theorem execWpGo_pwr (mid : Mid) (w : Fin 16) (s : State) :
    Kept State.pwr s (execWpGo mid w s) := by
  simp [execWpGo]

@[simp] theorem execWpTake_pwr (mid : Mid) (w : Fin 16) (s : State) :
    Kept State.pwr s (execWpTake mid w s) := by
  simp [execWpTake]

@[simp] theorem btnRingWrite_pwr (s : State) (receiver : Nat) (v : Word) (mantle : Bool) :
    (btnRingWrite s receiver v mantle).pwr = s.pwr := by
  simp [btnRingWrite]

@[simp] theorem ringReq_pwr (s : State) (c : Nat) (x : Nat) (mid : Nat) (b : Nat) (orphan : Bool) :
    (ringReq s c x mid b orphan).pwr = s.pwr := by
  simp [ringReq]

@[simp] theorem execBtnRing_pwr (src : BtnSrc) (s : State) :
    Kept State.pwr s (execBtnRing src s) := by
  simp only [execBtnRing, kept_next]
  split
  · simp
  · split
    · simp
    · apply execRec_pwr
      intro a b
      split <;> simp

@[simp] theorem btnWait_pwr (s : State) (c : Nat) (x : Nat) (r : Rec) :
    (btnWait s c x r).pwr = s.pwr := by
  simp [btnWait]

@[simp] theorem execBtnWait_pwr (c : Core) (x : CtxId) (s : State) :
    Kept State.pwr s (execBtnWait c x s) := by
  simp [execBtnWait]

end Sys2Proof.Machine
end

