-- ==== Sys2Proof/Laws/PinsColl.lean ====
section
/-! SUPPORT. The operations of Machine/Coll.lean that leave the pins and the power-up state alone. -/
namespace Sys2Proof.Machine

@[simp] theorem setColl_pwr (s : State) (p : Nat) (q : List CollCmd) :
    (setColl s p q).pwr = s.pwr := by
  simp [setColl]

@[simp] theorem modCmd_pwr (s : State) (p : Nat) (n : Nat) (f : CollCmd → CollCmd) :
    (modCmd s p n f).pwr = s.pwr := by
  simp [modCmd]

@[simp] theorem collDone_pwr (s : State) (d : Desc) :
    (collDone s d).pwr = s.pwr := by
  simp [collDone]

@[simp] theorem collRefuse_pwr (s : State) (p : Nat) (d : Desc) (code : Nat) (addr : Nat) :
    (collRefuse s p d code addr).pwr = s.pwr := by
  simp [collRefuse]

@[simp] theorem descsRead_pwr (s : State) (a : Nat) (n : Nat) :
    (descsRead s a n).1.pwr = s.pwr := by
  unfold descsRead
  exact (foldl_fst_pwr _ (fun a b => by simp) _ _)

@[simp] theorem collTake_pwr (s : State) (p : Nat) :
    (collTake s p).pwr = s.pwr := by
  unfold collTake
  split
  · rfl
  · (try simp only [])
    (repeat' split) <;> simp

@[simp] theorem execCollCommandTake_pwr (p : Panel) (s : State) :
    Kept State.pwr s (execCollCommandTake p s) := by
  simp [execCollCommandTake]

@[simp] theorem runCells_pwr (s : State) (t : Tile) (n0 : Nat) (n : Nat) :
    (runCells s t n0 n).1.pwr = s.pwr := by
  unfold runCells; (repeat' split) <;> simp

@[simp] theorem runRead_pwr (s : State) (p : Nat) (t : Tile) (n0 : Nat) (n : Nat) :
    (runRead s p t n0 n).1.pwr = s.pwr := by
  unfold runRead; (repeat' split) <;> simp

@[simp] theorem putRun_pwr (s : State) (p : Nat) (c : CollCmd) (pos : Nat) (n : Nat) (data : List Byte) (scales : List Byte) :
    (putRun s p c pos n data scales).pwr = s.pwr := by
  simp [putRun]

@[simp] theorem getRun_pwr (s : State) (p : Nat) (c : CollCmd) (pos : Nat) (n : Nat) :
    (getRun s p c pos n).1.pwr = s.pwr := by
  unfold getRun
  exact (foldl_fst_pwr _ (fun a b => by (try simp only []); split <;> simp) _ _)

@[simp] theorem foldWords_pwr (s : State) (p : Nat) :
    (foldWords s p).pwr = s.pwr := by
  simp [foldWords]

@[simp] theorem collSend_pwr (s : State) (p : Nat) (group : Bool) (k : Nat) (f : WFrame) :
    (collSend s p group k f).pwr = s.pwr := by
  simp [collSend]

@[simp] theorem sendRun_pwr (s : State) (p : Nat) (t : Tile) (n0 : Nat) (n : Nat) (kind : Nat) (id : Nat) (group : Bool) (k : Nat) :
    (sendRun s p t n0 n kind id group k).pwr = s.pwr := by
  simp [sendRun]

@[simp] theorem collBegin_pwr (s : State) (p : Nat) (c : CollCmd) :
    (collBegin s p c).pwr = s.pwr := by
  simp [collBegin]

@[simp] theorem collStart_pwr (s : State) (p : Nat) (op : Nat) :
    (collStart s p op).pwr = s.pwr := by
  unfold collStart; (repeat' split) <;> simp

@[simp] theorem execAllGather_pwr (p : Panel) (s : State) :
    Kept State.pwr s (execAllGather p s) := by
  simp [execAllGather]

@[simp] theorem execReduceScatter_pwr (p : Panel) (s : State) :
    Kept State.pwr s (execReduceScatter p s) := by
  simp [execReduceScatter]

@[simp] theorem execAllReduce_pwr (p : Panel) (s : State) :
    Kept State.pwr s (execAllReduce p s) := by
  simp [execAllReduce]

@[simp] theorem seenIn_pwr (s : State) (i : EngIn) :
    (seenIn s i).pwr = s.pwr := by
  simp [seenIn]

@[simp] theorem dropIn_pwr (s : State) (i : EngIn) :
    (dropIn s i).pwr = s.pwr := by
  simp [dropIn]

@[simp] theorem settleCmd_pwr (s : State) (p : Nat) (num : Nat) :
    (settleCmd s p num).pwr = s.pwr := by
  unfold settleCmd; (repeat' split) <;> simp

@[simp] theorem collFrameRx_pwr (s : State) (p : Nat) :
    (collFrameRx s p).pwr = s.pwr := by
  simp only [collFrameRx]; (repeat' split) <;> simp

@[simp] theorem execCollFrameRx_pwr (p : Panel) (s : State) :
    Kept State.pwr s (execCollFrameRx p s) := by
  simp [execCollFrameRx]

@[simp] theorem collFold_pwr (s : State) (p : Nat) (id : Nat) (index : Nat) :
    (collFold s p id index).pwr = s.pwr := by
  unfold collFold; (repeat' split) <;> simp

@[simp] theorem execCollFold_pwr (p : Panel) (collId : Nat) (frame : Nat) (s : State) :
    Kept State.pwr s (execCollFold p collId frame s) := by
  simp [execCollFold]

@[simp] theorem collComplete_pwr (s : State) (p : Nat) :
    (collComplete s p).pwr = s.pwr := by
  unfold collComplete; (repeat' split) <;> simp

@[simp] theorem execCollCommandComplete_pwr (p : Panel) (s : State) :
    Kept State.pwr s (execCollCommandComplete p s) := by
  simp [execCollCommandComplete]

@[simp] theorem sendClose_pwr (s : State) (stage : Nat) :
    (sendClose s stage).pwr = s.pwr := by
  simp [sendClose]

@[simp] theorem closingStart_pwr (s : State) :
    (closingStart s).pwr = s.pwr := by
  simp [closingStart]

@[simp] theorem execClosingPhase_pwr (s : State) :
    Kept State.pwr s (execClosingPhase s) := by
  simp [execClosingPhase]

@[simp] theorem execClose1Merged_pwr (s : State) :
    Kept State.pwr s (execClose1Merged s) := by
  unfold execClose1Merged; (repeat' split) <;> simp

@[simp] theorem close2_pwr (s : State) :
    (close2 s).pwr = s.pwr := by
  unfold close2; (repeat' split) <;> simp

@[simp] theorem execClose2Merged_pwr (s : State) :
    Kept State.pwr s (execClose2Merged s) := by
  simp [execClose2Merged]

end Sys2Proof.Machine
end

