-- ==== Sys2Proof/Laws/PinsRecovery.lean ====
section
/-! SUPPORT. The operations of Machine/Recovery.lean that leave the pins and the power-up state alone. -/
namespace Sys2Proof.Machine

@[simp] theorem wordRead_pwr (s : State) (a : Nat) :
    (wordRead s a).1.pwr = s.pwr := by
  simp [wordRead]

@[simp] theorem ingestCursor_pwr (s : State) :
    (ingestCursor s).1.pwr = s.pwr := by
  simp [ingestCursor]

@[simp] theorem hdrRead_pwr (s : State) (a : Nat) :
    (hdrRead s a).1.pwr = s.pwr := by
  simp [hdrRead]

@[simp] theorem copyGranules_pwr (s : State) (mid : Nat) (a : Nat) (cells : List (Byte × Bool)) :
    (copyGranules s mid a cells).pwr = s.pwr := by
  simp [copyGranules]

@[simp] theorem localSeal_pwr (s : State) (p : Nat) :
    (localSeal s p).pwr = s.pwr := by
  simp [localSeal]

@[simp] theorem execLocalSlotSealed_pwr (p : Panel) (s : State) :
    Kept State.pwr s (execLocalSlotSealed p s) := by
  simp [execLocalSlotSealed]

@[simp] theorem putDigest_pwr (s : State) (p : Nat) (d : Nat) :
    (putDigest s p d).pwr = s.pwr := by
  simp [putDigest]

@[simp] theorem digestPart_pwr (s : State) (p : Nat) :
    (digestPart s p).1.pwr = s.pwr := by
  simp [digestPart]

@[simp] theorem digestAll_pwr (s : State) :
    (digestAll s).1.pwr = s.pwr := by
  simp [digestAll]

@[simp] theorem mirrorHeader_pwr (s : State) :
    (mirrorHeader s).pwr = s.pwr := by
  simp [mirrorHeader]

@[simp] theorem execMirrorHeaderWrite_pwr (s : State) :
    Kept State.pwr s (execMirrorHeaderWrite s) := by
  simp [execMirrorHeaderWrite]

@[simp] theorem askSource_pwr (s : State) (e : Nat) (p : Nat) (ws : List Nat) :
    (askSource s e p ws).pwr = s.pwr := by
  simp [askSource]

@[simp] theorem stampOk_pwr (s : State) (n : Nat) :
    (stampOk s n).1.pwr = s.pwr := by
  simp [stampOk]

@[simp] theorem recEnd_pwr (s : State) (n : Nat) :
    (recEnd s n).pwr = s.pwr := by
  simp [recEnd]

@[simp] theorem restorePull_pwr (s : State) (replica : Bool) :
    (restorePull s replica).pwr = s.pwr := by
  simp [restorePull]

@[simp] theorem residentFull_pwr (s : State) (p : Nat) (k : Nat) :
    (residentFull s p k).pwr = s.pwr := by
  simp only [residentFull]; (repeat' split) <;> simp

@[simp] theorem allTilesFull_pwr (s : State) :
    (allTilesFull s).pwr = s.pwr := by
  simp [allTilesFull]

@[simp] theorem restoreDone_pwr (s : State) (n : Nat) (flags : Nat) :
    (restoreDone s n flags).pwr = s.pwr := by
  simp [restoreDone]

@[simp] theorem localCheck_pwr (s : State) (n : Nat) :
    (localCheck s n).1.pwr = s.pwr := by
  simp [localCheck]

@[simp] theorem localCopy_pwr (s : State) (n : Nat) :
    (localCopy s n).pwr = s.pwr := by
  simp [localCopy]

@[simp] theorem restoreLocal_pwr (s : State) :
    (restoreLocal s).pwr = s.pwr := by
  simp only [restoreLocal]; (repeat' split) <;> simp

@[simp] theorem abandon_pwr (s : State) :
    (abandon s).pwr = s.pwr := by
  simp [abandon]

@[simp] theorem rollback_pwr (s : State) :
    (rollback s).pwr = s.pwr := by
  simp only [rollback]; (repeat' split) <;> simp

@[simp] theorem purgeHeld_pwr (s : State) (src : RxStream) :
    (purgeHeld s src).pwr = s.pwr := by
  simp [purgeHeld]

@[simp] theorem purge_pwr (s : State) :
    (purge s).pwr = s.pwr := by
  simp [purge]

@[simp] theorem verify_pwr (s : State) :
    (verify s).pwr = s.pwr := by
  simp [verify]

@[simp] theorem adopt_pwr (s : State) (discard : Bool) :
    (adopt s discard).pwr = s.pwr := by
  simp [adopt]

@[simp] theorem recStart_pwr (s : State) (op : Nat) (out : Bool) :
    (recStart s op out).pwr = s.pwr := by
  simp [recStart]

@[simp] theorem recCmdWrite_pwr (s : State) (p : Nat) (v : Word) :
    (recCmdWrite s p v).pwr = s.pwr := by
  simp [recCmdWrite]

@[simp] theorem recCmd_pwr (mid : Mid) (v : Word) (s : State) :
    Kept State.pwr s (recCmd mid v s) := by
  simp [recCmd]

@[simp] theorem execSnapshot_pwr (mid : Mid) (s : State) :
    Kept State.pwr s (execSnapshot mid s) := by
  simp [execSnapshot]

@[simp] theorem execRestoreMirror_pwr (mid : Mid) (s : State) :
    Kept State.pwr s (execRestoreMirror mid s) := by
  simp [execRestoreMirror]

@[simp] theorem execRestoreReplica_pwr (mid : Mid) (s : State) :
    Kept State.pwr s (execRestoreReplica mid s) := by
  simp [execRestoreReplica]

@[simp] theorem execRestoreLocal_pwr (mid : Mid) (s : State) :
    Kept State.pwr s (execRestoreLocal mid s) := by
  simp [execRestoreLocal]

@[simp] theorem execVerify_pwr (mid : Mid) (s : State) :
    Kept State.pwr s (execVerify mid s) := by
  simp [execVerify]

@[simp] theorem execAbandon_pwr (mid : Mid) (s : State) :
    Kept State.pwr s (execAbandon mid s) := by
  simp [execAbandon]

@[simp] theorem execAdopt_pwr (mid : Mid) (outcome : Bool) (s : State) :
    Kept State.pwr s (execAdopt mid outcome s) := by
  simp [execAdopt]

@[simp] theorem execRollback_pwr (mid : Mid) (s : State) :
    Kept State.pwr s (execRollback mid s) := by
  simp [execRollback]

@[simp] theorem execPurge_pwr (mid : Mid) (s : State) :
    Kept State.pwr s (execPurge mid s) := by
  simp [execPurge]

@[simp] theorem answerSource_pwr (s : State) (p : Nat) (i : EngIn) (status : Nat) (flags : Nat) (digest : Nat) (dest : Nat) (bytes : List Byte) :
    (answerSource s p i status flags digest dest bytes).pwr = s.pwr := by
  simp [answerSource]

@[simp] theorem servePull_pwr (s : State) (p : Nat) :
    (servePull s p).pwr = s.pwr := by
  simp only [servePull]; (repeat' split) <;> simp

@[simp] theorem execRestorePullRequest_pwr (p : Panel) (s : State) :
    Kept State.pwr s (execRestorePullRequest p s) := by
  simp [execRestorePullRequest]

@[simp] theorem serveDigest_pwr (s : State) :
    (serveDigest s).pwr = s.pwr := by
  unfold serveDigest
  refine foldl_pwr _ (fun a b => ?_) _ _
  split
  · rfl
  · (repeat' split) <;> simp

@[simp] theorem execVerifyDigestRequest_pwr (s : State) :
    Kept State.pwr s (execVerifyDigestRequest s) := by
  simp [execVerifyDigestRequest]

@[simp] theorem takeReply_pwr (s : State) (p : Nat) :
    (takeReply s p).pwr = s.pwr := by
  unfold takeReply; (repeat' split) <;> simp

@[simp] theorem takeReplies_pwr (s : State) :
    (takeReplies s).pwr = s.pwr := by
  simp [takeReplies]

@[simp] theorem restoreTiles_pwr (s : State) :
    (restoreTiles s).pwr = s.pwr := by
  simp [restoreTiles]

@[simp] theorem recComplete_pwr (s : State) :
    (recComplete s).pwr = s.pwr := by
  simp only [recComplete]; (repeat' split) <;> simp

@[simp] theorem execRecCommandComplete_pwr (s : State) :
    Kept State.pwr s (execRecCommandComplete s) := by
  simp [execRecCommandComplete]

end Sys2Proof.Machine
end

