-- ==== Sys2Proof/Laws/PinsVector.lean ====
section
/-! SUPPORT. The operations of Machine/Vector.lean that leave the pins and the power-up state alone. -/
namespace Sys2Proof.Machine

@[simp] theorem vecDrawCheck_pwr (s : State) (c : Nat) (q : QEntry) :
    (vecDrawCheck s c q).pwr = s.pwr := by
  simp [vecDrawCheck]

@[simp] theorem vecFire_pwr (s : State) (c : Nat) (q0 : QEntry) :
    (vecFire s c q0).pwr = s.pwr := by
  simp only [vecFire]; (repeat' split) <;> simp

@[simp] theorem vecArrive_pwr (s : State) (c : Nat) (op : Nat) :
    (vecArrive s c op).pwr = s.pwr := by
  simp only [vecArrive]; (repeat' split) <;> simp

@[simp] theorem vecPick_pwr (s : State) (c : Nat) (op : Nat) :
    (vecPick s c op).pwr = s.pwr := by
  simp only [vecPick]; (repeat' split) <;> simp

@[simp] theorem vecStep_pwr (c : Core) (op : Nat) (s : State) :
    Kept State.pwr s (vecStep c op s) := by
  simp [vecStep]

@[simp] theorem execVecEw_pwr (c : Core) (s : State) :
    Kept State.pwr s (execVecEw c s) := by
  simp [execVecEw]

@[simp] theorem execVecFn_pwr (c : Core) (s : State) :
    Kept State.pwr s (execVecFn c s) := by
  simp [execVecFn]

@[simp] theorem execVecFnBwd_pwr (c : Core) (s : State) :
    Kept State.pwr s (execVecFnBwd c s) := by
  simp [execVecFnBwd]

@[simp] theorem execVecRowRed_pwr (c : Core) (s : State) :
    Kept State.pwr s (execVecRowRed c s) := by
  simp [execVecRowRed]

@[simp] theorem execVecColRed_pwr (c : Core) (s : State) :
    Kept State.pwr s (execVecColRed c s) := by
  simp [execVecColRed]

@[simp] theorem execVecNormStat_pwr (c : Core) (s : State) :
    Kept State.pwr s (execVecNormStat c s) := by
  simp [execVecNormStat]

@[simp] theorem execVecNormFwd_pwr (c : Core) (s : State) :
    Kept State.pwr s (execVecNormFwd c s) := by
  simp [execVecNormFwd]

@[simp] theorem execVecNormBwd_pwr (c : Core) (s : State) :
    Kept State.pwr s (execVecNormBwd c s) := by
  simp [execVecNormBwd]

@[simp] theorem execVecSmaxFold_pwr (c : Core) (s : State) :
    Kept State.pwr s (execVecSmaxFold c s) := by
  simp [execVecSmaxFold]

@[simp] theorem execVecSmaxApply_pwr (c : Core) (s : State) :
    Kept State.pwr s (execVecSmaxApply c s) := by
  simp [execVecSmaxApply]

@[simp] theorem execVecSmaxD_pwr (c : Core) (s : State) :
    Kept State.pwr s (execVecSmaxD c s) := by
  simp [execVecSmaxD]

@[simp] theorem execVecSmaxBwd_pwr (c : Core) (s : State) :
    Kept State.pwr s (execVecSmaxBwd c s) := by
  simp [execVecSmaxBwd]

@[simp] theorem execVecDropout_pwr (c : Core) (s : State) :
    Kept State.pwr s (execVecDropout c s) := by
  simp [execVecDropout]

@[simp] theorem execVecRand_pwr (c : Core) (s : State) :
    Kept State.pwr s (execVecRand c s) := by
  simp [execVecRand]

@[simp] theorem execVecScatterAdd_pwr (c : Core) (s : State) :
    Kept State.pwr s (execVecScatterAdd c s) := by
  simp [execVecScatterAdd]

@[simp] theorem vectorComplete_pwr (s : State) (c : Nat) :
    (vectorComplete s c).pwr = s.pwr := by
  unfold vectorComplete; (repeat' split) <;> simp

@[simp] theorem execVectorComplete_pwr (c : Core) (s : State) :
    Kept State.pwr s (execVectorComplete c s) := by
  simp [execVectorComplete]

end Sys2Proof.Machine
end

