-- ==== Sys2Proof/Laws/PinsStream.lean ====
section
/-! SUPPORT. The operations of Machine/Stream.lean that leave the pins and the power-up state alone. -/
namespace Sys2Proof.Machine

@[simp] theorem fillSlot_pwr (s : State) (c : Nat) :
    (fillSlot s c).pwr = s.pwr := by
  simp only [fillSlot]; (repeat' split) <;> simp

@[simp] theorem fillSlots_pwr (s : State) (c : Nat) :
    (fillSlots s c).pwr = s.pwr := by
  simp [fillSlots]

@[simp] theorem hold_pwr (s : State) (c : Nat) (r : StrReq) (t : TagKind) :
    (hold s c r t).pwr = s.pwr := by
  simp [hold]

@[simp] theorem unpark_pwr (s : State) (c : Nat) (ret : Option Returned) :
    (unpark s c ret).pwr = s.pwr := by
  unfold unpark
  apply foldl_pwr
  intro a b
  (repeat' split) <;> simp

@[simp] theorem unparkAll_pwr (s : State) (p : Nat) (ret : Option Returned) :
    (unparkAll s p ret).pwr = s.pwr := by
  simp [unparkAll]

@[simp] theorem streamRequest_pwr (s : State) (c : Nat) (slot : Nat) :
    (streamRequest s c slot).pwr = s.pwr := by
  simp only [streamRequest]; (repeat' split) <;> simp

@[simp] theorem execStreamRequest_pwr (c : Core) (slot : Fin 16) (s : State) :
    Kept State.pwr s (execStreamRequest c slot s) := by
  simp [execStreamRequest]

@[simp] theorem tagGrant_pwr (s : State) (p : Nat) :
    (tagGrant s p).pwr = s.pwr := by
  simp only [tagGrant]; (repeat' split) <;> simp

@[simp] theorem execTagGrant_pwr (p : Panel) (s : State) :
    Kept State.pwr s (execTagGrant p s) := by
  simp [execTagGrant]

@[simp] theorem fetchSpans_pwr (s : State) (spans : List (Nat × Nat)) :
    (fetchSpans s spans).1.pwr = s.pwr := by
  unfold fetchSpans
  exact foldl_keeps (fun a : State × Fetched × List (Nat × Nat) × Nat => a.1.pwr) _ (fun a b => by simp) _ _

@[simp] theorem strWrite_pwr (s : State) (c : Nat) (q : QEntry) (ws : List (Nat × List Byte)) :
    (strWrite s c q ws).pwr = s.pwr := by
  simp [strWrite]

@[simp] theorem tileFull_pwr (s : State) (c : Nat) (q : QEntry) (b : Nat × Nat) (bytes : Nat) :
    (tileFull s c q b bytes).pwr = s.pwr := by
  simp [tileFull]

@[simp] theorem startRefetch_pwr (s : State) (c : Nat) (q : QEntry) :
    (startRefetch s c q).pwr = s.pwr := by
  simp [startRefetch]

@[simp] theorem finishRun_pwr (s : State) (c : Nat) (r : StrRun) :
    (finishRun s c r).pwr = s.pwr := by
  simp only [finishRun]; (repeat' split) <;> simp

@[simp] theorem runSettle_pwr (s : State) (c : Nat) (id : Nat) :
    (runSettle s c id).pwr = s.pwr := by
  unfold runSettle; (repeat' split) <;> simp

@[simp] theorem execTaskLogWrite_pwr (c : Core) (s : State) :
    Kept State.pwr s (execTaskLogWrite c s) := by
  unfold execTaskLogWrite; (repeat' split) <;> simp

@[simp] theorem strFire_pwr (s : State) (c : Nat) (q0 : QEntry) :
    (strFire s c q0).pwr = s.pwr := by
  simp only [strFire]; (repeat' split) <;> simp

@[simp] theorem strHead_pwr (s : State) (c : Nat) (op : Nat) :
    (strHead s c op).pwr = s.pwr := by
  simp only [strHead]; (repeat' split) <;> simp

@[simp] theorem execStrMove_pwr (c : Core) (s : State) :
    Kept State.pwr s (execStrMove c s) := by
  simp [execStrMove]

@[simp] theorem execStrLining_pwr (c : Core) (s : State) :
    Kept State.pwr s (execStrLining c s) := by
  simp [execStrLining]

@[simp] theorem execStrGather_pwr (c : Core) (s : State) :
    Kept State.pwr s (execStrGather c s) := by
  simp [execStrGather]

@[simp] theorem execStrScatter_pwr (c : Core) (s : State) :
    Kept State.pwr s (execStrScatter c s) := by
  simp [execStrScatter]

@[simp] theorem moveReads_pwr (s : State) (c : Nat) (run : StrRun) (reads : List (Nat × Nat)) (vers : List (Nat × Nat)) (pois : Nat) :
    (moveReads s c run reads vers pois).pwr = s.pwr := by
  simp [moveReads]

@[simp] theorem moveRequest_pwr (s : State) (c : Nat) (run : StrRun) (r : StrReq) :
    (moveRequest s c run r).pwr = s.pwr := by
  simp [moveRequest]

@[simp] theorem requestDone_pwr (s : State) (c : Nat) (num : Nat) :
    (requestDone s c num).pwr = s.pwr := by
  simp only [requestDone]; (repeat' split) <;> simp

@[simp] theorem execStreamRequestDone_pwr (c : Core) (req : Nat) (s : State) :
    Kept State.pwr s (execStreamRequestDone c req s) := by
  simp [execStreamRequestDone]

@[simp] theorem eosComplete_pwr (s : State) (c : Nat) (q : QEntry) :
    (eosComplete s c q).pwr = s.pwr := by
  simp [eosComplete]

@[simp] theorem strEos_pwr (s : State) (c : Nat) :
    (strEos s c).pwr = s.pwr := by
  simp only [strEos]; (repeat' split) <;> simp

@[simp] theorem execStrEos_pwr (c : Core) (s : State) :
    Kept State.pwr s (execStrEos c s) := by
  simp [execStrEos]

@[simp] theorem strEosComplete_pwr (s : State) (c : Nat) (sid : Nat) :
    (strEosComplete s c sid).pwr = s.pwr := by
  unfold strEosComplete; (repeat' split) <;> simp

@[simp] theorem execStrEosComplete_pwr (c : Core) (sid : Byte) (s : State) :
    Kept State.pwr s (execStrEosComplete c sid s) := by
  simp [execStrEosComplete]

@[simp] theorem fbCmdWrite_pwr (s : State) (c : Nat) (v : Word) :
    (fbCmdWrite s c v).pwr = s.pwr := by
  unfold fbCmdWrite; (repeat' split) <;> simp

@[simp] theorem fbSetCmd_pwr (mid : Mid) (c : Core) (entry : BitVec 12) (op : Nat) (s : State) :
    Kept State.pwr s (fbSetCmd mid c entry op s) := by
  simp [fbSetCmd]

@[simp] theorem execFbSetFull_pwr (mid : Mid) (c : Core) (entry : BitVec 12) (s : State) :
    Kept State.pwr s (execFbSetFull mid c entry s) := by
  simp [execFbSetFull]

@[simp] theorem execFbSetEmpty_pwr (mid : Mid) (c : Core) (entry : BitVec 12) (s : State) :
    Kept State.pwr s (execFbSetEmpty mid c entry s) := by
  simp [execFbSetEmpty]

@[simp] theorem execFbParity_pwr (c : Core) (entry : BitVec 12) (s : State) :
    Kept State.pwr s (execFbParity c entry s) := by
  simp [execFbParity]

@[simp] theorem watchWrite_pwr (s : State) (p : Nat) (w : Nat) (limit : Bool) (v : Word) (own : Bool) :
    (watchWrite s p w limit v own).pwr = s.pwr := by
  simp [watchWrite]

@[simp] theorem execWatchRegionWrite_pwr (mid : Mid) (p : Panel) (w : Fin 16) (limit : Bool) (value : Word) (s : State) :
    Kept State.pwr s (execWatchRegionWrite mid p w limit value s) := by
  simp [execWatchRegionWrite]

@[simp] theorem watchReport_pwr (s : State) (c : Nat) (idx : Nat) (ver : Nat) :
    (watchReport s c idx ver).pwr = s.pwr := by
  simp [watchReport]

@[simp] theorem execWatchVersionReport_pwr (c : Core) (p : Panel) (w : Fin 16) (s : State) :
    Kept State.pwr s (execWatchVersionReport c p w s) := by
  simp [execWatchVersionReport]

@[simp] theorem csFabric_pwr (s : State) (mid : Nat) (a : Nat) (op : MemOp) (e : Ecc) :
    (csFabric s mid a op e).pwr = s.pwr := by
  unfold csFabric; (repeat' split) <;> simp

@[simp] theorem execCsFabricAccess_pwr (mid : Mid) (addr : Word) (op : MemOp) (ecc : Ecc) (s : State) :
    Kept State.pwr s (execCsFabricAccess mid addr op ecc s) := by
  simp [execCsFabricAccess]

@[simp] theorem abortStack_pwr (s : State) (st : Nat) :
    (abortStack s st).pwr = s.pwr := by
  simp [abortStack]

@[simp] theorem hemAbort_pwr (s : State) (h : Nat) :
    (hemAbort s h).pwr = s.pwr := by
  simp [hemAbort]

@[simp] theorem execResync_pwr (h : HemId) (hemSide : Bool) (s : State) :
    Kept State.pwr s (execResync h hemSide s) := by
  simp [execResync]

end Sys2Proof.Machine
end

