-- ==== Sys2Proof/Laws/PinsDomain.lean ====
section
/-! SUPPORT. The operations of Machine/Domain.lean that leave the pins and the power-up state alone. -/
namespace Sys2Proof.Machine

@[simp] theorem resetRegs_pwr (s : State) (d : Nat) :
    (resetRegs s d).pwr = s.pwr := by
  simp [resetRegs]

@[simp] theorem resetFreeze_pwr (s : State) (d : Nat) :
    (resetFreeze s d).pwr = s.pwr := by
  unfold resetFreeze
  refine (foldl_pwr _ (fun a b => by split <;> (try split) <;> simp) _ _).trans ?_
  simp

@[simp] theorem pocketsDown_pwr (s : State) (d : Nat) :
    (pocketsDown s d).pwr = s.pwr := by
  simp [pocketsDown]

@[simp] theorem buttonsDown_pwr (s : State) (d : Nat) :
    (buttonsDown s d).pwr = s.pwr := by
  simp [buttonsDown]

@[simp] theorem coreSync_pwr (s : State) (c : Nat) :
    (coreSync s c).pwr = s.pwr := by
  simp [coreSync]

@[simp] theorem coreReset_pwr (s : State) (c : Nat) :
    (coreReset s c).pwr = s.pwr := by
  simp [coreReset]

@[simp] theorem llcReset_pwr (s : State) (p : Nat) :
    (llcReset s p).pwr = s.pwr := by
  simp [llcReset]

@[simp] theorem hbmReset_pwr (s : State) (p : Nat) :
    (hbmReset s p).pwr = s.pwr := by
  simp [hbmReset]

@[simp] theorem selfRefresh_pwr (s : State) (p : Nat) (on : Bool) :
    (selfRefresh s p on).pwr = s.pwr := by
  simp [selfRefresh]

@[simp] theorem hbmGone_pwr (s : State) (p : Nat) :
    (hbmGone s p).pwr = s.pwr := by
  simp [hbmGone]

@[simp] theorem linkReset_pwr (s : State) (p : Nat) :
    (linkReset s p).pwr = s.pwr := by
  simp [linkReset]

@[simp] theorem seamReset_pwr (s : State) (n : Nat) :
    (seamReset s n).pwr = s.pwr := by
  simp [seamReset]

@[simp] theorem fabReset_pwr (s : State) (p : Nat) :
    (fabReset s p).pwr = s.pwr := by
  simp only [fabReset, fabReset.setBist]
  split <;> simp

@[simp] theorem fabReset.setBist_pwr (s : State) (p : Nat) :
    (fabReset.setBist s p).pwr = s.pwr := by
  simp [fabReset.setBist]

@[simp] theorem cpReset_pwr (s : State) :
    (cpReset s).pwr = s.pwr := by
  simp [cpReset]

@[simp] theorem setState_pwr (s : State) (d : Nat) (st : Nat) :
    (setState s d st).pwr = s.pwr := by
  simp [setState]

@[simp] theorem domReset_pwr (s : State) (d : Nat) :
    (domReset s d).pwr = s.pwr := by
  simp [domReset]

@[simp] theorem domOff_pwr (s : State) (d : Nat) :
    (domOff s d).pwr = s.pwr := by
  simp [domOff]

@[simp] theorem domRetain_pwr (s : State) (d : Nat) :
    (domRetain s d).pwr = s.pwr := by
  simp [domRetain]

@[simp] theorem restoreDelay_pwr (s : State) (c : Nat) :
    (restoreDelay s c).pwr = s.pwr := by
  simp [restoreDelay]

@[simp] theorem loadFw_pwr (s : State) (f : Nat) (id : Nat) :
    (loadFw s f id).pwr = s.pwr := by
  simp [loadFw]

@[simp] theorem bindService_pwr (s : State) :
    (bindService s).pwr = s.pwr := by
  simp [bindService]

@[simp] theorem bootFw_pwr (s : State) (p : Nat) :
    (bootFw s p).pwr = s.pwr := by
  simp [bootFw]

@[simp] theorem domFresh_pwr (s : State) (d : Nat) :
    (domFresh s d).pwr = s.pwr := by
  simp [domFresh]

@[simp] theorem domWake_pwr (s : State) (d : Nat) :
    (domWake s d).pwr = s.pwr := by
  simp [domWake]

@[simp] theorem domBring_pwr (s : State) (d : Nat) :
    (domBring s d).pwr = s.pwr := by
  simp [domBring]

end Sys2Proof.Machine
end

