-- ==== Sys2Proof/Laws/PinsBist.lean ====
section
/-! SUPPORT. The operations of Machine/Bist.lean that leave the pins and the power-up state alone. -/
namespace Sys2Proof.Machine

@[simp] theorem setBist_pwr (s : State) (p : Nat) (b : BistSt) :
    (setBist s p b).pwr = s.pwr := by
  simp [setBist]

@[simp] theorem bistReqWrite_pwr (s : State) (p : Nat) (mid : Nat) (addr : Nat) :
    (bistReqWrite s p mid addr).pwr = s.pwr := by
  simp [bistReqWrite]

@[simp] theorem execBistReq_pwr (mid : Mid) (p : Panel) (addr : Word) (s : State) :
    Kept State.pwr s (execBistReq mid p addr s) := by
  simp [execBistReq]

@[simp] theorem bistStart_pwr (s : State) (p : Nat) :
    (bistStart s p).pwr = s.pwr := by
  simp only [bistStart]; (repeat' split) <;> simp

@[simp] theorem bistChunk_pwr (s : State) (p : Nat) (fails : List Nat) :
    (bistChunk s p fails).pwr = s.pwr := by
  simp only [bistChunk]; (repeat' split) <;> simp

@[simp] theorem execBistChunk_pwr (p : Panel) (fails : List Nat) (s : State) :
    Kept State.pwr s (execBistChunk p fails s) := by
  simp [execBistChunk]

@[simp] theorem bistResult_pwr (s : State) (p : Nat) :
    (bistResult s p).pwr = s.pwr := by
  simp only [bistResult]; (repeat' split) <;> simp

@[simp] theorem execBistResult_pwr (p : Panel) (s : State) :
    Kept State.pwr s (execBistResult p s) := by
  simp [execBistResult]

@[simp] theorem darnWrite_pwr (s : State) (page : Nat) (off : Nat) (v : Word) (own : Bool) :
    (darnWrite s page off v own).pwr = s.pwr := by
  unfold darnWrite; (repeat' split) <;> simp

@[simp] theorem execDarnWrite_pwr (mid : Mid) (page : Nat) (k : Nat) (value : Word) (s : State) :
    Kept State.pwr s (execDarnWrite mid page k value s) := by
  unfold execDarnWrite; (repeat' split) <;> simp

@[simp] theorem segRetireWrite_pwr (s : State) (page : Nat) (off : Nat) (v : Word) :
    (segRetireWrite s page off v).pwr = s.pwr := by
  simp [segRetireWrite]

end Sys2Proof.Machine
end

