-- ==== Sys2Proof/Laws/PinsImage.lean ====
section
/-! SUPPORT. The operations of Machine/Image.lean that leave the pins and the power-up state alone. -/
namespace Sys2Proof.Machine

@[simp] theorem readStaged_pwr (s : State) (off : Nat) :
    (readStaged s off).1.pwr = s.pwr := by
  simp only [readStaged]; (repeat' split) <;> simp

end Sys2Proof.Machine
end

