-- ==== Sys2Proof/Laws/PinsPower.lean ====
section
/-! SUPPORT. The operations of Machine/Power.lean that leave the pins and the power-up state alone. -/
namespace Sys2Proof.Machine

@[simp] theorem reqAccept_pwr (s : State) (d : Nat) (req : Nat) :
    (reqAccept s d req).pwr = s.pwr := by
  simp [reqAccept]

@[simp] theorem pwrRequest_pwr (s : State) (d : Nat) (req : Nat) :
    (pwrRequest s d req).pwr = s.pwr := by
  unfold pwrRequest; (repeat' split) <;> simp

@[simp] theorem pwrDomainWrite_pwr (s : State) (p : Nat) (d : Nat) (v : Word) :
    (pwrDomainWrite s p d v).pwr = s.pwr := by
  simp [pwrDomainWrite]

@[simp] theorem pwrReqCmd_pwr (mid : Mid) (d : Fin 50) (req : Nat) (s : State) :
    Kept State.pwr s (pwrReqCmd mid d req s) := by
  simp [pwrReqCmd]

@[simp] theorem execPwrReqOff_pwr (mid : Mid) (d : Fin 50) (s : State) :
    Kept State.pwr s (execPwrReqOff mid d s) := by
  simp [execPwrReqOff]

@[simp] theorem execPwrReqRetention_pwr (mid : Mid) (d : Fin 50) (s : State) :
    Kept State.pwr s (execPwrReqRetention mid d s) := by
  simp [execPwrReqRetention]

@[simp] theorem execPwrReqOn_pwr (mid : Mid) (d : Fin 50) (s : State) :
    Kept State.pwr s (execPwrReqOn mid d s) := by
  simp [execPwrReqOn]

@[simp] theorem execPwrReqReset_pwr (mid : Mid) (d : Fin 50) (s : State) :
    Kept State.pwr s (execPwrReqReset mid d s) := by
  simp [execPwrReqReset]

@[simp] theorem transitionDone_pwr (s : State) (d : Nat) :
    (transitionDone s d).pwr = s.pwr := by
  simp [transitionDone]

@[simp] theorem execPwrTransitionDone_pwr (d : Fin 50) (s : State) :
    Kept State.pwr s (execPwrTransitionDone d s) := by
  simp [execPwrTransitionDone]

@[simp] theorem endTransitions_pwr (s : State) :
    (endTransitions s).pwr = s.pwr := by
  simp [endTransitions]

@[simp] theorem setReduced_pwr (s : State) (on : Bool) :
    (setReduced s on).pwr = s.pwr := by
  simp [setReduced]

@[simp] theorem seedRails_pwr (s : State) :
    (seedRails s).pwr = s.pwr := by
  simp [seedRails]

@[simp] theorem dropSettings_pwr (s : State) :
    (dropSettings s).pwr = s.pwr := by
  simp [dropSettings]

@[simp] theorem drawKey_pwr (s : State) :
    (drawKey s).pwr = s.pwr := by
  simp [drawKey]

@[simp] theorem setKey_pwr (s : State) (p : Nat) (k : Nat) (n : Nat) :
    (setKey s p k n).pwr = s.pwr := by
  simp [setKey]

@[simp] theorem freshSlots_pwr (s : State) (p : Nat) :
    (freshSlots s p).pwr = s.pwr := by
  simp [freshSlots]

@[simp] theorem freshMemory_pwr (s : State) :
    (freshMemory s).pwr = s.pwr := by
  simp [freshMemory]

@[simp] theorem cpTrainDone.cpHello_pwr (s : State) :
    (cpTrainDone.cpHello s).pwr = s.pwr := by
  simp [cpTrainDone.cpHello]

@[simp] theorem domsOff_pwr (s : State) :
    (domsOff s).pwr = s.pwr := by
  simp [domsOff]

@[simp] theorem rateTick_pwr (s : State) (p : Nat) (measured : Nat) :
    (rateTick s p measured).pwr = s.pwr := by
  simp [rateTick]

@[simp] theorem execRateLoopTick_pwr (p : Panel) (measured : Nat) (s : State) :
    Kept State.pwr s (execRateLoopTick p measured s) := by
  simp [execRateLoopTick]

end Sys2Proof.Machine
end

