-- ==== Sys2Proof/Laws/PinsMantle.lean ====
section
/-! SUPPORT. The operations of Machine/Mantle.lean that leave the pins and the power-up state alone. -/
namespace Sys2Proof.Machine

@[simp] theorem setMnt_pwr (s : State) (f : MntSt → MntSt) :
    (setMnt s f).pwr = s.pwr := by
  simp [setMnt]

@[simp] theorem mntCmd_pwr (w : Fin 8) (op : Nat) (s : State) (f : State → Word → State) (hf : ∀ a0 a1, (f a0 a1).pwr = a0.pwr) :
    Kept State.pwr s (mntCmd w op s f) := by
  simp only [mntCmd, kept_next]
  split <;> simp [hf]

@[simp] theorem reply_pwr (s : State) (w : Nat) (v : Word) (status : Nat) (value : Nat) :
    (reply s w v status value).pwr = s.pwr := by
  simp [reply]

@[simp] theorem cpTakes_pwr (s : State) :
    (cpTakes s).pwr = s.pwr := by
  simp [cpTakes]

@[simp] theorem unfreezeMid_pwr (s : State) (mid : Nat) :
    (unfreezeMid s mid).pwr = s.pwr := by
  unfold unfreezeMid; (repeat' split) <;> simp

@[simp] theorem execUnfreeze_pwr (w : Fin 8) (s : State) :
    Kept State.pwr s (execUnfreeze w s) := by
  simp [execUnfreeze]

@[simp] theorem unfreezePtr_pwr (s : State) (e : Nat) :
    (unfreezePtr s e).pwr = s.pwr := by
  simp [unfreezePtr]

@[simp] theorem execUnfreezePartner_pwr (w : Fin 8) (s : State) :
    Kept State.pwr s (execUnfreezePartner w s) := by
  simp [execUnfreezePartner]

@[simp] theorem disablePort_pwr (s : State) (p : Nat) :
    (disablePort s p).pwr = s.pwr := by
  simp [disablePort]

@[simp] theorem execPortDisable_pwr (w : Fin 8) (s : State) :
    Kept State.pwr s (execPortDisable w s) := by
  simp [execPortDisable]

@[simp] theorem execPortRelease_pwr (w : Fin 8) (s : State) :
    Kept State.pwr s (execPortRelease w s) := by
  simp [execPortRelease]

@[simp] theorem execLogClear_pwr (w : Fin 8) (s : State) :
    Kept State.pwr s (execLogClear w s) := by
  simp [execLogClear]

@[simp] theorem execBindUnlock_pwr (w : Fin 8) (s : State) :
    Kept State.pwr s (execBindUnlock w s) := by
  simp [execBindUnlock]

@[simp] theorem setWindows_pwr (s : State) (acc : List Byte) :
    (setWindows s acc).pwr = s.pwr := by
  simp [setWindows]

@[simp] theorem setOwners_pwr (s : State) (acc : List Byte) :
    (setOwners s acc).pwr = s.pwr := by
  unfold setOwners
  refine foldl_pwr _ (fun a b => ?_) _ _
  (repeat' split) <;> simp

@[simp] theorem execJobArm_pwr (w : Fin 8) (s : State) :
    Kept State.pwr s (execJobArm w s) := by
  unfold execJobArm
  apply mntCmd_pwr
  intro a b
  (try simp only [])
  (repeat' split) <;> simp

@[simp] theorem setStat_pwr (s : State) (b : Nat) (v : Bool) :
    (setStat s b v).pwr = s.pwr := by
  simp [setStat]

@[simp] theorem setSession_pwr (s : State) (n : Nat) :
    (setSession s n).pwr = s.pwr := by
  simp [setSession]

@[simp] theorem abandonSweep_pwr (s : State) :
    (abandonSweep s).pwr = s.pwr := by
  simp [abandonSweep]

@[simp] theorem sessionOpen_pwr (s : State) (cloak : Bool) :
    (sessionOpen s cloak).pwr = s.pwr := by
  simp [sessionOpen]

@[simp] theorem execSessionOpen_pwr (w : Fin 8) (s : State) :
    Kept State.pwr s (execSessionOpen w s) := by
  simp [execSessionOpen]

@[simp] theorem keysLoaded_pwr (s : State) :
    (keysLoaded s).pwr = s.pwr := by
  unfold keysLoaded; (repeat' split) <;> simp

@[simp] theorem execKeyLoad_pwr (w : Fin 8) (s : State) :
    Kept State.pwr s (execKeyLoad w s) := by
  simp [execKeyLoad]

@[simp] theorem endAttest_pwr (s : State) (status : Nat) (value : Nat) :
    (endAttest s status value).pwr = s.pwr := by
  unfold endAttest; (repeat' split) <;> simp

@[simp] theorem execSessionEnd_pwr (w : Fin 8) (s : State) :
    Kept State.pwr s (execSessionEnd w s) := by
  simp [execSessionEnd]

@[simp] theorem scrub_pwr (s : State) (p : Nat) :
    (scrub s p).pwr = s.pwr := by
  simp [scrub]

@[simp] theorem execSessionScrub_pwr (p : Panel) (s : State) :
    Kept State.pwr s (execSessionScrub p s) := by
  simp [execSessionScrub]

@[simp] theorem zeroise_pwr (s : State) :
    (zeroise s).pwr = s.pwr := by
  simp [zeroise]

@[simp] theorem endReply_pwr (s : State) (status : Nat) :
    (endReply s status).pwr = s.pwr := by
  unfold endReply; (repeat' split) <;> simp

@[simp] theorem sessionComplete_pwr (s : State) :
    (sessionComplete s).pwr = s.pwr := by
  simp [sessionComplete]

@[simp] theorem execSessionEndComplete_pwr (s : State) :
    Kept State.pwr s (execSessionEndComplete s) := by
  simp [execSessionEndComplete]

@[simp] theorem scrubFail_pwr (s : State) :
    (scrubFail s).pwr = s.pwr := by
  simp [scrubFail]

@[simp] theorem execScrubFail_pwr (s : State) :
    Kept State.pwr s (execScrubFail s) := by
  simp [execScrubFail]

@[simp] theorem rotatePanel_pwr (s : State) (p : Nat) :
    (rotatePanel s p).pwr = s.pwr := by
  simp [rotatePanel]

@[simp] theorem execKeyRotate_pwr (w : Fin 8) (s : State) :
    Kept State.pwr s (execKeyRotate w s) := by
  simp [execKeyRotate]

@[simp] theorem regionDone_pwr (s : State) (p : Nat) (r : Nat) :
    (regionDone s p r).pwr = s.pwr := by
  simp [regionDone]

@[simp] theorem sweepCopy_pwr (s : State) (p : Nat) (a : Nat) :
    (sweepCopy s p a).pwr = s.pwr := by
  simp [sweepCopy]

@[simp] theorem sweepStep_pwr (s : State) (p : Nat) :
    (sweepStep s p).pwr = s.pwr := by
  simp [sweepStep]

@[simp] theorem execKeySweepGranule_pwr (p : Panel) (s : State) :
    Kept State.pwr s (execKeySweepGranule p s) := by
  simp [execKeySweepGranule]

@[simp] theorem issueCert_pwr (s : State) (nonce : List Byte) :
    (issueCert s nonce).pwr = s.pwr := by
  simp [issueCert]

@[simp] theorem execAttest_pwr (w : Fin 8) (s : State) :
    Kept State.pwr s (execAttest w s) := by
  simp [execAttest]

@[simp] theorem readyAttest_pwr (s : State) :
    (readyAttest s).pwr = s.pwr := by
  unfold readyAttest; (repeat' split) <;> simp

@[simp] theorem execRngHealthFail_pwr (s : State) :
    Kept State.pwr s (execRngHealthFail s) := by
  simp [execRngHealthFail]

@[simp] theorem toInactive_pwr (s : State) (f : Nat) (i : FwImg) :
    (toInactive s f i).pwr = s.pwr := by
  simp [toInactive]

@[simp] theorem setUpdate_pwr (s : State) (n : Nat) :
    (setUpdate s n).pwr = s.pwr := by
  simp [setUpdate]

@[simp] theorem execFwUpdate_pwr (w : Fin 8) (s : State) :
    Kept State.pwr s (execFwUpdate w s) := by
  unfold execFwUpdate
  apply mntCmd_pwr
  intro a b
  (try simp only [])
  (repeat' split) <;> simp

@[simp] theorem endUpdate_pwr (s : State) :
    (endUpdate s).pwr = s.pwr := by
  simp [endUpdate]

@[simp] theorem fwActivate_pwr (s : State) :
    (fwActivate s).pwr = s.pwr := by
  unfold fwActivate; (repeat' split) <;> simp

@[simp] theorem execFwActivate_pwr (s : State) :
    Kept State.pwr s (execFwActivate s) := by
  simp [execFwActivate]

@[simp] theorem execFwStartTimeout_pwr (s : State) :
    Kept State.pwr s (execFwStartTimeout s) := by
  unfold execFwStartTimeout; (repeat' split) <;> simp

@[simp] theorem execFwAbort_pwr (w : Fin 8) (s : State) :
    Kept State.pwr s (execFwAbort w s) := by
  simp [execFwAbort]

@[simp] theorem execFuseDarn_pwr (w : Fin 8) (s : State) :
    Kept State.pwr s (execFuseDarn w s) := by
  unfold execFuseDarn
  apply mntCmd_pwr
  intro a b
  (try simp only [])
  (repeat' split) <;> simp

@[simp] theorem flashRecord_pwr (s : State) (p : Nat) :
    (flashRecord s p).pwr = s.pwr := by
  simp [flashRecord]

@[simp] theorem execFlashRecord_pwr (p : Panel) (s : State) :
    Kept State.pwr s (execFlashRecord p s) := by
  simp [execFlashRecord]

end Sys2Proof.Machine
end

