-- ==== Sys2Proof/Laws/PinsRegisters.lean ====
section
/-! SUPPORT. The operations of Machine/Registers.lean that leave the pins and the power-up state alone. -/
namespace Sys2Proof.Machine

@[simp] theorem readClears_pwr (s : State) (mid : Nat) (page : Nat) (off : Nat) :
    (readClears s mid page off).pwr = s.pwr := by
  simp [readClears]

@[simp] theorem regRead_pwr (s : State) (mid : Nat) (page : Nat) (off : Nat) :
    (regRead s mid page off).pwr = s.pwr := by
  simp [regRead]

@[simp] theorem writeHdr_pwr (s : State) (page : Nat) (off : Nat) (v : Word) (own : Bool) (mantle : Bool) :
    (writeHdr s page off v own mantle).pwr = s.pwr := by
  unfold writeHdr; (repeat' split) <;> simp

@[simp] theorem writeCore_pwr (s : State) (c : Nat) (page : Nat) (off : Nat) (v : Word) (own : Bool) :
    (writeCore s c page off v own).pwr = s.pwr := by
  simp [writeCore]

@[simp] theorem writeCtx_pwr (s : State) (c : Nat) (x : Nat) (page : Nat) (off : Nat) (v : Word) (own : Bool) :
    (writeCtx s c x page off v own).pwr = s.pwr := by
  simp [writeCtx]

@[simp] theorem btnMaskWrite_pwr (s : State) (page : Nat) (v : Word) (own : Bool) :
    (btnMaskWrite s page v own).pwr = s.pwr := by
  simp [btnMaskWrite]

@[simp] theorem writeBind_pwr (s : State) (b : Nat) (page : Nat) (off : Nat) (v : Word) (own : Bool) (mantle : Bool) :
    (writeBind s b page off v own mantle).pwr = s.pwr := by
  simp [writeBind]

@[simp] theorem writeHbm_pwr (s : State) (st : Nat) (page : Nat) (off : Nat) (v : Word) (own : Bool) (mantle : Bool) :
    (writeHbm s st page off v own mantle).pwr = s.pwr := by
  simp [writeHbm]

@[simp] theorem writeLlc_pwr (s : State) (p : Nat) (page : Nat) (off : Nat) (v : Word) (own : Bool) :
    (writeLlc s p page off v own).pwr = s.pwr := by
  simp [writeLlc]

@[simp] theorem writeLink_pwr (s : State) (p : Nat) (page : Nat) (off : Nat) (v : Word) (own : Bool) :
    (writeLink s p page off v own).pwr = s.pwr := by
  simp [writeLink]

@[simp] theorem writeGroup_pwr (s : State) (k : Nat) (page : Nat) (off : Nat) (v : Word) (own : Bool) :
    (writeGroup s k page off v own).pwr = s.pwr := by
  simp [writeGroup]

@[simp] theorem writePower_pwr (s : State) (p : Nat) (page : Nat) (off : Nat) (v : Word) (own : Bool) (mantle : Bool) :
    (writePower s p page off v own mantle).pwr = s.pwr := by
  simp [writePower]

@[simp] theorem writeBlock_pwr (s : State) (k : PageKind) (mid : Nat) (page : Nat) (off : Nat) (v : Word) (own : Bool) (mantle : Bool) :
    (writeBlock s k mid page off v own mantle).pwr = s.pwr := by
  unfold writeBlock; (repeat' split) <;> simp

@[simp] theorem writeReg_pwr (s : State) (mid : Nat) (page : Nat) (off : Nat) (v : Word) :
    (writeReg s mid page off v).pwr = s.pwr := by
  unfold writeReg; (repeat' split) <;> simp

@[simp] theorem regWrite_pwr (s : State) (mid : Nat) (page : Nat) (off : Nat) (v : Word) :
    (regWrite s mid page off v).pwr = s.pwr := by
  simp [regWrite]

@[simp] theorem readWord_pwr (s : State) (mid : Nat) (a : Nat) :
    (readWord s mid a).pwr = s.pwr := by
  unfold readWord; (repeat' split) <;> simp

@[simp] theorem writeWord_pwr (s : State) (mid : Nat) (a : Nat) (v : Word) :
    (writeWord s mid a v).pwr = s.pwr := by
  unfold writeWord; (repeat' split) <;> simp

@[simp] theorem execReadClear_pwr (mid : Mid) (addr : Word) (s : State) :
    Kept State.pwr s (execReadClear mid addr s) := by
  unfold execReadClear; (repeat' split) <;> simp

@[simp] theorem execRegisterWrite_pwr (mid : Mid) (addr : Word) (value : Word) (s : State) :
    Kept State.pwr s (execRegisterWrite mid addr value s) := by
  unfold execRegisterWrite; (repeat' split) <;> simp

@[simp] theorem execAccountingUe_pwr (page : Nat) (addr : Word) (s : State) :
    Kept State.pwr s (execAccountingUe page addr s) := by
  simp [execAccountingUe]

@[simp] theorem storeLog_pwr (s : State) (c : Nat) (x : Nat) (a : Nat) :
    (storeLog s c x a).pwr = s.pwr := by
  simp [storeLog]

@[simp] theorem scalarEnd_pwr (s : State) (c : Nat) (x : Nat) (sd : Option Nat) :
    (scalarEnd s c x sd).pwr = s.pwr := by
  unfold scalarEnd; (repeat' split) <;> simp

@[simp] theorem scalarResponse_pwr (s : State) (c : Nat) (x : Nat) :
    (scalarResponse s c x).pwr = s.pwr := by
  unfold scalarResponse; (repeat' split) <;> simp

@[simp] theorem execScalarAccessResponse_pwr (c : Core) (x : CtxId) (s : State) :
    Kept State.pwr s (execScalarAccessResponse c x s) := by
  simp [execScalarAccessResponse]

end Sys2Proof.Machine
end

