-- ==== Sys2Proof/Laws/PinsIngress.lean ====
section
/-! SUPPORT. The operations of Machine/Ingress.lean that leave the pins and the power-up state alone. -/
namespace Sys2Proof.Machine

@[simp] theorem frameBusErr_pwr (s : State) (e : Nat) :
    (frameBusErr s e).pwr = s.pwr := by
  unfold frameBusErr; (repeat' split) <;> simp

@[simp] theorem frameWords_pwr (z0 : Nat) (z1 : State) (z2 : Nat) (z3 : Nat) (z4 : Nat) (z5 : List Byte) :
    (frameWords z0 z1 z2 z3 z4 z5).pwr = z1.pwr := by
  induction z0 generalizing z1 z2 z3 z4 z5 with
    | zero => simp [frameWords]
    | succ n ih => simp only [frameWords]; (repeat' split) <;> simp [ih]

@[simp] theorem frameWrite_pwr (s : State) (e : Nat) (port : Nat) (f : WFrame) :
    (frameWrite s e port f).pwr = s.pwr := by
  simp [frameWrite]

@[simp] theorem markHanded_pwr (s : State) (src : RxStream) (seq : Nat) :
    (markHanded s src seq).pwr = s.pwr := by
  unfold markHanded; (repeat' split) <;> simp

@[simp] theorem frameStart_pwr (s : State) (src : RxStream) :
    (frameStart s src).pwr = s.pwr := by
  unfold frameStart; (repeat' split) <;> simp

@[simp] theorem execFrameWritesStart_pwr (src : RxStream) (s : State) :
    Kept State.pwr s (execFrameWritesStart src s) := by
  simp [execFrameWritesStart]

end Sys2Proof.Machine
end

