-- ==== Sys2Proof/Laws/PinsCtlPort.lean ====
section
/-! SUPPORT. The operations of Machine/CtlPort.lean that leave the pins and the power-up state alone. -/
namespace Sys2Proof.Machine

@[simp] theorem setCpStream_pwr (s : State) (c : Nat) (v : CpStream) :
    (setCpStream s c v).pwr = s.pwr := by
  simp [setCpStream]

@[simp] theorem cpEmit_pwr (s : State) (f : CpFrame) :
    (cpEmit s f).pwr = s.pwr := by
  simp [cpEmit]

@[simp] theorem cpSend_pwr (s : State) (c : Nat) (opc : Nat) (aux : Nat) (addr : Nat) (payload : List Byte) :
    (cpSend s c opc aux addr payload).pwr = s.pwr := by
  simp [cpSend]

@[simp] theorem cpSendAck_pwr (s : State) (c : Nat) :
    (cpSendAck s c).pwr = s.pwr := by
  simp [cpSendAck]

@[simp] theorem cpResend_pwr (s : State) (c : Nat) :
    (cpResend s c).pwr = s.pwr := by
  simp [cpResend]

@[simp] theorem cpAcked_pwr (s : State) (f : CpFrame) :
    (cpAcked s f).pwr = s.pwr := by
  simp [cpAcked]

@[simp] theorem cpAckIn_pwr (s : State) (c : Nat) (n : Nat) :
    (cpAckIn s c n).pwr = s.pwr := by
  simp [cpAckIn]

@[simp] theorem cpReceive_pwr (s : State) (c : Nat) (f : CpFrame) (crcOk : Bool) (act : State → State) (hact : ∀ t, (act t).pwr = t.pwr) :
    (cpReceive s c f crcOk act).pwr = s.pwr := by
  simp only [cpReceive]; (repeat' split) <;> simp_all

@[simp] theorem cpWords_pwr (z0 : Nat) (z1 : State) (z2 : Nat) (z3 : List Byte) :
    (cpWords z0 z1 z2 z3).pwr = z1.pwr := by
  induction z0 generalizing z1 z2 z3 with
    | zero => simp [cpWords]
    | succ n ih => simp only [cpWords]; (repeat' split) <;> simp [ih]

@[simp] theorem execCpPocketWrite_pwr (f : CpFrame) (crcOk : Bool) (s : State) :
    Kept State.pwr s (execCpPocketWrite f crcOk s) := by
  simp [execCpPocketWrite]

@[simp] theorem cpStage_pwr (s : State) (off : Nat) (b : List Byte) :
    (cpStage s off b).pwr = s.pwr := by
  simp [cpStage]

@[simp] theorem execCpImageWrite_pwr (f : CpFrame) (crcOk : Bool) (s : State) :
    Kept State.pwr s (execCpImageWrite f crcOk s) := by
  simp [execCpImageWrite]

@[simp] theorem cpRegs_pwr (z0 : Nat) (z1 : State) (z2 : Nat) :
    (cpRegs z0 z1 z2).1.pwr = z1.pwr := by
  induction z0 generalizing z1 z2 with
    | zero => simp [cpRegs]
    | succ n ih => simp only [cpRegs]; (repeat' split) <;> simp [ih]

@[simp] theorem cpRead_pwr (s : State) (a : Nat) (n : Nat) :
    (cpRead s a n).1.pwr = s.pwr := by
  unfold cpRead; (repeat' split) <;> simp

@[simp] theorem cpAnswer_pwr (s : State) (a : Nat) (n : Nat) :
    (cpAnswer s a n).pwr = s.pwr := by
  simp only [cpAnswer]; (repeat' split) <;> simp

@[simp] theorem execCpTelemetryRead_pwr (f : CpFrame) (crcOk : Bool) (s : State) :
    Kept State.pwr s (execCpTelemetryRead f crcOk s) := by
  simp [execCpTelemetryRead]

@[simp] theorem cpDeliverFrame_pwr (s : State) (k : Nat) :
    (cpDeliverFrame s k).pwr = s.pwr := by
  simp [cpDeliverFrame]

@[simp] theorem cpDeliver_pwr (s : State) (k : Nat) :
    (cpDeliver s k).pwr = s.pwr := by
  unfold cpDeliver; (repeat' split) <;> simp

@[simp] theorem execCpDeliver_pwr (k : Nat) (s : State) :
    Kept State.pwr s (execCpDeliver k s) := by
  simp [execCpDeliver]

@[simp] theorem cpReport_pwr (s : State) :
    (cpReport s).pwr = s.pwr := by
  simp [cpReport]

@[simp] theorem execCpReport_pwr (s : State) :
    Kept State.pwr s (execCpReport s) := by
  simp [execCpReport]

@[simp] theorem execCpAckRx_pwr (f : CpFrame) (crcOk : Bool) (s : State) :
    Kept State.pwr s (execCpAckRx f crcOk s) := by
  simp [execCpAckRx]

@[simp] theorem execCpRetxTimeout_pwr (cls : Fin 3) (s : State) :
    Kept State.pwr s (execCpRetxTimeout cls s) := by
  simp [execCpRetxTimeout]

@[simp] theorem execCpAckDelay_pwr (cls : Fin 3) (s : State) :
    Kept State.pwr s (execCpAckDelay cls s) := by
  simp [execCpAckDelay]

@[simp] theorem cpRestart_pwr (s : State) :
    (cpRestart s).pwr = s.pwr := by
  simp [cpRestart]

@[simp] theorem cpContinue_pwr (s : State) (f : CpFrame) :
    (cpContinue s f).pwr = s.pwr := by
  simp [cpContinue]

@[simp] theorem cpHelloIn_pwr (s : State) (f : CpFrame) :
    (cpHelloIn s f).pwr = s.pwr := by
  simp [cpHelloIn]

@[simp] theorem execCpHelloRx_pwr (f : CpFrame) (crcOk : Bool) (s : State) :
    Kept State.pwr s (execCpHelloRx f crcOk s) := by
  simp [execCpHelloRx]

@[simp] theorem execCpLinkDrop_pwr (s : State) :
    Kept State.pwr s (execCpLinkDrop s) := by
  simp [execCpLinkDrop]

end Sys2Proof.Machine
end

