-- ==== Sys2Proof/Laws/PinsService.lean ====
section
/-! SUPPORT. The operations of Machine/Service.lean that leave the pins and the power-up state alone. -/
namespace Sys2Proof.Machine

@[simp] theorem svcTake_pwr (s : State) :
    (svcTake s).pwr = s.pwr := by
  simp [svcTake]

@[simp] theorem svcCmd_pwr (op : Nat) (s : State) (f : State → List Word → State × Option Nat) (hf : ∀ a0 a1, (f a0 a1).1.pwr = a0.pwr) :
    Kept State.pwr s (svcCmd op s f) := by
  simp only [svcCmd, kept_next]
  split
  · rfl
  · (try simp only [])
    split <;> simp [hf]

@[simp] theorem svcWrite_pwr (s : State) (a : Nat) (v : Word) :
    (svcWrite s a v).pwr = s.pwr := by
  simp [svcWrite]

@[simp] theorem imageLoad_pwr (s : State) (off : Nat) :
    (imageLoad s off).1.pwr = s.pwr := by
  simp only [imageLoad]; (repeat' split) <;> simp

@[simp] theorem execImageLoad_pwr (s : State) :
    Kept State.pwr s (execImageLoad s) := by
  simp [execImageLoad]

@[simp] theorem execRankAssign_pwr (s : State) :
    Kept State.pwr s (execRankAssign s) := by
  simp [execRankAssign]

@[simp] theorem applySection_pwr (s : State) (x : Section) :
    (applySection s x).pwr = s.pwr := by
  simp [applySection]

@[simp] theorem jobLoad_pwr (s : State) :
    (jobLoad s).pwr = s.pwr := by
  simp [jobLoad]

@[simp] theorem execJobLoad_pwr (s : State) :
    Kept State.pwr s (execJobLoad s) := by
  unfold execJobLoad
  split
  · rfl
  · apply svcCmd_pwr
    intro a b
    split <;> simp

@[simp] theorem jobStart_pwr (s : State) :
    (jobStart s).pwr = s.pwr := by
  simp [jobStart]

@[simp] theorem execJobStart_pwr (s : State) :
    Kept State.pwr s (execJobStart s) := by
  unfold execJobStart
  apply svcCmd_pwr
  intro a b
  (try simp only [])
  (repeat' split) <;> simp

@[simp] theorem jobStop_pwr (s : State) :
    (jobStop s).pwr = s.pwr := by
  simp [jobStop]

@[simp] theorem execJobStop_pwr (s : State) :
    Kept State.pwr s (execJobStop s) := by
  simp [execJobStop]

@[simp] theorem execRecv_pwr (s : State) :
    Kept State.pwr s (execRecv s) := by
  unfold execRecv
  apply svcCmd_pwr
  intro a b
  (try simp only [])
  (repeat' split) <;> simp

@[simp] theorem execRedraw_pwr (s : State) :
    Kept State.pwr s (execRedraw s) := by
  unfold execRedraw
  apply svcCmd_pwr
  intro a b
  (try simp only [])
  (repeat' split) <;> simp

@[simp] theorem execPowerCmd_pwr (s : State) :
    Kept State.pwr s (execPowerCmd s) := by
  unfold execPowerCmd
  apply svcCmd_pwr
  intro a b
  (try simp only [])
  (repeat' split) <;> simp

@[simp] theorem execTelemetryCfg_pwr (s : State) :
    Kept State.pwr s (execTelemetryCfg s) := by
  simp [execTelemetryCfg]

@[simp] theorem execSleepInstruction_pwr (p : Panel) (s : State) :
    Kept State.pwr s (execSleepInstruction p s) := by
  simp [execSleepInstruction]

end Sys2Proof.Machine
end

