-- ==== Sys2Proof/Laws/PinsFirmware.lean ====
section
/-! SUPPORT. The operations of Machine/Firmware.lean that leave power-up and the pins alone. -/
namespace Sys2Proof.Machine

@[simp] theorem failAct_pwr (s : State) (code : Nat) :
    (failAct s code).pwr = s.pwr := by
  simp [failAct]

@[simp] theorem stopAct_pwr (s : State) (code : Nat) :
    (stopAct s code).pwr = s.pwr := by
  simp [stopAct]

@[simp] theorem telePut_pwr (z0 : State) (z1 : Nat) (z2 : Nat) (z3 : Nat) (z4 : List Byte) :
    (telePut z0 z1 z2 z3 z4).pwr = z0.pwr := by
  induction z4 generalizing z0 z1 z2 z3 with
    | nil => simp [telePut]
    | cons n l ih => simp only [telePut]; (repeat' split) <;> simp [ih]

@[simp] theorem sendReport_pwr (s : State) :
    (sendReport s).pwr = s.pwr := by
  unfold sendReport; (repeat' split) <;> simp

@[simp] theorem periodReport_pwr (s : State) :
    (periodReport s).pwr = s.pwr := by
  simp [periodReport]

@[simp] theorem svcDuty_pwr (s : State) :
    (svcDuty s).pwr = s.pwr := by
  simp only [svcDuty]; (repeat' split) <;> simp

end Sys2Proof.Machine
end

