-- ==== Sys2Proof/Laws/PinsTick.lean ====
section
/-! SUPPORT. The operations of Machine/Tick.lean that leave the pins and the power-up state alone. -/
namespace Sys2Proof.Machine

@[simp] theorem tickCore_pwr (s : State) (c : Nat) (n : Nat) :
    (tickCore s c n).pwr = s.pwr := by
  simp only [tickCore]; (repeat' split) <;> simp

@[simp] theorem tickHem_pwr (s : State) (h : Nat) :
    (tickHem s h).pwr = s.pwr := by
  simp [tickHem]

@[simp] theorem strike_pwr (s : State) (n : Nat) :
    (strike s n).pwr = s.pwr := by
  simp only [strike]; (repeat' split) <;> simp

@[simp] theorem idle_pwr (s : State) :
    (idle s).pwr = s.pwr := by
  simp [idle]

end Sys2Proof.Machine
end

