-- ==== Sys2Proof/Laws/QueueMem.lean ====
section
/-! SUPPORT. No operation of Machine/Mem.lean touches the queue of commands. -/
namespace Sys2Proof.Machine

@[simp] theorem hbmErr_pending (s : State) (g : Nat) (code : Nat) (source : Nat) :
    (hbmErr s g code source).pending = s.pending := by
  simp [hbmErr]

@[simp] theorem granFix_pending (s : State) (g : Nat) :
    (granFix s g).pending = s.pending := by
  simp [granFix]

@[simp] theorem hbmOffline_pending (s : State) (a : Nat) :
    (hbmOffline s a).pending = s.pending := by
  simp [hbmOffline]

@[simp] theorem granRead_pending (s : State) (g : Nat) :
    (granRead s g).1.pending = s.pending := by
  unfold granRead; (repeat' split) <;> simp

@[simp] theorem granStore_pending (s : State) (g : Nat) (bytes : List Byte) (pois : Bool) :
    (granStore s g bytes pois).pending = s.pending := by
  simp [granStore]

@[simp] theorem granWrite_pending (s : State) (g : Nat) (bytes : List Byte) (pois : Bool) :
    (granWrite s g bytes pois).pending = s.pending := by
  simp [granWrite]

@[simp] theorem granMerge_pending (s : State) (g : Nat) (o : Nat) (new : List Byte) (pois : Bool) :
    (granMerge s g o new pois).pending = s.pending := by
  simp [granMerge]

@[simp] theorem llcPut_pending (s : State) (line : Nat) (l : LlcLine) :
    (llcPut s line l).pending = s.pending := by
  simp [llcPut]

@[simp] theorem llcDrop_pending (s : State) (line : Nat) :
    (llcDrop s line).pending = s.pending := by
  simp [llcDrop]

@[simp] theorem llcScan_pending (s : State) (line : Nat) :
    (llcScan s line).pending = s.pending := by
  unfold llcScan; (repeat' split) <;> simp

@[simp] theorem llcWriteBack_pending (s : State) (line : Nat) (l : LlcLine) :
    (llcWriteBack s line l).pending = s.pending := by
  simp [llcWriteBack]

@[simp] theorem llcEnsure_pending (s : State) (line : Nat) :
    (llcEnsure s line).pending = s.pending := by
  simp only [llcEnsure]; (repeat' split) <;> simp

@[simp] theorem hbmChunk_pending (s : State) (a : Nat) (n : Nat) :
    (hbmChunk s a n).1.pending = s.pending := by
  unfold hbmChunk
  simp only []
  split
  · simp
  · by_cases h : a % 128 < 64 <;> by_cases h2 : 64 < a % 128 + n <;> simp [h, h2]

@[simp] theorem hbmRead_pending (z0 : Nat) (z1 : State) (z2 : Nat) (z3 : Nat) :
    (hbmRead z0 z1 z2 z3).1.pending = z1.pending := by
  induction z0 generalizing z1 z2 z3 with
    | zero => simp [hbmRead]
    | succ n ih => simp only [hbmRead]; (repeat' split) <;> simp [ih]

@[simp] theorem csUe_pending (s : State) (c : Nat) (a : Nat) (feeds : Bool) :
    (csUe s c a feeds).pending = s.pending := by
  simp [csUe]

@[simp] theorem csFix_pending (s : State) (c : Nat) (w : Nat) :
    (csFix s c w).pending = s.pending := by
  simp [csFix]

@[simp] theorem csWord_pending (s : State) (c : Nat) (w : Nat) (feeds : Bool) :
    (csWord s c w feeds).pending = s.pending := by
  simp [csWord]

@[simp] theorem csCheck_pending (s : State) (c : Nat) (a : Nat) (n : Nat) (feeds : Bool) :
    (csCheck s c a n feeds).pending = s.pending := by
  simp [csCheck]

@[simp] theorem csEcc_pending (s : State) (c : Nat) (a : Nat) (e : Ecc) :
    (csEcc s c a e).pending = s.pending := by
  unfold csEcc; (repeat' split) <;> simp

@[simp] theorem winCheck_pending (s : State) (p : Nat) (a : Nat) (n : Nat) :
    (winCheck s p a n).pending = s.pending := by
  simp [winCheck]

@[simp] theorem readMem_pending (s : State) (a : Nat) (n : Nat) (cc : Bool) (feeds : Bool) :
    (readMem s a n cc feeds).st.pending = s.pending := by
  unfold readMem; (repeat' split) <;> simp

@[simp] theorem watchBump_pending (s : State) (a : Nat) (n : Nat) :
    (watchBump s a n).pending = s.pending := by
  simp [watchBump]

@[simp] theorem hbmWriteChunk_pending (s : State) (a : Nat) (bytes : List Byte) (pois : Bool) :
    (hbmWriteChunk s a bytes pois).pending = s.pending := by
  simp only [hbmWriteChunk]; (repeat' split) <;> simp

@[simp] theorem hbmWrite_pending (z0 : Nat) (z1 : State) (z2 : Nat) (z3 : List Byte) (z4 : Bool) :
    (hbmWrite z0 z1 z2 z3 z4).pending = z1.pending := by
  induction z0 generalizing z1 z2 z3 z4 with
    | zero => simp [hbmWrite]
    | succ n ih => simp only [hbmWrite]; (repeat' split) <;> simp [ih]

@[simp] theorem storeMem_pending (s : State) (a : Nat) (bytes : List Byte) (pois : Bool) :
    (storeMem s a bytes pois).pending = s.pending := by
  unfold storeMem; (repeat' split) <;> simp

@[simp] theorem askBanks_pending (s : State) (cls : Nat) (per : Nat) (rs : List (Nat × Nat)) :
    (askBanks s cls per rs).pending = s.pending := by
  simp [askBanks]

@[simp] theorem tickBanks_pending (s : State) (c : Nat) (n : Nat) :
    (tickBanks s c n).pending = s.pending := by
  simp [tickBanks]

@[simp] theorem writeMem_pending (s : State) (mid : Nat) (a : Nat) (bytes : List Byte) (pois : Bool) :
    (writeMem s mid a bytes pois).st.pending = s.pending := by
  simp only [writeMem]; (repeat' split) <;> simp

end Sys2Proof.Machine
end

