-- ==== Sys2Proof/Laws/QueueOperands.lean ====
section
/-! SUPPORT. No operation of Machine/Operands.lean touches the queue of commands. -/
namespace Sys2Proof.Machine

@[simp] theorem setPred_pending (s : State) (c : Nat) (x : Nat) (p : Nat) (b : Bool) :
    (setPred s c x p b).pending = s.pending := by
  simp [setPred]

@[simp] theorem postInc_pending (s : State) (c : Nat) (x : Nat) (r : Rec) (lo : Nat) :
    (postInc s c x r lo).pending = s.pending := by
  simp [postInc]

@[simp] theorem postIncs_pending (s : State) (c : Nat) (x : Nat) (r : Rec) :
    (postIncs s c x r).pending = s.pending := by
  simp [postIncs]

end Sys2Proof.Machine
end

