-- ==== Sys2Proof/Laws/QueueAccess.lean ====
section
/-! SUPPORT. No operation of Machine/Access.lean touches the queue of commands. -/
namespace Sys2Proof.Machine

@[simp] theorem pageViolation_pending (s : State) (mid : Nat) (page : Nat) (off : Nat) (cause : Nat) :
    (pageViolation s mid page off cause).pending = s.pending := by
  simp [pageViolation]

@[simp] theorem guardWrite_pending (s : State) (mid : Nat) (page : Nat) (off : Nat) (v : Word) (act : State → State) (hact : ∀ t, (act t).pending = t.pending) :
    (guardWrite s mid page off v act).pending = s.pending := by
  simp only [guardWrite]; (repeat' split) <;> simp_all

@[simp] theorem fieldWrite_pending (s : State) (page : Nat) (off : Nat) (v : Word) (own : Bool) (mantle : Bool) :
    (fieldWrite s page off v own mantle).pending = s.pending := by
  simp [fieldWrite]

@[simp] theorem breach_pending (s : State) (page : Nat) (mids : List Nat) (addr : Word) :
    (breach s page mids addr).pending = s.pending := by
  simp [breach]

end Sys2Proof.Machine
end

