-- ==== Sys2Proof/Laws/QueueFabric.lean ====
section
/-! SUPPORT. No operation of Machine/Fabric.lean touches the queue of commands. -/
namespace Sys2Proof.Machine

@[simp] theorem setArb_pending (s : State) (p : Nat) (x : Nat) (y : Nat) (out : Nat) (v : ArbSt) :
    (setArb s p x y out v).pending = s.pending := by
  simp [setArb]

@[simp] theorem noteReserve_pending (z0 : State) (z1 : Nat) (z2 : FabSlot) :
    (noteReserve z0 z1 z2).pending = z0.pending := by
  unfold noteReserve; (repeat' split) <;> simp

@[simp] theorem arbPass_pending (s : State) (p : Nat) (x : Nat) (y : Nat) (out : Nat) (m : FabMsg) (slot : FabSlot) :
    (arbPass s p x y out m slot).pending = s.pending := by
  simp only [arbPass]; (repeat' split) <;> simp

theorem fabEnter_kept_pending {s t : State} {m : FabMsg} (h : fabEnter s m = some t) : t.pending = s.pending := by
  simp only [fabEnter] at h
  split at h
  · simp at h
  · obtain ⟨sl, -, rfl⟩ := Option.map_eq_some_iff.1 h
    simp

@[simp] theorem fabEnterAll_pending (s : State) :
    (fabEnterAll s).pending = s.pending := by
  unfold fabEnterAll
  apply foldl_pending
  intro a b
  cases h : fabEnter a b with
  | none => simp
  | some t => simp [fabEnter_kept_pending h]

@[simp] theorem fabServe_pending (s : State) (b : FabBlock) (c : Nat) (out : List FabReq) :
    (fabServe s b c out).pending = s.pending := by
  unfold fabServe
  split
  · rfl
  split
  · rfl
  rename_i m _ _
  cases h : out.foldl (fun o r => o.bind (fun s => fabEnter { s with fab := s.fab ++ [fabSent r] } (fabSent r))) (some { s with fab := s.fab.erase m }) with
  | none => simp
  | some t =>
    have key := optFold_keeps (fun u : State => u.pending = s.pending) (fun s r => fabEnter { s with fab := s.fab ++ [fabSent r] } (fabSent r))
      (fun u r t h hu => (fabEnter_kept_pending h).trans hu) out _ t (fun u hu => by cases hu; rfl) h
    simpa using key

@[simp] theorem fabDo_pending (z0 : State) (z1 : FabIn) :
    (fabDo z0 z1).pending = z0.pending := by
  unfold fabDo; (repeat' split) <;> simp

@[simp] theorem fabDuring_pending (s : State) (l : List FabIn) :
    (fabDuring s l).pending = s.pending := by
  simp [fabDuring]

@[simp] theorem arbStart_pending (s : State) (p : Nat) (x : Nat) (y : Nat) (out : Nat) :
    (arbStart s p x y out).pending = s.pending := by
  simp only [arbStart]; (repeat' split) <;> simp

@[simp] theorem arbDecide_pending (s : State) (p : Nat) (x : Nat) (y : Nat) (out : Nat) (from' : List FabMsg) :
    (arbDecide s p x y out from').pending = s.pending := by
  simp only [arbDecide]; (repeat' split) <;> simp

@[simp] theorem arbGrant_pending (s : State) (p : Nat) (x : Nat) (y : Nat) (out : Nat) (during : List FabIn) :
    (arbGrant s p x y out during).pending = s.pending := by
  simp [arbGrant]

@[simp] theorem execArbiterGrant_pending (p : Panel) (x : Fin 4) (y : Fin 4) (out : Nat) (during : List FabIn) (s : State) :
    Kept State.pending s (execArbiterGrant p x y out during s) := by
  simp [execArbiterGrant]

@[simp] theorem arbCommitWrite_pending (s : State) (p : Nat) (v : Word) :
    (arbCommitWrite s p v).pending = s.pending := by
  simp [arbCommitWrite]

@[simp] theorem execArbCommit_pending (mid : Mid) (p : Panel) (s : State) :
    Kept State.pending s (execArbCommit mid p s) := by
  simp [execArbCommit]

@[simp] theorem execArbCommitDone_pending (p : Panel) (s : State) :
    Kept State.pending s (execArbCommitDone p s) := by
  simp [execArbCommitDone]

@[simp] theorem seamMap_pending (s : State) (n : Nat) (dirB : Bool) (f : FabFlit → FabFlit) :
    (seamMap s n dirB f).pending = s.pending := by
  simp [seamMap]

@[simp] theorem seamArrive_pending (s : State) (n : Nat) (dirB : Bool) :
    (seamArrive s n dirB).pending = s.pending := by
  simp [seamArrive]

@[simp] theorem tickSeams_pending (s : State) :
    (tickSeams s).pending = s.pending := by
  simp [tickSeams]

@[simp] theorem seamTestBit_pending (s : State) (n : Nat) :
    (seamTestBit s n).pending = s.pending := by
  simp [seamTestBit]

@[simp] theorem seamMove_pending (s : State) (n : Nat) (dirB : Bool) (g : Nat) :
    (seamMove s n dirB g).pending = s.pending := by
  simp [seamMove]

@[simp] theorem seamReject_pending (s : State) (n : Nat) (dirB : Bool) (g : Nat) (flits : Nat) :
    (seamReject s n dirB g flits).pending = s.pending := by
  simp [seamReject]

@[simp] theorem execSeamCrcReject_pending (n : Panel) (dirB : Bool) (g : Fin 8) (i : Fin 64) (s : State) :
    Kept State.pending s (execSeamCrcReject n dirB g i s) := by
  simp [execSeamCrcReject]

@[simp] theorem seamReturn_pending (s : State) (n : Nat) :
    (seamReturn s n).pending = s.pending := by
  simp [seamReturn]

@[simp] theorem seamFail_pending (s : State) (n : Nat) :
    (seamFail s n).pending = s.pending := by
  simp only [seamFail]; (repeat' split) <;> simp

@[simp] theorem seamRetire_pending (s : State) (n : Nat) (dirB : Bool) (g : Nat) :
    (seamRetire s n dirB g).pending = s.pending := by
  simp [seamRetire]

@[simp] theorem seamTestEnd_pending (s : State) (n : Nat) (dirB : Bool) (g : Nat) (failing : Nat) :
    (seamTestEnd s n dirB g failing).pending = s.pending := by
  simp [seamTestEnd]

@[simp] theorem execSeamLaneTestEnd_pending (n : Panel) (dirB : Bool) (g : Fin 8) (failing : Nat) (s : State) :
    Kept State.pending s (execSeamLaneTestEnd n dirB g failing s) := by
  simp [execSeamLaneTestEnd]

@[simp] theorem rerouteBit_pending (s : State) (p : Nat) :
    (rerouteBit s p).pending = s.pending := by
  simp [rerouteBit]

@[simp] theorem seamTrain_pending (s : State) (n : Nat) :
    (seamTrain s n).pending = s.pending := by
  simp [seamTrain]

end Sys2Proof.Machine
end

