-- ==== Sys2Proof/Laws/QueueRails.lean ====
section
/-! SUPPORT. No operation of Machine/Rails.lean touches the queue of commands. -/
namespace Sys2Proof.Machine

@[simp] theorem setRail_pending (s : State) (p : Nat) (v : RailSt) :
    (setRail s p v).pending = s.pending := by
  simp [setRail]

@[simp] theorem setVcore_pending (s : State) (p : Nat) (v : Nat) :
    (setVcore s p v).pending = s.pending := by
  simp [setVcore]

@[simp] theorem setVfab_pending (s : State) (p : Nat) (v : Nat) :
    (setVfab s p v).pending = s.pending := by
  simp [setVfab]

@[simp] theorem setCause_pending (s : State) (p : Nat) (n : Nat) :
    (setCause s p n).pending = s.pending := by
  simp [setCause]

@[simp] theorem limitPage_pending (on : Bool) (s : State) (page : Nat) :
    (limitPage on s page).pending = s.pending := by
  simp [limitPage]

@[simp] theorem railSettle_pending (s : State) (p : Nat) :
    (railSettle s p).pending = s.pending := by
  simp [railSettle]

@[simp] theorem lowerVcore_pending (s : State) (p : Nat) (mv : Nat) (cause : Nat) :
    (lowerVcore s p mv cause).pending = s.pending := by
  simp [lowerVcore]

@[simp] theorem lowerVfab_pending (s : State) (p : Nat) (mv : Nat) (cause : Nat) :
    (lowerVfab s p mv cause).pending = s.pending := by
  simp [lowerVfab]

@[simp] theorem raiseRails_pending (s : State) (p : Nat) (now : Nat) :
    (raiseRails s p now).pending = s.pending := by
  simp [raiseRails]

@[simp] theorem critReading_pending (s : State) (st : Nat) (crit : Bool) (below : Bool) :
    (critReading s st crit below).pending = s.pending := by
  simp [critReading]

end Sys2Proof.Machine
end

