-- ==== Sys2Proof/Laws/QueueMemory.lean ====
section
/-! SUPPORT. No operation of Machine/Memory.lean touches the queue of commands. -/
namespace Sys2Proof.Machine

@[simp] theorem hbmEcc_pending (s : State) (g : Nat) (e : Ecc) :
    (hbmEcc s g e).pending = s.pending := by
  unfold hbmEcc; (repeat' split) <;> simp

@[simp] theorem hbmAccess_pending (s : State) (a : Nat) (op : MemOp) (e : Ecc) :
    (hbmAccess s a op e).pending = s.pending := by
  unfold hbmAccess; (repeat' split) <;> simp

@[simp] theorem execHbmAccess_pending (addr : Word) (op : MemOp) (ecc : Ecc) (s : State) :
    Kept State.pending s (execHbmAccess addr op ecc s) := by
  simp [execHbmAccess]

@[simp] theorem trainDone_pending (s : State) (st : Nat) (full : Bool) (ok : Bool) :
    (trainDone s st full ok).pending = s.pending := by
  simp [trainDone]

@[simp] theorem execHbmTrainDone_pending (st : Stack) (full : Bool) (ok : Bool) (s : State) :
    Kept State.pending s (execHbmTrainDone st full ok s) := by
  simp [execHbmTrainDone]

@[simp] theorem ieeeWrite_pending (s : State) (st : Nat) (v : Word) (own : Bool) :
    (ieeeWrite s st v own).pending = s.pending := by
  simp [ieeeWrite]

@[simp] theorem execHbm1500Go_pending (mid : Mid) (st : Stack) (ctl : Word) (s : State) :
    Kept State.pending s (execHbm1500Go mid st ctl s) := by
  simp [execHbm1500Go]

@[simp] theorem ieeeDone_pending (s : State) (st : Nat) (out : Word) :
    (ieeeDone s st out).pending = s.pending := by
  unfold ieeeDone; (repeat' split) <;> simp

@[simp] theorem execHbm1500Done_pending (st : Stack) (out : Word) (s : State) :
    Kept State.pending s (execHbm1500Done st out s) := by
  simp [execHbm1500Done]

@[simp] theorem scrubGranule_pending (s : State) (st : Nat) (a : Nat) (e : Ecc) (last : Bool) :
    (scrubGranule s st a e last).pending = s.pending := by
  simp [scrubGranule]

@[simp] theorem execHbmScrubGranule_pending (st : Stack) (addr : Word) (ecc : Ecc) (last : Bool) (s : State) :
    Kept State.pending s (execHbmScrubGranule st addr ecc last s) := by
  simp [execHbmScrubGranule]

@[simp] theorem hbmClip_pending (s : State) (st : Nat) :
    (hbmClip s st).pending = s.pending := by
  simp [hbmClip]

@[simp] theorem thermalNotice_pending (s : State) :
    (thermalNotice s).pending = s.pending := by
  simp [thermalNotice]

@[simp] theorem tempReading_pending (s : State) (st : Nat) (temp : Nat) (rise : Bool) :
    (tempReading s st temp rise).pending = s.pending := by
  simp [tempReading]

@[simp] theorem execHbmTempReading_pending (st : Stack) (temp : Byte) (riseAllowed : Bool) (s : State) :
    Kept State.pending s (execHbmTempReading st temp riseAllowed s) := by
  simp [execHbmTempReading]

@[simp] theorem execThrottleWindow_pending (st : Stack) (s : State) :
    Kept State.pending s (execThrottleWindow st s) := by
  simp [execThrottleWindow]

@[simp] theorem repairResult_pending (s : State) (st : Nat) (n : Nat) :
    (repairResult s st n).pending = s.pending := by
  simp [repairResult]

@[simp] theorem spareGranule_pending (s : State) (st : Nat) (g : Nat) (e : Ecc) :
    (spareGranule s st g e).pending = s.pending := by
  simp [spareGranule]

@[simp] theorem repairWrite_pending (s : State) (st : Nat) (v : Word) (e : Ecc) :
    (repairWrite s st v e).pending = s.pending := by
  simp [repairWrite]

@[simp] theorem execSoftRepair_pending (mid : Mid) (st : Stack) (addr : Word) (s : State) :
    Kept State.pending s (execSoftRepair mid st addr s) := by
  simp [execSoftRepair]

@[simp] theorem repairDone_pending (s : State) (st : Nat) (resource : Bool) :
    (repairDone s st resource).pending = s.pending := by
  simp [repairDone]

@[simp] theorem execSoftRepairDone_pending (st : Stack) (resource : Bool) (s : State) :
    Kept State.pending s (execSoftRepairDone st resource s) := by
  simp [execSoftRepairDone]

@[simp] theorem execSparingEntry_pending (mid : Mid) (st : Stack) (addr : Word) (ecc : Ecc) (s : State) :
    Kept State.pending s (execSparingEntry mid st addr ecc s) := by
  simp [execSparingEntry]

@[simp] theorem retireWrite_pending (s : State) (st : Nat) (e : Nat) (v : Word) (own : Bool) :
    (retireWrite s st e v own).pending = s.pending := by
  simp [retireWrite]

@[simp] theorem execRetireWrite_pending (mid : Mid) (st : Stack) (e : Byte) (value : Word) (s : State) :
    Kept State.pending s (execRetireWrite mid st e value s) := by
  simp [execRetireWrite]

@[simp] theorem llcPoison_pending (s : State) (a : Nat) :
    (llcPoison s a).pending = s.pending := by
  unfold llcPoison; (repeat' split) <;> simp

@[simp] theorem llcEcc_pending (s : State) (p : Nat) (a : Nat) (e : LlcEcc) :
    (llcEcc s p a e).pending = s.pending := by
  unfold llcEcc; (repeat' split) <;> simp

@[simp] theorem llcAccess_pending (s : State) (mid : Nat) (a : Nat) (op : MemOp) (e : LlcEcc) :
    (llcAccess s mid a op e).pending = s.pending := by
  unfold llcAccess; (repeat' split) <;> simp

@[simp] theorem execLlcAccess_pending (mid : Mid) (addr : Word) (op : MemOp) (ecc : LlcEcc) (s : State) :
    Kept State.pending s (execLlcAccess mid addr op ecc s) := by
  simp [execLlcAccess]

@[simp] theorem wayModeWrite_pending (s : State) (p : Nat) (v : Word) :
    (wayModeWrite s p v).pending = s.pending := by
  simp [wayModeWrite]

@[simp] theorem execLlcWayModeWrite_pending (mid : Mid) (p : Panel) (value : BitVec 16) (s : State) :
    Kept State.pending s (execLlcWayModeWrite mid p value s) := by
  simp [execLlcWayModeWrite]

@[simp] theorem writeBackLines_pending (s : State) (lines : List Nat) :
    (writeBackLines s lines).pending = s.pending := by
  unfold writeBackLines
  apply foldl_pending
  intro a b
  (repeat' split) <;> simp

@[simp] theorem zeroWay_pending (s : State) (p : Nat) (w : Nat) :
    (zeroWay s p w).pending = s.pending := by
  simp [zeroWay]

@[simp] theorem wayChangeDone_pending (s : State) (p : Nat) :
    (wayChangeDone s p).pending = s.pending := by
  simp [wayChangeDone]

@[simp] theorem execWayChangeDone_pending (p : Panel) (s : State) :
    Kept State.pending s (execWayChangeDone p s) := by
  simp [execWayChangeDone]

@[simp] theorem flushStart_pending (s : State) (p : Nat) :
    (flushStart s p).pending = s.pending := by
  simp [flushStart]

@[simp] theorem execFlush_pending (mid : Mid) (p : Panel) (s : State) :
    Kept State.pending s (execFlush mid p s) := by
  simp [execFlush]

@[simp] theorem flushDone_pending (s : State) (p : Nat) :
    (flushDone s p).pending = s.pending := by
  simp [flushDone]

@[simp] theorem execFlushDone_pending (p : Panel) (s : State) :
    Kept State.pending s (execFlushDone p s) := by
  simp [execFlushDone]

end Sys2Proof.Machine
end

