-- ==== Sys2Proof/Laws/QueueWire.lean ====
section
/-! SUPPORT. No operation of Machine/Wire.lean touches the queue of commands. -/
namespace Sys2Proof.Machine

@[simp] theorem setDrr_pending (s : State) (p : Nat) (v : DrrSt) :
    (setDrr s p v).pending = s.pending := by
  simp [setDrr]

end Sys2Proof.Machine
end

