-- ==== Sys2Proof/Laws/QueueLink.lean ====
section
/-! SUPPORT. No operation of Machine/Link.lean touches the queue of commands. -/
namespace Sys2Proof.Machine

@[simp] theorem setPtr_pending (s : State) (e : Nat) (v : Partner) :
    (setPtr s e v).pending = s.pending := by
  simp [setPtr]

@[simp] theorem modPtr_pending (s : State) (e : Nat) (f : Partner → Partner) :
    (modPtr s e f).pending = s.pending := by
  simp [modPtr]

@[simp] theorem setGrp_pending (s : State) (g : Nat) (v : GroupSt) :
    (setGrp s g v).pending = s.pending := by
  simp [setGrp]

@[simp] theorem modGrp_pending (s : State) (g : Nat) (f : GroupSt → GroupSt) :
    (modGrp s g f).pending = s.pending := by
  simp [modGrp]

@[simp] theorem emitFrame_pending (s : State) (p : Nat) (dst : Nat) (f : WFrame) :
    (emitFrame s p dst f).pending = s.pending := by
  simp [emitFrame]

@[simp] theorem sendFrame_pending (s : State) (e : Nat) (port : Nat) (f : WFrame) :
    (sendFrame s e port f).pending = s.pending := by
  simp [sendFrame]

@[simp] theorem sendCtl_pending (s : State) (e : Nat) (c : Nat) (type : Nat) (attr : Nat) (port : Option Nat) :
    (sendCtl s e c type attr port).pending = s.pending := by
  simp only [sendCtl]; (repeat' split) <;> simp

@[simp] theorem takeGrpXseq_pending (s : State) (c : Nat) :
    (takeGrpXseq s c).1.pending = s.pending := by
  simp [takeGrpXseq]

@[simp] theorem replayPut_pending (s : State) (p : Nat) (slot : Nat) (b : List Byte) :
    (replayPut s p slot b).pending = s.pending := by
  simp [replayPut]

@[simp] theorem replayGet_pending (s : State) (p : Nat) (slot : Nat) (f : WFrame) :
    (replayGet s p slot f).1.pending = s.pending := by
  simp only [replayGet]; (repeat' split) <;> simp

@[simp] theorem sendGrpCtl_pending (s : State) (g : Nat) (type : Nat) :
    (sendGrpCtl s g type).pending = s.pending := by
  simp only [sendGrpCtl]; (repeat' split) <;> simp

@[simp] theorem sendLeg_pending (s : State) (g : Nat) (l : Nat) (t : GTx) (retx : Bool) (nack : Bool) :
    (sendLeg s g l t retx nack).pending = s.pending := by
  simp only [sendLeg]; (repeat' split) <;> simp

@[simp] theorem takeCredit_pending (s : State) (e : Nat) (c : Nat) :
    (takeCredit s e c).pending = s.pending := by
  simp [takeCredit]

@[simp] theorem serveLeg_pending (z0 : Nat) (z1 : State) (z2 : Nat) (z3 : Nat) :
    (serveLeg z0 z1 z2 z3).pending = z1.pending := by
  induction z0 generalizing z1 z2 z3 with
    | zero => simp [serveLeg]
    | succ n ih => simp only [serveLeg]; (repeat' split) <;> simp [ih]

@[simp] theorem detachLeg_pending (s : State) (g : Nat) (l : Nat) :
    (detachLeg s g l).pending = s.pending := by
  simp [detachLeg]

@[simp] theorem judgeLegs_pending (s : State) (g : Nat) :
    (judgeLegs s g).pending = s.pending := by
  unfold judgeLegs
  apply foldl_pending
  intro a b
  (repeat' split) <;> simp

@[simp] theorem serveLegs_pending (s : State) (g : Nat) :
    (serveLegs s g).pending = s.pending := by
  simp [serveLegs]

@[simp] theorem creditIn_pending (s : State) (e : Nat) (c : Nat) (credit : Nat) :
    (creditIn s e c credit).pending = s.pending := by
  simp [creditIn]

@[simp] theorem clearReports_pending (s : State) (e : Nat) (ports : List Nat) :
    (clearReports s e ports).pending = s.pending := by
  simp [clearReports]

@[simp] theorem reportPort_pending (s : State) (e : Nat) (i : Nat) :
    (reportPort s e i).pending = s.pending := by
  simp [reportPort]

@[simp] theorem mirrorSettle_pending (s : State) :
    (mirrorSettle s).pending = s.pending := by
  unfold mirrorSettle; (repeat' split) <;> simp

@[simp] theorem snapSettle_pending (s : State) :
    (snapSettle s).pending = s.pending := by
  simp [snapSettle]

@[simp] theorem ackIn_pending (s : State) (e : Nat) (f : WFrame) :
    (ackIn s e f).pending = s.pending := by
  simp [ackIn]

@[simp] theorem retransmit_pending (s : State) (e : Nat) (t : TxFrame) (nack : Bool) :
    (retransmit s e t nack).pending = s.pending := by
  simp only [retransmit]; (repeat' split) <;> simp

@[simp] theorem nackIn_pending (s : State) (e : Nat) (f : WFrame) :
    (nackIn s e f).pending = s.pending := by
  simp [nackIn]

@[simp] theorem resendLeg_pending (s : State) (g : Nat) (l : Nat) (e : Nat) (t : GTx) :
    (resendLeg s g l e t).pending = s.pending := by
  unfold resendLeg; (repeat' split) <;> simp

@[simp] theorem legAcked_pending (s : State) (g : Nat) (l : Nat) (e : Nat) (f : WFrame) :
    (legAcked s g l e f).pending = s.pending := by
  simp [legAcked]

@[simp] theorem legNacked_pending (s : State) (g : Nat) (l : Nat) (e : Nat) (f : WFrame) :
    (legNacked s g l e f).pending = s.pending := by
  simp [legNacked]

@[simp] theorem legAck_pending (s : State) (g : Nat) (l : Nat) (e : Nat) (f : WFrame) (nack : Bool) :
    (legAck s g l e f nack).pending = s.pending := by
  simp [legAck]

@[simp] theorem rxCheck_pending (s : State) (p : Nat) (f : WFrame) (chk : RxCheck) :
    (rxCheck s p f chk).1.pending = s.pending := by
  simp only [rxCheck]; (repeat' split) <;> simp

@[simp] theorem receive_pending (s : State) (p : Nat) (f : WFrame) (chk : RxCheck) (type : Nat) (act : State → RxTo → State) (hact : ∀ a0 a1, (act a0 a1).pending = a0.pending) :
    (receive s p f chk type act).pending = s.pending := by
  simp only [receive]; (repeat' split) <;> simp_all

@[simp] theorem noteXseq_pending (s : State) (e : Nat) (f : WFrame) :
    (noteXseq s e f).pending = s.pending := by
  simp [noteXseq]

@[simp] theorem dataUni_pending (s : State) (p : Nat) (e : Nat) (f : WFrame) :
    (dataUni s p e f).pending = s.pending := by
  simp [dataUni]

@[simp] theorem dataMember_pending (s : State) (p : Nat) (e : Nat) (g : Nat) (own : Bool) (f : WFrame) :
    (dataMember s p e g own f).pending = s.pending := by
  simp [dataMember]

@[simp] theorem execDataFrameRx_pending (p : Port) (f : WFrame) (chk : RxCheck) (s : State) :
    Kept State.pending s (execDataFrameRx p f chk s) := by
  simp only [execDataFrameRx, kept_next]
  apply receive_pending
  intro a b
  cases b <;> simp

@[simp] theorem freeSlot_pending (s : State) (src : RxStream) (seq : Nat) (credit : Bool) :
    (freeSlot s src seq credit).pending = s.pending := by
  unfold freeSlot; (repeat' split) <;> simp

@[simp] theorem ingressFreeze_pending (s : State) (src : RxStream) (seq : Nat) :
    (ingressFreeze s src seq).pending = s.pending := by
  unfold ingressFreeze; (repeat' split) <;> simp

@[simp] theorem probeAnswered_pending (s : State) (e : Nat) (p : Nat) :
    (probeAnswered s e p).pending = s.pending := by
  simp [probeAnswered]

@[simp] theorem legsOfEntry_pending (s : State) (e : Nat) :
    (legsOfEntry s e).pending = s.pending := by
  simp [legsOfEntry]

@[simp] theorem execAckFrameRx_pending (p : Port) (f : WFrame) (chk : RxCheck) (s : State) :
    Kept State.pending s (execAckFrameRx p f chk s) := by
  simp only [execAckFrameRx, kept_next]
  apply receive_pending
  intro a b
  cases b <;> simp <;> split <;> simp

@[simp] theorem execNackFrameRx_pending (p : Port) (f : WFrame) (chk : RxCheck) (s : State) :
    Kept State.pending s (execNackFrameRx p f chk s) := by
  simp only [execNackFrameRx, kept_next]
  apply receive_pending
  intro a b
  cases b <;> simp <;> split <;> simp

@[simp] theorem execKeepaliveRx_pending (p : Port) (f : WFrame) (chk : RxCheck) (s : State) :
    Kept State.pending s (execKeepaliveRx p f chk s) := by
  simp only [execKeepaliveRx, kept_next]
  apply receive_pending
  intro a b
  cases b <;> simp <;> (repeat' split) <;> simp

@[simp] theorem takeOut_pending (s : State) (group : Bool) (k : Nat) (f : WFrame) :
    (takeOut s group k f).pending = s.pending := by
  simp [takeOut]

@[simp] theorem queueOut_pending (s : State) (o : Bool × Nat × WFrame) :
    (queueOut s o).pending = s.pending := by
  simp [queueOut]

@[simp] theorem portTurn_pending (s : State) (p : Nat) (c : Nat) (len : Nat) :
    (portTurn s p c len).1.pending = s.pending := by
  simp only [portTurn]; (repeat' split) <;> simp

@[simp] theorem dataTx_pending (s : State) (e : Nat) (f : WFrame) :
    (dataTx s e f).pending = s.pending := by
  unfold dataTx; (repeat' split) <;> simp

@[simp] theorem execDataFrameTx_pending (e : Nat) (f : WFrame) (s : State) :
    Kept State.pending s (execDataFrameTx e f s) := by
  simp [execDataFrameTx]

@[simp] theorem execAckDelay_pending (src : RxStream) (s : State) :
    Kept State.pending s (execAckDelay src s) := by
  unfold execAckDelay; (repeat' split) <;> simp

@[simp] theorem regroup_pending (s : State) (g : Nat) (t : GTx) :
    (regroup s g t).pending = s.pending := by
  simp only [regroup]; (repeat' split) <;> simp

@[simp] theorem timeout_pending (s : State) (d : TxStream) :
    (timeout s d).pending = s.pending := by
  unfold timeout
  split
  · (repeat' split) <;> simp
  · split
    · rfl
    · split
      · rfl
      · simp only [regroup_pending]
        refine (foldl_pending _ (fun a b => ?_) _ _).trans (by simp)
        split <;> simp
  · (repeat' split) <;> simp

@[simp] theorem execRetxTimeout_pending (dst : TxStream) (s : State) :
    Kept State.pending s (execRetxTimeout dst s) := by
  simp [execRetxTimeout]

@[simp] theorem execProbeKeepalive_pending (e : Nat) (p : Port) (s : State) :
    Kept State.pending s (execProbeKeepalive e p s) := by
  simp [execProbeKeepalive]

@[simp] theorem liveness_pending (s : State) (e : Nat) :
    (liveness s e).pending = s.pending := by
  simp [liveness]

@[simp] theorem execLivenessWindow_pending (e : Nat) (s : State) :
    Kept State.pending s (execLivenessWindow e s) := by
  simp [execLivenessWindow]

@[simp] theorem groupTx_pending (s : State) (g : Nat) (f : WFrame) :
    (groupTx s g f).pending = s.pending := by
  unfold groupTx; (repeat' split) <;> simp

@[simp] theorem execGroupFrameTx_pending (g : Nat) (f : WFrame) (s : State) :
    Kept State.pending s (execGroupFrameTx g f s) := by
  simp [execGroupFrameTx]

@[simp] theorem failover_pending (s : State) (p : Nat) :
    (failover s p).pending = s.pending := by
  simp [failover]

@[simp] theorem portBtn_pending (s : State) (p : Nat) :
    (portBtn s p).pending = s.pending := by
  simp [portBtn]

@[simp] theorem portTo_pending (s : State) (p : Nat) (st : Nat) :
    (portTo s p st).pending = s.pending := by
  simp [portTo]

@[simp] theorem trainCount_pending (s : State) (p : Nat) :
    (trainCount s p).pending = s.pending := by
  simp [trainCount]

@[simp] theorem trainStart_pending (s : State) (p : Nat) :
    (trainStart s p).pending = s.pending := by
  simp [trainStart]

@[simp] theorem portRise_pending (s : State) (p : Nat) :
    (portRise s p).pending = s.pending := by
  simp [portRise]

@[simp] theorem linkCtlWrite_pending (s : State) (p : Nat) (v : Word) (own : Bool) :
    (linkCtlWrite s p v own).pending = s.pending := by
  simp [linkCtlWrite]

@[simp] theorem execEnable_pending (mid : Mid) (p : Port) (value : Bool) (s : State) :
    Kept State.pending s (execEnable mid p value s) := by
  simp [execEnable]

@[simp] theorem execRetrain_pending (mid : Mid) (p : Port) (s : State) :
    Kept State.pending s (execRetrain mid p s) := by
  simp [execRetrain]

@[simp] theorem portAligned_pending (s : State) (p : Nat) :
    (portAligned s p).pending = s.pending := by
  simp [portAligned]

@[simp] theorem linkTrainDone_pending (s : State) (p : Nat) (ok : Bool) :
    (linkTrainDone s p ok).pending = s.pending := by
  simp [linkTrainDone]

@[simp] theorem execLinkTrainDone_pending (p : Port) (ok : Bool) (s : State) :
    Kept State.pending s (execLinkTrainDone p ok s) := by
  simp [execLinkTrainDone]

@[simp] theorem linkDown_pending (s : State) (p : Nat) (fault : Bool) :
    (linkDown s p fault).pending = s.pending := by
  simp [linkDown]

@[simp] theorem execLinkDown_pending (p : Port) (remoteFault : Bool) (s : State) :
    Kept State.pending s (execLinkDown p remoteFault s) := by
  simp [execLinkDown]

@[simp] theorem execLldpCapture_pending (p : Port) (bytes : List Byte) (s : State) :
    Kept State.pending s (execLldpCapture p bytes s) := by
  simp [execLldpCapture]

@[simp] theorem linkMacWrite_pending (s : State) (p : Nat) (v : Word) :
    (linkMacWrite s p v).pending = s.pending := by
  simp [linkMacWrite]

@[simp] theorem execLinkMacWrite_pending (mid : Mid) (p : Port) (addr : BitVec 48) (s : State) :
    Kept State.pending s (execLinkMacWrite mid p addr s) := by
  simp [execLinkMacWrite]

@[simp] theorem execHello_pending (p : Port) (addr : BitVec 48) (s : State) :
    Kept State.pending s (execHello p addr s) := by
  simp [execHello]

@[simp] theorem execPfcReceived_pending (p : Port) (classes : BitVec 8) (time : Nat) (s : State) :
    Kept State.pending s (execPfcReceived p classes time s) := by
  simp [execPfcReceived]

@[simp] theorem execPfcPauseEnd_pending (p : Port) (s : State) :
    Kept State.pending s (execPfcPauseEnd p s) := by
  simp [execPfcPauseEnd]

@[simp] theorem cmdResult_pending (s : State) (p : Nat) (n : Nat) (busy : Bool) :
    (cmdResult s p n busy).pending = s.pending := by
  simp [cmdResult]

@[simp] theorem loadEntry_pending (s : State) (e : Nat) (v : Word × Word) :
    (loadEntry s e v).pending = s.pending := by
  simp [loadEntry]

@[simp] theorem partnerCmdWrite_pending (s : State) (p : Nat) (v : Word) :
    (partnerCmdWrite s p v).pending = s.pending := by
  simp only [partnerCmdWrite]; (repeat' split) <;> simp

@[simp] theorem execLoad_pending (mid : Mid) (link : Panel) (e : Nat) (s : State) :
    Kept State.pending s (execLoad mid link e s) := by
  simp [execLoad]

@[simp] theorem execPartnerRedraw_pending (mid : Mid) (link : Panel) (e : Nat) (s : State) :
    Kept State.pending s (execPartnerRedraw mid link e s) := by
  simp [execPartnerRedraw]

@[simp] theorem execRemove_pending (mid : Mid) (link : Panel) (e : Nat) (s : State) :
    Kept State.pending s (execRemove mid link e s) := by
  simp [execRemove]

@[simp] theorem auditLegs_pending (s : State) (e : Nat) :
    (auditLegs s e).pending = s.pending := by
  unfold auditLegs
  apply foldl_pending
  intro a b
  split <;> simp

@[simp] theorem creditAudit_pending (s : State) (e : Nat) :
    (creditAudit s e).pending = s.pending := by
  simp only [creditAudit, modGrp_pending, implies_true, foldl_pending, bump_pending, wr_pending, ite_pending, cmdResult_pending, loadEntry_pending, setPtr_pending,
    auditLegs_pending, ite_self, breach_pending]

@[simp] theorem execCreditAudit_pending (e : Nat) (s : State) :
    Kept State.pending s (execCreditAudit e s) := by
  simp [execCreditAudit]

@[simp] theorem grpCfgWrite_pending (s : State) (g : Nat) (v : Word) :
    (grpCfgWrite s g v).pending = s.pending := by
  simp [grpCfgWrite]

@[simp] theorem execGroupValidWrite_pending (mid : Mid) (g : Nat) (value : Word) (s : State) :
    Kept State.pending s (execGroupValidWrite mid g value s) := by
  simp [execGroupValidWrite]

@[simp] theorem selfRankWrite_pending (s : State) (p : Nat) (v : Word) :
    (selfRankWrite s p v).pending = s.pending := by
  simp [selfRankWrite]

@[simp] theorem execSelfRankWrite_pending (mid : Mid) (link : Panel) (value : Word) (s : State) :
    Kept State.pending s (execSelfRankWrite mid link value s) := by
  simp [execSelfRankWrite]

end Sys2Proof.Machine
end

