-- ==== Sys2Proof/Laws/QueueFlags.lean ====
section
/-! SUPPORT. No operation of Machine/Flags.lean touches the queue of commands. -/
namespace Sys2Proof.Machine

@[simp] theorem fbSave_pending (s : State) (c : Nat) (e : Nat) (task : Option Nat) :
    (fbSave s c e task).pending = s.pending := by
  unfold fbSave; (repeat' split) <;> simp

@[simp] theorem freeWatch_pending (s : State) (c : Nat) (e : Nat) :
    (freeWatch s c e).pending = s.pending := by
  simp [freeWatch]

@[simp] theorem estFull_pending (s : State) (c : Nat) (sid : Nat) (bytes : Nat) :
    (estFull s c sid bytes).pending = s.pending := by
  simp [estFull]

@[simp] theorem estRelease_pending (s : State) (c : Nat) (sid : Nat) (bytes : Nat) :
    (estRelease s c sid bytes).pending = s.pending := by
  simp [estRelease]

@[simp] theorem fbFire_pending (s : State) (task : Option Nat) (compute : Bool) (z3 : Option (Nat × Nat)) :
    (fbFire s task compute z3).pending = s.pending := by
  cases z3 <;> simp only [fbFire] <;> (repeat' split) <;> simp

@[simp] theorem fbComplete_pending (s : State) (z1 : Option (Nat × Nat)) :
    (fbComplete s z1).pending = s.pending := by
  cases z1 <;> simp [fbComplete]

@[simp] theorem fbGiveUp_pending (s : State) (z1 : Option (Nat × Nat)) :
    (fbGiveUp s z1).pending = s.pending := by
  cases z1 <;> simp [fbGiveUp]

@[simp] theorem fbRead_pending (s : State) (z1 : Option (Nat × Nat)) :
    (fbRead s z1).pending = s.pending := by
  cases z1 <;> simp only [fbRead] <;> (repeat' split) <;> simp

@[simp] theorem fbRelease_pending (s : State) (task : Option Nat) (z2 : Option (Nat × Nat)) :
    (fbRelease s task z2).pending = s.pending := by
  cases z2 <;> simp only [fbRelease] <;> (repeat' split) <;> simp

@[simp] theorem fbCmd_pending (s : State) (c : Nat) (e : Nat) (full : Bool) :
    (fbCmd s c e full).pending = s.pending := by
  simp [fbCmd]

@[simp] theorem fbParity_pending (s : State) (c : Nat) (e : Nat) :
    (fbParity s c e).pending = s.pending := by
  simp [fbParity]

end Sys2Proof.Machine
end

