-- ==== Sys2Proof/Laws/QueueEngine.lean ====
section
/-! SUPPORT. No operation of Machine/Engine.lean touches the queue of commands. -/
namespace Sys2Proof.Machine

@[simp] theorem modEntry_pending (s : State) (c : Nat) (id : Nat) (f : QEntry → QEntry) :
    (modEntry s c id f).pending = s.pending := by
  simp [modEntry]

@[simp] theorem dropEntry_pending (s : State) (c : Nat) (id : Nat) :
    (dropEntry s c id).pending = s.pending := by
  simp [dropEntry]

@[simp] theorem setPc_pending (s : State) (c : Nat) (x : Nat) (pc : Nat) :
    (setPc s c x pc).pending = s.pending := by
  simp [setPc]

@[simp] theorem readyCtx_pending (s : State) (c : Nat) (x : Nat) :
    (readyCtx s c x).pending = s.pending := by
  simp [readyCtx]

@[simp] theorem closeAcc_pending (s : State) (c : Nat) (x : Nat) :
    (closeAcc s c x).pending = s.pending := by
  simp [closeAcc]

@[simp] theorem settleCtx_pending (s : State) (c : Nat) (x : Nat) :
    (settleCtx s c x).pending = s.pending := by
  simp only [settleCtx]; (repeat' split) <;> simp

@[simp] theorem settle_pending (s : State) (c : Nat) :
    (settle s c).pending = s.pending := by
  simp [settle]

@[simp] theorem removeCommand_pending (s : State) (c : Nat) (id : Nat) :
    (removeCommand s c id).pending = s.pending := by
  simp [removeCommand]

@[simp] theorem removeWaiting_pending (s : State) (c : Nat) (x : Nat) :
    (removeWaiting s c x).pending = s.pending := by
  simp [removeWaiting]

@[simp] theorem beginDiscard_pending (s : State) (c : Nat) (x : Nat) (how : TaskEnd) :
    (beginDiscard s c x how).pending = s.pending := by
  unfold beginDiscard; (repeat' split) <;> simp

@[simp] theorem dropYoke_pending (s : State) (c : Nat) (x : Nat) :
    (dropYoke s c x).pending = s.pending := by
  simp [dropYoke]

@[simp] theorem orphanReq_pending (s : State) (c : Nat) (x : Nat) :
    (orphanReq s c x).pending = s.pending := by
  unfold orphanReq; (repeat' split) <;> simp

@[simp] theorem refuse_pending (s : State) (c : Nat) (x : Nat) (code : Nat) (pc : Nat) (tag : Nat) :
    (refuse s c x code pc tag).pending = s.pending := by
  simp [refuse]

@[simp] theorem refuseEntry_pending (s : State) (c : Nat) (q : QEntry) (code : Nat) :
    (refuseEntry s c q code).pending = s.pending := by
  simp [refuseEntry]

@[simp] theorem descCheck_pending (s : State) (c : Nat) (cls : Nat) (q : QEntry) :
    (descCheck s c cls q).pending = s.pending := by
  simp [descCheck]

@[simp] theorem fireBits_pending (s : State) (c : Nat) (q : QEntry) :
    (fireBits s c q).pending = s.pending := by
  simp [fireBits]

@[simp] theorem fireEntry_pending (s : State) (c : Nat) (q : QEntry) :
    (fireEntry s c q).pending = s.pending := by
  simp [fireEntry]

@[simp] theorem engWrite_pending (s : State) (c : Nat) (q : QEntry) (ws : List (Nat × List Byte)) :
    (engWrite s c q ws).pending = s.pending := by
  simp [engWrite]

@[simp] theorem writeShift_pending (s : State) (q : QEntry) (lo : Nat) (n : Nat) :
    (writeShift s q lo n).pending = s.pending := by
  simp [writeShift]

@[simp] theorem logShifts_pending (s : State) (c : Nat) (q : QEntry) (l : List (Nat × Nat)) :
    (logShifts s c q l).pending = s.pending := by
  simp [logShifts]

@[simp] theorem finishEntry_pending (s : State) (c : Nat) (q : QEntry) :
    (finishEntry s c q).pending = s.pending := by
  simp [finishEntry]

end Sys2Proof.Machine
end

