-- ==== Sys2Proof/Laws/QueueTiming.lean ====
section
/-! SUPPORT. No operation of Machine/Timing.lean touches the queue of commands. -/
namespace Sys2Proof.Machine

@[simp] theorem marginRead_pending (s : State) (c : Nat) (margin : Nat) :
    (marginRead s c margin).pending = s.pending := by
  simp [marginRead]

@[simp] theorem execDlMarginLow_pending (c : Core) (margin : Byte) (s : State) :
    Kept State.pending s (execDlMarginLow c margin s) := by
  simp [execDlMarginLow]

@[simp] theorem startKat_pending (s : State) (c : Nat) :
    (startKat s c).pending = s.pending := by
  simp [startKat]

@[simp] theorem recalStart_pending (s : State) (c : Nat) :
    (recalStart s c).pending = s.pending := by
  simp [recalStart]

@[simp] theorem execRecal_pending (mid : Mid) (c : Core) (s : State) :
    Kept State.pending s (execRecal mid c s) := by
  simp [execRecal]

@[simp] theorem recalDone_pending (s : State) (c : Nat) (replica : Nat) (margin : Nat) :
    (recalDone s c replica margin).pending = s.pending := by
  simp [recalDone]

@[simp] theorem execDlRecalDone_pending (c : Core) (replica : Nat) (margin : Byte) (s : State) :
    Kept State.pending s (execDlRecalDone c replica margin s) := by
  simp [execDlRecalDone]

@[simp] theorem execHemClockStop_pending (h : HemId) (s : State) :
    Kept State.pending s (execHemClockStop h s) := by
  simp [execHemClockStop]

@[simp] theorem hemRelease_pending (s : State) (h : Nat) :
    (hemRelease s h).pending = s.pending := by
  simp [hemRelease]

@[simp] theorem execHemClockRun_pending (h : HemId) (s : State) :
    Kept State.pending s (execHemClockRun h s) := by
  simp [execHemClockRun]

@[simp] theorem execHemClockLoss_pending (h : HemId) (s : State) :
    Kept State.pending s (execHemClockLoss h s) := by
  simp [execHemClockLoss]

@[simp] theorem execOverrun_pending (h : HemId) (s : State) :
    Kept State.pending s (execOverrun h s) := by
  simp [execOverrun]

@[simp] theorem resyncStart_pending (s : State) (h : Nat) (hemSide : Bool) :
    (resyncStart s h hemSide).pending = s.pending := by
  simp [resyncStart]

@[simp] theorem resyncReady_pending (s : State) (h : Nat) (hemSide : Bool) :
    (resyncReady s h hemSide).pending = s.pending := by
  simp [resyncReady]

@[simp] theorem execResyncReady_pending (h : HemId) (hemSide : Bool) (s : State) :
    Kept State.pending s (execResyncReady h hemSide s) := by
  simp [execResyncReady]

end Sys2Proof.Machine
end

