-- ==== Sys2Proof/Laws/QueueOpe.lean ====
section
/-! SUPPORT. No operation of Machine/Ope.lean touches the queue of commands. -/
namespace Sys2Proof.Machine

@[simp] theorem sourceFail_pending (s : State) (c : Nat) (i : Nat) :
    (sourceFail s c i).pending = s.pending := by
  simp [sourceFail]

@[simp] theorem drawCheck_pending (s : State) (c : Nat) (i : Nat) (draws : Bool) :
    (drawCheck s c i draws).pending = s.pending := by
  simp [drawCheck]

@[simp] theorem setRun_pending (s : State) (c : Nat) (r : OpeRun) :
    (setRun s c r).pending = s.pending := by
  simp [setRun]

@[simp] theorem addEv_pending (s : State) (c : Nat) (p : Prod) (r : OpeRun) (e : NumEv) :
    (addEv s c p r e).1.pending = s.pending := by
  unfold addEv; (repeat' split) <;> simp

@[simp] theorem zeroStep_pending (s : State) (c : Nat) (id : Nat) :
    (zeroStep s c id).pending = s.pending := by
  unfold zeroStep; (repeat' split) <;> simp

@[simp] theorem endStep_pending (s : State) (c : Nat) (id : Nat) :
    (endStep s c id).pending = s.pending := by
  unfold endStep; (repeat' split) <;> simp

@[simp] theorem stepSettle_pending (s : State) (c : Nat) :
    (stepSettle s c).pending = s.pending := by
  unfold stepSettle; (repeat' split) <;> simp

@[simp] theorem productFire_pending (s : State) (c : Nat) (q : QEntry) (p : Prod) :
    (productFire s c q p).pending = s.pending := by
  simp [productFire]

@[simp] theorem opeProduct_pending (s : State) (c : Nat) :
    (opeProduct s c).pending = s.pending := by
  simp only [opeProduct]; (repeat' split) <;> simp

@[simp] theorem execOpeProduct_pending (c : Core) (s : State) :
    Kept State.pending s (execOpeProduct c s) := by
  simp [execOpeProduct]

@[simp] theorem feedOne_pending (s : State) (c : Nat) (f : Feeder) :
    (feedOne s c f).pending = s.pending := by
  unfold feedOne; (repeat' split) <;> simp

@[simp] theorem execFeederRefill_pending (c : Core) (f : Feeder) (s : State) :
    Kept State.pending s (execFeederRefill c f s) := by
  simp [execFeederRefill]

@[simp] theorem groupFire_pending (s : State) (c : Nat) (g : CellGroup) :
    (groupFire s c g).pending = s.pending := by
  simp only [groupFire]; (repeat' split) <;> simp

@[simp] theorem execCellGroupFire_pending (c : Core) (g : CellGroup) (s : State) :
    Kept State.pending s (execCellGroupFire c g s) := by
  simp [execCellGroupFire]

@[simp] theorem parityHit_pending (s : State) (c : Nat) (arr : Nat) (row : Nat) (col : Nat) :
    (parityHit s c arr row col).pending = s.pending := by
  simp [parityHit]

@[simp] theorem drainCopy_pending (s : State) (c : Nat) (arr : Nat) :
    (drainCopy s c arr).pending = s.pending := by
  unfold drainCopy; (repeat' split) <;> simp

@[simp] theorem execDrainCopy_pending (c : Core) (a : ArrayId) (s : State) :
    Kept State.pending s (execDrainCopy c a s) := by
  simp [execDrainCopy]

@[simp] theorem modDrain_pending (s : State) (c : Nat) (id : Nat) (f : DrainRun → DrainRun) :
    (modDrain s c id f).pending = s.pending := by
  simp [modDrain]

@[simp] theorem latchCheck_pending (s : State) (c : Nat) (arr : Nat) (cells : List (Nat × Nat)) :
    (latchCheck s c arr cells).pending = s.pending := by
  simp [latchCheck]

@[simp] theorem drainRow_pending (s : State) (c : Nat) (arr : Nat) :
    (drainRow s c arr).pending = s.pending := by
  simp only [drainRow]; (repeat' split) <;> simp

@[simp] theorem execDrainRow_pending (c : Core) (a : ArrayId) (s : State) :
    Kept State.pending s (execDrainRow c a s) := by
  simp [execDrainRow]

@[simp] theorem opeWritten_pending (s : State) (d : DrainRun) (q : QEntry) (slot : Nat) (shared : Bool) (z5 : Option Tile) :
    (opeWritten s d q slot shared z5).pending = s.pending := by
  cases z5 <;> simp [opeWritten]

@[simp] theorem drainClose_pending (s : State) (c : Nat) (p : Prod) (d : DrainRun) (q : QEntry) :
    (drainClose s c p d q).pending = s.pending := by
  simp [drainClose]

@[simp] theorem drainDone_pending (s : State) (c : Nat) (o : Nat) :
    (drainDone s c o).pending = s.pending := by
  simp only [drainDone]; (repeat' split) <;> simp

@[simp] theorem execDrainDone_pending (c : Core) (ope : Fin 2) (s : State) :
    Kept State.pending s (execDrainDone c ope s) := by
  simp [execDrainDone]

@[simp] theorem scaledRetry_pending (s : State) (c : Nat) :
    (scaledRetry s c).pending = s.pending := by
  simp only [scaledRetry]; (repeat' split) <;> simp

@[simp] theorem execScaledRetry_pending (c : Core) (s : State) :
    Kept State.pending s (execScaledRetry c s) := by
  simp [execScaledRetry]

@[simp] theorem accClose_pending (s : State) (c : Nat) :
    (accClose s c).pending = s.pending := by
  simp only [accClose]; (repeat' split) <;> simp

@[simp] theorem execAccClose_pending (c : Core) (s : State) :
    Kept State.pending s (execAccClose c s) := by
  simp [execAccClose]

@[simp] theorem katStart_pending (s : State) (page : Nat) :
    (katStart s page).pending = s.pending := by
  simp [katStart]

@[simp] theorem numCtlWrite_pending (s : State) (page : Nat) (v : Word) (own : Bool) :
    (numCtlWrite s page v own).pending = s.pending := by
  simp [numCtlWrite]

@[simp] theorem execSrKatRun_pending (mid : Mid) (block : SrBlock) (value : Word) (s : State) :
    Kept State.pending s (execSrKatRun mid block value s) := by
  simp [execSrKatRun]

@[simp] theorem sourcePass_pending (s : State) (c : Nat) (i : Nat) :
    (sourcePass s c i).pending = s.pending := by
  simp [sourcePass]

@[simp] theorem pageSrFail_pending (s : State) (pg : Nat) :
    (pageSrFail s pg).pending = s.pending := by
  simp [pageSrFail]

@[simp] theorem katDone_pending (s : State) (b : SrBlock) (source : Nat) (pass : Bool) :
    (katDone s b source pass).pending = s.pending := by
  unfold katDone; (repeat' split) <;> simp

@[simp] theorem execSrKatDone_pending (block : SrBlock) (source : Nat) (pass : Bool) (s : State) :
    Kept State.pending s (execSrKatDone block source pass s) := by
  simp [execSrKatDone]

@[simp] theorem numStepSet_pending (s : State) (c : Nat) (v : Word) :
    (numStepSet s c v).pending = s.pending := by
  simp [numStepSet]

@[simp] theorem execNumStepWrite_pending (mid : Mid) (c : Core) (value : Word) (s : State) :
    Kept State.pending s (execNumStepWrite mid c value s) := by
  simp [execNumStepWrite]

end Sys2Proof.Machine
end

