-- ==== Sys2Proof/Laws/QueueOpt.lean ====
section
/-! SUPPORT. No operation of Machine/Opt.lean touches the queue of commands. -/
namespace Sys2Proof.Machine

@[simp] theorem spanRead_pending (s : State) (a : Nat) (n : Nat) :
    (spanRead s a n).1.pending = s.pending := by
  simp only [spanRead]; (repeat' split) <;> simp

@[simp] theorem panelWrite_pending (s : State) (mid : Nat) (a : Nat) (bytes : List Byte) :
    (panelWrite s mid a bytes).pending = s.pending := by
  simp [panelWrite]

@[simp] theorem setLedger_pending (s : State) (p : Nat) (k : Nat) (n : Nat) :
    (setLedger s p k n).pending = s.pending := by
  simp [setLedger]

@[simp] theorem postContribution_pending (s : State) (e : Nat) :
    (postContribution s e).pending = s.pending := by
  simp [postContribution]

@[simp] theorem engCheck_pending (s : State) (page : Nat) (rne : Bool) :
    (engCheck s page rne).pending = s.pending := by
  simp [engCheck]

@[simp] theorem countMarked_pending (s : State) (page : Nat) (a : Nat) (l : List (Byte × Bool)) :
    (countMarked s page a l).pending = s.pending := by
  simp [countMarked]

@[simp] theorem planeRead_pending (s : State) (f : Fmt) (a : Nat) (n : Nat) :
    (planeRead s f a n).1.pending = s.pending := by
  simp [planeRead]

@[simp] theorem planeWrite_pending (s : State) (p : Nat) (f : Fmt) (a : Nat) (vs : List (FVal × Rnd)) :
    (planeWrite s p f a vs).pending = s.pending := by
  simp [planeWrite]

@[simp] theorem optUpdate_pending (s : State) (p : Nat) (k : Nat) :
    (optUpdate s p k).pending = s.pending := by
  unfold optUpdate; (repeat' split) <;> simp

@[simp] theorem execOptUpdate_pending (p : Panel) (k : Nat) (s : State) :
    Kept State.pending s (execOptUpdate p k s) := by
  simp [execOptUpdate]

@[simp] theorem execOptUpdateDone_pending (p : Panel) (k : Nat) (s : State) :
    Kept State.pending s (execOptUpdateDone p k s) := by
  simp [execOptUpdateDone]

@[simp] theorem setLs_pending (s : State) (p : Nat) (n : Int) :
    (setLs s p n).pending = s.pending := by
  simp [setLs]

@[simp] theorem lossStep_pending (s : State) (p : Nat) (commit : Bool) :
    (lossStep s p commit).pending = s.pending := by
  simp [lossStep]

@[simp] theorem paramsStep_pending (s : State) (p : Nat) :
    (paramsStep s p).pending = s.pending := by
  simp [paramsStep]

@[simp] theorem ledgerReset_pending (s : State) (p : Nat) :
    (ledgerReset s p).pending = s.pending := by
  simp [ledgerReset]

@[simp] theorem writeIgn_pending (s : State) (p : Nat) :
    (writeIgn s p).pending = s.pending := by
  simp [writeIgn]

@[simp] theorem optLossWrite_pending (s : State) (p : Nat) (v : Word) :
    (optLossWrite s p v).pending = s.pending := by
  simp [optLossWrite]

@[simp] theorem shardWrite_pending (s : State) (p : Nat) (k : Nat) (off : Nat) (v : Word) :
    (shardWrite s p k off v).pending = s.pending := by
  simp [shardWrite]

@[simp] theorem putResident_pending (s : State) (p : Nat) (k : Nat) (t : Tile) (f : Fmt) (data : List (Byte × Bool)) (scales : List (Byte × Bool)) :
    (putResident s p k t f data scales).pending = s.pending := by
  simp [putResident]

@[simp] theorem resTile_pending (s : State) (p : Nat) (k : Nat) :
    (resTile s p k).1.pending = s.pending := by
  simp [resTile]

@[simp] theorem copyResident_pending (s : State) (p : Nat) (k : Nat) :
    (copyResident s p k).pending = s.pending := by
  simp only [copyResident]; (repeat' split) <;> simp

@[simp] theorem getResident_pending (s : State) (p : Nat) (k : Nat) :
    (getResident s p k).1.pending = s.pending := by
  unfold getResident
  (try simp only [])
  split
  · simp
  · split <;> simp

@[simp] theorem partBytes_pending (s : State) (p : Nat) :
    (partBytes s p).1.pending = s.pending := by
  simp [partBytes, apply_ite Prod.fst]

@[simp] theorem queueFrames_pending (s : State) (e : Nat) (fs : List WFrame) :
    (queueFrames s e fs).pending = s.pending := by
  simp [queueFrames]

@[simp] theorem snapStart_pending (s : State) :
    (snapStart s).pending = s.pending := by
  simp [snapStart]

@[simp] theorem finishVote_pending (s : State) (commit : Bool) :
    (finishVote s commit).pending = s.pending := by
  simp [finishVote]

@[simp] theorem optDiscard_pending (s : State) (p : Nat) :
    (optDiscard s p).pending = s.pending := by
  simp [optDiscard]

@[simp] theorem applyOutcome_pending (s : State) (discard : Bool) :
    (applyOutcome s discard).pending = s.pending := by
  simp [applyOutcome]

@[simp] theorem optApply_pending (s : State) (p : Nat) :
    (optApply s p).pending = s.pending := by
  simp [optApply]

@[simp] theorem optCommit_pending (s : State) (p : Nat) :
    (optCommit s p).pending = s.pending := by
  simp [optCommit]

@[simp] theorem execOptCommit_pending (p : Panel) (s : State) :
    Kept State.pending s (execOptCommit p s) := by
  simp [execOptCommit]

@[simp] theorem advanceCursor_pending (s : State) :
    (advanceCursor s).pending = s.pending := by
  simp [advanceCursor]

@[simp] theorem stepStart_pending (s : State) :
    (stepStart s).pending = s.pending := by
  simp [stepStart]

@[simp] theorem execStepStart_pending (s : State) :
    Kept State.pending s (execStepStart s) := by
  simp [execStepStart]

end Sys2Proof.Machine
end

