-- ==== Sys2Proof/Laws/QueueControl.lean ====
section
/-! SUPPORT. No operation of Machine/Control.lean touches the queue of commands. -/
namespace Sys2Proof.Machine

@[simp] theorem ctlStart_pending (s : State) (c : Nat) (x : Nat) :
    (ctlStart s c x).pending = s.pending := by
  simp [ctlStart]

@[simp] theorem dropWait_pending (s : State) (c : Nat) (x : Nat) :
    (dropWait s c x).pending = s.pending := by
  simp [dropWait]

@[simp] theorem ctlStop_pending (s : State) (c : Nat) (x : Nat) :
    (ctlStop s c x).pending = s.pending := by
  simp [ctlStop]

@[simp] theorem execDone_pending (s : State) (c : Nat) (x : Nat) :
    (execDone s c x).pending = s.pending := by
  simp [execDone]

@[simp] theorem syncComplete_pending (s : State) (c : Nat) (x : Nat) :
    (syncComplete s c x).pending = s.pending := by
  simp [syncComplete]

@[simp] theorem keptWake_pending (s : State) (c : Nat) (x : Nat) :
    (keptWake s c x).pending = s.pending := by
  simp [keptWake]

@[simp] theorem unhalt_pending (s : State) (c : Nat) (x : Nat) (step : Bool) :
    (unhalt s c x step).pending = s.pending := by
  simp [unhalt]

@[simp] theorem ctlResume_pending (s : State) (c : Nat) (x : Nat) :
    (ctlResume s c x).pending = s.pending := by
  simp [ctlResume]

@[simp] theorem ctlStep_pending (s : State) (c : Nat) (x : Nat) :
    (ctlStep s c x).pending = s.pending := by
  simp [ctlStep]

@[simp] theorem ctxCtlWrite_pending (s : State) (c : Nat) (x : Nat) (v : Word) :
    (ctxCtlWrite s c x v).pending = s.pending := by
  simp [ctxCtlWrite]

@[simp] theorem ctxCtl_pending (mid : Mid) (c : Core) (x : CtxId) (v : Word) (s : State) :
    Kept State.pending s (ctxCtl mid c x v s) := by
  simp [ctxCtl]

@[simp] theorem execStart_pending (mid : Mid) (c : Core) (x : CtxId) (s : State) :
    Kept State.pending s (execStart mid c x s) := by
  simp [execStart]

@[simp] theorem execStop_pending (mid : Mid) (c : Core) (x : CtxId) (s : State) :
    Kept State.pending s (execStop mid c x s) := by
  simp [execStop]

@[simp] theorem execResume_pending (mid : Mid) (c : Core) (x : CtxId) (s : State) :
    Kept State.pending s (execResume mid c x s) := by
  simp [execResume]

@[simp] theorem execStepCtx_pending (mid : Mid) (c : Core) (x : CtxId) (s : State) :
    Kept State.pending s (execStepCtx mid c x s) := by
  simp [execStepCtx]

@[simp] theorem ccCtlWrite_pending (s : State) (c : Nat) (v : Word) :
    (ccCtlWrite s c v).pending = s.pending := by
  simp [ccCtlWrite]

@[simp] theorem execHaltAll_pending (mid : Mid) (c : Core) (s : State) :
    Kept State.pending s (execHaltAll mid c s) := by
  simp [execHaltAll]

@[simp] theorem execResumeAll_pending (mid : Mid) (c : Core) (s : State) :
    Kept State.pending s (execResumeAll mid c s) := by
  simp [execResumeAll]

@[simp] theorem fetchRec_pending (s : State) (c : Nat) (x : Nat) :
    (fetchRec s c x).pending = s.pending := by
  simp [fetchRec]

@[simp] theorem took_pending (s : State) (c : Nat) (x : Nat) :
    (took s c x).pending = s.pending := by
  simp [took]

@[simp] theorem haltCtx_pending (s : State) (c : Nat) (x : Nat) :
    (haltCtx s c x).pending = s.pending := by
  simp [haltCtx]

@[simp] theorem breakHit_pending (s : State) (c : Nat) (x : Nat) :
    (breakHit s c x).pending = s.pending := by
  simp [breakHit]

/-- A turn that ends the record's step keeps a projection. -/
def GateKeptQueue {α : Type} (f : State → α) (s : State) : Gate → Prop
  | .done t => f t = f s
  | _ => True
theorem takeGate_kept_pending (s : State) (c x : Nat) (row : Nat → Bool) : GateKeptQueue State.pending s (takeGate s c x row) := by
  unfold takeGate
  extract_lets k pc free r
  clear_value k pc free r
  (repeat' split) <;> simp [GateKeptQueue]
theorem takeGate_pending {s : State} {c x : Nat} {row : Nat → Bool} {t : State} (h : takeGate s c x row = .done t) :
    t.pending = s.pending := by
  have k := takeGate_kept_pending s c x row
  rw [h] at k
  exact k

@[simp] theorem execRec_pending (s : State) (c : Nat) (x : Nat) (op : Nat) (f : State → Rec → State) (hf : ∀ a0 a1, (f a0 a1).pending = a0.pending) :
    (execRec s c x op f).pending = s.pending := by
  unfold execRec
  split
  · rfl
  · next h => exact takeGate_pending h
  · simp [hf]

@[simp] theorem retarget_pending (s : State) (c : Nat) (x : Nat) (pc : Nat) :
    (retarget s c x pc).pending = s.pending := by
  simp [retarget]

@[simp] theorem refuseHere_pending (s : State) (c : Nat) (x : Nat) (code : Nat) (r : Rec) :
    (refuseHere s c x code r).pending = s.pending := by
  simp [refuseHere]

@[simp] theorem enqueue_pending (s : State) (c : Nat) (n : Nat) (q : QEntry) :
    (enqueue s c n q).pending = s.pending := by
  simp [enqueue]

@[simp] theorem issue_pending (s : State) (c : Nat) (x : Nat) (n : Nat) (r : Rec) :
    (issue s c x n r).pending = s.pending := by
  simp [issue]

@[simp] theorem execEngineRecordIssue_pending (c : Core) (x : CtxId) (s : State) :
    Kept State.pending s (execEngineRecordIssue c x s) := by
  simp only [execEngineRecordIssue, kept_next]
  split
  · rfl
  · next h => exact takeGate_pending h
  · (repeat' split) <;> simp

@[simp] theorem execNop_pending (c : Core) (x : CtxId) (s : State) :
    Kept State.pending s (execNop c x s) := by
  simp [execNop]

@[simp] theorem execMark_pending (c : Core) (x : CtxId) (s : State) :
    Kept State.pending s (execMark c x s) := by
  simp [execMark]

@[simp] theorem execHalt_pending (c : Core) (x : CtxId) (s : State) :
    Kept State.pending s (execHalt c x s) := by
  simp [execHalt]

@[simp] theorem execFence_pending (c : Core) (x : CtxId) (s : State) :
    Kept State.pending s (execFence c x s) := by
  simp [execFence]

@[simp] theorem execCtxSeq_pending (c : Core) (x : CtxId) (s : State) :
    Kept State.pending s (execCtxSeq c x s) := by
  simp [execCtxSeq]

@[simp] theorem setScalar_pending (s : State) (c : Nat) (x : Nat) (n : Nat) (v : Word) :
    (setScalar s c x n v).pending = s.pending := by
  simp [setScalar]

@[simp] theorem execScAlu_pending (c : Core) (x : CtxId) (s : State) :
    Kept State.pending s (execScAlu c x s) := by
  simp [execScAlu]

@[simp] theorem execScLi_pending (c : Core) (x : CtxId) (s : State) :
    Kept State.pending s (execScLi c x s) := by
  simp [execScLi]

@[simp] theorem startScalar_pending (s : State) (c : Nat) (x : Nat) (a : ScalarAcc) :
    (startScalar s c x a).pending = s.pending := by
  simp [startScalar]

@[simp] theorem execScLd_pending (c : Core) (x : CtxId) (s : State) :
    Kept State.pending s (execScLd c x s) := by
  simp [execScLd]

@[simp] theorem execScSt_pending (c : Core) (x : CtxId) (s : State) :
    Kept State.pending s (execScSt c x s) := by
  simp only [execScSt, kept_next]
  apply execRec_pending
  intro a b
  (try simp only [])
  (repeat' split) <;> simp

@[simp] theorem execASet_pending (c : Core) (x : CtxId) (s : State) :
    Kept State.pending s (execASet c x s) := by
  simp [execASet]

@[simp] theorem execPredCmp_pending (c : Core) (x : CtxId) (s : State) :
    Kept State.pending s (execPredCmp c x s) := by
  simp [execPredCmp]

@[simp] theorem execPredLogic_pending (c : Core) (x : CtxId) (s : State) :
    Kept State.pending s (execPredLogic c x s) := by
  simp [execPredLogic]

@[simp] theorem execPredFull_pending (c : Core) (x : CtxId) (s : State) :
    Kept State.pending s (execPredFull c x s) := by
  simp [execPredFull]

@[simp] theorem execPredTask_pending (c : Core) (x : CtxId) (s : State) :
    Kept State.pending s (execPredTask c x s) := by
  simp [execPredTask]

@[simp] theorem execBr_pending (c : Core) (x : CtxId) (s : State) :
    Kept State.pending s (execBr c x s) := by
  simp only [execBr, kept_next]
  apply execRec_pending
  intro a b
  (try simp only [])
  (repeat' split) <;> simp

@[simp] theorem execLoopBegin_pending (c : Core) (x : CtxId) (s : State) :
    Kept State.pending s (execLoopBegin c x s) := by
  simp only [execLoopBegin, kept_next]
  apply execRec_pending
  intro a b
  (try simp only [])
  (repeat' split) <;> simp

@[simp] theorem execLoopEnd_pending (c : Core) (x : CtxId) (s : State) :
    Kept State.pending s (execLoopEnd c x s) := by
  simp [execLoopEnd]

@[simp] theorem execLoopBreak_pending (c : Core) (x : CtxId) (s : State) :
    Kept State.pending s (execLoopBreak c x s) := by
  simp [execLoopBreak]

@[simp] theorem execRefetchDone_pending (c : Core) (x : CtxId) (s : State) :
    Kept State.pending s (execRefetchDone c x s) := by
  simp [execRefetchDone]

end Sys2Proof.Machine
end

