-- ==== Sys2Proof/Laws/QueueTask.lean ====
section
/-! SUPPORT. No operation of Machine/Task.lean touches the queue of commands. -/
namespace Sys2Proof.Machine

@[simp] theorem taskBegin_pending (s : State) (c : Nat) (x : Nat) (r : Rec) :
    (taskBegin s c x r).pending = s.pending := by
  simp only [taskBegin]; (repeat' split) <;> simp

@[simp] theorem execTaskBegin_pending (c : Core) (x : CtxId) (s : State) :
    Kept State.pending s (execTaskBegin c x s) := by
  simp [execTaskBegin]

@[simp] theorem taskCommit_pending (s : State) (c : Nat) (x : Nat) (r : Rec) :
    (taskCommit s c x r).pending = s.pending := by
  unfold taskCommit; (repeat' split) <;> simp

@[simp] theorem execTaskCommit_pending (c : Core) (x : CtxId) (s : State) :
    Kept State.pending s (execTaskCommit c x s) := by
  simp [execTaskCommit]

@[simp] theorem taskAbort_pending (s : State) (c : Nat) (x : Nat) (r : Rec) :
    (taskAbort s c x r).pending = s.pending := by
  unfold taskAbort; (repeat' split) <;> simp

@[simp] theorem execTaskAbort_pending (c : Core) (x : CtxId) (s : State) :
    Kept State.pending s (execTaskAbort c x s) := by
  simp [execTaskAbort]

@[simp] theorem freeLog_pending (s : State) (c : Nat) (x : Nat) :
    (freeLog s c x).pending = s.pending := by
  simp [freeLog]

@[simp] theorem showBits_pending (s : State) (c : Nat) (x : Nat) :
    (showBits s c x).pending = s.pending := by
  simp [showBits]

@[simp] theorem commitApply_pending (s : State) (c : Nat) (x : Nat) :
    (commitApply s c x).pending = s.pending := by
  unfold commitApply; (repeat' split) <;> simp

@[simp] theorem execTaskCommitApply_pending (c : Core) (x : CtxId) (s : State) :
    Kept State.pending s (execTaskCommitApply c x s) := by
  simp [execTaskCommitApply]

@[simp] theorem taskLogWrite_pending (s : State) (c : Nat) :
    (taskLogWrite s c).pending = s.pending := by
  simp only [taskLogWrite]; (repeat' split) <;> simp

@[simp] theorem logFull_pending (s : State) (c : Nat) :
    (logFull s c).pending = s.pending := by
  simp only [logFull]; (repeat' split) <;> simp

@[simp] theorem execLogFull_pending (c : Core) (s : State) :
    Kept State.pending s (execLogFull c s) := by
  simp [execLogFull]

@[simp] theorem taskDiscard_pending (s : State) (c : Nat) (x : Nat) :
    (taskDiscard s c x).pending = s.pending := by
  unfold taskDiscard
  split
  · split
    · rfl
    · (try simp only [])
      split <;> simp
  · rfl

@[simp] theorem execTaskDiscard_pending (c : Core) (x : CtxId) (s : State) :
    Kept State.pending s (execTaskDiscard c x s) := by
  simp [execTaskDiscard]

@[simp] theorem closeTaskAcc_pending (s : State) (c : Nat) (x : Nat) :
    (closeTaskAcc s c x).pending = s.pending := by
  simp [closeTaskAcc]

@[simp] theorem discardDone_pending (s : State) (c : Nat) (x : Nat) :
    (discardDone s c x).pending = s.pending := by
  unfold discardDone; (repeat' split) <;> simp

@[simp] theorem execTaskDiscardDone_pending (c : Core) (x : CtxId) (s : State) :
    Kept State.pending s (execTaskDiscardDone c x s) := by
  simp [execTaskDiscardDone]

end Sys2Proof.Machine
end

