-- ==== Sys2Proof/Laws/QueueSync.lean ====
section
/-! SUPPORT. No operation of Machine/Sync.lean touches the queue of commands. -/
namespace Sys2Proof.Machine

@[simp] theorem sendReq_pending (s : State) (c : Nat) (x : Nat) (r : SyncReq) :
    (sendReq s c x r).pending = s.pending := by
  simp [sendReq]

@[simp] theorem answerReq_pending (s : State) (c : Nat) (x : Nat) (r : SyncReq) (orphan : Bool) (a : SyncAns) :
    (answerReq s c x r orphan a).pending = s.pending := by
  simp [answerReq]

@[simp] theorem countWait_pending (s : State) (c : Nat) (x : Nat) (fe : Bool) :
    (countWait s c x fe).pending = s.pending := by
  simp [countWait]

@[simp] theorem waitReq_pending (s : State) (c : Nat) (x : Nat) (r : SyncReq) (orphan : Bool) (w : WaitCond) (fe : Bool) :
    (waitReq s c x r orphan w fe).pending = s.pending := by
  simp [waitReq]

@[simp] theorem wakeCtx_pending (s : State) (c : Nat) (x : Nat) :
    (wakeCtx s c x).pending = s.pending := by
  simp [wakeCtx]

@[simp] theorem thawWakes_pending (s : State) (c : Nat) :
    (thawWakes s c).pending = s.pending := by
  simp [thawWakes]

@[simp] theorem feRecord_pending (s : State) (c : Nat) (x : Nat) (r : Rec) (writes : Bool) (mk : Nat → SyncReq) :
    (feRecord s c x r writes mk).pending = s.pending := by
  simp only [feRecord]; (repeat' split) <;> simp

@[simp] theorem execFeTake_pending (c : Core) (x : CtxId) (s : State) :
    Kept State.pending s (execFeTake c x s) := by
  simp [execFeTake]

@[simp] theorem execFePeek_pending (c : Core) (x : CtxId) (s : State) :
    Kept State.pending s (execFePeek c x s) := by
  simp [execFePeek]

@[simp] theorem execFePut_pending (c : Core) (x : CtxId) (s : State) :
    Kept State.pending s (execFePut c x s) := by
  simp [execFePut]

@[simp] theorem execFeSet_pending (c : Core) (x : CtxId) (s : State) :
    Kept State.pending s (execFeSet c x s) := by
  simp [execFeSet]

@[simp] theorem execFeClear_pending (c : Core) (x : CtxId) (s : State) :
    Kept State.pending s (execFeClear c x s) := by
  simp [execFeClear]

@[simp] theorem setFull_pending (s : State) (w : Nat) (b : Bool) :
    (setFull s w b).pending = s.pending := by
  simp [setFull]

@[simp] theorem storeSync_pending (s : State) (w : Nat) (v : Word) :
    (storeSync s w v).pending = s.pending := by
  simp [storeSync]

@[simp] theorem bankDo_pending (s : State) (c : Nat) (x : Nat) (r : SyncReq) (orphan : Bool) (w : Nat) (ecc : Ecc) :
    (bankDo s c x r orphan w ecc).pending = s.pending := by
  unfold bankDo; (repeat' split) <;> simp

@[simp] theorem execSyncBankAccess_pending (c : Core) (x : CtxId) (ecc : Ecc) (s : State) :
    Kept State.pending s (execSyncBankAccess c x ecc s) := by
  unfold execSyncBankAccess; (repeat' split) <;> simp

@[simp] theorem execYokeRegistration_pending (c : Core) (x : CtxId) (s : State) :
    Kept State.pending s (execYokeRegistration c x s) := by
  unfold execYokeRegistration; (repeat' split) <;> simp

@[simp] theorem execChangeNotice_pending (n : Notice) (s : State) :
    Kept State.pending s (execChangeNotice n s) := by
  unfold execChangeNotice; (repeat' split) <;> simp

@[simp] theorem execSyncWake_pending (c : Core) (s : State) :
    Kept State.pending s (execSyncWake c s) := by
  unfold execSyncWake; (repeat' split) <;> simp

@[simp] theorem syncAnswer_pending (s : State) (c : Nat) (x : Nat) :
    (syncAnswer s c x).pending = s.pending := by
  unfold syncAnswer; (repeat' split) <;> simp

@[simp] theorem execSyncAnswer_pending (c : Core) (x : CtxId) (s : State) :
    Kept State.pending s (execSyncAnswer c x s) := by
  simp [execSyncAnswer]

@[simp] theorem execBarArrive_pending (c : Core) (x : CtxId) (s : State) :
    Kept State.pending s (execBarArrive c x s) := by
  simp [execBarArrive]

@[simp] theorem slotRelease_pending (s : State) (slot : Nat) :
    (slotRelease s slot).pending = s.pending := by
  simp [slotRelease]

@[simp] theorem arrival_pending (s : State) (c : Nat) (x : Nat) (r : SyncReq) (orphan : Bool) (slot : Nat) (wait : Bool) :
    (arrival s c x r orphan slot wait).pending = s.pending := by
  simp [arrival]

@[simp] theorem execYokeArrival_pending (c : Core) (x : CtxId) (s : State) :
    Kept State.pending s (execYokeArrival c x s) := by
  unfold execYokeArrival; (repeat' split) <;> simp

@[simp] theorem releaseCtx_pending (s : State) (r : Release) (x : Nat) :
    (releaseCtx s r x).pending = s.pending := by
  unfold releaseCtx; (repeat' split) <;> simp

@[simp] theorem execReleaseArrival_pending (c : Core) (slot : Byte) (s : State) :
    Kept State.pending s (execReleaseArrival c slot s) := by
  unfold execReleaseArrival; (repeat' split) <;> simp

@[simp] theorem slotCtlWrite_pending (s : State) (slot : Nat) (en : Bool) :
    (slotCtlWrite s slot en).pending = s.pending := by
  simp [slotCtlWrite]

@[simp] theorem slotCtlCmd_pending (mid : Mid) (slot : Byte) (en : Bool) (s : State) :
    Kept State.pending s (slotCtlCmd mid slot en s) := by
  simp [slotCtlCmd]

@[simp] theorem execSlotEnable_pending (mid : Mid) (slot : Byte) (s : State) :
    Kept State.pending s (execSlotEnable mid slot s) := by
  simp [execSlotEnable]

@[simp] theorem execSlotDisable_pending (mid : Mid) (slot : Byte) (s : State) :
    Kept State.pending s (execSlotDisable mid slot s) := by
  simp [execSlotDisable]

@[simp] theorem pktNotice_pending (s : State) (k : Nat) :
    (pktNotice s k).pending = s.pending := by
  simp [pktNotice]

@[simp] theorem pktAccept_pending (s : State) (k : Nat) :
    (pktAccept s k).pending = s.pending := by
  simp [pktAccept]

@[simp] theorem pktAborted_pending (s : State) (k : Nat) :
    (pktAborted s k).pending = s.pending := by
  simp [pktAborted]

@[simp] theorem pktReturn_pending (s : State) (k : Nat) :
    (pktReturn s k).pending = s.pending := by
  simp [pktReturn]

@[simp] theorem pktGoWrite_pending (s : State) (k : Nat) :
    (pktGoWrite s k).pending = s.pending := by
  simp [pktGoWrite]

@[simp] theorem svcFlush_pending (s : State) :
    (svcFlush s).pending = s.pending := by
  unfold svcFlush; (repeat' split) <;> simp

@[simp] theorem svcAnswer_pending (s : State) (v : Word) (status : Nat) :
    (svcAnswer s v status).pending = s.pending := by
  simp [svcAnswer]

@[simp] theorem pktTake_pending (s : State) (k : Nat) :
    (pktTake s k).pending = s.pending := by
  simp [pktTake]

@[simp] theorem pktTakeWrite_pending (s : State) (k : Nat) :
    (pktTakeWrite s k).pending = s.pending := by
  simp [pktTakeWrite]

@[simp] theorem execPktSend_pending (c : Core) (x : CtxId) (s : State) :
    Kept State.pending s (execPktSend c x s) := by
  simp [execPktSend]

@[simp] theorem execPktRecv_pending (c : Core) (x : CtxId) (s : State) :
    Kept State.pending s (execPktRecv c x s) := by
  simp [execPktRecv]

@[simp] theorem pktForeign_pending (s : State) (c : Nat) (x : Nat) (k : Nat) (off : Nat) (r : SyncReq) (orphan : Bool) (pd : Nat) :
    (pktForeign s c x k off r orphan pd).pending = s.pending := by
  simp [pktForeign]

@[simp] theorem pktSendReq_pending (s : State) (c : Nat) (x : Nat) (k : Nat) (ws : List Word) (pd : Nat) (orphan : Bool) :
    (pktSendReq s c x k ws pd orphan).pending = s.pending := by
  simp [pktSendReq]

@[simp] theorem pktRecvReq_pending (s : State) (c : Nat) (x : Nat) (k : Nat) (sbase : Nat) (n : Nat) (pd : Nat) (orphan : Bool) :
    (pktRecvReq s c x k sbase n pd orphan).pending = s.pending := by
  simp [pktRecvReq]

@[simp] theorem execPktGo_pending (src : PktSrc) (k : Fin 512) (s : State) :
    Kept State.pending s (execPktGo src k s) := by
  unfold execPktGo; (repeat' split) <;> simp

@[simp] theorem execPktTake_pending (src : PktSrc) (k : Fin 512) (s : State) :
    Kept State.pending s (execPktTake src k s) := by
  unfold execPktTake; (repeat' split) <;> simp

@[simp] theorem pktClearWrite_pending (s : State) (k : Nat) :
    (pktClearWrite s k).pending = s.pending := by
  simp [pktClearWrite]

@[simp] theorem execPktClear_pending (mid : Mid) (k : Fin 512) (s : State) :
    Kept State.pending s (execPktClear mid k s) := by
  simp [execPktClear]

@[simp] theorem pktLockWrite_pending (s : State) (v : Word) (mantle : Bool) :
    (pktLockWrite s v mantle).pending = s.pending := by
  simp [pktLockWrite]

@[simp] theorem execLockSet_pending (mid : Mid) (s : State) :
    Kept State.pending s (execLockSet mid s) := by
  simp [execLockSet]

@[simp] theorem wpSend_pending (s : State) (w : Nat) :
    (wpSend s w).pending = s.pending := by
  simp [wpSend]

@[simp] theorem mntBtnClear_pending (s : State) (b : Nat) :
    (mntBtnClear s b).pending = s.pending := by
  simp [mntBtnClear]

@[simp] theorem mntPut_pending (s : State) (w : Nat) (v : Word) :
    (mntPut s w v).pending = s.pending := by
  simp [mntPut]

@[simp] theorem mntFlush_pending (s : State) :
    (mntFlush s).pending = s.pending := by
  unfold mntFlush
  apply foldl_pending
  intro a b
  split
  · rfl
  · split <;> simp

@[simp] theorem mntTake_pending (s : State) (w : Nat) :
    (mntTake s w).pending = s.pending := by
  simp [mntTake]

@[simp] theorem mntAnswer_pending (s : State) (w : Nat) (op : Nat) (seq : Nat) (status : Nat) (value : Nat) :
    (mntAnswer s w op seq status value).pending = s.pending := by
  simp [mntAnswer]

@[simp] theorem mntPump_pending (z0 : Nat) (z1 : State) :
    (mntPump z0 z1).pending = z1.pending := by
  induction z0 generalizing z1 with
    | zero => simp [mntPump]
    | succ n ih => simp only [mntPump]; (repeat' split) <;> simp [ih]

@[simp] theorem wpGoWrite_pending (s : State) (w : Nat) :
    (wpGoWrite s w).pending = s.pending := by
  simp [wpGoWrite]

@[simp] theorem wpTakeWrite_pending (s : State) (w : Nat) :
    (wpTakeWrite s w).pending = s.pending := by
  simp [wpTakeWrite]

@[simp] theorem execWpGo_pending (mid : Mid) (w : Fin 16) (s : State) :
    Kept State.pending s (execWpGo mid w s) := by
  simp [execWpGo]

@[simp] theorem execWpTake_pending (mid : Mid) (w : Fin 16) (s : State) :
    Kept State.pending s (execWpTake mid w s) := by
  simp [execWpTake]

@[simp] theorem btnRingWrite_pending (s : State) (receiver : Nat) (v : Word) (mantle : Bool) :
    (btnRingWrite s receiver v mantle).pending = s.pending := by
  simp [btnRingWrite]

@[simp] theorem ringReq_pending (s : State) (c : Nat) (x : Nat) (mid : Nat) (b : Nat) (orphan : Bool) :
    (ringReq s c x mid b orphan).pending = s.pending := by
  simp [ringReq]

@[simp] theorem execBtnRing_pending (src : BtnSrc) (s : State) :
    Kept State.pending s (execBtnRing src s) := by
  simp only [execBtnRing, kept_next]
  split
  · simp
  · split
    · simp
    · apply execRec_pending
      intro a b
      split <;> simp

@[simp] theorem btnWait_pending (s : State) (c : Nat) (x : Nat) (r : Rec) :
    (btnWait s c x r).pending = s.pending := by
  simp [btnWait]

@[simp] theorem execBtnWait_pending (c : Core) (x : CtxId) (s : State) :
    Kept State.pending s (execBtnWait c x s) := by
  simp [execBtnWait]

end Sys2Proof.Machine
end

