-- ==== Sys2Proof/Laws/QueueColl.lean ====
section
/-! SUPPORT. No operation of Machine/Coll.lean touches the queue of commands. -/
namespace Sys2Proof.Machine

@[simp] theorem setColl_pending (s : State) (p : Nat) (q : List CollCmd) :
    (setColl s p q).pending = s.pending := by
  simp [setColl]

@[simp] theorem modCmd_pending (s : State) (p : Nat) (n : Nat) (f : CollCmd → CollCmd) :
    (modCmd s p n f).pending = s.pending := by
  simp [modCmd]

@[simp] theorem collDone_pending (s : State) (d : Desc) :
    (collDone s d).pending = s.pending := by
  simp [collDone]

@[simp] theorem collRefuse_pending (s : State) (p : Nat) (d : Desc) (code : Nat) (addr : Nat) :
    (collRefuse s p d code addr).pending = s.pending := by
  simp [collRefuse]

@[simp] theorem descsRead_pending (s : State) (a : Nat) (n : Nat) :
    (descsRead s a n).1.pending = s.pending := by
  simp [descsRead]

@[simp] theorem collTake_pending (s : State) (p : Nat) :
    (collTake s p).pending = s.pending := by
  unfold collTake
  split
  · rfl
  · (try simp only [])
    (repeat' split) <;> simp

@[simp] theorem execCollCommandTake_pending (p : Panel) (s : State) :
    Kept State.pending s (execCollCommandTake p s) := by
  simp [execCollCommandTake]

@[simp] theorem runCells_pending (s : State) (t : Tile) (n0 : Nat) (n : Nat) :
    (runCells s t n0 n).1.pending = s.pending := by
  unfold runCells; (repeat' split) <;> simp

@[simp] theorem runRead_pending (s : State) (p : Nat) (t : Tile) (n0 : Nat) (n : Nat) :
    (runRead s p t n0 n).1.pending = s.pending := by
  unfold runRead; (repeat' split) <;> simp

@[simp] theorem putRun_pending (s : State) (p : Nat) (c : CollCmd) (pos : Nat) (n : Nat) (data : List Byte) (scales : List Byte) :
    (putRun s p c pos n data scales).pending = s.pending := by
  simp [putRun]

@[simp] theorem getRun_pending (s : State) (p : Nat) (c : CollCmd) (pos : Nat) (n : Nat) :
    (getRun s p c pos n).1.pending = s.pending := by
  unfold getRun
  exact (foldl_fst_pending _ (fun a b => by (try simp only []); split <;> simp) _ _)

@[simp] theorem foldWords_pending (s : State) (p : Nat) :
    (foldWords s p).pending = s.pending := by
  simp [foldWords]

@[simp] theorem collSend_pending (s : State) (p : Nat) (group : Bool) (k : Nat) (f : WFrame) :
    (collSend s p group k f).pending = s.pending := by
  simp [collSend]

@[simp] theorem sendRun_pending (s : State) (p : Nat) (t : Tile) (n0 : Nat) (n : Nat) (kind : Nat) (id : Nat) (group : Bool) (k : Nat) :
    (sendRun s p t n0 n kind id group k).pending = s.pending := by
  simp [sendRun]

@[simp] theorem collBegin_pending (s : State) (p : Nat) (c : CollCmd) :
    (collBegin s p c).pending = s.pending := by
  simp [collBegin]

@[simp] theorem collStart_pending (s : State) (p : Nat) (op : Nat) :
    (collStart s p op).pending = s.pending := by
  unfold collStart; (repeat' split) <;> simp

@[simp] theorem execAllGather_pending (p : Panel) (s : State) :
    Kept State.pending s (execAllGather p s) := by
  simp [execAllGather]

@[simp] theorem execReduceScatter_pending (p : Panel) (s : State) :
    Kept State.pending s (execReduceScatter p s) := by
  simp [execReduceScatter]

@[simp] theorem execAllReduce_pending (p : Panel) (s : State) :
    Kept State.pending s (execAllReduce p s) := by
  simp [execAllReduce]

@[simp] theorem seenIn_pending (s : State) (i : EngIn) :
    (seenIn s i).pending = s.pending := by
  simp [seenIn]

@[simp] theorem dropIn_pending (s : State) (i : EngIn) :
    (dropIn s i).pending = s.pending := by
  simp [dropIn]

@[simp] theorem settleCmd_pending (s : State) (p : Nat) (num : Nat) :
    (settleCmd s p num).pending = s.pending := by
  unfold settleCmd; (repeat' split) <;> simp

@[simp] theorem collFrameRx_pending (s : State) (p : Nat) :
    (collFrameRx s p).pending = s.pending := by
  simp only [collFrameRx]; (repeat' split) <;> simp

@[simp] theorem execCollFrameRx_pending (p : Panel) (s : State) :
    Kept State.pending s (execCollFrameRx p s) := by
  simp [execCollFrameRx]

@[simp] theorem collFold_pending (s : State) (p : Nat) (id : Nat) (index : Nat) :
    (collFold s p id index).pending = s.pending := by
  unfold collFold; (repeat' split) <;> simp

@[simp] theorem execCollFold_pending (p : Panel) (collId : Nat) (frame : Nat) (s : State) :
    Kept State.pending s (execCollFold p collId frame s) := by
  simp [execCollFold]

@[simp] theorem collComplete_pending (s : State) (p : Nat) :
    (collComplete s p).pending = s.pending := by
  unfold collComplete; (repeat' split) <;> simp

@[simp] theorem execCollCommandComplete_pending (p : Panel) (s : State) :
    Kept State.pending s (execCollCommandComplete p s) := by
  simp [execCollCommandComplete]

@[simp] theorem sendClose_pending (s : State) (stage : Nat) :
    (sendClose s stage).pending = s.pending := by
  simp [sendClose]

@[simp] theorem closingStart_pending (s : State) :
    (closingStart s).pending = s.pending := by
  simp [closingStart]

@[simp] theorem execClosingPhase_pending (s : State) :
    Kept State.pending s (execClosingPhase s) := by
  simp [execClosingPhase]

@[simp] theorem execClose1Merged_pending (s : State) :
    Kept State.pending s (execClose1Merged s) := by
  unfold execClose1Merged; (repeat' split) <;> simp

@[simp] theorem close2_pending (s : State) :
    (close2 s).pending = s.pending := by
  unfold close2; (repeat' split) <;> simp

@[simp] theorem execClose2Merged_pending (s : State) :
    Kept State.pending s (execClose2Merged s) := by
  simp [execClose2Merged]

end Sys2Proof.Machine
end

