-- ==== Sys2Proof/Laws/QueueRecovery.lean ====
section
/-! SUPPORT. No operation of Machine/Recovery.lean touches the queue of commands. -/
namespace Sys2Proof.Machine

@[simp] theorem wordRead_pending (s : State) (a : Nat) :
    (wordRead s a).1.pending = s.pending := by
  simp [wordRead]

@[simp] theorem ingestCursor_pending (s : State) :
    (ingestCursor s).1.pending = s.pending := by
  simp [ingestCursor]

@[simp] theorem hdrRead_pending (s : State) (a : Nat) :
    (hdrRead s a).1.pending = s.pending := by
  simp [hdrRead]

@[simp] theorem copyGranules_pending (s : State) (mid : Nat) (a : Nat) (cells : List (Byte × Bool)) :
    (copyGranules s mid a cells).pending = s.pending := by
  simp [copyGranules]

@[simp] theorem localSeal_pending (s : State) (p : Nat) :
    (localSeal s p).pending = s.pending := by
  simp [localSeal]

@[simp] theorem execLocalSlotSealed_pending (p : Panel) (s : State) :
    Kept State.pending s (execLocalSlotSealed p s) := by
  simp [execLocalSlotSealed]

@[simp] theorem putDigest_pending (s : State) (p : Nat) (d : Nat) :
    (putDigest s p d).pending = s.pending := by
  simp [putDigest]

@[simp] theorem digestPart_pending (s : State) (p : Nat) :
    (digestPart s p).1.pending = s.pending := by
  simp [digestPart]

@[simp] theorem digestAll_pending (s : State) :
    (digestAll s).1.pending = s.pending := by
  simp [digestAll]

@[simp] theorem mirrorHeader_pending (s : State) :
    (mirrorHeader s).pending = s.pending := by
  simp [mirrorHeader]

@[simp] theorem execMirrorHeaderWrite_pending (s : State) :
    Kept State.pending s (execMirrorHeaderWrite s) := by
  simp [execMirrorHeaderWrite]

@[simp] theorem askSource_pending (s : State) (e : Nat) (p : Nat) (ws : List Nat) :
    (askSource s e p ws).pending = s.pending := by
  simp [askSource]

@[simp] theorem stampOk_pending (s : State) (n : Nat) :
    (stampOk s n).1.pending = s.pending := by
  simp [stampOk]

@[simp] theorem recEnd_pending (s : State) (n : Nat) :
    (recEnd s n).pending = s.pending := by
  simp [recEnd]

@[simp] theorem restorePull_pending (s : State) (replica : Bool) :
    (restorePull s replica).pending = s.pending := by
  simp [restorePull]

@[simp] theorem residentFull_pending (s : State) (p : Nat) (k : Nat) :
    (residentFull s p k).pending = s.pending := by
  simp only [residentFull]; (repeat' split) <;> simp

@[simp] theorem allTilesFull_pending (s : State) :
    (allTilesFull s).pending = s.pending := by
  simp [allTilesFull]

@[simp] theorem restoreDone_pending (s : State) (n : Nat) (flags : Nat) :
    (restoreDone s n flags).pending = s.pending := by
  simp [restoreDone]

@[simp] theorem localCheck_pending (s : State) (n : Nat) :
    (localCheck s n).1.pending = s.pending := by
  simp [localCheck]

@[simp] theorem localCopy_pending (s : State) (n : Nat) :
    (localCopy s n).pending = s.pending := by
  simp [localCopy]

@[simp] theorem restoreLocal_pending (s : State) :
    (restoreLocal s).pending = s.pending := by
  simp only [restoreLocal]; (repeat' split) <;> simp

@[simp] theorem abandon_pending (s : State) :
    (abandon s).pending = s.pending := by
  simp [abandon]

@[simp] theorem rollback_pending (s : State) :
    (rollback s).pending = s.pending := by
  simp only [rollback]; (repeat' split) <;> simp

@[simp] theorem purgeHeld_pending (s : State) (src : RxStream) :
    (purgeHeld s src).pending = s.pending := by
  simp [purgeHeld]

@[simp] theorem purge_pending (s : State) :
    (purge s).pending = s.pending := by
  simp [purge]

@[simp] theorem verify_pending (s : State) :
    (verify s).pending = s.pending := by
  simp [verify]

@[simp] theorem adopt_pending (s : State) (discard : Bool) :
    (adopt s discard).pending = s.pending := by
  simp [adopt]

@[simp] theorem recStart_pending (s : State) (op : Nat) (out : Bool) :
    (recStart s op out).pending = s.pending := by
  simp [recStart]

@[simp] theorem recCmdWrite_pending (s : State) (p : Nat) (v : Word) :
    (recCmdWrite s p v).pending = s.pending := by
  simp [recCmdWrite]

@[simp] theorem recCmd_pending (mid : Mid) (v : Word) (s : State) :
    Kept State.pending s (recCmd mid v s) := by
  simp [recCmd]

@[simp] theorem execSnapshot_pending (mid : Mid) (s : State) :
    Kept State.pending s (execSnapshot mid s) := by
  simp [execSnapshot]

@[simp] theorem execRestoreMirror_pending (mid : Mid) (s : State) :
    Kept State.pending s (execRestoreMirror mid s) := by
  simp [execRestoreMirror]

@[simp] theorem execRestoreReplica_pending (mid : Mid) (s : State) :
    Kept State.pending s (execRestoreReplica mid s) := by
  simp [execRestoreReplica]

@[simp] theorem execRestoreLocal_pending (mid : Mid) (s : State) :
    Kept State.pending s (execRestoreLocal mid s) := by
  simp [execRestoreLocal]

@[simp] theorem execVerify_pending (mid : Mid) (s : State) :
    Kept State.pending s (execVerify mid s) := by
  simp [execVerify]

@[simp] theorem execAbandon_pending (mid : Mid) (s : State) :
    Kept State.pending s (execAbandon mid s) := by
  simp [execAbandon]

@[simp] theorem execAdopt_pending (mid : Mid) (outcome : Bool) (s : State) :
    Kept State.pending s (execAdopt mid outcome s) := by
  simp [execAdopt]

@[simp] theorem execRollback_pending (mid : Mid) (s : State) :
    Kept State.pending s (execRollback mid s) := by
  simp [execRollback]

@[simp] theorem execPurge_pending (mid : Mid) (s : State) :
    Kept State.pending s (execPurge mid s) := by
  simp [execPurge]

@[simp] theorem answerSource_pending (s : State) (p : Nat) (i : EngIn) (status : Nat) (flags : Nat) (digest : Nat) (dest : Nat) (bytes : List Byte) :
    (answerSource s p i status flags digest dest bytes).pending = s.pending := by
  simp [answerSource]

@[simp] theorem servePull_pending (s : State) (p : Nat) :
    (servePull s p).pending = s.pending := by
  simp only [servePull]; (repeat' split) <;> simp

@[simp] theorem execRestorePullRequest_pending (p : Panel) (s : State) :
    Kept State.pending s (execRestorePullRequest p s) := by
  simp [execRestorePullRequest]

@[simp] theorem serveDigest_pending (s : State) :
    (serveDigest s).pending = s.pending := by
  unfold serveDigest
  refine foldl_pending _ (fun a b => ?_) _ _
  split
  · rfl
  · (repeat' split) <;> simp

@[simp] theorem execVerifyDigestRequest_pending (s : State) :
    Kept State.pending s (execVerifyDigestRequest s) := by
  simp [execVerifyDigestRequest]

@[simp] theorem takeReply_pending (s : State) (p : Nat) :
    (takeReply s p).pending = s.pending := by
  unfold takeReply; (repeat' split) <;> simp

@[simp] theorem takeReplies_pending (s : State) :
    (takeReplies s).pending = s.pending := by
  simp [takeReplies]

@[simp] theorem restoreTiles_pending (s : State) :
    (restoreTiles s).pending = s.pending := by
  simp [restoreTiles]

@[simp] theorem recComplete_pending (s : State) :
    (recComplete s).pending = s.pending := by
  simp only [recComplete]; (repeat' split) <;> simp

@[simp] theorem execRecCommandComplete_pending (s : State) :
    Kept State.pending s (execRecCommandComplete s) := by
  simp [execRecCommandComplete]

end Sys2Proof.Machine
end

