-- ==== Sys2Proof/Laws/QueueVector.lean ====
section
/-! SUPPORT. No operation of Machine/Vector.lean touches the queue of commands. -/
namespace Sys2Proof.Machine

@[simp] theorem vecDrawCheck_pending (s : State) (c : Nat) (q : QEntry) :
    (vecDrawCheck s c q).pending = s.pending := by
  simp [vecDrawCheck]

@[simp] theorem vecFire_pending (s : State) (c : Nat) (q0 : QEntry) :
    (vecFire s c q0).pending = s.pending := by
  simp only [vecFire]; (repeat' split) <;> simp

@[simp] theorem vecArrive_pending (s : State) (c : Nat) (op : Nat) :
    (vecArrive s c op).pending = s.pending := by
  simp only [vecArrive]; (repeat' split) <;> simp

@[simp] theorem vecPick_pending (s : State) (c : Nat) (op : Nat) :
    (vecPick s c op).pending = s.pending := by
  simp only [vecPick]; (repeat' split) <;> simp

@[simp] theorem vecStep_pending (c : Core) (op : Nat) (s : State) :
    Kept State.pending s (vecStep c op s) := by
  simp [vecStep]

@[simp] theorem execVecEw_pending (c : Core) (s : State) :
    Kept State.pending s (execVecEw c s) := by
  simp [execVecEw]

@[simp] theorem execVecFn_pending (c : Core) (s : State) :
    Kept State.pending s (execVecFn c s) := by
  simp [execVecFn]

@[simp] theorem execVecFnBwd_pending (c : Core) (s : State) :
    Kept State.pending s (execVecFnBwd c s) := by
  simp [execVecFnBwd]

@[simp] theorem execVecRowRed_pending (c : Core) (s : State) :
    Kept State.pending s (execVecRowRed c s) := by
  simp [execVecRowRed]

@[simp] theorem execVecColRed_pending (c : Core) (s : State) :
    Kept State.pending s (execVecColRed c s) := by
  simp [execVecColRed]

@[simp] theorem execVecNormStat_pending (c : Core) (s : State) :
    Kept State.pending s (execVecNormStat c s) := by
  simp [execVecNormStat]

@[simp] theorem execVecNormFwd_pending (c : Core) (s : State) :
    Kept State.pending s (execVecNormFwd c s) := by
  simp [execVecNormFwd]

@[simp] theorem execVecNormBwd_pending (c : Core) (s : State) :
    Kept State.pending s (execVecNormBwd c s) := by
  simp [execVecNormBwd]

@[simp] theorem execVecSmaxFold_pending (c : Core) (s : State) :
    Kept State.pending s (execVecSmaxFold c s) := by
  simp [execVecSmaxFold]

@[simp] theorem execVecSmaxApply_pending (c : Core) (s : State) :
    Kept State.pending s (execVecSmaxApply c s) := by
  simp [execVecSmaxApply]

@[simp] theorem execVecSmaxD_pending (c : Core) (s : State) :
    Kept State.pending s (execVecSmaxD c s) := by
  simp [execVecSmaxD]

@[simp] theorem execVecSmaxBwd_pending (c : Core) (s : State) :
    Kept State.pending s (execVecSmaxBwd c s) := by
  simp [execVecSmaxBwd]

@[simp] theorem execVecDropout_pending (c : Core) (s : State) :
    Kept State.pending s (execVecDropout c s) := by
  simp [execVecDropout]

@[simp] theorem execVecRand_pending (c : Core) (s : State) :
    Kept State.pending s (execVecRand c s) := by
  simp [execVecRand]

@[simp] theorem execVecScatterAdd_pending (c : Core) (s : State) :
    Kept State.pending s (execVecScatterAdd c s) := by
  simp [execVecScatterAdd]

@[simp] theorem vectorComplete_pending (s : State) (c : Nat) :
    (vectorComplete s c).pending = s.pending := by
  unfold vectorComplete; (repeat' split) <;> simp

@[simp] theorem execVectorComplete_pending (c : Core) (s : State) :
    Kept State.pending s (execVectorComplete c s) := by
  simp [execVectorComplete]

end Sys2Proof.Machine
end

