-- ==== Sys2Proof/Laws/QueueStream.lean ====
section
/-! SUPPORT. No operation of Machine/Stream.lean touches the queue of commands. -/
namespace Sys2Proof.Machine

@[simp] theorem fillSlot_pending (s : State) (c : Nat) :
    (fillSlot s c).pending = s.pending := by
  simp only [fillSlot]; (repeat' split) <;> simp

@[simp] theorem fillSlots_pending (s : State) (c : Nat) :
    (fillSlots s c).pending = s.pending := by
  simp [fillSlots]

@[simp] theorem hold_pending (s : State) (c : Nat) (r : StrReq) (t : TagKind) :
    (hold s c r t).pending = s.pending := by
  simp [hold]

@[simp] theorem unpark_pending (s : State) (c : Nat) (ret : Option Returned) :
    (unpark s c ret).pending = s.pending := by
  unfold unpark
  apply foldl_pending
  intro a b
  (repeat' split) <;> simp

@[simp] theorem unparkAll_pending (s : State) (p : Nat) (ret : Option Returned) :
    (unparkAll s p ret).pending = s.pending := by
  simp [unparkAll]

@[simp] theorem streamRequest_pending (s : State) (c : Nat) (slot : Nat) :
    (streamRequest s c slot).pending = s.pending := by
  simp only [streamRequest]; (repeat' split) <;> simp

@[simp] theorem execStreamRequest_pending (c : Core) (slot : Fin 16) (s : State) :
    Kept State.pending s (execStreamRequest c slot s) := by
  simp [execStreamRequest]

@[simp] theorem tagGrant_pending (s : State) (p : Nat) :
    (tagGrant s p).pending = s.pending := by
  simp only [tagGrant]; (repeat' split) <;> simp

@[simp] theorem execTagGrant_pending (p : Panel) (s : State) :
    Kept State.pending s (execTagGrant p s) := by
  simp [execTagGrant]

@[simp] theorem fetchSpans_pending (s : State) (spans : List (Nat × Nat)) :
    (fetchSpans s spans).1.pending = s.pending := by
  unfold fetchSpans
  exact foldl_keeps (fun a : State × Fetched × List (Nat × Nat) × Nat => a.1.pending) _ (fun a b => by simp) _ _

@[simp] theorem strWrite_pending (s : State) (c : Nat) (q : QEntry) (ws : List (Nat × List Byte)) :
    (strWrite s c q ws).pending = s.pending := by
  simp [strWrite]

@[simp] theorem tileFull_pending (s : State) (c : Nat) (q : QEntry) (b : Nat × Nat) (bytes : Nat) :
    (tileFull s c q b bytes).pending = s.pending := by
  simp [tileFull]

@[simp] theorem startRefetch_pending (s : State) (c : Nat) (q : QEntry) :
    (startRefetch s c q).pending = s.pending := by
  simp [startRefetch]

@[simp] theorem finishRun_pending (s : State) (c : Nat) (r : StrRun) :
    (finishRun s c r).pending = s.pending := by
  simp only [finishRun]; (repeat' split) <;> simp

@[simp] theorem runSettle_pending (s : State) (c : Nat) (id : Nat) :
    (runSettle s c id).pending = s.pending := by
  unfold runSettle; (repeat' split) <;> simp

@[simp] theorem execTaskLogWrite_pending (c : Core) (s : State) :
    Kept State.pending s (execTaskLogWrite c s) := by
  unfold execTaskLogWrite; (repeat' split) <;> simp

@[simp] theorem strFire_pending (s : State) (c : Nat) (q0 : QEntry) :
    (strFire s c q0).pending = s.pending := by
  simp only [strFire]; (repeat' split) <;> simp

@[simp] theorem strHead_pending (s : State) (c : Nat) (op : Nat) :
    (strHead s c op).pending = s.pending := by
  simp only [strHead]; (repeat' split) <;> simp

@[simp] theorem execStrMove_pending (c : Core) (s : State) :
    Kept State.pending s (execStrMove c s) := by
  simp [execStrMove]

@[simp] theorem execStrLining_pending (c : Core) (s : State) :
    Kept State.pending s (execStrLining c s) := by
  simp [execStrLining]

@[simp] theorem execStrGather_pending (c : Core) (s : State) :
    Kept State.pending s (execStrGather c s) := by
  simp [execStrGather]

@[simp] theorem execStrScatter_pending (c : Core) (s : State) :
    Kept State.pending s (execStrScatter c s) := by
  simp [execStrScatter]

@[simp] theorem moveReads_pending (s : State) (c : Nat) (run : StrRun) (reads : List (Nat × Nat)) (vers : List (Nat × Nat)) (pois : Nat) :
    (moveReads s c run reads vers pois).pending = s.pending := by
  simp [moveReads]

@[simp] theorem moveRequest_pending (s : State) (c : Nat) (run : StrRun) (r : StrReq) :
    (moveRequest s c run r).pending = s.pending := by
  simp [moveRequest]

@[simp] theorem requestDone_pending (s : State) (c : Nat) (num : Nat) :
    (requestDone s c num).pending = s.pending := by
  simp only [requestDone]; (repeat' split) <;> simp

@[simp] theorem execStreamRequestDone_pending (c : Core) (req : Nat) (s : State) :
    Kept State.pending s (execStreamRequestDone c req s) := by
  simp [execStreamRequestDone]

@[simp] theorem eosComplete_pending (s : State) (c : Nat) (q : QEntry) :
    (eosComplete s c q).pending = s.pending := by
  simp [eosComplete]

@[simp] theorem strEos_pending (s : State) (c : Nat) :
    (strEos s c).pending = s.pending := by
  simp only [strEos]; (repeat' split) <;> simp

@[simp] theorem execStrEos_pending (c : Core) (s : State) :
    Kept State.pending s (execStrEos c s) := by
  simp [execStrEos]

@[simp] theorem strEosComplete_pending (s : State) (c : Nat) (sid : Nat) :
    (strEosComplete s c sid).pending = s.pending := by
  unfold strEosComplete; (repeat' split) <;> simp

@[simp] theorem execStrEosComplete_pending (c : Core) (sid : Byte) (s : State) :
    Kept State.pending s (execStrEosComplete c sid s) := by
  simp [execStrEosComplete]

@[simp] theorem fbCmdWrite_pending (s : State) (c : Nat) (v : Word) :
    (fbCmdWrite s c v).pending = s.pending := by
  unfold fbCmdWrite; (repeat' split) <;> simp

@[simp] theorem fbSetCmd_pending (mid : Mid) (c : Core) (entry : BitVec 12) (op : Nat) (s : State) :
    Kept State.pending s (fbSetCmd mid c entry op s) := by
  simp [fbSetCmd]

@[simp] theorem execFbSetFull_pending (mid : Mid) (c : Core) (entry : BitVec 12) (s : State) :
    Kept State.pending s (execFbSetFull mid c entry s) := by
  simp [execFbSetFull]

@[simp] theorem execFbSetEmpty_pending (mid : Mid) (c : Core) (entry : BitVec 12) (s : State) :
    Kept State.pending s (execFbSetEmpty mid c entry s) := by
  simp [execFbSetEmpty]

@[simp] theorem execFbParity_pending (c : Core) (entry : BitVec 12) (s : State) :
    Kept State.pending s (execFbParity c entry s) := by
  simp [execFbParity]

@[simp] theorem watchWrite_pending (s : State) (p : Nat) (w : Nat) (limit : Bool) (v : Word) (own : Bool) :
    (watchWrite s p w limit v own).pending = s.pending := by
  simp [watchWrite]

@[simp] theorem execWatchRegionWrite_pending (mid : Mid) (p : Panel) (w : Fin 16) (limit : Bool) (value : Word) (s : State) :
    Kept State.pending s (execWatchRegionWrite mid p w limit value s) := by
  simp [execWatchRegionWrite]

@[simp] theorem watchReport_pending (s : State) (c : Nat) (idx : Nat) (ver : Nat) :
    (watchReport s c idx ver).pending = s.pending := by
  simp [watchReport]

@[simp] theorem execWatchVersionReport_pending (c : Core) (p : Panel) (w : Fin 16) (s : State) :
    Kept State.pending s (execWatchVersionReport c p w s) := by
  simp [execWatchVersionReport]

@[simp] theorem csFabric_pending (s : State) (mid : Nat) (a : Nat) (op : MemOp) (e : Ecc) :
    (csFabric s mid a op e).pending = s.pending := by
  unfold csFabric; (repeat' split) <;> simp

@[simp] theorem execCsFabricAccess_pending (mid : Mid) (addr : Word) (op : MemOp) (ecc : Ecc) (s : State) :
    Kept State.pending s (execCsFabricAccess mid addr op ecc s) := by
  simp [execCsFabricAccess]

@[simp] theorem abortStack_pending (s : State) (st : Nat) :
    (abortStack s st).pending = s.pending := by
  simp [abortStack]

@[simp] theorem hemAbort_pending (s : State) (h : Nat) :
    (hemAbort s h).pending = s.pending := by
  simp [hemAbort]

@[simp] theorem execResync_pending (h : HemId) (hemSide : Bool) (s : State) :
    Kept State.pending s (execResync h hemSide s) := by
  simp [execResync]

end Sys2Proof.Machine
end

