-- ==== Sys2Proof/Laws/QueueDomain.lean ====
section
/-! SUPPORT. No operation of Machine/Domain.lean touches the queue of commands. -/
namespace Sys2Proof.Machine

@[simp] theorem resetRegs_pending (s : State) (d : Nat) :
    (resetRegs s d).pending = s.pending := by
  simp [resetRegs]

@[simp] theorem resetFreeze_pending (s : State) (d : Nat) :
    (resetFreeze s d).pending = s.pending := by
  unfold resetFreeze
  refine (foldl_pending _ (fun a b => by split <;> (try split) <;> simp) _ _).trans ?_
  simp

@[simp] theorem pocketsDown_pending (s : State) (d : Nat) :
    (pocketsDown s d).pending = s.pending := by
  simp [pocketsDown]

@[simp] theorem buttonsDown_pending (s : State) (d : Nat) :
    (buttonsDown s d).pending = s.pending := by
  simp [buttonsDown]

@[simp] theorem coreSync_pending (s : State) (c : Nat) :
    (coreSync s c).pending = s.pending := by
  simp [coreSync]

@[simp] theorem coreReset_pending (s : State) (c : Nat) :
    (coreReset s c).pending = s.pending := by
  simp [coreReset]

@[simp] theorem llcReset_pending (s : State) (p : Nat) :
    (llcReset s p).pending = s.pending := by
  simp [llcReset]

@[simp] theorem hbmReset_pending (s : State) (p : Nat) :
    (hbmReset s p).pending = s.pending := by
  simp [hbmReset]

@[simp] theorem selfRefresh_pending (s : State) (p : Nat) (on : Bool) :
    (selfRefresh s p on).pending = s.pending := by
  simp [selfRefresh]

@[simp] theorem hbmGone_pending (s : State) (p : Nat) :
    (hbmGone s p).pending = s.pending := by
  simp [hbmGone]

@[simp] theorem linkReset_pending (s : State) (p : Nat) :
    (linkReset s p).pending = s.pending := by
  simp [linkReset]

@[simp] theorem seamReset_pending (s : State) (n : Nat) :
    (seamReset s n).pending = s.pending := by
  simp [seamReset]

@[simp] theorem fabReset_pending (s : State) (p : Nat) :
    (fabReset s p).pending = s.pending := by
  simp only [fabReset, fabReset.setBist]
  split <;> simp

@[simp] theorem fabReset.setBist_pending (s : State) (p : Nat) :
    (fabReset.setBist s p).pending = s.pending := by
  simp [fabReset.setBist]

@[simp] theorem cpReset_pending (s : State) :
    (cpReset s).pending = s.pending := by
  simp [cpReset]

@[simp] theorem setState_pending (s : State) (d : Nat) (st : Nat) :
    (setState s d st).pending = s.pending := by
  simp [setState]

@[simp] theorem domReset_pending (s : State) (d : Nat) :
    (domReset s d).pending = s.pending := by
  simp [domReset]

@[simp] theorem domOff_pending (s : State) (d : Nat) :
    (domOff s d).pending = s.pending := by
  simp [domOff]

@[simp] theorem domRetain_pending (s : State) (d : Nat) :
    (domRetain s d).pending = s.pending := by
  simp [domRetain]

@[simp] theorem restoreDelay_pending (s : State) (c : Nat) :
    (restoreDelay s c).pending = s.pending := by
  simp [restoreDelay]

@[simp] theorem loadFw_pending (s : State) (f : Nat) (id : Nat) :
    (loadFw s f id).pending = s.pending := by
  simp [loadFw]

@[simp] theorem bindService_pending (s : State) :
    (bindService s).pending = s.pending := by
  simp [bindService]

@[simp] theorem bootFw_pending (s : State) (p : Nat) :
    (bootFw s p).pending = s.pending := by
  simp [bootFw]

@[simp] theorem domFresh_pending (s : State) (d : Nat) :
    (domFresh s d).pending = s.pending := by
  simp [domFresh]

@[simp] theorem domWake_pending (s : State) (d : Nat) :
    (domWake s d).pending = s.pending := by
  simp [domWake]

@[simp] theorem domBring_pending (s : State) (d : Nat) :
    (domBring s d).pending = s.pending := by
  simp [domBring]

end Sys2Proof.Machine
end

