-- ==== Sys2Proof/Laws/QueueBist.lean ====
section
/-! SUPPORT. No operation of Machine/Bist.lean touches the queue of commands. -/
namespace Sys2Proof.Machine

@[simp] theorem setBist_pending (s : State) (p : Nat) (b : BistSt) :
    (setBist s p b).pending = s.pending := by
  simp [setBist]

@[simp] theorem bistReqWrite_pending (s : State) (p : Nat) (mid : Nat) (addr : Nat) :
    (bistReqWrite s p mid addr).pending = s.pending := by
  simp [bistReqWrite]

@[simp] theorem execBistReq_pending (mid : Mid) (p : Panel) (addr : Word) (s : State) :
    Kept State.pending s (execBistReq mid p addr s) := by
  simp [execBistReq]

@[simp] theorem bistStart_pending (s : State) (p : Nat) :
    (bistStart s p).pending = s.pending := by
  simp only [bistStart]; (repeat' split) <;> simp

@[simp] theorem bistChunk_pending (s : State) (p : Nat) (fails : List Nat) :
    (bistChunk s p fails).pending = s.pending := by
  simp only [bistChunk]; (repeat' split) <;> simp

@[simp] theorem execBistChunk_pending (p : Panel) (fails : List Nat) (s : State) :
    Kept State.pending s (execBistChunk p fails s) := by
  simp [execBistChunk]

@[simp] theorem bistResult_pending (s : State) (p : Nat) :
    (bistResult s p).pending = s.pending := by
  simp only [bistResult]; (repeat' split) <;> simp

@[simp] theorem execBistResult_pending (p : Panel) (s : State) :
    Kept State.pending s (execBistResult p s) := by
  simp [execBistResult]

@[simp] theorem darnWrite_pending (s : State) (page : Nat) (off : Nat) (v : Word) (own : Bool) :
    (darnWrite s page off v own).pending = s.pending := by
  unfold darnWrite; (repeat' split) <;> simp

@[simp] theorem execDarnWrite_pending (mid : Mid) (page : Nat) (k : Nat) (value : Word) (s : State) :
    Kept State.pending s (execDarnWrite mid page k value s) := by
  unfold execDarnWrite; (repeat' split) <;> simp

@[simp] theorem segRetireWrite_pending (s : State) (page : Nat) (off : Nat) (v : Word) :
    (segRetireWrite s page off v).pending = s.pending := by
  simp [segRetireWrite]

end Sys2Proof.Machine
end

