-- ==== Sys2Proof/Laws/QueueImage.lean ====
section
/-! SUPPORT. No operation of Machine/Image.lean touches the queue of commands. -/
namespace Sys2Proof.Machine

@[simp] theorem readStaged_pending (s : State) (off : Nat) :
    (readStaged s off).1.pending = s.pending := by
  simp only [readStaged]; (repeat' split) <;> simp

end Sys2Proof.Machine
end

