-- ==== Sys2Proof/Laws/QueuePower.lean ====
section
/-! SUPPORT. No operation of Machine/Power.lean touches the queue of commands. -/
namespace Sys2Proof.Machine

@[simp] theorem reqAccept_pending (s : State) (d : Nat) (req : Nat) :
    (reqAccept s d req).pending = s.pending := by
  simp [reqAccept]

@[simp] theorem pwrRequest_pending (s : State) (d : Nat) (req : Nat) :
    (pwrRequest s d req).pending = s.pending := by
  unfold pwrRequest; (repeat' split) <;> simp

@[simp] theorem pwrDomainWrite_pending (s : State) (p : Nat) (d : Nat) (v : Word) :
    (pwrDomainWrite s p d v).pending = s.pending := by
  simp [pwrDomainWrite]

@[simp] theorem pwrReqCmd_pending (mid : Mid) (d : Fin 50) (req : Nat) (s : State) :
    Kept State.pending s (pwrReqCmd mid d req s) := by
  simp [pwrReqCmd]

@[simp] theorem execPwrReqOff_pending (mid : Mid) (d : Fin 50) (s : State) :
    Kept State.pending s (execPwrReqOff mid d s) := by
  simp [execPwrReqOff]

@[simp] theorem execPwrReqRetention_pending (mid : Mid) (d : Fin 50) (s : State) :
    Kept State.pending s (execPwrReqRetention mid d s) := by
  simp [execPwrReqRetention]

@[simp] theorem execPwrReqOn_pending (mid : Mid) (d : Fin 50) (s : State) :
    Kept State.pending s (execPwrReqOn mid d s) := by
  simp [execPwrReqOn]

@[simp] theorem execPwrReqReset_pending (mid : Mid) (d : Fin 50) (s : State) :
    Kept State.pending s (execPwrReqReset mid d s) := by
  simp [execPwrReqReset]

@[simp] theorem transitionDone_pending (s : State) (d : Nat) :
    (transitionDone s d).pending = s.pending := by
  simp [transitionDone]

@[simp] theorem execPwrTransitionDone_pending (d : Fin 50) (s : State) :
    Kept State.pending s (execPwrTransitionDone d s) := by
  simp [execPwrTransitionDone]

@[simp] theorem setPwr_pending (s : State) (f : PwrSt → PwrSt) :
    (setPwr s f).pending = s.pending := by
  simp [setPwr]

@[simp] theorem alertOn_pending (s : State) :
    (alertOn s).pending = s.pending := by
  simp [alertOn]

@[simp] theorem alertSettle_pending (s : State) :
    (alertSettle s).pending = s.pending := by
  simp [alertSettle]

@[simp] theorem endTransitions_pending (s : State) :
    (endTransitions s).pending = s.pending := by
  simp [endTransitions]

@[simp] theorem setReduced_pending (s : State) (on : Bool) :
    (setReduced s on).pending = s.pending := by
  simp [setReduced]

@[simp] theorem seedRails_pending (s : State) :
    (seedRails s).pending = s.pending := by
  simp [seedRails]

@[simp] theorem dropSettings_pending (s : State) :
    (dropSettings s).pending = s.pending := by
  simp [dropSettings]

@[simp] theorem drawKey_pending (s : State) :
    (drawKey s).pending = s.pending := by
  simp [drawKey]

@[simp] theorem setKey_pending (s : State) (p : Nat) (k : Nat) (n : Nat) :
    (setKey s p k n).pending = s.pending := by
  simp [setKey]

@[simp] theorem freshSlots_pending (s : State) (p : Nat) :
    (freshSlots s p).pending = s.pending := by
  simp [freshSlots]

@[simp] theorem freshMemory_pending (s : State) :
    (freshMemory s).pending = s.pending := by
  simp [freshMemory]

@[simp] theorem mantleStart_pending (s : State) :
    (mantleStart s).pending = s.pending := by
  simp [mantleStart]

@[simp] theorem powerStep4_pending (s : State) :
    (powerStep4 s).pending = s.pending := by
  simp [powerStep4]

@[simp] theorem execStandbyPowerOn_pending (s : State) :
    Kept State.pending s (execStandbyPowerOn s) := by
  simp [execStandbyPowerOn]

@[simp] theorem standbyLoss_pending (s : State) :
    (standbyLoss s).pending = s.pending := by
  simp [standbyLoss]

@[simp] theorem execStandbyPowerLoss_pending (s : State) :
    Kept State.pending s (execStandbyPowerLoss s) := by
  simp [execStandbyPowerLoss]

@[simp] theorem execMainPowerGood_pending (s : State) :
    Kept State.pending s (execMainPowerGood s) := by
  simp [execMainPowerGood]

@[simp] theorem cpTrainDone_pending (s : State) :
    (cpTrainDone s).pending = s.pending := by
  unfold cpTrainDone
  (try simp only [cpTrainDone.cpHello])
  (repeat' split) <;> simp

@[simp] theorem cpTrainDone.cpHello_pending (s : State) :
    (cpTrainDone.cpHello s).pending = s.pending := by
  simp [cpTrainDone.cpHello]

@[simp] theorem execCpTrainDone_pending (s : State) :
    Kept State.pending s (execCpTrainDone s) := by
  simp [execCpTrainDone]

@[simp] theorem reducedExit_pending (s : State) :
    (reducedExit s).pending = s.pending := by
  simp [reducedExit]

@[simp] theorem execReducedServiceExit_pending (s : State) :
    Kept State.pending s (execReducedServiceExit s) := by
  simp [execReducedServiceExit]

@[simp] theorem inputLow_pending (s : State) :
    (inputLow s).pending = s.pending := by
  simp [inputLow]

@[simp] theorem execInputLow_pending (s : State) :
    Kept State.pending s (execInputLow s) := by
  simp [execInputLow]

@[simp] theorem domsOff_pending (s : State) :
    (domsOff s).pending = s.pending := by
  simp [domsOff]

@[simp] theorem resetAssert_pending (s : State) :
    (resetAssert s).pending = s.pending := by
  simp [resetAssert]

@[simp] theorem execResetNAssert_pending (s : State) :
    Kept State.pending s (execResetNAssert s) := by
  simp [execResetNAssert]

@[simp] theorem execResetNRelease_pending (s : State) :
    Kept State.pending s (execResetNRelease s) := by
  simp [execResetNRelease]

@[simp] theorem rateTick_pending (s : State) (p : Nat) (measured : Nat) :
    (rateTick s p measured).pending = s.pending := by
  simp [rateTick]

@[simp] theorem execRateLoopTick_pending (p : Panel) (measured : Nat) (s : State) :
    Kept State.pending s (execRateLoopTick p measured s) := by
  simp [execRateLoopTick]

@[simp] theorem thermalTrip_pending (s : State) :
    (thermalTrip s).pending = s.pending := by
  simp [thermalTrip]

@[simp] theorem thermalReading_pending (s : State) (p : Nat) (tj : Nat) :
    (thermalReading s p tj).pending = s.pending := by
  simp [thermalReading]

@[simp] theorem execThermalReading_pending (p : Panel) (tj : Byte) (s : State) :
    Kept State.pending s (execThermalReading p tj s) := by
  simp [execThermalReading]

@[simp] theorem powerReading_pending (s : State) (watts : Nat) (mJ : Nat) :
    (powerReading s watts mJ).pending = s.pending := by
  simp [powerReading]

@[simp] theorem execPowerMeasurement_pending (watts : Nat) (mJ : Nat) (s : State) :
    Kept State.pending s (execPowerMeasurement watts mJ s) := by
  simp [execPowerMeasurement]

end Sys2Proof.Machine
end

