-- ==== Sys2Proof/Laws/QueueMantle.lean ====
section
/-! SUPPORT. No operation of Machine/Mantle.lean touches the queue of commands. -/
namespace Sys2Proof.Machine

@[simp] theorem setMnt_pending (s : State) (f : MntSt → MntSt) :
    (setMnt s f).pending = s.pending := by
  simp [setMnt]

@[simp] theorem mntCmd_pending (w : Fin 8) (op : Nat) (s : State) (f : State → Word → State) (hf : ∀ a0 a1, (f a0 a1).pending = a0.pending) :
    Kept State.pending s (mntCmd w op s f) := by
  simp only [mntCmd, kept_next]
  split <;> simp [hf]

@[simp] theorem reply_pending (s : State) (w : Nat) (v : Word) (status : Nat) (value : Nat) :
    (reply s w v status value).pending = s.pending := by
  simp [reply]

@[simp] theorem cpTakes_pending (s : State) :
    (cpTakes s).pending = s.pending := by
  simp [cpTakes]

@[simp] theorem unfreezeMid_pending (s : State) (mid : Nat) :
    (unfreezeMid s mid).pending = s.pending := by
  unfold unfreezeMid; (repeat' split) <;> simp

@[simp] theorem execUnfreeze_pending (w : Fin 8) (s : State) :
    Kept State.pending s (execUnfreeze w s) := by
  simp [execUnfreeze]

@[simp] theorem unfreezePtr_pending (s : State) (e : Nat) :
    (unfreezePtr s e).pending = s.pending := by
  simp [unfreezePtr]

@[simp] theorem execUnfreezePartner_pending (w : Fin 8) (s : State) :
    Kept State.pending s (execUnfreezePartner w s) := by
  simp [execUnfreezePartner]

@[simp] theorem disablePort_pending (s : State) (p : Nat) :
    (disablePort s p).pending = s.pending := by
  simp [disablePort]

@[simp] theorem execPortDisable_pending (w : Fin 8) (s : State) :
    Kept State.pending s (execPortDisable w s) := by
  simp [execPortDisable]

@[simp] theorem execPortRelease_pending (w : Fin 8) (s : State) :
    Kept State.pending s (execPortRelease w s) := by
  simp [execPortRelease]

@[simp] theorem execLogClear_pending (w : Fin 8) (s : State) :
    Kept State.pending s (execLogClear w s) := by
  simp [execLogClear]

@[simp] theorem execBindUnlock_pending (w : Fin 8) (s : State) :
    Kept State.pending s (execBindUnlock w s) := by
  simp [execBindUnlock]

@[simp] theorem setWindows_pending (s : State) (acc : List Byte) :
    (setWindows s acc).pending = s.pending := by
  simp [setWindows]

@[simp] theorem setOwners_pending (s : State) (acc : List Byte) :
    (setOwners s acc).pending = s.pending := by
  unfold setOwners
  refine foldl_pending _ (fun a b => ?_) _ _
  (repeat' split) <;> simp

@[simp] theorem execJobArm_pending (w : Fin 8) (s : State) :
    Kept State.pending s (execJobArm w s) := by
  unfold execJobArm
  apply mntCmd_pending
  intro a b
  (try simp only [])
  (repeat' split) <;> simp

@[simp] theorem setStat_pending (s : State) (b : Nat) (v : Bool) :
    (setStat s b v).pending = s.pending := by
  simp [setStat]

@[simp] theorem setSession_pending (s : State) (n : Nat) :
    (setSession s n).pending = s.pending := by
  simp [setSession]

@[simp] theorem abandonSweep_pending (s : State) :
    (abandonSweep s).pending = s.pending := by
  simp [abandonSweep]

@[simp] theorem sessionOpen_pending (s : State) (cloak : Bool) :
    (sessionOpen s cloak).pending = s.pending := by
  simp [sessionOpen]

@[simp] theorem execSessionOpen_pending (w : Fin 8) (s : State) :
    Kept State.pending s (execSessionOpen w s) := by
  simp [execSessionOpen]

@[simp] theorem keysLoaded_pending (s : State) :
    (keysLoaded s).pending = s.pending := by
  unfold keysLoaded; (repeat' split) <;> simp

@[simp] theorem execKeyLoad_pending (w : Fin 8) (s : State) :
    Kept State.pending s (execKeyLoad w s) := by
  simp [execKeyLoad]

@[simp] theorem endAttest_pending (s : State) (status : Nat) (value : Nat) :
    (endAttest s status value).pending = s.pending := by
  unfold endAttest; (repeat' split) <;> simp

@[simp] theorem execSessionEnd_pending (w : Fin 8) (s : State) :
    Kept State.pending s (execSessionEnd w s) := by
  simp [execSessionEnd]

@[simp] theorem scrub_pending (s : State) (p : Nat) :
    (scrub s p).pending = s.pending := by
  simp [scrub]

@[simp] theorem execSessionScrub_pending (p : Panel) (s : State) :
    Kept State.pending s (execSessionScrub p s) := by
  simp [execSessionScrub]

@[simp] theorem zeroise_pending (s : State) :
    (zeroise s).pending = s.pending := by
  simp [zeroise]

@[simp] theorem endReply_pending (s : State) (status : Nat) :
    (endReply s status).pending = s.pending := by
  unfold endReply; (repeat' split) <;> simp

@[simp] theorem sessionComplete_pending (s : State) :
    (sessionComplete s).pending = s.pending := by
  simp [sessionComplete]

@[simp] theorem execSessionEndComplete_pending (s : State) :
    Kept State.pending s (execSessionEndComplete s) := by
  simp [execSessionEndComplete]

@[simp] theorem scrubFail_pending (s : State) :
    (scrubFail s).pending = s.pending := by
  simp [scrubFail]

@[simp] theorem execScrubFail_pending (s : State) :
    Kept State.pending s (execScrubFail s) := by
  simp [execScrubFail]

@[simp] theorem rotatePanel_pending (s : State) (p : Nat) :
    (rotatePanel s p).pending = s.pending := by
  simp [rotatePanel]

@[simp] theorem execKeyRotate_pending (w : Fin 8) (s : State) :
    Kept State.pending s (execKeyRotate w s) := by
  simp [execKeyRotate]

@[simp] theorem regionDone_pending (s : State) (p : Nat) (r : Nat) :
    (regionDone s p r).pending = s.pending := by
  simp [regionDone]

@[simp] theorem sweepCopy_pending (s : State) (p : Nat) (a : Nat) :
    (sweepCopy s p a).pending = s.pending := by
  simp [sweepCopy]

@[simp] theorem sweepStep_pending (s : State) (p : Nat) :
    (sweepStep s p).pending = s.pending := by
  simp [sweepStep]

@[simp] theorem execKeySweepGranule_pending (p : Panel) (s : State) :
    Kept State.pending s (execKeySweepGranule p s) := by
  simp [execKeySweepGranule]

@[simp] theorem issueCert_pending (s : State) (nonce : List Byte) :
    (issueCert s nonce).pending = s.pending := by
  simp [issueCert]

@[simp] theorem execAttest_pending (w : Fin 8) (s : State) :
    Kept State.pending s (execAttest w s) := by
  simp [execAttest]

@[simp] theorem readyAttest_pending (s : State) :
    (readyAttest s).pending = s.pending := by
  unfold readyAttest; (repeat' split) <;> simp

@[simp] theorem execRngHealthFail_pending (s : State) :
    Kept State.pending s (execRngHealthFail s) := by
  simp [execRngHealthFail]

@[simp] theorem toInactive_pending (s : State) (f : Nat) (i : FwImg) :
    (toInactive s f i).pending = s.pending := by
  simp [toInactive]

@[simp] theorem setUpdate_pending (s : State) (n : Nat) :
    (setUpdate s n).pending = s.pending := by
  simp [setUpdate]

@[simp] theorem execFwUpdate_pending (w : Fin 8) (s : State) :
    Kept State.pending s (execFwUpdate w s) := by
  unfold execFwUpdate
  apply mntCmd_pending
  intro a b
  (try simp only [])
  (repeat' split) <;> simp

@[simp] theorem endUpdate_pending (s : State) :
    (endUpdate s).pending = s.pending := by
  simp [endUpdate]

@[simp] theorem fwActivate_pending (s : State) :
    (fwActivate s).pending = s.pending := by
  unfold fwActivate; (repeat' split) <;> simp

@[simp] theorem execFwActivate_pending (s : State) :
    Kept State.pending s (execFwActivate s) := by
  simp [execFwActivate]

@[simp] theorem execFwStartTimeout_pending (s : State) :
    Kept State.pending s (execFwStartTimeout s) := by
  unfold execFwStartTimeout; (repeat' split) <;> simp

@[simp] theorem execFwAbort_pending (w : Fin 8) (s : State) :
    Kept State.pending s (execFwAbort w s) := by
  simp [execFwAbort]

@[simp] theorem execFuseDarn_pending (w : Fin 8) (s : State) :
    Kept State.pending s (execFuseDarn w s) := by
  unfold execFuseDarn
  apply mntCmd_pending
  intro a b
  (try simp only [])
  (repeat' split) <;> simp

@[simp] theorem flashRecord_pending (s : State) (p : Nat) :
    (flashRecord s p).pending = s.pending := by
  simp [flashRecord]

@[simp] theorem execFlashRecord_pending (p : Panel) (s : State) :
    Kept State.pending s (execFlashRecord p s) := by
  simp [execFlashRecord]

end Sys2Proof.Machine
end

