-- ==== Sys2Proof/Laws/QueueRegisters.lean ====
section
/-! SUPPORT. No operation of Machine/Registers.lean touches the queue of commands. -/
namespace Sys2Proof.Machine

@[simp] theorem readClears_pending (s : State) (mid : Nat) (page : Nat) (off : Nat) :
    (readClears s mid page off).pending = s.pending := by
  simp [readClears]

@[simp] theorem regRead_pending (s : State) (mid : Nat) (page : Nat) (off : Nat) :
    (regRead s mid page off).pending = s.pending := by
  simp [regRead]

@[simp] theorem writeHdr_pending (s : State) (page : Nat) (off : Nat) (v : Word) (own : Bool) (mantle : Bool) :
    (writeHdr s page off v own mantle).pending = s.pending := by
  unfold writeHdr; (repeat' split) <;> simp

@[simp] theorem writeCore_pending (s : State) (c : Nat) (page : Nat) (off : Nat) (v : Word) (own : Bool) :
    (writeCore s c page off v own).pending = s.pending := by
  simp [writeCore]

@[simp] theorem writeCtx_pending (s : State) (c : Nat) (x : Nat) (page : Nat) (off : Nat) (v : Word) (own : Bool) :
    (writeCtx s c x page off v own).pending = s.pending := by
  simp [writeCtx]

@[simp] theorem btnMaskWrite_pending (s : State) (page : Nat) (v : Word) (own : Bool) :
    (btnMaskWrite s page v own).pending = s.pending := by
  simp [btnMaskWrite]

@[simp] theorem writeBind_pending (s : State) (b : Nat) (page : Nat) (off : Nat) (v : Word) (own : Bool) (mantle : Bool) :
    (writeBind s b page off v own mantle).pending = s.pending := by
  simp [writeBind]

@[simp] theorem writeHbm_pending (s : State) (st : Nat) (page : Nat) (off : Nat) (v : Word) (own : Bool) (mantle : Bool) :
    (writeHbm s st page off v own mantle).pending = s.pending := by
  simp [writeHbm]

@[simp] theorem writeLlc_pending (s : State) (p : Nat) (page : Nat) (off : Nat) (v : Word) (own : Bool) :
    (writeLlc s p page off v own).pending = s.pending := by
  simp [writeLlc]

@[simp] theorem writeLink_pending (s : State) (p : Nat) (page : Nat) (off : Nat) (v : Word) (own : Bool) :
    (writeLink s p page off v own).pending = s.pending := by
  simp [writeLink]

@[simp] theorem writeGroup_pending (s : State) (k : Nat) (page : Nat) (off : Nat) (v : Word) (own : Bool) :
    (writeGroup s k page off v own).pending = s.pending := by
  simp [writeGroup]

@[simp] theorem writePower_pending (s : State) (p : Nat) (page : Nat) (off : Nat) (v : Word) (own : Bool) (mantle : Bool) :
    (writePower s p page off v own mantle).pending = s.pending := by
  simp [writePower]

@[simp] theorem writeBlock_pending (s : State) (k : PageKind) (mid : Nat) (page : Nat) (off : Nat) (v : Word) (own : Bool) (mantle : Bool) :
    (writeBlock s k mid page off v own mantle).pending = s.pending := by
  unfold writeBlock; (repeat' split) <;> simp

@[simp] theorem writeReg_pending (s : State) (mid : Nat) (page : Nat) (off : Nat) (v : Word) :
    (writeReg s mid page off v).pending = s.pending := by
  unfold writeReg; (repeat' split) <;> simp

@[simp] theorem regWrite_pending (s : State) (mid : Nat) (page : Nat) (off : Nat) (v : Word) :
    (regWrite s mid page off v).pending = s.pending := by
  simp [regWrite]

@[simp] theorem readWord_pending (s : State) (mid : Nat) (a : Nat) :
    (readWord s mid a).pending = s.pending := by
  unfold readWord; (repeat' split) <;> simp

@[simp] theorem writeWord_pending (s : State) (mid : Nat) (a : Nat) (v : Word) :
    (writeWord s mid a v).pending = s.pending := by
  unfold writeWord; (repeat' split) <;> simp

@[simp] theorem execReadClear_pending (mid : Mid) (addr : Word) (s : State) :
    Kept State.pending s (execReadClear mid addr s) := by
  unfold execReadClear; (repeat' split) <;> simp

@[simp] theorem execRegisterWrite_pending (mid : Mid) (addr : Word) (value : Word) (s : State) :
    Kept State.pending s (execRegisterWrite mid addr value s) := by
  unfold execRegisterWrite; (repeat' split) <;> simp

@[simp] theorem execAccountingUe_pending (page : Nat) (addr : Word) (s : State) :
    Kept State.pending s (execAccountingUe page addr s) := by
  simp [execAccountingUe]

@[simp] theorem storeLog_pending (s : State) (c : Nat) (x : Nat) (a : Nat) :
    (storeLog s c x a).pending = s.pending := by
  simp [storeLog]

@[simp] theorem scalarEnd_pending (s : State) (c : Nat) (x : Nat) (sd : Option Nat) :
    (scalarEnd s c x sd).pending = s.pending := by
  unfold scalarEnd; (repeat' split) <;> simp

@[simp] theorem scalarResponse_pending (s : State) (c : Nat) (x : Nat) :
    (scalarResponse s c x).pending = s.pending := by
  unfold scalarResponse; (repeat' split) <;> simp

@[simp] theorem execScalarAccessResponse_pending (c : Core) (x : CtxId) (s : State) :
    Kept State.pending s (execScalarAccessResponse c x s) := by
  simp [execScalarAccessResponse]

end Sys2Proof.Machine
end

