-- ==== Sys2Proof/Laws/QueueIngress.lean ====
section
/-! SUPPORT. No operation of Machine/Ingress.lean touches the queue of commands. -/
namespace Sys2Proof.Machine

@[simp] theorem frameBusErr_pending (s : State) (e : Nat) :
    (frameBusErr s e).pending = s.pending := by
  unfold frameBusErr; (repeat' split) <;> simp

@[simp] theorem frameWords_pending (z0 : Nat) (z1 : State) (z2 : Nat) (z3 : Nat) (z4 : Nat) (z5 : List Byte) :
    (frameWords z0 z1 z2 z3 z4 z5).pending = z1.pending := by
  induction z0 generalizing z1 z2 z3 z4 z5 with
    | zero => simp [frameWords]
    | succ n ih => simp only [frameWords]; (repeat' split) <;> simp [ih]

@[simp] theorem frameWrite_pending (s : State) (e : Nat) (port : Nat) (f : WFrame) :
    (frameWrite s e port f).pending = s.pending := by
  simp [frameWrite]

@[simp] theorem markHanded_pending (s : State) (src : RxStream) (seq : Nat) :
    (markHanded s src seq).pending = s.pending := by
  unfold markHanded; (repeat' split) <;> simp

@[simp] theorem frameStart_pending (s : State) (src : RxStream) :
    (frameStart s src).pending = s.pending := by
  unfold frameStart; (repeat' split) <;> simp

@[simp] theorem execFrameWritesStart_pending (src : RxStream) (s : State) :
    Kept State.pending s (execFrameWritesStart src s) := by
  simp [execFrameWritesStart]

end Sys2Proof.Machine
end

