-- ==== Sys2Proof/Laws/QueueCtlPort.lean ====
section
/-! SUPPORT. No operation of Machine/CtlPort.lean touches the queue of commands. -/
namespace Sys2Proof.Machine

@[simp] theorem setCpStream_pending (s : State) (c : Nat) (v : CpStream) :
    (setCpStream s c v).pending = s.pending := by
  simp [setCpStream]

@[simp] theorem cpEmit_pending (s : State) (f : CpFrame) :
    (cpEmit s f).pending = s.pending := by
  simp [cpEmit]

@[simp] theorem cpSend_pending (s : State) (c : Nat) (opc : Nat) (aux : Nat) (addr : Nat) (payload : List Byte) :
    (cpSend s c opc aux addr payload).pending = s.pending := by
  simp [cpSend]

@[simp] theorem cpSendAck_pending (s : State) (c : Nat) :
    (cpSendAck s c).pending = s.pending := by
  simp [cpSendAck]

@[simp] theorem cpResend_pending (s : State) (c : Nat) :
    (cpResend s c).pending = s.pending := by
  simp [cpResend]

@[simp] theorem cpAcked_pending (s : State) (f : CpFrame) :
    (cpAcked s f).pending = s.pending := by
  simp [cpAcked]

@[simp] theorem cpAckIn_pending (s : State) (c : Nat) (n : Nat) :
    (cpAckIn s c n).pending = s.pending := by
  simp [cpAckIn]

@[simp] theorem cpReceive_pending (s : State) (c : Nat) (f : CpFrame) (crcOk : Bool) (act : State → State) (hact : ∀ t, (act t).pending = t.pending) :
    (cpReceive s c f crcOk act).pending = s.pending := by
  simp only [cpReceive]; (repeat' split) <;> simp_all

@[simp] theorem cpWords_pending (z0 : Nat) (z1 : State) (z2 : Nat) (z3 : List Byte) :
    (cpWords z0 z1 z2 z3).pending = z1.pending := by
  induction z0 generalizing z1 z2 z3 with
    | zero => simp [cpWords]
    | succ n ih => simp only [cpWords]; (repeat' split) <;> simp [ih]

@[simp] theorem execCpPocketWrite_pending (f : CpFrame) (crcOk : Bool) (s : State) :
    Kept State.pending s (execCpPocketWrite f crcOk s) := by
  simp [execCpPocketWrite]

@[simp] theorem cpStage_pending (s : State) (off : Nat) (b : List Byte) :
    (cpStage s off b).pending = s.pending := by
  simp [cpStage]

@[simp] theorem execCpImageWrite_pending (f : CpFrame) (crcOk : Bool) (s : State) :
    Kept State.pending s (execCpImageWrite f crcOk s) := by
  simp [execCpImageWrite]

@[simp] theorem cpRegs_pending (z0 : Nat) (z1 : State) (z2 : Nat) :
    (cpRegs z0 z1 z2).1.pending = z1.pending := by
  induction z0 generalizing z1 z2 with
    | zero => simp [cpRegs]
    | succ n ih => simp only [cpRegs]; (repeat' split) <;> simp [ih]

@[simp] theorem cpRead_pending (s : State) (a : Nat) (n : Nat) :
    (cpRead s a n).1.pending = s.pending := by
  unfold cpRead; (repeat' split) <;> simp

@[simp] theorem cpAnswer_pending (s : State) (a : Nat) (n : Nat) :
    (cpAnswer s a n).pending = s.pending := by
  simp only [cpAnswer]; (repeat' split) <;> simp

@[simp] theorem execCpTelemetryRead_pending (f : CpFrame) (crcOk : Bool) (s : State) :
    Kept State.pending s (execCpTelemetryRead f crcOk s) := by
  simp [execCpTelemetryRead]

@[simp] theorem cpDeliverFrame_pending (s : State) (k : Nat) :
    (cpDeliverFrame s k).pending = s.pending := by
  simp [cpDeliverFrame]

@[simp] theorem cpDeliver_pending (s : State) (k : Nat) :
    (cpDeliver s k).pending = s.pending := by
  unfold cpDeliver; (repeat' split) <;> simp

@[simp] theorem execCpDeliver_pending (k : Nat) (s : State) :
    Kept State.pending s (execCpDeliver k s) := by
  simp [execCpDeliver]

@[simp] theorem cpReport_pending (s : State) :
    (cpReport s).pending = s.pending := by
  simp [cpReport]

@[simp] theorem execCpReport_pending (s : State) :
    Kept State.pending s (execCpReport s) := by
  simp [execCpReport]

@[simp] theorem execCpAckRx_pending (f : CpFrame) (crcOk : Bool) (s : State) :
    Kept State.pending s (execCpAckRx f crcOk s) := by
  simp [execCpAckRx]

@[simp] theorem execCpRetxTimeout_pending (cls : Fin 3) (s : State) :
    Kept State.pending s (execCpRetxTimeout cls s) := by
  simp [execCpRetxTimeout]

@[simp] theorem execCpAckDelay_pending (cls : Fin 3) (s : State) :
    Kept State.pending s (execCpAckDelay cls s) := by
  simp [execCpAckDelay]

@[simp] theorem cpRestart_pending (s : State) :
    (cpRestart s).pending = s.pending := by
  simp [cpRestart]

@[simp] theorem cpContinue_pending (s : State) (f : CpFrame) :
    (cpContinue s f).pending = s.pending := by
  simp [cpContinue]

@[simp] theorem cpHelloIn_pending (s : State) (f : CpFrame) :
    (cpHelloIn s f).pending = s.pending := by
  simp [cpHelloIn]

@[simp] theorem execCpHelloRx_pending (f : CpFrame) (crcOk : Bool) (s : State) :
    Kept State.pending s (execCpHelloRx f crcOk s) := by
  simp [execCpHelloRx]

@[simp] theorem execCpLinkDrop_pending (s : State) :
    Kept State.pending s (execCpLinkDrop s) := by
  simp [execCpLinkDrop]

end Sys2Proof.Machine
end

