-- ==== Sys2Proof/Laws/QueueService.lean ====
section
/-! SUPPORT. No operation of Machine/Service.lean touches the queue of commands. -/
namespace Sys2Proof.Machine

@[simp] theorem svcTake_pending (s : State) :
    (svcTake s).pending = s.pending := by
  simp [svcTake]

@[simp] theorem svcCmd_pending (op : Nat) (s : State) (f : State → List Word → State × Option Nat) (hf : ∀ a0 a1, (f a0 a1).1.pending = a0.pending) :
    Kept State.pending s (svcCmd op s f) := by
  simp only [svcCmd, kept_next]
  split
  · rfl
  · (try simp only [])
    split <;> simp [hf]

@[simp] theorem svcWrite_pending (s : State) (a : Nat) (v : Word) :
    (svcWrite s a v).pending = s.pending := by
  simp [svcWrite]

@[simp] theorem imageLoad_pending (s : State) (off : Nat) :
    (imageLoad s off).1.pending = s.pending := by
  simp only [imageLoad]; (repeat' split) <;> simp

@[simp] theorem execImageLoad_pending (s : State) :
    Kept State.pending s (execImageLoad s) := by
  simp [execImageLoad]

@[simp] theorem execRankAssign_pending (s : State) :
    Kept State.pending s (execRankAssign s) := by
  simp [execRankAssign]

@[simp] theorem applySection_pending (s : State) (x : Section) :
    (applySection s x).pending = s.pending := by
  simp [applySection]

@[simp] theorem jobLoad_pending (s : State) :
    (jobLoad s).pending = s.pending := by
  simp [jobLoad]

@[simp] theorem execJobLoad_pending (s : State) :
    Kept State.pending s (execJobLoad s) := by
  unfold execJobLoad
  split
  · rfl
  · apply svcCmd_pending
    intro a b
    split <;> simp

@[simp] theorem jobStart_pending (s : State) :
    (jobStart s).pending = s.pending := by
  simp [jobStart]

@[simp] theorem execJobStart_pending (s : State) :
    Kept State.pending s (execJobStart s) := by
  unfold execJobStart
  apply svcCmd_pending
  intro a b
  (try simp only [])
  (repeat' split) <;> simp

@[simp] theorem jobStop_pending (s : State) :
    (jobStop s).pending = s.pending := by
  simp [jobStop]

@[simp] theorem execJobStop_pending (s : State) :
    Kept State.pending s (execJobStop s) := by
  simp [execJobStop]

@[simp] theorem execRecv_pending (s : State) :
    Kept State.pending s (execRecv s) := by
  unfold execRecv
  apply svcCmd_pending
  intro a b
  (try simp only [])
  (repeat' split) <;> simp

@[simp] theorem execRedraw_pending (s : State) :
    Kept State.pending s (execRedraw s) := by
  unfold execRedraw
  apply svcCmd_pending
  intro a b
  (try simp only [])
  (repeat' split) <;> simp

@[simp] theorem execPowerCmd_pending (s : State) :
    Kept State.pending s (execPowerCmd s) := by
  unfold execPowerCmd
  apply svcCmd_pending
  intro a b
  (try simp only [])
  (repeat' split) <;> simp

@[simp] theorem execTelemetryCfg_pending (s : State) :
    Kept State.pending s (execTelemetryCfg s) := by
  simp [execTelemetryCfg]

@[simp] theorem execSleepInstruction_pending (p : Panel) (s : State) :
    Kept State.pending s (execSleepInstruction p s) := by
  simp [execSleepInstruction]

end Sys2Proof.Machine
end

