-- ==== Sys2Proof/Laws/QueueFirmware.lean ====
section
/-! SUPPORT. No operation of Machine/Firmware.lean touches the queue of commands. -/
namespace Sys2Proof.Machine

@[simp] theorem failAct_pending (s : State) (code : Nat) :
    (failAct s code).pending = s.pending := by
  simp [failAct]

@[simp] theorem stopAct_pending (s : State) (code : Nat) :
    (stopAct s code).pending = s.pending := by
  simp [stopAct]

@[simp] theorem telePut_pending (z0 : State) (z1 : Nat) (z2 : Nat) (z3 : Nat) (z4 : List Byte) :
    (telePut z0 z1 z2 z3 z4).pending = z0.pending := by
  induction z4 generalizing z0 z1 z2 z3 with
    | nil => simp [telePut]
    | cons n l ih => simp only [telePut]; (repeat' split) <;> simp [ih]

@[simp] theorem sendReport_pending (s : State) :
    (sendReport s).pending = s.pending := by
  unfold sendReport; (repeat' split) <;> simp

@[simp] theorem periodReport_pending (s : State) :
    (periodReport s).pending = s.pending := by
  simp [periodReport]

@[simp] theorem svcDuty_pending (s : State) :
    (svcDuty s).pending = s.pending := by
  simp only [svcDuty]; (repeat' split) <;> simp

end Sys2Proof.Machine
end

