-- ==== Sys2Proof/Laws/QueueHeader.lean ====
section
/-! SUPPORT. No operation of Machine/Header.lean touches the queue of commands. -/
namespace Sys2Proof.Machine

@[simp] theorem smbAnswer_pending (s : State) (b : Option (List Byte)) :
    (smbAnswer s b).pending = s.pending := by
  simp [smbAnswer]

@[simp] theorem execSmbStatus_pending (s : State) :
    Kept State.pending s (execSmbStatus s) := by
  simp [execSmbStatus]

@[simp] theorem execRegAddr_pending (addr : Word) (s : State) :
    Kept State.pending s (execRegAddr addr s) := by
  simp [execRegAddr]

@[simp] theorem smbRegRead_pending (s : State) :
    (smbRegRead s).pending = s.pending := by
  unfold smbRegRead; (repeat' split) <;> simp

@[simp] theorem execRegRead_pending (s : State) :
    Kept State.pending s (execRegRead s) := by
  simp [execRegRead]

@[simp] theorem execPowerLimit_pending (watts : BitVec 16) (s : State) :
    Kept State.pending s (execPowerLimit watts s) := by
  simp [execPowerLimit]

@[simp] theorem imgCmd_pending (s : State) (f : State → State) (hf : ∀ t, (f t).pending = t.pending) :
    Kept State.pending s (imgCmd s f) := by
  simp only [imgCmd, kept_next]
  (repeat' split) <;> simp [hf]

@[simp] theorem execImgOffset_pending (off : BitVec 32) (s : State) :
    Kept State.pending s (execImgOffset off s) := by
  simp [execImgOffset]

@[simp] theorem execImgData_pending (bytes : List Byte) (s : State) :
    Kept State.pending s (execImgData bytes s) := by
  simp [execImgData]

@[simp] theorem imgCommit_pending (s : State) :
    (imgCommit s).pending = s.pending := by
  unfold imgCommit; (repeat' split) <;> simp

@[simp] theorem execImgCommit_pending (s : State) :
    Kept State.pending s (execImgCommit s) := by
  simp [execImgCommit]

@[simp] theorem tapSelect_pending (s : State) (n : Nat) (v : Word) :
    (tapSelect s n v).pending = s.pending := by
  simp [tapSelect]

@[simp] theorem execIdcode_pending (s : State) :
    Kept State.pending s (execIdcode s) := by
  simp [execIdcode]

@[simp] theorem execBypass_pending (s : State) :
    Kept State.pending s (execBypass s) := by
  simp [execBypass]

@[simp] theorem boundary_pending (s : State) (n : Nat) (cells : List Bool) :
    (boundary s n cells).pending = s.pending := by
  simp [boundary]

@[simp] theorem execSamplePreload_pending (pins : List Bool) (s : State) :
    Kept State.pending s (execSamplePreload pins s) := by
  simp [execSamplePreload]

@[simp] theorem execExtest_pending (cells : List Bool) (s : State) :
    Kept State.pending s (execExtest cells s) := by
  simp [execExtest]

@[simp] theorem dbgAccess_pending (s : State) (write : Bool) (a : Nat) (v : Word) :
    (dbgAccess s write a v).pending = s.pending := by
  simp only [dbgAccess]; (repeat' split) <;> simp

@[simp] theorem execDbgAccess_pending (write : Bool) (addr : Word) (value : Word) (s : State) :
    Kept State.pending s (execDbgAccess write addr value s) := by
  simp [execDbgAccess]

end Sys2Proof.Machine
end

