-- ==== Sys2Proof/Laws/QueueTick.lean ====
section
/-! SUPPORT. No operation of Machine/Tick.lean touches the queue of commands. -/
namespace Sys2Proof.Machine

@[simp] theorem tickCore_pending (s : State) (c : Nat) (n : Nat) :
    (tickCore s c n).pending = s.pending := by
  simp only [tickCore]; (repeat' split) <;> simp

@[simp] theorem tickHem_pending (s : State) (h : Nat) :
    (tickHem s h).pending = s.pending := by
  simp [tickHem]

@[simp] theorem strike_pending (s : State) (n : Nat) :
    (strike s n).pending = s.pending := by
  simp only [strike]; (repeat' split) <;> simp

@[simp] theorem idle_pending (s : State) :
    (idle s).pending = s.pending := by
  simp [idle]

end Sys2Proof.Machine
end

