-- ==== Sys2Proof/Laws/Records.lean ====
section
/-! SUPPORT. A record that acts: the gate of its turn, the state in which it takes effect, and what completing it at once leaves alone. -/
namespace Sys2Proof.Machine

variable {s : State} {c x : Nat} {r : Rec}

/-- A record that acts passes the gate of its own row. -/
theorem gate_of_acts (h : Acts s c x r) (row : Nat → Bool) (hr : row (recOp r) = true) : takeGate s c x row = .act r := by
  unfold takeGate
  extract_lets k pc free r'
  rw [if_neg (by simp [h.runs, h.free, h.turn])]
  have hpc : offInData pc = true := h.place
  have hin : csRetired s c (csBase c + pc) = false := h.inUse
  have hg : (wordsOf (csBase c + pc) 32).any (isBad s.mem) = false := h.good
  have hrr : r' = r := h.here
  have hf : free = true ∨ (rdB s (kCore c R_CC_CTL) 0 = false ∧ k.haltNext = false) := h.goes
  have hb : free = true ∨ k.bpSkip = true ∨ tagHit s c x r = false := h.noBreak
  clear_value free k pc r'
  subst hrr
  rw [if_neg (by rcases hf with hf | hf <;> simp [hf]), if_neg (by simp [hpc]), if_neg (by simp [hin]), if_neg (by simp [hg]), if_neg (by simp [hr]),
    if_neg (by rcases hb with hb | hb | hb <;> simp [hb]), if_neg (by simp [h.legal]), if_neg (by simpa using h.acts)]

/-- The state in which a record that acts takes effect. -/
def acting (s : State) (c x : Nat) (r : Rec) : State := modCtx (took s c x) c x (fun k => { k with cur := r })

theorem execRec_of_acts (h : Acts s c x r) (f : State → Rec → State) : execRec s c x (recOp r) f = f (acting s c x r) r := by
  unfold execRec
  rw [gate_of_acts h _ (by simp)]
  rfl

theorem coreOf_setCore (s : State) (c d : Nat) (v : CoreSt) : coreOf (setCore s c v) d = if d = c then v else coreOf s d := tabGet_tabSet _ _ _ _
theorem ctxOf_setCtx_self (s : State) (c x : Nat) (v : Ctx) : ctxOf (setCtx s c x v) c x = v := tabGet_tabSet_self _ _ _
theorem coreOf_congr {s t : State} (h : t.cores = s.cores) (c : Nat) : coreOf t c = coreOf s c := by rw [coreOf, coreOf, h]
theorem ctxOf_congr {s t : State} (h : t.ctxs = s.ctxs) (c x : Nat) : ctxOf t c x = ctxOf s c x := by rw [ctxOf, ctxOf, h]

theorem plain_kCore {c off : Nat} (hc : c < 256) (h : 0x100 ≤ off) (ho : off < 4096) : plainKey (kCore c off) :=
  plain_block (by unfold pgCore; omega) (by unfold pgCore; omega) ho h
theorem plain_kCtx {c x off : Nat} (hc : c < 32) (hx : x < 8) (h : 0x100 ≤ off) (ho : off < 4096) : plainKey (kCtx c x off) :=
  plain_block (by unfold pgCtx; omega) (by unfold pgCtx; omega) ho h


/-! ## The fetch -/

theorem FetchedFrom.refl (s : State) (c : Nat) : FetchedFrom s s c := ⟨rfl, rfl, fun _ _ _ => rfl⟩

theorem FetchedFrom.trans {s t u : State} {c : Nat} (h : FetchedFrom s t c) (h' : FetchedFrom t u c) : FetchedFrom s u c := by
  refine ⟨?_, ?_, fun k hp hk => (h'.regs k hp hk).trans (h.regs k hp hk)⟩
  · have e := congrArg (fun z : State => { z with regs := s.regs, wakes := s.wakes, asleep := s.asleep, banks := s.banks, mem := s.mem }) h'.rest
    exact Eq.trans e h.rest
  · have e := congrArg (fun z : MemSt => { z with weak := s.mem.weak }) h'.marks
    exact Eq.trans e h.marks

theorem fetched_csFix (s : State) {c : Nat} (hc : c < 256) (w : Nat) : FetchedFrom s (csFix s c w) c := by
  have pE := plain_kCore (c := c) (off := R_CS_CE_CNT) hc (by decide) (by decide)
  refine ⟨?_, ?_, fun k hp hk => ?_⟩
  · have h := bump_apart (f := fun t : State => { t with regs := s.regs, wakes := s.wakes, asleep := s.asleep, banks := s.banks, mem := s.mem })
      ⟨fun _ _ => rfl, fun _ _ => rfl, fun _ _ => rfl⟩ s (pgCore c) R_CS_CE_CNT
    exact h
  · rfl
  · have hk' : k ≠ kCore c R_CS_CE_CNT := by simpa using hk
    exact rd_bump s _ _ hp hk'

theorem isBad_csFix (s : State) (c w v : Nat) : isBad (csFix s c w).mem v = isBad s.mem v := rfl

theorem fetched_csCheck {c : Nat} (hc : c < 256) (feeds : Bool) (ws : List Nat) (s : State) (h : ws.any (isBad s.mem) = false) :
    FetchedFrom s (ws.foldl (fun s w => csWord s c w feeds) s) c := by
  induction ws generalizing s with
  | nil => exact .refl _ _
  | cons w l ih =>
    simp only [List.any_cons, Bool.or_eq_false_iff] at h
    rw [List.foldl_cons]
    have e : csWord s c w feeds = if isWeak s.mem w then csFix s c w else s := by
      unfold csWord
      rw [if_neg (by simp [h.1])]
    rw [e]
    split
    · refine (fetched_csFix s hc w).trans (ih _ ?_)
      simpa [isBad_csFix] using h.2
    · exact ih _ h.2

theorem fetched_askBanks {t : State} {c : Nat} (h : FetchedFrom s t c) (cls per : Nat) (rs : List (Nat × Nat)) : FetchedFrom s (askBanks t cls per rs) c := by
  unfold askBanks
  extract_lets ls
  exact ⟨h.rest, h.marks, h.regs⟩

/-- What sees neither registers, wakes, sleepers, banks nor memory is as before. -/
theorem FetchedFrom.keeps {t : State} {c : Nat} (h : FetchedFrom s t c) {α : Type} (f : State → α)
    (hf : ∀ z rg wk al bk mm, f { z with regs := rg, wakes := wk, asleep := al, banks := bk, mem := mm } = f z) : f t = f s :=
  (hf t _ _ _ _ _).symm.trans (congrArg f h.rest)

theorem fetched_fetchRec {c x : Nat} (hc : c < 256) (h : (wordsOf (csBase c + ctxPc s c x) 32).any (isBad s.mem) = false) :
    FetchedFrom s (fetchRec s c x) c := by
  unfold fetchRec
  extract_lets a
  split
  · have hf : FetchedFrom s (csCheck s c a 32 false) c := fetched_csCheck hc false (wordsOf a 32) s h
    generalize csCheck s c a 32 false = u at hf
    exact fetched_askBanks hf _ _ _
  · exact .refl _ _

/-! ## The state in which a record acts -/

theorem ctxOf_acting (s : State) (c x : Nat) (r : Rec) : ctxOf (acting s c x r) c x = ctxTook (ctxOf (fetchRec s c x) c x) r := by
  unfold acting took
  simp only [modCtx, ctxOf_setCtx_self]
  rfl
theorem coreOf_acting (s : State) (c x i : Nat) (r : Rec) :
    coreOf (acting s c x r) i = if i = c then { coreOf (fetchRec s c x) c with rr := x, took := (coreOf (fetchRec s c x) c).took + 1 } else coreOf (fetchRec s c x) i := by
  refine (coreOf_congr (s := modCore (fetchRec s c x) c (fun k => { k with rr := x, took := k.took + 1 })) rfl i).trans ?_
  rw [modCore, coreOf_setCore]
theorem ctxs_acting (s : State) (c x i : Nat) (r : Rec) (h : i ≠ 8 * c + x) :
    tabGet (fun _ => Ctx.rst) (acting s c x r).ctxs i = tabGet (fun _ => Ctx.rst) (fetchRec s c x).ctxs i :=
  (tabGet_tabSet_ne _ _ h).trans (tabGet_tabSet_ne _ _ h)
theorem rest_acting (s : State) (c x : Nat) (r : Rec) :
    { acting s c x r with ctxs := (fetchRec s c x).ctxs, cores := (fetchRec s c x).cores } = fetchRec s c x := by
  unfold acting took modCtx setCtx modCore setCore
  generalize fetchRec s c x = u
  rfl
@[simp] theorem rd_acting (s : State) (c x k : Nat) (r : Rec) : rd (acting s c x r) k = rd (fetchRec s c x) k := by
  unfold acting took modCtx setCtx modCore setCore
  generalize fetchRec s c x = u
  rfl

theorem pc_ne_core (hc : c < 32) {off : Nat} (h : off < 4096) : kCtx c x R_CTX_PC ≠ kCore c off := by
  unfold kCtx kCore reg pgCtx pgCore R_CTX_PC
  omega

theorem exec_ne_ce (c : Nat) : kCore c R_CC_EXEC_CNT ≠ kCore c R_CS_CE_CNT := by
  unfold kCore reg R_CC_EXEC_CNT R_CS_CE_CNT
  omega

/-- The place of the record after one at a multiple of 32. -/
theorem pc_next (s : State) (c x : Nat) : (ctxPc s c x + 32) % 2 ^ 26 / 32 * 32 = (ctxPc s c x + 32) % 2 ^ 26 := by
  unfold ctxPc
  omega

/-- What a record that completes at once does after it has written the registers `keys` (in `u`). -/
theorem executed_of (hc : c < 32) (hx : x < 8) {u : State} {keys : List Nat} (hg : (wordsOf (csBase c + ctxPc s c x) 32).any (isBad s.mem) = false)
    (hu : { u with regs := (acting s c x r).regs } = acting s c x r) (hr : ∀ k, k ∉ keys → rd u k = rd (acting s c x r) k)
    (hk : kCtx c x R_CTX_PC ∉ keys ∧ kCore c R_CC_EXEC_CNT ∉ keys) :
    Executed s (execDone u c x) c x (ctxTook (ctxOf s c x) r) keys := by
  have pPc := plain_kCtx (off := R_CTX_PC) hc hx (by decide) (by decide)
  have pCn := plain_kCore (c := c) (off := R_CC_EXEC_CNT) (by omega) (by decide) (by decide)
  have hne := pc_ne_core (off := R_CC_EXEC_CNT) (c := c) (x := x) hc (by decide)
  have hneE := pc_ne_core (off := R_CS_CE_CNT) (c := c) (x := x) hc (by decide)
  have hneX := exec_ne_ce c
  have hF := fetched_fetchRec (s := s) (x := x) (c := c) (by omega) hg
  have fctx : (fetchRec s c x).ctxs = s.ctxs := hF.keeps State.ctxs (fun _ _ _ _ _ _ => rfl)
  have fcor : (fetchRec s c x).cores = s.cores := hF.keeps State.cores (fun _ _ _ _ _ _ => rfl)
  have hrF : ∀ k, plainKey k → k ≠ kCore c R_CS_CE_CNT → rd (fetchRec s c x) k = rd s k := fun k hp h => hF.regs k hp (by simpa using h)
  have hupc : ctxPc u c x = ctxPc s c x := by rw [ctxPc, ctxPc, hr _ hk.1, rd_acting, hrF _ pPc hneE]
  have hf : ∀ {α} (f : State → α), (∀ s r, f { s with regs := r } = f s) → f u = f (acting s c x r) := fun f h => by rw [← hu]; exact (h _ _).symm
  have hA : ∀ {α} (f : State → α), Apart f → f (execDone u c x) = f (acting s c x r) := by
    intro α f h
    unfold execDone setPc
    rw [bump_apart h, wr_apart h, hf f h.regs]
  refine ⟨?_, ?_, ?_, ?_, ?_, ?_, ?_, ?_, ?_⟩
  · unfold execDone
    rw [rd_bump _ _ _ pPc hne, setPc, rd_wr_self, hupc, pc_next]
  · unfold execDone
    rw [rd_bump_self _ _ _ pCn, setPc, rd_wr_ne _ _ (Ne.symm hne), hr _ hk.2, rd_acting, hrF _ pCn hneX]
  · rw [ctxOf_congr (s := acting s c x r) (hA State.ctxs apart_ctxs), ctxOf_acting, ctxOf_congr fctx]
  · rw [coreOf_congr (s := acting s c x r) (hA State.cores apart_cores), coreOf_acting, if_pos rfl, coreOf_congr fcor]
  · intro i hi
    rw [hA State.ctxs apart_ctxs, ctxs_acting _ _ _ _ _ hi, fctx]
  · intro i hi
    rw [coreOf_congr (s := acting s c x r) (hA State.cores apart_cores), coreOf_acting, if_neg hi, coreOf_congr fcor]
  · have e1 := hA (fun t => { t with regs := s.regs, wakes := s.wakes, asleep := s.asleep, ctxs := s.ctxs, cores := s.cores, banks := s.banks, mem := s.mem })
      ⟨fun _ _ => rfl, fun _ _ => rfl, fun _ _ => rfl⟩
    have e2 := congrArg (fun t : State => { t with regs := s.regs, wakes := s.wakes, asleep := s.asleep, ctxs := s.ctxs, cores := s.cores, banks := s.banks,
                                                   mem := s.mem }) (rest_acting s c x r)
    have e3 := congrArg (fun t : State => { t with ctxs := s.ctxs, cores := s.cores }) hF.rest
    exact e1.trans (Eq.trans e2 e3)
  · have e := hA State.mem apart_mem
    rw [e]
    exact hF.marks
  · intro k hp hm
    simp only [List.mem_cons, not_or] at hm
    unfold execDone
    rw [rd_bump _ _ _ hp hm.2.1, setPc, rd_wr_ne _ _ hm.1, hr _ hm.2.2.2, rd_acting, hrF _ hp hm.2.2.1]

end Sys2Proof.Machine
end

