-- ==== Sys2Proof/WellFormed.lean ====
section
/-! DEFINITION. Well-formed commands: operands the module can be given (17_register_pages.md R482; 12_wyist_links.md R318; 16_bringup_service.md
R443; 18_module_hardware.md R500, R503). -/
namespace Sys2Proof

/-- A master ID of Table: Master IDs (R482). -/
def midOk (mid : Mid) : Bool :=
  let n := mid.toNat
  n < 0x46 || (0x48 ≤ n && n < 0x58) || (0x60 ≤ n && n < 0x70) || (0xF0 ≤ n && n < 0xF4)

/-- An access of at least one byte. -/
def opOk : MemOp → Bool
  | .read n => decide (0 < n)
  | .write bytes => bytes != []

/-- A Wyist frame whose header fields fit their widths and whose payload has LEN bytes. -/
def wFrameOk (f : WFrame) : Bool :=
  decide (f.type < 16) && decide (f.cls < 4) && decide (f.len < 2 ^ 10) && decide (f.opc < 4) && decide (f.ver < 16) && decide (f.srcRank < 2 ^ 16) && decide (f.dst < 2 ^ 16)
    && decide (f.seq < 2 ^ 64) && decide (f.xseq < 2 ^ 64) && decide (f.ackSeq < 2 ^ 64) && decide (f.sack < 2 ^ 32)
    && decide (f.credit < 2 ^ 16) && decide (f.repoch < 2 ^ 8) && decide (f.epoch < 2 ^ 8) && decide (f.addr < 2 ^ 64) && decide (f.attr < 2 ^ 64) && f.payload.length == f.len

/-- A control-port frame whose header fields fit their widths and whose payload is padded to a multiple of 8 bytes (R443). -/
def cpFrameOk (f : CpFrame) : Bool :=
  decide (f.cls < 4) && decide (f.type < 16) && decide (f.opc < 256) && decide (f.aux < 2 ^ 16) && decide (f.len ≤ 4096)
    && decide (f.seq < 2 ^ 64) && decide (f.ackSeq < 2 ^ 64) && decide (f.addr < 2 ^ 64)
    && f.payload.length == (f.len + 7) / 8 * 8

/-- A partner entry, a group. -/
def entryOk (e : Nat) : Bool := decide (e < 4096)
def groupOk (g : Nat) : Bool := decide (g < 256)

/-- A received stream and a sent stream that exist. -/
def rxOk : RxStream → Bool
  | .entry e cls => entryOk e && decide (cls < 4)
  | .group g => groupOk g
def txOk : TxStream → Bool
  | .entry e cls => entryOk e && decide (cls < 4)
  | .group g => groupOk g
  | .leg g _ => groupOk g

/-- A Pocket the control port delivers: 1, or 512 + w for word Pocket w from 8 to 15 (R446). -/
def deliverOk (k : Nat) : Bool := k == 1 || (decide (520 ≤ k) && decide (k < 528))

/-- A message that a block sends (11_onchip_fabric.md R293: at most 4 flits; 17_register_pages.md R482). -/
def fabReqOk (r : FabReq) : Bool :=
  decide (r.bytes ≤ 512) && match r.src, r.dst with
    | .button m, _ | _, .button m => midOk m
    | _, _ => true
def fabInOk : FabIn → Bool
  | .send r => fabReqOk r
  | .serve _ _ out => out.all fabReqOk

/-- Is a command well-formed? -/
def Instr.wf : Instr → Bool
  | .accountingUe _ _ => true
  | .readClear mid _ => midOk mid
  | .registerWrite mid _ _ => midOk mid
  | .dlMarginLow _ _ => true
  | .recal mid _ => midOk mid
  | .dlRecalDone _ _ _ => true
  | .hemClockStop _ => true
  | .hemClockRun _ => true
  | .hemClockLoss _ => true
  | .overrun _ => true
  | .resync _ _ => true
  | .resyncReady _ _ => true
  | .engineRecordIssue _ _ => true
  | .opeProduct _ => true
  | .feederRefill _ _ => true
  | .cellGroupFire _ _ => true
  | .drainCopy _ _ => true
  | .drainRow _ _ => true
  | .drainDone _ _ => true
  | .scaledRetry _ => true
  | .accClose _ => true
  | .srKatRun mid _ _ => midOk mid
  | .srKatDone _ _ _ => true
  | .numStepWrite mid _ _ => midOk mid
  | .start mid _ _ => midOk mid
  | .stop mid _ _ => midOk mid
  | .resume mid _ _ => midOk mid
  | .stepCtx mid _ _ => midOk mid
  | .haltAll mid _ => midOk mid
  | .resumeAll mid _ => midOk mid
  | .nop _ _ => true
  | .mark _ _ => true
  | .halt _ _ => true
  | .fence _ _ => true
  | .ctxSeq _ _ => true
  | .scAlu _ _ => true
  | .scLi _ _ => true
  | .scLd _ _ => true
  | .scSt _ _ => true
  | .scalarAccessResponse _ _ => true
  | .aSet _ _ => true
  | .predCmp _ _ => true
  | .predLogic _ _ => true
  | .predFull _ _ => true
  | .predTask _ _ => true
  | .br _ _ => true
  | .loopBegin _ _ => true
  | .loopEnd _ _ => true
  | .loopBreak _ _ => true
  | .refetchDone _ _ => true
  | .taskBegin _ _ => true
  | .taskCommit _ _ => true
  | .taskCommitApply _ _ => true
  | .taskAbort _ _ => true
  | .taskLogWrite _ => true
  | .logFull _ => true
  | .taskDiscard _ _ => true
  | .taskDiscardDone _ _ => true
  | .vecEw _ => true
  | .vecFn _ => true
  | .vecFnBwd _ => true
  | .vecRowRed _ => true
  | .vecColRed _ => true
  | .vecNormStat _ => true
  | .vecNormFwd _ => true
  | .vecNormBwd _ => true
  | .vecSmaxFold _ => true
  | .vecSmaxApply _ => true
  | .vecSmaxD _ => true
  | .vecSmaxBwd _ => true
  | .vecDropout _ => true
  | .vecRand _ => true
  | .vecScatterAdd _ => true
  | .vectorComplete _ => true
  | .strMove _ => true
  | .strLining _ => true
  | .strGather _ => true
  | .strScatter _ => true
  | .strEos _ => true
  | .strEosComplete _ _ => true
  | .streamRequest _ _ => true
  | .tagGrant _ => true
  | .streamRequestDone _ _ => true
  | .fbSetFull mid _ _ => midOk mid
  | .fbSetEmpty mid _ _ => midOk mid
  | .fbParity _ _ => true
  | .watchRegionWrite mid _ _ _ _ => midOk mid
  | .watchVersionReport _ _ _ => true
  | .csFabricAccess mid _ op _ => midOk mid && opOk op
  | .feTake _ _ => true
  | .fePeek _ _ => true
  | .fePut _ _ => true
  | .feSet _ _ => true
  | .feClear _ _ => true
  | .syncBankAccess _ _ _ => true
  | .yokeRegistration _ _ => true
  | .changeNotice _ => true
  | .syncWake _ => true
  | .syncAnswer _ _ => true
  | .barArrive _ _ => true
  | .yokeArrival _ _ => true
  | .releaseArrival _ _ => true
  | .slotEnable mid _ => midOk mid
  | .slotDisable mid _ => midOk mid
  | .pktSend _ _ => true
  | .pktRecv _ _ => true
  | .pktGo _ _ => true
  | .pktTake _ _ => true
  | .pktClear mid _ => midOk mid
  | .lockSet mid => midOk mid
  | .wpGo mid _ => midOk mid
  | .wpTake mid _ => midOk mid
  | .btnRing _ => true
  | .btnWait _ _ => true
  | .hbmAccess _ op _ => opOk op
  | .hbmTrainDone _ _ _ => true
  | .hbm1500Go mid _ _ => midOk mid
  | .hbm1500Done _ _ => true
  | .hbmScrubGranule _ _ _ _ => true
  | .hbmTempReading _ _ _ => true
  | .throttleWindow _ => true
  | .softRepair mid _ _ => midOk mid
  | .softRepairDone _ _ => true
  | .sparingEntry mid _ _ _ => midOk mid
  | .retireWrite mid _ _ _ => midOk mid
  | .llcAccess mid _ op _ => midOk mid && opOk op
  | .llcWayModeWrite mid _ _ => midOk mid
  | .wayChangeDone _ => true
  | .flush mid _ => midOk mid
  | .flushDone _ => true
  | .arbiterGrant _ _ _ _ during => during.all fabInOk
  | .arbCommit mid _ => midOk mid
  | .arbCommitDone _ => true
  | .seamCrcReject _ _ _ _ => true
  | .seamLaneTestEnd _ _ _ _ => true
  | .enable mid _ _ => midOk mid
  | .retrain mid _ => midOk mid
  | .linkTrainDone _ _ => true
  | .linkDown _ _ => true
  | .lldpCapture _ _ => true
  | .linkMacWrite mid _ _ => midOk mid
  | .hello _ _ => true
  | .pfcReceived _ _ _ => true
  | .pfcPauseEnd _ => true
  | .dataFrameRx _ f _ => wFrameOk f
  | .frameWritesStart src => rxOk src
  | .ackFrameRx _ f _ => wFrameOk f
  | .nackFrameRx _ f _ => wFrameOk f
  | .keepaliveRx _ f _ => wFrameOk f
  | .dataFrameTx e f => entryOk e && wFrameOk f
  | .ackDelay src => rxOk src
  | .retxTimeout dst => txOk dst
  | .probeKeepalive e _ => entryOk e
  | .livenessWindow e => entryOk e
  | .groupFrameTx g f => groupOk g && wFrameOk f
  | .load mid _ e => midOk mid && entryOk e
  | .partnerRedraw mid _ e => midOk mid && entryOk e
  | .remove mid _ e => midOk mid && entryOk e
  | .creditAudit e => entryOk e
  | .groupValidWrite mid g _ => midOk mid && groupOk g
  | .selfRankWrite mid _ _ => midOk mid
  | .collCommandTake _ => true
  | .allGather _ => true
  | .reduceScatter _ => true
  | .allReduce _ => true
  | .collFrameRx _ => true
  | .collFold _ _ _ => true
  | .collCommandComplete _ => true
  | .closingPhase => true
  | .close1Merged => true
  | .close2Merged => true
  | .optUpdate _ _ => true
  | .optUpdateDone _ _ => true
  | .optCommit _ => true
  | .stepStart => true
  | .localSlotSealed _ => true
  | .mirrorHeaderWrite => true
  | .snapshot mid => midOk mid
  | .restoreMirror mid => midOk mid
  | .restoreReplica mid => midOk mid
  | .restoreLocal mid => midOk mid
  | .verify mid => midOk mid
  | .abandon mid => midOk mid
  | .adopt mid _ => midOk mid
  | .rollback mid => midOk mid
  | .purge mid => midOk mid
  | .restorePullRequest _ => true
  | .recCommandComplete => true
  | .unfreeze _ => true
  | .unfreezePartner _ => true
  | .portDisable _ => true
  | .portRelease _ => true
  | .logClear _ => true
  | .bindUnlock _ => true
  | .jobArm _ => true
  | .sessionOpen _ => true
  | .keyLoad _ => true
  | .sessionEnd _ => true
  | .sessionScrub _ => true
  | .sessionEndComplete => true
  | .scrubFail => true
  | .keyRotate _ => true
  | .keySweepGranule _ => true
  | .attest _ => true
  | .rngHealthFail => true
  | .fwUpdate _ => true
  | .fwActivate => true
  | .fwStartTimeout => true
  | .fwAbort _ => true
  | .fuseDarn _ => true
  | .standbyPowerOn => true
  | .standbyPowerLoss => true
  | .mainPowerGood => true
  | .cpTrainDone => true
  | .reducedServiceExit => true
  | .inputLow => true
  | .resetNAssert => true
  | .resetNRelease => true
  | .pwrReqOff mid _ => midOk mid
  | .pwrReqRetention mid _ => midOk mid
  | .pwrReqOn mid _ => midOk mid
  | .pwrReqReset mid _ => midOk mid
  | .pwrTransitionDone _ => true
  | .rateLoopTick _ _ => true
  | .thermalReading _ _ => true
  | .powerMeasurement _ _ => true
  | .cpPocketWrite f _ => cpFrameOk f
  | .cpImageWrite f _ => cpFrameOk f
  | .cpTelemetryRead f _ => cpFrameOk f
  | .cpAckRx f _ => cpFrameOk f
  | .cpHelloRx f _ => cpFrameOk f
  | .cpDeliver k => deliverOk k
  | .cpReport => true
  | .cpRetxTimeout _ => true
  | .cpAckDelay _ => true
  | .flashRecord _ => true
  | .imageLoad => true
  | .rankAssign => true
  | .jobLoad => true
  | .jobStart => true
  | .jobStop => true
  | .recv => true
  | .redraw => true
  | .powerCmd => true
  | .telemetryCfg => true
  | .bistReq mid _ _ => midOk mid
  | .bistChunk _ _ => true
  | .bistResult _ => true
  | .darnWrite mid _ _ _ => midOk mid
  | .smbStatus => true
  | .regAddr _ => true
  | .regRead => true
  | .powerLimit _ => true
  | .imgOffset _ => true
  | .imgData bytes => bytes.length == 32
  | .imgCommit => true
  | .dbgAccess _ _ _ => true
  | .idcode => true
  | .bypass => true
  | .samplePreload pins => pins.length == 3
  | .extest cells => cells.length == 3
  | .cpLinkDrop => true
  | .sleepInstruction _ => true
  | .verifyDigestRequest => true

end Sys2Proof
end

