-- ==== Sys2Proof/Tests/Slice0.lean ====
section
/-! SUPPORT. Tests of single commands on small states, and for every statement a state and operands that meet its hypotheses. -/
namespace Sys2Proof.Tests

-- One theorem at a time: tests evaluated side by side each take a thread with a stack of its own.
set_option Elab.async false

open Sys2Proof Sys2Proof.Machine

/-- The module after reset with the listed power domains ON. -/
def onState (ds : List Nat) : State := ds.foldl (fun s d => setState s d 2) State.reset



/-- A tile descriptor: address of the row copy (ORDER 1) or the column copy (ORDER 2), rows, columns, format. -/
def tileD (base rows cols order fmt : Nat) : Desc :=
  BitVec.ofNat 512 ((if order = 1 then base else base * 2 ^ 64) + rows * 2 ^ 256 + cols * 2 ^ 288 + fmt * 2 ^ 384 + order * 2 ^ 388)

/-- Core 0 ON and calibrated, its engines in the state given. -/
def coreS (k : CoreSt) : State := setCore (wrB (onState [0, 44]) (kCore 0 R_DL_STATUS) 0 true) 0 k

/-- A product of two BF16 steps, 8 rows by 4 columns into FP32, with the word's further bits. -/
def prodQ (more : Nat) (fired : Bool) : QEntry :=
  ⟨1, 2, 0x100000, BitVec.ofNat 256 (0x40 + 2 ^ 39 + 2 ^ 47 + 2 ^ 63 + more), [0x8000100040, 0x8000100080, 0, 0x80001000C0, 0, 0], 16, false, true,
   [tileD 0x8000101000 8 16 1 1, tileD 0x8000102000 16 4 2 1, 0, tileD 0x8000103000 8 4 1 0, 0, 0], fired, ⟨0, 0, 0, 0, 0, 0⟩, []⟩

theorem test_wit_step_runs_front : State.reset.pending = [] := rfl

theorem test_wit_exec_leaves_queue : Runs .idcode State.reset (fun t => t.pending = []) := ⟨_, rfl, rfl⟩

theorem test_wit_register_read :
    regionOf 0xF002400148 = .mmio 0x2400 ∧ isMaster 0x40 = true ∧ 0xF002400148 % 4096 % 8 = 0 ∧ pageKind 0x2400 ≠ none
      ∧ cloakDenies (onState [44]) 0x40 false = false ∧ pageOn (onState [44]) 0x2400 = true := by decide

theorem test_wit_register_write :
    let s := onState [0, 44]
    regionOf 0xF002800140 = .mmio 0x2800 ∧ pageKind 0x2800 = some (.seam 0) ∧ fieldsOnly s (.seam 0) (0xF002800140 % 4096) 1 = true ∧ 0x100 ≤ 0xF002800140 % 4096
      ∧ isMaster 0x40 = true ∧ verdict s 0x40 0x2800 0x140 1 = .perform ∧ (rd s (reg (mainPage 0x2800) R_BLK_WR_CNT)).toNat + 1 < maxWord := by decide +kernel

theorem test_wit_violating_write :
    regionOf 0xF002400100 = .mmio 0x2400 ∧ isMaster 0x05 = true ∧ verdict (onState [44]) 0x05 0x2400 0x100 1 = .violation 1 := by decide

theorem test_wit_delay_line : domOn (onState [3]) 3 = true ∧ (15#8).toNat < 16 ∧ rdB (onState [3]) (kCore 3 R_DL_STATUS) 0 = false
    ∧ isMaster 0x40 = true ∧ verdict (onState [3]) 0x40 (pgCore 3) R_DL_CTL 1 = .perform := by decide

theorem test_wit_hem_clock : hemOn (onState [36]) (0 : HemId) = true ∧ (onState [36]).hemStopped.contains 0 = false
    ∧ rdB (onState [36]) (kXing 0) 3 = false ∧ rdB (wrB (onState [36]) (kXing 0) 3 true) (kXing 0) 3 = true
    ∧ rdB (wrB (onState [36]) (kXing 0) 0 false) (kXing 0) 0 = false ∧ ¬(8 ≤ (0 : HemId).val ∧ (0 : HemId).val < 25)
    ∧ hemOn (onState [40]) (8 : HemId) = true ∧ (8 ≤ (8 : HemId).val ∧ (8 : HemId).val < 25)
    ∧ hemOn (onState [48]) (24 : HemId) = true ∧ (8 ≤ (24 : HemId).val ∧ (24 : HemId).val < 25) := by decide

/-- The run of `prodQ` with groups, entries fetched and links as given; array 0 is its own. -/
def prodR (groups fetched : Tab Nat) (links : Tab (List (List (List FVal)))) : OpeRun := ⟨1, 2, 0, 4, groups, fetched, links, .zero, true, [], [0], 1, false⟩
/-- A run of `prodQ` with one entry in each feeder's link. -/
def runS : State :=
  coreS { CoreSt.rst with opeQ := [prodQ 0 true], prods := [prodR [] [(0, 1), (32, 1)] [(0, [[[.zero]]]), (32, [[[.zero]]])]] }
theorem test_wit_product_fires :
    let q := prodQ 0 false
    let s := coreS { CoreSt.rst with opeQ := [q] }
    coreRuns s 0 = true ∧ ((coreOf s 0).prods.map (fun r => r.id)).Nodup ∧ ((coreOf s 0).opeQ.filter (fun q => !q.fired)).head? = some q ∧ q.arrived = true
      ∧ (∀ e ∈ (coreOf s 0).entries, e.id = q.id → e = q) ∧ (∀ r ∈ (coreOf s 0).prods, r.id ≠ q.id)
      ∧ arraysReady s 0 = true ∧ tilesReady s 0 q = true ∧ accNow (coreOf s 0) = none
      ∧ (prodOf q).any (fun p => !p.keep && decide (0 < p.steps) && fedGroups p (enabledPos s 0) != []) = true := by decide +kernel
theorem test_wit_feeder_and_group :
    coreRuns runS 0 = true ∧ ((coreOf runS 0).prods.map (fun r => r.id)).Nodup ∧ (feedsNext runS 0 (.row 0 0)).isSome = true
      ∧ (groupNext runS 0 (0, 0, 0, 0)).any (fun x => arrayMine (enabledPos runS 0) (prodsBefore runS 0 x.1.id) x 0
          && (linkEntry x.1 (.row 0 0) 0).isSome && (linkEntry x.1 (.col 0 0) 0).isSome && groupDone x.1 (0, 0, 0, 0) == 0 && decide (0 + 1 < x.1.steps)
          && (x.2.2.fedArrays (enabledPos runS 0)).all (fun i => x.1.zeroed.contains i)) = true := by decide +kernel

theorem test_wit_drain_copy :
    let s := coreS { CoreSt.rst with opeQ := [prodQ (2 ^ 90) true], prods := [prodR [(0, 2)] [] []] }
    coreRuns s 0 = true ∧ (copyNext s 0 0).isSome = true ∧ latchBusy (coreOf s 0) 0 = false := by decide +kernel
theorem test_wit_drain_row_done_retry :
    let dr : DrainRun := ⟨1, 0, 4, [(0, [0, 1])], [], .zero, true⟩
    let dd : DrainRun := ⟨1, 0, 4, [(0, [])], [], .zero, true⟩
    let de : DrainRun := { dd with ev := { NumEv.zero with ovf := 1 } }
    let t := { prodQ (2 ^ 90) true with task := true }
    let s := coreS { CoreSt.rst with opeQ := [prodQ (2 ^ 90) true], drains := [dr] }
    let d := coreS { CoreSt.rst with opeQ := [prodQ (2 ^ 90) true], drains := [dd] }
    let u := coreS { CoreSt.rst with opeQ := [t], drains := [dd] }
    let e := coreS { CoreSt.rst with opeQ := [prodQ (2 ^ 90 + 2 ^ 95) true], drains := [de] }
    coreRuns s 0 = true ∧ ((coreOf s 0).drains.map (fun d => d.id)).Nodup
      ∧ (coreOf s 0).drains.find? (fun d => d.left.any (fun l => l.1 == 0 && l.2 != [])) = some dr ∧ dr.left.find? (fun l => l.1 == 0) = some (0, 0 :: [1])
      ∧ findEntry s 0 1 = some (prodQ (2 ^ 90) true) ∧ (prodOf (prodQ (2 ^ 90) true)).any (fun p => (p.d 0).isSome && !p.retry && opeDrained p (enabledPos d 0) dd 0) = true
      ∧ logPending s 0 1 = false ∧ (coreOf d 0).drains.find? (fun d => !d.opes.contains 0) = some dd ∧ findEntry d 0 1 = some (prodQ (2 ^ 90) true)
      ∧ (prodQ (2 ^ 90) true).owesShift 56 = false ∧ (coreOf d 0).prods = []
      ∧ findEntry u 0 1 = some t ∧ t.owesShift 56 = true ∧ logPending u 0 1 = false
      ∧ coreRuns e 0 = true ∧ (coreOf e 0).prods = [] ∧ findEntry e 0 1 = some (prodQ (2 ^ 90 + 2 ^ 95) true)
      ∧ ((coreOf e 0).drains.find? (fun d => match findEntry e 0 d.id with
          | some q => bitAt q.word 95
          | none => false)) = some de ∧ logPending e 0 1 = false
      ∧ (prodOf (prodQ (2 ^ 90 + 2 ^ 95) true)).any (fun p => opeDrained p (enabledPos e 0) de 0 && opeDrained p (enabledPos e 0) de 1
          && !p.keep && retryable p de && decide (0 < p.steps) && fedGroups p (enabledPos e 0) != []) = true := by decide +kernel
theorem test_wit_acc_close :
    let s := coreS { CoreSt.rst with accOwner := some 2, accClosing := true }
    domOn s 0 = true ∧ (coreOf s 0).accOwner = some 2 ∧ (coreOf s 0).accClosing = true
      ∧ (∀ q ∈ (coreOf s 0).opeQ, q.fired = true → q.ctx ≠ 2) := by decide +kernel

theorem test_wit_random_sources :
    let s := onState [0, 44]
    isMaster 0x40 = true ∧ verdict s 0x40 (pgCore 0) R_NUM_CTL 0x10000 = .perform ∧ verdict s 0x40 (pgOpt 0) R_NUM_CTL 0x10000 = .perform
      ∧ bitAt 0x10000#64 16 = true ∧ verdict s 0x40 (pgCore 0) R_NUM_STEP 7 = .perform
      ∧ pageOn s (pgCore 0) = true ∧ 9 ∈ (coreOf (setCore s 0 { CoreSt.rst with katRunning := [8, 9] }) 0).katRunning := by decide +kernel

/-- Core 0 running context 0, READY at the first record of the data region, which is `r`. -/
def ctxS (r : Nat) (k : Ctx) : State :=
  let s := coreS CoreSt.rst
  let s := { s with mem := { s.mem with cells := (valBytes 32 r).zipIdx.filterMap (fun e => if e.1 = 0 then none else some (0x8000100000 + e.2, e.1)) } }
  setCtx (wr s (kCtx 0 0 R_CTX_PC) 0x100000) 0 0 k
/-- The premises of `Acts` as one check. -/
def actsB (s : State) (r : Rec) (op : Nat) : Bool :=
  coreRuns s 0 && !frozen s 0 && (turnOf s 0 == some 0) && !rdB s (kCore 0 R_CC_CTL) 0 && !(ctxOf s 0 0).haltNext && offInData (ctxPc s 0 0)
    && !csRetired s 0 (csBase 0 + ctxPc s 0 0) && !(wordsOf (csBase 0 + ctxPc s 0 0) 32).any (isBad s.mem) && (ctxRec s 0 0 == r)
    && !tagHit s 0 0 r && decodeOk r && (predOf s 0 0 (bits r 10 8) != bitAt r 11) && (recOp r == op)
/-- READY. -/
def readyK : Ctx := { Ctx.rst with st := .ready }
theorem acts_of_actsB {s : State} {r : Rec} {op : Nat} (h : actsB s r op = true) : Acts s 0 0 r ∧ recOp r = op := by
  simp only [actsB, Bool.and_eq_true, Bool.not_eq_true', beq_iff_eq, bne_iff_ne] at h
  obtain ⟨⟨⟨⟨⟨⟨⟨⟨⟨⟨⟨⟨h1, h2⟩, h3⟩, h4⟩, h5⟩, h6⟩, h7⟩, h8⟩, h9⟩, h10⟩, h11⟩, h12⟩, h13⟩ := h
  exact ⟨⟨h1, h2, h3, .inr ⟨h4, h5⟩, h6, h7, h8, h9, .inr (.inr h10), h11, h12⟩, h13⟩
theorem test_wit_executed_records :
    actsB (ctxS 0x00 readyK) 0x00 0x00 = true ∧ actsB (ctxS 0x10000000004 readyK) 0x10000000004 0x04 = true
      ∧ actsB (ctxS 0x09 readyK) 0x09 0x09 = true ∧ actsB (ctxS 0x08 readyK) 0x08 0x08 = true ∧ actsB (ctxS 0x0C readyK) 0x0C 0x0C = true
      ∧ actsB (ctxS 0x10 readyK) 0x10 0x10 = true ∧ actsB (ctxS 0x11 readyK) 0x11 0x11 = true ∧ actsB (ctxS 0x13 readyK) 0x13 0x13 = true
      ∧ actsB (wr (ctxS 0x800000000012 readyK) (kCtx 0 0 R_A_BASE) 0x8000100040) 0x800000000012 0x12 = true
      ∧ opndBases (wr (ctxS 0x800000000012 readyK) (kCtx 0 0 R_A_BASE) 0x8000100040) 0 0 0x800000000012 = [0x8000100040]
      ∧ baseOk 0 0x8000100040 = true ∧ (wordsOf 0x8000100040 64).any (isBad (ctxS 0x12 readyK).mem) = false := by decide +kernel

theorem test_wit_scalar_accesses :
    let s := wr (ctxS 0x0A readyK) (kCtx 0 0 R_S) 0x8000100040
    let u := wr (ctxS 0x0B readyK) (kCtx 0 0 R_S) 0x8000100040
    let w := ctxS 0 { readyK with st := .waitLocal, lw := .mem (.ld 0x8000100040 3) }
    let z := ctxS 0 { readyK with st := .waitLocal, lw := .mem (.st 0x8000100040 7) }
    actsB s 0x0A 0x0A = true ∧ scalarPlace s (offAddr (scalarSrc s 0 0 0) 0) = true
      ∧ actsB u 0x0B 0x0B = true ∧ (ctxOf u 0 0).task = none ∧ scalarPlace u (offAddr (scalarSrc u 0 0 0) 0) = true
      ∧ (ctxOf w 0 0).st = .waitLocal ∧ (ctxOf w 0 0).lw = .mem (.ld 0x8000100040 3) ∧ regionOf 0x8000100040 = .data 0 ∧ 0x8000100040 % 8 = 0
      ∧ csAnswers w 0 0x8000100040 8 = true ∧ isBad w.mem 0x8000100040 = false
      ∧ (ctxOf z 0 0).st = .waitLocal ∧ (ctxOf z 0 0).lw = .mem (.st 0x8000100040 7) ∧ csAnswers z 0 0x8000100040 8 = true ∧ inTask z 0 0 = false := by decide +kernel

theorem test_wit_flow_and_issue :
    let brk := ctxS 0x1B { readyK with depth := 1 }
    let lp := wr (ctxS 0x1A { readyK with depth := 1 }) (kCtx 0 0 (R_LOOP_PC + 8)) 3
    actsB (ctxS 0x0000000100000018 readyK) 0x0000000100000018 0x18 = true ∧ offInData 0x100020 = true
      ∧ actsB (ctxS (0x19 + 2 ^ 40 + 0x8000 * 2 ^ 64 + 5 * 2 ^ 96) readyK) (BitVec.ofNat 256 (0x19 + 2 ^ 40 + 0x8000 * 2 ^ 64 + 5 * 2 ^ 96)) 0x19 = true
      ∧ actsB brk 0x1B 0x1B = true ∧ (ctxOf brk 0 0).depth = 1
      ∧ actsB lp 0x1A 0x1A = true ∧ (rd lp (kCtx 0 0 (R_LOOP_PC + 16)) + 1).ult (rd lp (kCtx 0 0 (R_LOOP_PC + 8))) = true
      ∧ (rd brk (kCtx 0 0 (R_LOOP_PC + 16)) + 1).ult (rd brk (kCtx 0 0 (R_LOOP_PC + 8))) = false
      ∧ actsB (ctxS 0x1A { readyK with depth := 1 }) 0x1A 0x1A = true
      ∧ (let f := ctxS 0 { readyK with st := .waitLocal, lw := .refetch }; coreRuns f 0 = true ∧ (ctxOf f 0 0).st = .waitLocal ∧ (ctxOf f 0 0).lw = .refetch)
      ∧ actsB (ctxS 0x02 readyK) 0x02 0x02 = true ∧ hasEntries (ctxS 0x02 readyK) 0 0 = false ∧ (coreOf (ctxS 0x02 readyK) 0).accOwner = none
      ∧ actsB (ctxS 0x700000003 readyK) 0x700000003 0x03 = true
      ∧ actsB (ctxS 0x50 readyK) 0x50 0x50 = true ∧ opQueue 0x50 = some 1 ∧ cmdHit (ctxS 0x50 readyK) 0 0 = false
      ∧ queueRoom (ctxS 0x50 readyK) 0 1 = true := by decide +kernel

theorem test_wit_context_control :
    let s := setCtx (ctxS 0 Ctx.rst) 0 1 { Ctx.rst with halted := true, st := .ready }
    isMaster 0x40 = true ∧ verdict s 0x40 (pgCtx 0 0) R_CTX_CTL 1 = .perform ∧ (ctxOf s 0 0).st = .idle ∧ (ctxOf s 0 0).halted = false
      ∧ verdict s 0x40 (pgCtx 0 1) R_CTX_CTL 2 = .perform ∧ (ctxOf s 0 1).halted = true ∧ (ctxOf s 0 1).task = none
      ∧ verdict s 0x40 (pgCtx 0 1) R_CTX_CTL 4 = .perform ∧ verdict s 0x40 (pgCtx 0 1) R_CTX_CTL 8 = .perform ∧ (ctxOf s 0 1).wakePending = false
      ∧ verdict s 0x40 (pgCore 0) R_CC_CTL 1 = .perform ∧ verdict s 0x40 (pgCore 0) R_CC_CTL 2 = .perform := by decide +kernel

/-- A task opened at depth 0. -/
def taskK (closing : Option TaskEnd) (writing : Bool) : TaskSt := ⟨0, 0, [(R_S, 9)], [], closing, writing⟩
theorem test_wit_tasks_open :
    let r : Rec := BitVec.ofNat 256 (0x1C + 0x8001 * 2 ^ 64)
    let s := ctxS (0x1C + 0x8001 * 2 ^ 64) readyK
    let w := coreS { CoreSt.rst with logQ := [⟨1, 0, 0x2000004002, [(0x8000100080, [1, 2])]⟩] }
    let d := ctxS 0x1D { readyK with task := some (taskK none false) }
    let p := ctxS 0 { readyK with st := .waitLocal, lw := .task, task := some (taskK (some .commit) false) }
    actsB s r 0x1C = true ∧ offInData (32 * bits r 84 64) = true ∧ (ctxOf s 0 0).task = none
      ∧ coreRuns w 0 = true ∧ (coreOf w 0).logQ = ⟨1, 0, 0x2000004002, [(0x8000100080, [1, 2])]⟩ :: [] ∧ logIsFull (coreOf w 0) = false ∧ (∀ p ∈ [((0x8000100080 : Nat), [(1 : Byte), 2])], regionOf p.1 = .data 0)
      ∧ actsB d 0x1D 0x1D = true ∧ (ctxOf d 0 0).task = some (taskK none false) ∧ (ctxOf d 0 0).depth = (taskK none false).depth
      ∧ coreRuns p 0 = true ∧ (ctxOf p 0 0).task = some (taskK (some .commit) false) ∧ taskBusy p 0 0 = false := by decide +kernel

theorem test_wit_tasks_discard :
    let a := ctxS 0x1E { readyK with task := some (taskK none false) }
    let d := setCore (ctxS 0 { readyK with st := .waitLocal, lw := .task, task := some (taskK (some (.discard 1)) false) }) 0
      { CoreSt.rst with log := [⟨0, 0x8000100080, List.replicate 64 3⟩] }
    let k := { taskK (some (.discard 1)) true with saved := savedOffs.map (fun o => (o, 5)) }
    let e := ctxS 0 { readyK with st := .waitLocal, lw := .task, task := some k }
    actsB a 0x1E 0x1E = true ∧ (ctxOf a 0 0).task = some (taskK none false) ∧ (taskK none false).closing = none
      ∧ coreRuns d 0 = true ∧ discarding (taskK (some (.discard 1)) false) = true ∧ logIsFull (coreOf d 0) = false ∧ taskBusy d 0 0 = false
      ∧ (∀ e ∈ (coreOf d 0).log, regionOf e.addr = .data 0 ∧ e.old.length = 64)
      ∧ coreRuns e 0 = true ∧ (ctxOf e 0 0).task = some k ∧ k.writing = true ∧ k.saved.map Prod.fst = savedOffs := by decide +kernel
theorem test_wit_log_full :
    let s := setCore (ctxS 0 { readyK with task := some (taskK none false) }) 0
      { CoreSt.rst with log := List.replicate 32768 ⟨0, 0x8000100080, []⟩, logQ := [⟨1, 0, 0x2000004002, [(0x8000100080, [1])]⟩] }
    coreRuns s 0 = true ∧ (ctxOf s 0 0).task = some (taskK none false) ∧ logIsFull (coreOf s 0) = true ∧ 0 ∈ holders s 0
      ∧ (∀ y ∈ holders s 0, waitsOnLog s 0 y = true) := by decide +kernel

/-- A descriptor of one element (two rows for AUX) in the format a vector operation takes at the slot, at an address of its own. -/
def vecDesc (op lo : Nat) : Desc :=
  let f := [0, 9, 8, 7].find? (fun f => vecFmtOk op lo ((fmtOf f).getD .kb4))
  if op = 0x5E ∧ lo = 72 then BitVec.ofNat 512 (0x8000103000 + 0x8000104000 * 2 ^ 64 + 4 * 2 ^ 320)
  else tileD (0x8000100000 + 0x1000 * lo) (if op = 0x57 ∧ lo = 72 then 2 else 1) 1 1 (f.getD 0)
/-- A record of a vector operation with every operand it needs. -/
def vecQ (op : Nat) (func : Nat) : QEntry :=
  let n := op + func * 2 ^ 80
  let w : Rec := BitVec.ofNat 256 ((vecNeeds (BitVec.ofNat 256 n)).foldl (fun n lo => n + 2 ^ (lo + 7)) n)
  ⟨1, 2, 0x100000, w, (opndSlots op).map (fun lo => if present w lo then 0x8000100000 + 64 * lo else 0), 0, false, false, [], false, ⟨0, 0, 0, 0, 0, 0⟩, []⟩
/-- Core 0 with that record in its queue, its descriptors and a record of KIND `kind` in memory. -/
def vecS (op func kind : Nat) : State :=
  let s := coreS { CoreSt.rst with vecQ := [vecQ op func] }
  let m := (opndSlots op).foldl (fun m lo => putCells m (0x8000100000 + 64 * lo) (valBytes 64 (vecDesc op lo).toNat)) s.mem
  { s with mem := putCells (putCells m (0x8000140000 + 15) [BitVec.ofNat 8 (16 * kind)]) (0x8000148000 + 15) [BitVec.ofNat 8 (16 * (kind + 1))] }
/-- The premises of `VecReady` as one check. -/
def vecReadyB (op func kind : Nat) : Bool :=
  let s := vecS op func kind
  let q := vecQ op func
  coreRuns s 0 && decide ((coreOf s 0).vecQ = [q]) && !q.arrived && !q.fired && decide ((coreOf s 0).opeQ ++ (coreOf s 0).strQ = []) && recOp q.word == op
    && decide (vecCheck (descCheck s 0 5 q) 0 (vecSeen s 0 q) = none) && tilesReady (vecHere s 0 q) 0 (vecSeen s 0 q)
    && !(coreOf (vecAt s 0 q) 0).vecFail && !scatterOut (vecAt s 0 q) 0 (vecSeen s 0 q)
theorem vecReady_of_vecReadyB {op func kind : Nat} (h : vecReadyB op func kind = true) : VecReady (vecS op func kind) 0 op (vecQ op func) [] := by
  simp only [vecReadyB, Bool.and_eq_true, Bool.not_eq_true', decide_eq_true_eq, beq_iff_eq, List.append_eq_nil_iff] at h
  obtain ⟨⟨⟨⟨⟨⟨⟨⟨⟨h1, h2⟩, h3⟩, h4⟩, h5⟩, h6⟩, h7⟩, h8⟩, h9⟩, h10⟩ := h
  exact ⟨h1, h2, h3, by simp [h4], by simp [h5.1, h5.2], h6, h7, h8, fun _ => .inl h9, h10⟩
/-- The premise `VecRowsOk` as a check. -/
def vecRowsB (s : State) (v : QEntry) : Bool :=
  let x := v.tileD 32
  let kind := fun lo r => (statRead s (v.tileD lo) r).kind
  let more := fun (k : Nat) => (vOpen v.word && decide (x.cols ≤ 1048576))
    || (!vOpen v.word && (List.range x.rows).all (fun r => kind 64 r == k && decide ((statRead s (v.tileD 64) r).count + x.cols ≤ 1048576)))
  match recOp v.word with
  | 0x56 => (List.range x.rows).all (fun r => kind 64 r == if (v.tile 48).isSome then 1 else 2)
  | 0x57 => (List.range (v.tileD 40).rows).all (fun r => kind 64 r == 1 || kind 64 r == 2)
  | 0x58 => !keysBad s (v.tile 40) && more 3 && (!vOpen v.word || (match v.tile 48 with
      | none => true
      | some t => (List.range x.rows).all (fun r => !(posWord s t r 0).2.1)))
  | 0x59 => !keysBad s (v.tile 40) && (List.range x.rows).all (fun r => kind 64 r == 3)
  | 0x5A => more 4
  | 0x5B => !keysBad s (v.tile 48) && (List.range x.rows).all (fun r => kind 64 r == 3 && kind 72 r == 4)
  | _ => true
theorem vecRows_of_vecRowsB {s : State} {v : QEntry} (h : vecRowsB s v = true) : VecRowsOk s v := by
  unfold vecRowsB at h
  unfold VecRowsOk
  dsimp only at h ⊢
  split at h
  case h_3 =>
    simp only [Bool.and_eq_true, Bool.not_eq_true', Bool.or_eq_true, decide_eq_true_eq, List.all_eq_true, List.mem_range, beq_iff_eq] at h
    obtain ⟨⟨h1, h2⟩, h3⟩ := h
    rename_i heq
    try simp only [heq]
    refine ⟨h1, h2, fun ho t ht => ?_⟩
    rcases h3 with h3 | h3
    · exact absurd h3 (by simp [ho])
    · simpa [ht] using h3
  all_goals simp_all
/-- That check for `vecQ`, and a bad KIND. -/
def vecGoesB (op func kind : Nat) : Bool := vecRowsB (vecAt (vecS op func kind) 0 (vecQ op func)) (vecLatched (vecS op func kind) 0 (vecQ op func))
theorem test_wit_vector_fires :
    vecReadyB 0x50 0 0 = true ∧ vecReadyB 0x51 2 0 = true ∧ vecReadyB 0x52 5 0 = true ∧ vecReadyB 0x53 0 0 = true ∧ vecReadyB 0x54 0 0 = true
      ∧ vecReadyB 0x55 1 0 = true ∧ vecReadyB 0x56 0 2 = true ∧ vecGoesB 0x56 0 2 = true
      ∧ (vecNormFwd (vecAt (vecS 0x56 0 9) 0 (vecQ 0x56 0)) 0 (vecLatched (vecS 0x56 0 9) 0 (vecQ 0x56 0))).stop.isSome = true ∧ vecReadyB 0x56 0 9 = true := by decide +kernel
theorem test_wit_vector_fires_2 :
    vecReadyB 0x57 0 1 = true ∧ vecGoesB 0x57 0 1 = true ∧ vecReadyB 0x58 0 3 = true ∧ vecGoesB 0x58 0 3 = true ∧ vecReadyB 0x59 0 3 = true ∧ vecGoesB 0x59 0 3 = true
      ∧ vecReadyB 0x5A 0 4 = true ∧ vecGoesB 0x5A 0 4 = true ∧ vecReadyB 0x5B 0 3 = true ∧ vecGoesB 0x5B 0 3 = true
      ∧ vecReadyB 0x5C 0 0 = true ∧ vecReadyB 0x5D 0 0 = true ∧ vecReadyB 0x5E 0 0 = true := by decide +kernel

theorem test_wit_masked_row :
    (∀ b ∈ [[(FVal.one, false), (FVal.zero, false)], [(FVal.one, false)]], ∀ p ∈ b, p.2 = false)
      ∧ (∃ b ∈ [[(FVal.one, false), (FVal.zero, true)]], ∃ p ∈ b, p.2 = true)
      ∧ (let x : StatRec := ⟨3, false, 0, 0, 2, .one, .one⟩; x.stat0.isFinite = true ∧ x.stat1.isFinite = true ∧ x.stat1.isZero = false) := by decide

theorem test_wit_vector_end :
    let q := { vecQ 0x50 0 with fired := true }
    let p := { q with task := true }
    let los := (dstSlots q.word).filter (present q.word)
    let s := coreS { CoreSt.rst with vecQ := [q] }
    let u := onState [0, 44]
    coreRuns s 0 = true ∧ (coreOf s 0).vecQ = [q] ∧ q.fired = true ∧ logPending s 0 q.id = false ∧ (∀ lo ∈ los, regionOf (q.baseOf lo + 49) = .data 0)
      ∧ los ≠ [] ∧ (coreOf (coreS { CoreSt.rst with vecQ := [p] }) 0).vecQ = [p] ∧ (∃ lo ∈ los, lo ∉ p.shifted)
      ∧ (coreOf (coreS { CoreSt.rst with vecQ := [{ p with shifted := los }] }) 0).vecQ = [{ p with shifted := los }]
      ∧ actsB (ctxS 0x01 readyK) 0x01 0x01 = true
      ∧ pageKind (pgCore 0) ≠ none ∧ pageOn u (pgCore 0) = true ∧ rdB u (reg (mainPage (pgCore 0)) R_BLK_ERR_LOG) 63 = false
      ∧ (∀ m ∈ pageMids (mainPage (pgCore 0)), m < 0xF0) := by decide +kernel

/-- A stream record: MOVE of 8 rows, its Lining, or a gather or scatter of `n` rows of 64 bytes by 16-bit indices. -/
def strQ (op : Nat) : QEntry :=
  let pres := if op = 0x84 then 0 else if op = 0x80 ∨ op = 0x81 then 2 ^ 39 + 2 ^ 47 else if op = 0x82 then 2 ^ 47 + 2 ^ 55 else 2 ^ 39 + 2 ^ 55
  ⟨1, 2, 0x100000, BitVec.ofNat 256 (op + pres + 3 * 2 ^ 64 + 2 ^ 72), [if op = 0x82 ∨ op = 0x84 then 0 else 0x8000100040, if op = 0x83 ∨ op = 0x84 then 0 else 0x8000100080,
    if op = 0x82 ∨ op = 0x83 then 0x80001000C0 else 0], 0, false, false, [], false, ⟨0, 0, 0, 0, 0, 0⟩, []⟩
def idxD (n : Nat) : Desc := BitVec.ofNat 512 (0x8000103000 + 0x8000104000 * 2 ^ 64 + n * 2 ^ 192 + 4 * 2 ^ 224 + 64 * 2 ^ 256 + 64 * 2 ^ 320)
def strS (op : Nat) : State :=
  let s := coreS { CoreSt.rst with strQ := [strQ op] }
  let ds := if op = 0x80 then [tileD 0x8000101000 4 16 1 1, tileD 0x8000102000 4 16 1 1, 0]
    else if op = 0x81 then [tileD 0x8000101000 4 16 2 1, tileD 0x8000102000 16 4 2 1, 0]
    else [tileD 0x8000101000 4 16 1 0, tileD 0x8000101000 4 16 1 0, idxD 2]
  let m := (List.range 3).foldl (fun m i => putCells m (0x8000100040 + 64 * i) (valBytes 64 (nth 0 ds i).toNat)) s.mem
  { s with mem := putCells (putCells m 0x8000103002 [1]) 0x8000104000 [9, 8] }
/-- The premises of `StrReady` as one check. -/
def strReadyB (op : Nat) : Bool :=
  let s := strS op
  let q := strQ op
  let v := q.arrive s
  coreRuns s 0 && !frozen s 0x20 && decide (((coreOf s 0).strQ.filter (fun o => !o.fired)).head? = some q) && !q.arrived
    && recOp q.word == op && decide (strCheck (descCheck s 0 6 q) 0 v = none) && tilesReady (strHere s 0 q) 0 v && decide ((coreOf s 0).runs.countP (fun r => !r.refetch) < 8)
    && !readsWatched (strHere s 0 q) v && decide (∀ o ∈ (coreOf s 0).entries, o.id = q.id → o = q) && decide ((coreOf s 0).runs = [])
    && decide ((coreOf s 0).slots ++ (coreOf s 0).held ++ (coreOf s 0).parked = []) && decide ((coreOf s 0).logQ = []) && strRequests (strHere s 0 q) v != []
theorem strReady_of_strReadyB {op : Nat} (h : strReadyB op = true) : StrReady (strS op) 0 op (strQ op) := by
  simp only [strReadyB, Bool.and_eq_true, Bool.not_eq_true', decide_eq_true_eq, beq_iff_eq] at h
  obtain ⟨⟨⟨⟨⟨⟨⟨⟨⟨⟨⟨⟨⟨h1, h2⟩, h3⟩, h4⟩, h5⟩, h6⟩, h7⟩, h8⟩, h9⟩, h10⟩, h11⟩, h12⟩, h13⟩, -⟩ := h
  exact ⟨h1, h2, h3, h4, h5, h6, h7, h8, .inl h9, h10, by simp [h11], by simp [h12], by simp [h13]⟩
theorem test_wit_stream_fires : strReadyB 0x80 = true ∧ strReadyB 0x81 = true ∧ strReadyB 0x82 = true ∧ strReadyB 0x83 = true := by decide +kernel

/-- The core after a gather fires, a request moved from its slots into the tags held. -/
def gatherS : State :=
  match exec (.strGather 0) (strS 0x82) with
  | .next t => setCore t 0 { coreOf t 0 with held := ((coreOf t 0).slots.take 1).map (fun r => { r with tag := .reserved }), slots := (coreOf t 0).slots.drop 1 }
  | _ => strS 0x82
theorem test_wit_stream_request :
    let r : StrReq := ⟨1, 4, 0, 0, 0x8000100100, 64, 0, [], .none, false, false, 0⟩
    let s := coreS { CoreSt.rst with slots := [r] }
    let f := coreS { CoreSt.rst with slots := [r], held := List.replicate 32 { r with tag := .reserved } }
    let g := coreS { CoreSt.rst with slots := [{ r with pcs := [5] }], held := List.replicate 64 { r with pcs := [5], tag := .shared } }
    coreRuns s 0 = true ∧ frozen s 0x20 = false ∧ ((coreOf (unpark s 0 none) 0).slots.drop 0).head? = some r ∧ tagless (unpark s 0 none) 0 r = false
      ∧ cappedPc (unpark s 0 none) 0 r.pcs = none ∧ heldBack (unpark s 0 none) 0 r.pcs = false
      ∧ reservedHeld (coreOf (unpark s 0 none) 0) < 32 ∧ 32 ≤ reservedHeld (coreOf (unpark f 0 none) 0) ∧ ((coreOf (unpark f 0 none) 0).slots.drop 0).head? = some r
      ∧ ((coreOf (unpark g 0 none) 0).slots.drop 0).head? = some { r with pcs := [5] }
      ∧ cappedPc (unpark g 0 none) 0 [5] = some 5 ∧ parkTaken (coreOf (unpark g 0 none) 0) 5 = false ∧ coreRuns g 0 = true := by decide +kernel
theorem test_wit_tag_grant :
    let r : StrReq := ⟨1, 4, 0, 0, 0x8000100100, 64, 0, [], .none, true, false, 0⟩
    let run : StrRun := ⟨1, strQ 0x80, 3, 1, [], [], false, false, false⟩
    let s := coreS { CoreSt.rst with slots := [r], runs := [run] }
    sharedHeld s 0 < 1792 ∧ 0 / 8 = 0 ∧ coreRuns s 0 = true ∧ r ∈ (coreOf s 0).slots ∧ r.asked = true ∧ cappedPc s 0 r.pcs = none ∧ tagless s 0 r = false
      ∧ heldBack s 0 r.pcs = false ∧ (coreOf s 0).runs.find? (fun o => o.id == r.cmd) = some run := by decide +kernel
theorem test_wit_request_done :
    let k := coreOf gatherS 0
    coreRuns gatherS 0 = true ∧ k.held.length = 1 ∧ k.held.any (fun r => k.runs.any (fun run => run.id == r.cmd && !r.moved && recOp run.cmd.word == 0x82
      && !run.cmd.task && !run.refetch && !run.invalid && (rowsTile run.cmd).isSome && !logPending gatherS 0 r.cmd && decide (0 < r.len) && decide (r.lo % 64 + r.len ≤ 64)
      && decide (r.target % 64 + r.len ≤ 64) && regionOf r.lo == .data 0 && csAnswers gatherS 0 r.lo r.len
      && (List.range r.len).all (fun i => !isBad gatherS.mem (r.lo + i)) && regionOf r.target == .data 0 && csAnswers gatherS 0 r.target r.len
      && regionOf (run.cmd.baseOf 40 + 49) == .data 0 && decide (run.cmd.baseOf 40 + 49 < r.target))) = true := by decide +kernel

theorem test_wit_stream_end :
    let q := strQ 0x84
    let s := coreS { CoreSt.rst with strQ := [q] }
    let u := coreS { CoreSt.rst with strQ := [{ q with fired := true }] }
    coreRuns s 0 = true ∧ frozen s 0x20 = false ∧ ((coreOf s 0).strQ.filter (fun o => !o.fired)).head? = some q ∧ recOp q.word = 0x84
      ∧ strCheck (descCheck s 0 6 q) 0 (q.arrive s) = none ∧ (∀ o ∈ (coreOf s 0).entries, o.id = q.id → o = q)
      ∧ streamDone (coreOf s 0) (strSid q.word) q.id = true
      ∧ (coreOf u 0).strQ.find? (fun q => q.fired && recOp q.word == 0x84 && strSid q.word == 3) = some { q with fired := true }
      ∧ streamDone (coreOf u 0) 3 q.id = true
      ∧ isMaster 0x40 = true ∧ verdict s 0x40 (pgCore 0) R_FB_CMD (w64 (2 ^ 16 + 7)) = .perform ∧ verdict s 0x40 (pgCore 0) R_FB_CMD (w64 (2 * 2 ^ 16 + 7)) = .perform
      ∧ domOn s 0 = true ∧ rdB s (kCore 0 R_BLK_ERR_LOG) 63 = false := by decide +kernel

theorem test_wit_watch_and_fabric :
    let s := onState [0, 32, 44]
    let z := wr (wr s (reg (pgMnt 0) R_MNT_WIN_word_0) 0x1FF) (reg (pgMnt 0) R_MNT_WIN_word_1) 0x810FFFF001
    isMaster 0x40 = true ∧ verdict s 0x40 (pgPool 0) (R_WATCH_BASE + 0x18) 0x41 = .perform ∧ coreRuns (coreS CoreSt.rst) 0 = true
      ∧ regionOf 0x8000100040 = .data 0 ∧ oneRegion 0x8000100040 16 = true ∧ csAnswers s 0 0x8000100040 16 = true ∧ cloakDenies s 0x40 true = false
      ∧ (∀ i, i < 16 → isBad s.mem (0x8000100040 + i) = false) ∧ cloakDenies s 0x40 false = false ∧ mayWrite z 0x40 0x8000100040 16 = true
      ∧ mayWrite (wr s (reg (pgMnt 0) R_MNT_WIN_word_1) 0) 0x40 0x8000100040 16 = false ∧ regionOf 0x8000000040 = .sync 0 ∧ regionOf 0x8003000000 = .hole 0 := by decide +kernel

theorem test_wit_sync_records :
    let fe := fun (n : Nat) => wr (ctxS n readyK) (kCtx 0 0 R_S) 0x8000000040
    let pend := wr (ctxS (0x2B + 6 * 2 ^ 64) readyK) (reg (pgBtn 0) R_BTN_PEND) 4
    actsB (fe 0x22) 0x22 0x22 = true ∧ actsB (fe 0x21) 0x21 0x21 = true ∧ actsB (fe 0x23) 0x23 0x23 = true ∧ actsB (fe 0x24) 0x24 0x24 = true
      ∧ actsB (fe 0x25) 0x25 0x25 = true ∧ syncWord (offAddr (scalarSrc (fe 0x22) 0 0 0) 0) = some 8 ∧ (ctxOf (fe 0x21) 0 0).task = none
      ∧ actsB (ctxS 0x20 readyK) 0x20 0x20 = true ∧ actsB (ctxS (0x28 + 2 ^ 54) readyK) (BitVec.ofNat 256 (0x28 + 2 ^ 54)) 0x28 = true
      ∧ actsB (ctxS (0x29 + 2 ^ 54) readyK) (BitVec.ofNat 256 (0x29 + 2 ^ 54)) 0x29 = true
      ∧ actsB (ctxS 0x2A readyK) 0x2A 0x2A = true ∧ hasButtons 0 = true ∧ (ctxOf (ctxS 0x2A readyK) 0 0).req = none
      ∧ actsB (ctxS 0x2B readyK) 0x2B 0x2B = true ∧ actsB pend (BitVec.ofNat 256 (0x2B + 6 * 2 ^ 64)) 0x2B = true ∧ Nat.land (rd pend (reg (pgBtn 0) R_BTN_PEND)).toNat 6 = 4
      ∧ (wordsOf (csBase 0 + ctxPc pend 0 0) 32).any (isWeak pend.mem) = false ∧ (ctxS 0x2A readyK).orphans = []
      ∧ actsB (ctxS (0x2B + 6 * 2 ^ 64) readyK) (BitVec.ofNat 256 (0x2B + 6 * 2 ^ 64)) 0x2B = true := by decide +kernel

/-- Core 0, context 0 with a request on its way to word 8 of core 0's sync region. -/
def feS (q : SyncReq) (full : Bool) : State := setSync (ctxS 0 { readyK with st := .waitSync, req := some q }) 8 ⟨full, true⟩
theorem test_wit_full_empty :
    (∀ q ∈ [SyncReq.take 8 3, .peek 8 3, .put 8 7, .set 8 7, .clear 8], ∀ b ∈ [true, false],
      (ctxOf (feS q b) 0 0).req = some q ∧ feWord q = some 8 ∧ (feS q b).orphans = [] ∧ domOn (feS q b) (8 / 131072) = true
      ∧ isBad (feS q b).mem (syncAddr 8) = false ∧ (syncOf (feS q b) 8).full = b) := by decide +kernel

theorem test_wit_yoke :
    let s := { setCtx (onState [0, 44]) 0 0 { readyK with st := .waitSync, wait := some (.full 8) } with toYoke := [.reg 0 0 (.full 8), .notice (.word 8)], yokeWaits := [0] }
    let n := { s with toYoke := [.reg 1 1 (.pocket 3), .notice (.word 8)] }
    let w := { s with wakes := [.button 5 1, .ctxs 0 [0] (.word 8)] }
    let h := setCtx w 0 0 { readyK with st := .waitSync, wait := some (.full 8), halted := true }
    let a := fun (a : SyncAns) => setCtx s 0 0 { readyK with st := .waitSync, ans := some a }
    yokeOn s = true ∧ s.toYoke = [] ++ .reg 0 0 (.full 8) :: [.notice (.word 8)]
      ∧ n.toYoke = [.reg 1 1 (.pocket 3)] ++ .notice (.word 8) :: [] ∧ (∀ m ∈ [YokeMsg.reg 1 1 (.pocket 3)], msgSubject m ≠ some (.word 8)) ∧ waitersOf n (.word 8) = [0]
      ∧ domOn w 0 = true ∧ w.wakes.find? (fun w => wakeCore w == 0) = some (.ctxs 0 [0] (.word 8)) ∧ wakeHits w 0 0 (.ctxs 0 [0] (.word 8)) = true
      ∧ wakeHits h 0 0 (.ctxs 0 [0] (.word 8)) = true ∧ (ctxOf h 0 0).halted = true
      ∧ (∀ b ∈ [SyncAns.done, .value 3 9, .outcome 2 true 4 [1, 2], .refuse 0x0A], (ctxOf (a b) 0 0).ans = some b) := by decide +kernel

/-- Slot 5 names contexts 0 of cores 0 and 1; context 0 of core 0 arrives. -/
def barS (wait : Bool) (z : SlotSt) : State :=
  let s := setCtx (onState [0, 44]) 0 0 { readyK with st := .waitSync, req := some (.arrive 5 wait) }
  setSlot (wr s (reg (pgSlots 0) (R_SLOT_MASK0 + 64 * 5)) 0x101) 5 z
theorem test_wit_barriers :
    let s := barS true ⟨true, false, 0, 0, 0, 0⟩
    let f := barS false ⟨true, false, 1, 0, 0x100, 0⟩
    let a := barS false ⟨true, false, 1, 0, 1, 0⟩
    let o := barS true ⟨true, false, 1, 1, 0, 1⟩
    let r := { setCtx s 0 0 { readyK with st := .waitSync, wait := some (.barrier 5 false) } with releases := [⟨0, 5, false, false⟩] }
    yokeOn s = true ∧ (ctxOf s 0 0).req = some (.arrive 5 true) ∧ s.orphans = [] ∧ (slotMask s 5).testBit 0 = true ∧ slotExpected s 5 = 2 ∧ (slotOf f 5).arrived + 1 = 2
      ∧ (slotOf a 5).lead1.testBit 0 = true ∧ (slotOf o 5).lead2.testBit 0 = true ∧ (slotOf (barS true SlotSt.rst) 5).en = false
      ∧ domOn r 0 = true ∧ r.releases.find? (fun r => r.core == 0 && r.slot == 5) = some ⟨0, 5, false, false⟩
      ∧ isMaster 0x40 = true ∧ verdict s 0x40 (pgSlots 0) (R_SLOT_CTL + 64 * 5) 1 = .perform ∧ slotMask s 5 ≠ 0
      ∧ verdict s 0x40 (pgSlots 0) (R_SLOT_CTL + 64 * 5) 0 = .perform ∧ (slotOf s 5).en = true ∧ blockHeld s pgYoke = false := by decide +kernel

/-- Pocket 3 bound from core 0 to core 1 (both ON), with a request of context 0 of core `c`. -/
def pktS (ds : List Nat) (c : Core) (q : SyncReq) (go : Bool) : State :=
  let s := wr (onState ds) (reg (pgBind 0) (R_PKT_BIND + 24)) (w64 (2 ^ 63 + 0x100))
  let s := wrB s (reg (pgPocket 3) R_PKT_STATUS) 0 go
  setCtx s c 0 { readyK with st := .waitSync, req := some q }
theorem test_wit_pockets :
    let s := pktS [0, 1, 44] 0 (.send 3 [5, 6] 2) false
    let d := pktS [0, 44] 0 (.send 3 [5, 6] 2) false
    let r := pktS [0, 1, 44] 1 (.recv 3 4 2 2) true
    pktOn s 3 = true ∧ blockHeld s (pgPocket 3) = false ∧ (ctxOf s 0 0).req = some (.send 3 [5, 6] 2) ∧ s.orphans = [] ∧ pktValid s 3 = true ∧ pktSender s 3 = 0 ∧ pktGo s 3 = false
      ∧ recvUp s (pktReceiver s 3) = true ∧ pktGo (pktS [0, 1, 44] 0 (.send 3 [5, 6] 2) true) 3 = true ∧ recvUp d (pktReceiver d 3) = false
      ∧ pktReceiver r 3 = 1 ∧ pktGo r 3 = true ∧ (ctxOf r 1 0).req = some (.recv 3 4 2 2)
      ∧ isMaster 0 = true ∧ verdict s 0 (pgPocket 3) R_PKT_GO 1 = .perform ∧ verdict r 1 (pgPocket 3) R_PKT_TAKE 1 = .perform
      ∧ isMaster 0x40 = true ∧ verdict r 0x40 (pgBind 0) R_PKT_CLEAR (w64 3) = .perform ∧ verdict r 0x40 (pgBind 0) R_PKT_LOCK 2 = .perform
      ∧ rdB r (reg (pgBind 0) R_PKT_LOCK) 0 = false := by decide +kernel
theorem test_wit_pockets_foreign :
    let s := pktS [0, 1, 44] 1 (.send 3 [5, 6] 2) false
    let r := pktS [0, 1, 44] 0 (.recv 3 4 2 2) true
    (ctxOf s 1 0).req = some (.send 3 [5, 6] 2) ∧ pktSender s 3 ≠ 1 ∧ (ctxOf r 0 0).req = some (.recv 3 4 2 2) ∧ pktReceiver r 3 ≠ 0
      ∧ pktGo (pktS [0, 1, 44] 1 (.recv 3 4 2 2) false) 3 = false := by decide +kernel

theorem test_wit_word_pockets_buttons :
    let s := wr (onState [0, 44, 48]) (reg (pgWord 2) R_WP_WORD) (w64 (0x01 * 2 ^ 56))
    let b := wr (onState [0, 44, 48]) (reg (pgWord 2) R_WP_WORD) (w64 (0xFF * 2 ^ 56))
    isMaster 0x44 = true ∧ isMaster 0xF0 = true ∧ verdict s 0x44 (pgWord 2) R_WP_GO 1 = .perform ∧ s.mnt.order = [] ∧ bits (rd s (reg (pgWord 2) R_WP_WORD)) 63 56 ∈ mntOps
      ∧ bits (rd b (reg (pgWord 2) R_WP_WORD)) 63 56 ∉ mntOps ∧ verdict b 0x44 (pgWord 2) R_WP_GO 1 = .perform ∧ domOn b 44 = true
      ∧ verdict s 0xF0 (pgWord 9) R_WP_GO 1 = .perform ∧ recvUp s 0x44 = true ∧ verdict s 0xF0 (pgWord 2) R_WP_TAKE 1 = .perform ∧ s.mnt.out = []
      ∧ verdict s 0x40 (pgBtn 0) R_BTN_RING (w64 5) = .perform ∧ domState s (midDomain 0) = 2 := by decide +kernel

/-- Panel 0 with its stacks trained. -/
def hbmS : State := wr (wr (onState [32, 36, 44]) (reg (pgHbm 0) R_HBM_STATUS) 0x802) (reg (pgHbm 1) R_HBM_STATUS) 0x802
theorem test_wit_hbm_granules :
    let p := { hbmS with mem := setPoison hbmS.mem 0x40 true }
    let w := { hbmS with mem := { hbmS.mem with weak := [(8, true)] } }
    let r := wr hbmS (reg (pgHbm 0) R_HBM_RETIRE) (w64 (2 ^ 63))
    let off := { onState [44] with mem := { (onState [44]).mem with wasOff := [0] } }
    regionOf 0x48 = .hbm ∧ memWaits hbmS 0x48 = false ∧ hbmUp hbmS 0x40 = true ∧ retired hbmS 0x40 = false ∧ isPoison hbmS.mem 0x40 = false ∧ granBad hbmS.mem 0x40 = false
      ∧ memWaits w 0x48 = false ∧ hbmUp w 0x40 = true ∧ retired w 0x40 = false ∧ isPoison w.mem 0x40 = false ∧ granBad w.mem 0x40 = false ∧ granWeak w.mem 0x40 = true
      ∧ isPoison p.mem 0x40 = true ∧ memWaits p 0x48 = false ∧ hbmUp r 0x40 = true ∧ retired r 0x40 = true ∧ memWaits r 0x48 = false
      ∧ hbmUp off 0x40 = false ∧ memWaits off 0x48 = false := by decide +kernel

theorem test_wit_hbm_training :
    let u := onState [36, 44]
    let f := wr u (reg (pgHbm 1) R_HBM_STATUS) 0x801
    let r := wrB u (reg (pgMnt 0) R_BLK_STAT) 9 true
    domOn u (36 + 0 / 2) = true ∧ rdF u (reg (pgHbm 1) R_HBM_STATUS) 1 0 = 0 ∧ rdF f (reg (pgHbm 1) R_HBM_STATUS) 1 0 = 1
      ∧ rdB f (reg (pgHbm 1) R_BLK_ERR_LOG) 63 = false ∧ isMaster 0x40 = true
      ∧ verdict r 0x40 (pgHbm 1) R_HBM_1500_CTL (setBit 0x1234 63 true) = .perform ∧ reducedService r = true ∧ r.mem.run1500 = []
      ∧ (let o := { u with mem := { u.mem with run1500 := [⟨1, 2, 8⟩] } }
        verdict o 0x40 (pgHbm 1) R_HBM_1500_CTL (setBit 0x1234 63 true) = .perform ∧ o.mem.run1500.any (fun r => r.stack == 1) = true
          ∧ o.mem.run1500.find? (fun r => r.stack == 1) = some ⟨1, 2, 8⟩) := by decide +kernel

theorem test_wit_hbm_care :
    let s := { wrB hbmS (reg (pgHbm 0) R_HBM_CTL) 0 true with mem := setPoison hbmS.mem 0x40 true }
    let t := wr hbmS (reg (pgHbm 0) R_HBM_STATUS) 0x502
    let r := wrB hbmS (reg (pgHbm 0) R_HBM_REPAIR_STAT) 0 true
    let u := wr hbmS (reg (pgHbm 0) (R_HBM_SPARE_USED + 8 * (hbmPc 0x40 / 2))) 256
    regionOf 0x40 = .hbm ∧ hbmStack 0x40 = 0 ∧ rdB s (reg (pgHbm 0) R_HBM_CTL) 0 = true ∧ hbmUp s 0x40 = true ∧ hbmBusy s 0x40 = false ∧ isPoison s.mem 0x40 = true
      ∧ domOn hbmS (36 + 0 / 2) = true ∧ rdF t (reg (pgHbm 0) R_HBM_STATUS) 11 8 < 8
      ∧ rdB hbmS (reg (pgHbm 0) R_HBM_REPAIR_STAT) 0 = false ∧ isMaster 0x40 = true ∧ verdict hbmS 0x40 (pgHbm 0) R_HBM_REPAIR_CMD (repairCmd 1 0x40) = .perform
      ∧ verdict hbmS 0x40 (pgHbm 0) R_HBM_REPAIR_CMD (repairCmd 2 0x40) = .perform ∧ (rd hbmS (reg (pgHbm 0) (R_HBM_SPARE_USED + 8 * (hbmPc 0x40 / 2)))).toNat < 256
      ∧ 256 ≤ (rd u (reg (pgHbm 0) (R_HBM_SPARE_USED + 8 * (hbmPc 0x40 / 2)))).toNat ∧ rdB r (reg (pgHbm 0) R_HBM_REPAIR_STAT) 0 = true
      ∧ verdict hbmS 0x40 (pgHbm 1) (R_HBM_RETIRE + 8) (w64 (2 ^ 63 + 5)) = .perform := by decide +kernel

/-- Panel 0 with one dirty line at 0x80 and way 15 a scratchpad. -/
def llcS : State :=
  let l : LlcLine := ⟨3, true, false, false, List.replicate 128 7, .clean, .clean⟩
  let s := wr (wr hbmS (reg (pgMnt 0) R_MNT_WIN_word_0) 0x1FF) (reg (pgMnt 0) R_MNT_WIN_word_1) 0x810FFFF001
  wr { s with mem := { s.mem with llc := [(0x80, l)], flushing := [0x80] } } (reg (pgLlc 0) R_LLC_WAY_MODE) 0x8000
theorem test_wit_llc :
    let c := wrF llcS (reg (pgLlc 0) R_LLC_STATUS) 15 0 8
    isMaster 0x40 = true ∧ cloaked llcS = false ∧ regionOf 0x90 = .hbm ∧ memWaits llcS 0x90 = false ∧ hbmUp llcS (lineOf 0x90) = true
      ∧ (llcGet llcS (lineOf 0x90)).any (fun l => l.data.length == 128 && !l.p0 && !l.p1 && decide (l.err ≠ .uncorrectable) && l.dirty) = true ∧ memWaits llcS (lineOf 0x90) = false ∧ blockHeld llcS (pgLlc 0) = false ∧ mayWrite llcS 0x40 0x90 4 = true
      ∧ regionOf (llcBase 0 + 0x3C00000) = .llcWin 0 ∧ oneRegion (llcBase 0 + 0x3C00000) 8 = true ∧ (linesOf (llcBase 0 + 0x3C00000) 8).all (scratchOk llcS) = true
      ∧ mayWrite llcS 0x40 (llcBase 0 + 0x3C00000) 8 = true
      ∧ verdict llcS 0x40 (pgLlc 0) R_LLC_WAY_MODE (w64 1) = .perform ∧ rdF llcS (reg (pgLlc 0) R_LLC_STATUS) 15 0 = 0 ∧ rdF c (reg (pgLlc 0) R_LLC_STATUS) 15 0 ≠ 0
      ∧ domOn c 32 = true ∧ verdict llcS 0x40 (pgLlc 0) R_LLC_CTL 1 = .perform ∧ rdB (wrB llcS (reg (pgLlc 0) R_LLC_STATUS) 17 true) (reg (pgLlc 0) R_LLC_STATUS) 17 = true
      ∧ Memory.wf llcS.mem = true ∧ (∀ e ∈ llcS.mem.llc, e.1 % 128 = 0 ∧ e.1 < 0x8000000000 ∧ e.2.data.length = 128 ∧ e.2.way < 16) ∧ retired llcS 0x80 = false
      ∧ (∀ w, w < 16 → rdB c (reg (pgLlc 0) R_LLC_STATUS) w = true → linesHeld c (wayLines c 0 w) = false)
      ∧ linesHeld llcS (llcS.mem.flushing.filter (fun a => hbmPanel a == 0)) = false := by decide +kernel

/-- A wake from core 0 to the Button page of core 0, at the same router. -/
def fabReqS : FabReq := ⟨.wake, .core 0, .button 0, none, 0⟩
/-- That message in the buffer of router (0, 0) that core 0 feeds (input 23 of the arbiter of output 6). -/
def fabMsgS (sl : FabSlot) : FabMsg := ⟨fabReqS, 0, .buf 0 0 0 5, sl, [], false⟩
/-- Panel 0 with it there, and a decision at that arbiter. -/
def fabS (decided : Option Nat) : State := setArb { onState [0, 44] with fab := [fabMsgS .pool] } 0 0 0 6 ⟨some 3, decided, [], 0⟩
/-- Panel 0 with the grant parked on the input that the message takes, and nothing there. -/
def fabE : State := setArb (onState [0, 44]) 0 0 0 6 ⟨some 23, none, [], 0⟩
theorem fab_during_shape : fabDuring fabE [.send fabReqS] = ((fabSpace { fabE with fab := [fabSent fabReqS] } (fabMsgS .own)).map
    (fun sl => noteReserve { fabE with fab := [fabMsgS sl] } 0 sl)).getD { fabE with fab := [fabSent fabReqS] } := rfl
theorem fab_space_shape : fabSpace { fabE with fab := [fabSent fabReqS] } (fabMsgS .own) = if 1 ≤ Config.fabPool 0 then some .pool else some (.reserve 0 3) := rfl
theorem test_wit_arbiters :
    arbUp (fabS none) 0 0 0 6 = true ∧ (∀ d ∈ [none, some 23, some 3], (∀ m ∈ (fabS d).fab, m.loc ≠ .source) ∧ (arbOf (fabS d) 0 0 0 6).decided = d)
      ∧ (arbElig (fabS (some 23)) 0 0 0 6).any (fun m => arbInput m == 23) = true ∧ (∀ m ∈ arbElig (fabS (some 3)) 0 0 0 6, arbInput m ≠ 3)
      ∧ arbUp fabE 0 0 0 6 = true ∧ (arbOf fabE 0 0 0 6).decided = none ∧ arbElig fabE 0 0 0 6 = [] ∧ (∀ m ∈ fabE.fab, m.loc ≠ .source) := by decide +kernel
theorem test_wit_arbiter_parked :
    (arbElig (fabDuring fabE [.send fabReqS]) 0 0 0 6).any (fun n => some (arbInput n) == (arbOf fabE 0 0 0 6).last) = true := by
  rw [fab_during_shape, fab_space_shape]
  split <;> decide +kernel

theorem test_wit_arb_commit :
    let n := onState [44]
    let b := wrB n (reg (pgFab 0) R_ARB_COMMIT) 1 true
    isMaster 0x40 = true ∧ verdict n 0x40 (pgFab 0) R_ARB_COMMIT 1 = .perform ∧ rdB n (reg (pgFab 0) R_ARB_COMMIT) 1 = false
      ∧ verdict b 0x40 (pgFab 0) R_ARB_COMMIT 1 = .perform ∧ rdB b (reg (pgFab 0) R_ARB_COMMIT) 1 = true ∧ domOn n 44 = true := by decide +kernel

theorem test_wit_seam :
    let s := onState [44, 45]
    let s := wr s (reg (pgSeam 0) R_SEAM_GROUPS) 0xFFFF
    let t := { s with seamRejects := List.replicate 15 (seamKey 0 false 2, 0) }
    let u := { wr s (reg (pgSeam 0) R_SEAM_GROUPS) (0xFF04 + 2 * 2 ^ 36) with seamTests := [seamKey 0 false 2] }
    let v := { s with seamTests := [seamKey 0 false 2] }
    seamOn s 0 = true ∧ seamActive s 0 false 2 = true ∧ s.seamTests = [] ∧ seamActive t 0 false 2 = true ∧ seamLanes t 0 false ≠ []
      ∧ (s.seamRejects.filter (fun r => r.1 == seamKey 0 false 2 && decide (refcnt s 25 - r.2 ≤ 1000000))).length < 15
      ∧ 15 ≤ (t.seamRejects.filter (fun r => r.1 == seamKey 0 false 2 && decide (refcnt t 25 - r.2 ≤ 1000000))).length
      ∧ seamOn v 0 = true ∧ rdF v (reg (pgSeam 0) R_SEAM_GROUPS) 37 36 = 0 ∧ 2 ≤ 2 - rdF v (reg (pgSeam 0) R_SEAM_GROUPS) 37 36
      ∧ seamOn u 0 = true ∧ rdF u (reg (pgSeam 0) R_SEAM_GROUPS) 37 36 = 2 ∧ rdB u (reg (pgSeam 0) R_SEAM_STATUS) 3 = false := by decide +kernel

/-- Port 1 in a state. -/
def portS (st : Nat) (ctl : Word) : State := wr (wr (onState [40, 44]) (kPort 1 R_LINK_STATUS) (w64 st)) (kPort 1 R_LINK_CTL) ctl
theorem test_wit_link_ports :
    verdict (portS 0 0) 0x40 (pgPort 1) R_LINK_CTL (ctlWord (portS 0 0) 1 true false) = .perform ∧ rdB (portS 0 0) (kPort 1 R_LINK_CTL) 0 = false
      ∧ (portS 0 0).portDisabled = [] ∧ verdict (portS 4 1) 0x40 (pgPort 1) R_LINK_CTL (ctlWord (portS 4 1) 1 false false) = .perform
      ∧ rdB (portS 4 1) (kPort 1 R_LINK_CTL) 0 = true ∧ verdict (portS 4 1) 0x40 (pgPort 1) R_LINK_CTL (ctlWord (portS 4 1) 1 true true) = .perform
      ∧ domOn (portS 1 1) (40 + 1 / 4) = true ∧ portState (portS 1 1) 1 = 1 ∧ rdB (portS 0x81 1) (kPort 1 R_LINK_STATUS) 7 = true ∧ portState (portS 0x81 1) 1 = 1
      ∧ nGet (portS 1 1).trainFails 1 ≠ 2 ∧ nGet ({ portS 1 1 with trainFails := [(1, 2)] }).trainFails 1 = 2 ∧ portState (portS 4 1) 1 = 4
      ∧ portState (portS 2 1) 1 = 2 ∧ rdB (portS 2 1) (kPort 1 R_LINK_STATUS) 5 = false ∧ rdB (portS 2 1) (kPort 1 R_LINK_STATUS) 3 = false
      ∧ verdict (portS 2 1) 0x40 (pgPort 1) R_LINK_MAC (w64 0x20000000001) = .perform ∧ macOk 0x20000000001 1 = true ∧ macOk 0x20000000002 1 = false
      ∧ verdict (portS 2 1) 0x40 (pgPort 1) R_LINK_MAC (w64 0x20000000002) = .perform
      ∧ rdB (portS 10 1) (kPort 1 R_LINK_STATUS) 3 = true ∧ portState (portS 10 1) 1 = 2 ∧ portUp (portS 4 1) 1 = true ∧ portHears (portS 4 1) 1 = true ∧ rdB (portS 4 1) (kPort 1 R_LINK_STATUS) 3 = false
      ∧ hemHeld (portS 2 1) 9 = false ∧ hemHeld (portS 10 1) 9 = false ∧ isMaster 0x40 = true := by decide +kernel

/-- Entry 16 of Panel 0, loaded with rank 7, grants of 4, port 1 UP in native mode with its address. -/
def linkS : State :=
  let s := portS 0xC 1
  let s := wr (wr (wr s (kLnk 0 R_LNK_SELF_RANK) 5) (kLnk 0 R_LNK_REPLAY_SIZE) 100) (kPort 1 R_LINK_MAC) 0x20000000001
  let s := wr (wr s (kPtr 16 R_PTR_CFG0) (w64 (2 ^ 63 + 2 ^ 62 + 0xFFFF * 2 ^ 44))) (kPtr 16 R_PTR_CFG1) (w64 (4 + 4 * 2 ^ 10 + 4 * 2 ^ 20 + 4 * 2 ^ 30 + 7 * 2 ^ 40 + 2 ^ 56))
  setPtr (wr s (kPtr 16 R_PTR_STATE) (w64 (0xFFFF * 2 ^ 8 + 1))) 16 { Partner.rst with key := some (.pair 0 5 7 1) }
def frameW (type seq ack : Nat) : WFrame :=
  sealTag (some (.pair 0 5 7 1)) { bareFrame 2 1 with type := type, srcRank := 7, dst := 5, seq := seq, ackSeq := ack, epoch := 1 }
def chkOk (f : WFrame) : RxCheck := ⟨0, false, true, .start (w64 (0x20000000001 + frameWords8 f * 2 ^ 48 + 2 ^ 58))⟩
/-- The premises of `FrameOk` as one check. -/
def frameOkB (s : State) (f : WFrame) (dest : RxTo) : Bool :=
  portHears s 1 && headOk s 1 (chkOk f).head f && f.ver == 1 && decide (f.type < 4) && f.len == 0 && f.payload.length == f.len
    && decide (entryOf s f.srcRank = some 16) && linkUp s (ptrPanel 16) && ptrState s 16 != 3 && ptrState s 16 != 4 && decide (rxTo s 16 f = some dest)
    && f.epoch == ptrEpoch s 16 && tagOk (rxKey s dest) f
theorem frameOk_of_frameOkB {s : State} {f : WFrame} {dest : RxTo} (h : frameOkB s f dest = true) : FrameOk s 1 f (chkOk f) 16 dest := by
  simp only [frameOkB, Bool.and_eq_true, decide_eq_true_eq, beq_iff_eq, bne_iff_ne] at h
  obtain ⟨⟨⟨⟨⟨⟨⟨⟨⟨⟨⟨⟨h1, h2⟩, h3⟩, h4⟩, h5⟩, h6⟩, h7⟩, h8⟩, h9⟩, h10⟩, h11⟩, h12⟩, h13⟩ := h
  exact ⟨h1, ⟨rfl, h2, .inr rfl⟩, ⟨h3, h4, by omega, fun _ => h5, h6⟩, h7, ⟨h8, h9, h10⟩, h11, .inr h12, h13⟩
theorem test_wit_frames_received :
    let z := setPtr linkS 16 { ptrOf linkS 16 with unacked := [⟨frameW 0 0 0, 1, 0, none, 0⟩, ⟨frameW 0 1 0, 1, 0, none, 1⟩] }
    let h := setPtr linkS 16 { ptrOf linkS 16 with held := [⟨frameW 0 1 0, 1, false⟩] }
    let fr := wrB linkS (kPtr 16 R_PTR_STATE) 3 true
    frameOkB linkS (frameW 0 0 0) (.uni 16) = true ∧ ptrFrozen linkS 16 = false ∧ heldCls linkS 16 2 = [] ∧ rxSeq linkS 16 2 = 0 ∧ grantOf linkS 16 2 = 4
      ∧ frameOkB linkS (frameW 0 9 0) (.uni 16) = true ∧ frameOkB h (frameW 0 1 0) (.uni 16) = true ∧ (∃ x ∈ heldCls h 16 2, x.f.seq = 1)
      ∧ frameOkB fr (frameW 0 0 0) (.uni 16) = true ∧ ptrFrozen fr 16 = true
      ∧ frameOkB z (frameW 1 0 1) (.uni 16) = true ∧ freshUni z 16 (frameW 1 0 1) = true ∧ frameOkB z (frameW 2 0 1) (.uni 16) = true ∧ (∀ u ∈ (ptrOf z 16).unacked, u.f.cls < 4)
      ∧ frameOkB z (frameW 3 0 1) (.uni 16) = true ∧ freshUni z 16 (frameW 3 0 1) = true
      ∧ maySend z 16 = true ∧ portStarts z 2 1 = true ∧ (frameW 3 0 1).attr % 2 = 1 := by decide +kernel
/-- Entry 16 is the root of group 2, of number 9 there, which this module is a member of. -/
def memberS : State :=
  setGrp (wr linkS (kGrp 2 R_GRP_CFG) (w64 (2 ^ 63 + 2 * 2 ^ 60 + 16 * 2 ^ 20 + 9 * 2 ^ 12))) 2 ⟨some (.group 0 7 9), [], [], [], 0⟩
theorem test_wit_frames_received_2 :
    let f := sealTag (some (.group 0 7 9)) { frameW 0 0 0 with mcast := true, dst := 9 }
    let g : WFrame := { frameW 0 0 0 with tag := none }
    frameOkB memberS f (.member 16 2) = true ∧ f.type = 0 ∧ ptrFrozen memberS 16 = false ∧ grpSeq memberS 2 ≤ f.seq ∧ (grpOf memberS 2).held = []
      ∧ f.seq < grpSeq memberS 2 + grantOf memberS 16 (grpClass memberS 2)
      ∧ { g with tag := (frameW 0 0 0).tag } = frameW 0 0 0 ∧ g.type = 0 ∧ tagOk (ptrOf linkS 16).key g = false
      ∧ portHears linkS 1 = true ∧ headOk linkS 1 (.start 0) g = false ∧ 4 ≤ (frameW 5 0 0).type := by decide +kernel

/-- Ports 1 and 2 UP, entry 16 with two frames unacknowledged and one accepted, group 3 a root with leg entry 16 attached or not and one frame retained. -/
def sendS (attached : Bool) : State :=
  let s := wr linkS (kPort 2 R_LINK_STATUS) 0xC
  let s := setPtr s 16 { ptrOf s 16 with unacked := [⟨frameW 0 0 0, 1, 0, none, 0⟩, ⟨frameW 0 1 0, 1, 0, none, 1⟩], since := [(2, 1)] }
  let s := wr (wr s (kGrp 3 R_GRP_CFG) (w64 (2 ^ 63 + 2 ^ 62 + 2 * 2 ^ 60 + 2 ^ 32 + 16 * 2 ^ 20))) (kGrp 3 R_GRP_ADDR) (w64 (2 ^ 41 + 2 ^ 40))
  setGrp s 3 ⟨some (.group 0 5 3), [⟨16, 0, attached, 0, 1⟩], [⟨frameW 0 0 0, 1, 0, 2, [(0, ⟨frameW 0 0 0, 1, 0, none, 2⟩)]⟩], [], 1⟩
theorem test_wit_frames_sent :
    let s := sendS true
    let c := { s with outbox := [(false, 16, bareFrame 1 0)] }
    let b := wrB s (kPtr 16 R_PTR_STATE) (8 + 1) false
    maySend s 16 = true ∧ opFits (frameW 0 0 0) = true ∧ avail s 16 2 ≠ 0 ∧ nextPort (startPorts s 16 2) (nGet (ptrOf s 16).next 2) = some 1 ∧ (portTurn s 1 2 0).2 = true
      ∧ maySend c 16 = true ∧ avail c 16 2 ≠ 0 ∧ nextPort (startPorts c 16 2) (nGet (ptrOf c 16).next 2) = some 1 ∧ (portTurn c 1 2 0).2 = false
      ∧ nGet (ptrOf s 16).since 2 ≠ 0 ∧ startPorts s 16 2 = [1, 2]
      ∧ oldestTx s 16 2 = some ⟨frameW 0 0 0, 1, 0, none, 0⟩ ∧ rdB b (kPtr 16 R_PTR_CFG0) (44 + 1) = true ∧ rdB b (kPtr 16 R_PTR_STATE) (8 + 1) = false
      ∧ maySend b 16 = true ∧ portUp b 1 = true ∧ portStarts b 1 1 = true ∧ linkUp s (ptrPanel 16) = true ∧ ptrValid s 16 = true ∧ rdB s (kPtr 16 R_PTR_CFG0) 62 = true
      ∧ ptrState s 16 = 1 := by decide +kernel
theorem test_wit_group_frames_sent :
    let s := sendS true
    let d := sendS false
    grpReady s 3 = true ∧ opFits (frameW 0 0 0) = true ∧ grpPort s 3 = some 1 ∧ (portTurn s 1 (grpClass s 3) 0).2 = true ∧ linkUp s (grpPanel 3) = true
      ∧ ((grpOf s 3).retained.find? (fun r => waitsAttached (grpOf s 3) r != [])).isSome = true ∧ grpStarts s 3 ≠ []
      ∧ (grpOf d 3).legs[0]? = some ⟨16, 0, false, 0, 1⟩ ∧ ((grpOf d 3).retained.find? (fun r => r.legs.any (fun x => x.1 == 0))).any (fun r => decide (r.f.seq < 1) && legPort r 0 == 1) = true
      ∧ maySend d 16 = true ∧ 2 ∈ startPorts d 16 (grpClass d 3) ∧ startPorts s 16 (grpClass s 3) ≠ []
      ∧ (grpOf s 3).since ≠ 0 ∧ rdF s (kGrp 3 R_GRP_CFG) 31 20 = 16 := by decide +kernel

/-- Entry 16 with one accepted frame of class 2 to be written into core 0's store, or handed to a collective engine. -/
def ingressS (opc attr : Nat) (win : Bool) : State :=
  let f := { frameW 0 0 0 with opc := opc, attr := attr, len := 2, payload := [7, 8], addr := 0x8000100040 }
  let s := setState (setState linkS 0 2) 44 2
  let s := if win then wr (wr s (reg (pgMnt 0) R_MNT_WIN_word_0) 0x3FF) (reg (pgMnt 0) R_MNT_WIN_word_1) 0x810FFFF001 else wr s (reg (pgMnt 0) R_MNT_WIN_word_1) 0
  setPtr (wr s (kPtr 16 (R_PTR_RX_SEQ0 + 16)) 1) 16 { ptrOf s 16 with held := [⟨f, 1, false⟩] }
theorem test_wit_ingress :
    let s := ingressS 0 0 true
    let v := ingressS 0 0 false
    let e := ingressS 1 0x48 true
    let h := (nextRx s (.entry 16 2)).getD ⟨frameW 0 0 0, 0, false⟩
    linkUp s (ptrPanel 16) = true ∧ ptrFrozen s 16 = false ∧ nextRx s (.entry 16 2) = some h ∧ toEngineMid h.f = none ∧ h.f.opc = 0 ∧ h.f.len = 2 ∧ h.f.payload.length = h.f.len
      ∧ h.port = 1 ∧ regionOf h.f.addr = .data 0 ∧ oneRegion h.f.addr 2 = true ∧ csAnswers s 0 h.f.addr 2 = true ∧ mayWrite s 0x61 h.f.addr 2 = true
      ∧ nextRx v (.entry 16 2) = some h ∧ mayWrite v 0x61 h.f.addr 2 = false ∧ h.handed = false ∧ csAnswers v 0 h.f.addr 2 = true
      ∧ (nextRx e (.entry 16 2)).any (fun h => decide (toEngineMid h.f = some 0x48)) = true := by decide +kernel

theorem test_wit_partners :
    let s := wr (wr linkS (kLnk 0 R_LNK_STAGE_CFG0) (w64 (2 ^ 37))) (kLnk 0 R_LNK_STAGE_CFG1) (w64 (1 + 9 * 2 ^ 40))
    let a := setPtr (wrF linkS (kPtr 16 R_PTR_STATE) 2 0 4) 16 { ptrOf linkS 16 with auditOp := 2 }
    let b := setPtr a 16 { ptrOf a 16 with sent := [(2, 9)] }
    let v := wrB linkS (kGrp 3 R_GRP_CFG) 63 true
    isMaster 0x40 = true ∧ verdict s 0x40 (pgLink 0) R_PARTNER_CMD (partnerCmd 1 17) = .perform ∧ rdB s (kLnk 0 R_PARTNER_CMD_STAT) 0 = false ∧ partnerRefusal s 0 1 17 = none
      ∧ partnerRefusal s 0 1 16 = some 2 ∧ verdict s 0x40 (pgLink 0) R_PARTNER_CMD (partnerCmd 2 16) = .perform ∧ partnerRefusal s 0 2 16 = none
      ∧ partnerRefusal s 0 2 17 = some 2 ∧ verdict s 0x40 (pgLink 0) R_PARTNER_CMD (partnerCmd 3 16) = .perform ∧ partnerRefusal s 0 3 16 = none
      ∧ linkUp a (ptrPanel 16) = true ∧ ptrState a 16 = 4 ∧ (∀ c, c < 4 → outstanding a 16 c ≤ grantOf a 16 c ∧ slotsHeld a 16 c ≤ grantOf a 16 c)
      ∧ ¬ outstanding b 16 2 ≤ grantOf b 16 2
      ∧ verdict linkS 0x40 (pgGroup 0) (R_GRP_CFG + 64 * 3) (w64 (2 ^ 63)) = .perform ∧ grpValid linkS 3 = false ∧ grpValid v 3 = true ∧ (grpOf v 3).retained = []
      ∧ verdict v 0x40 (pgGroup 0) (R_GRP_CFG + 64 * 3) 0 = .perform ∧ verdict s 0x40 (pgLink 0) R_LNK_SELF_RANK 7 = .perform := by decide +kernel

/-- A collective descriptor of set 0: source and destination tile descriptors in core 0's store. -/
def collD (op more : Nat) : Desc := BitVec.ofNat 512 (0x8000100040 + 0x8000100080 * 2 ^ 64 + 9 * 2 ^ 144 + op * 2 ^ 224 + 2 ^ 232 + more)
/-- A command of one FP32 source and destination. -/
def collC (op n m more : Nat) (started : Bool) : CollCmd :=
  ⟨0, collD op more, tileD 0x8000101000 1 n 1 0, [tileD 0x8000103000 1 m 1 0], started, [m], [], 0, ⟨0, 0, 0, 0, 0, 0⟩, [], false⟩
/-- Panel 0 and core 0 ON; set 0 of two members, this module at position 0, entry 16 at position 1, group 3. -/
def collS (cs : List CollCmd) : State :=
  let s := wr (wrB (onState [0, 44]) (kCore 0 R_DL_STATUS) 0 true) (kSet 0 0) (w64 (2 ^ 63 + 2 * 2 ^ 40 + 3 * 2 ^ 8))
  setColl (wr s (reg (pgColl 0 + 1) (R_Member_entry + 8)) 16) 0 cs
/-- Pocket 9 holds a message for the engine: the address of a descriptor. -/
def collMsg (d : Desc) : State :=
  let s := wr (collS []) (reg (pgBind 0) (R_PKT_BIND + 72)) (w64 (2 ^ 63 + 0x48 * 2 ^ 8))
  let s := wrB (wr s (reg (pgPocket 9) R_PKT_MSG) 0x8000100000) (reg (pgPocket 9) R_PKT_STATUS) 0 true
  let put := fun (s : State) (a : Nat) (d : Desc) => { s with mem := putCells s.mem a (valBytes 64 d.toNat) }
  put (put (put s 0x8000100000 d) 0x8000100040 (tileD 0x8000101000 1 16 1 0)) 0x8000100080 (tileD 0x8000103000 1 32 1 0)
theorem test_wit_collectives_take :
    let s := collMsg (collD 0 0)
    collPocket s 0 = some 9 ∧ engOn s 0 (pgColl 0) = true ∧ frozen s (collMid 0) = false ∧ (collOf s 0).length < 64 ∧ memWaits s 0x8000100000 = false
      ∧ (∀ op ∈ [0, 3], let s := collMsg (collD op 0)
        let h := descsRead (pktTake s 9) 0x8000100000 1
        let d := nth 0 h.2.2 0
        let sr := descsRead h.1 (bits d 63 0) 1
        let ds := descsRead sr.1 (bits d 127 64) (min (bits d 239 232) 64)
        collRefusal ds.1 0 d (h.2.1 && sr.2.1 && ds.2.1 && decide (bits d 239 232 ≤ 64)) (tileOf (nth 0 sr.2.2 0)) (ds.2.2.map tileOf) = if op = 0 then none else some 1) := by decide +kernel
theorem test_wit_collectives_start :
    ∀ op ∈ [0, 1, 2], let c := collC op (if op = 0 then 16 else 32) (if op = 1 then 16 else 32) 0 false
      let s := collS [c]
      (collOf s 0).find? (fun c => !c.started) = some c ∧ engOn s 0 (pgColl 0) = true ∧ (collOf s 0).countP (fun x => x.started) < 4 ∧ rdB s (reg (pgColl 0) R_COLL_STATUS) 3 = false
        ∧ fullSeen s none c.src.fb = true ∧ (∀ x ∈ c.dsts, emptySeen s none x.fb = true) ∧ (∀ x ∈ c.src :: c.dsts, memWaits s (x.base x.only) = false) ∧ cdOp c.d = op := by decide +kernel

/-- A collective frame of entry 16's first stream in engine 0's inbox. -/
def collIn (kind : Nat) (b : List Byte) (seen : Bool) : EngIn :=
  ⟨0x48, .entry 16 0, { bareFrame 0 (collAttr 0 kind 9 0) with opc := 1, len := b.length, payload := b }, seen⟩
def collRx (kind : Nat) (c : CollCmd) (seen : Bool) : State := { collS [c] with toEngine := [collIn kind (List.replicate 8 0) seen] }
theorem test_wit_collectives_frames :
    (∀ k ∈ [0, 1, 2, 3], let s := collRx k (collC 1 32 16 0 true) false
      let i := collIn k (List.replicate 8 0) false
      engOn s 0 (pgColl 0) = true ∧ engNext s (collMid 0) (collCan s 0) = some i ∧ attrKind i.f.attr = k
        ∧ (cmdOf s 0 (attrId i.f.attr) = some (collC 1 32 16 0 true) ∧ senderPos s 0 0 i = some 1))
      ∧ ∀ k ∈ [3, 4, 5, 15], engNext (collRx k (collC 1 32 16 0 true) false) (collMid 0) (collCan (collRx k (collC 1 32 16 0 true) false) 0) = some (collIn k (List.replicate 8 0) false)
        ∧ attrKind (collIn k (List.replicate 8 0) false).f.attr = k := by decide +kernel
theorem test_wit_collectives_fold :
    let c := collC 1 32 16 0 true
    let s := collRx 0 c true
    let d : CollCmd := { collC 1 32 16 (2 ^ 241 + 2 ^ 240) true with left := [0], folded := [0], words := [(0, 1, 0)] }
    cmdOf s 0 9 = some c ∧ c.started = true ∧ cdOp c.d = 1 ∧ c.folded = [] ∧ 0 < frameCount c.src.fmt (c.chunk s 0)
      ∧ (contribs s 0 c 0).length = (others s 0 (cdSet c.d)).length ∧ c.dsts = [tileOf (tileD 0x8000103000 1 16 1 0)] ∧ c.chunk s 0 = 16 ∧ c.left = [16]
      ∧ engOn (collS [d]) 0 (pgColl 0) = true ∧ (collOf (collS [d]) 0).find? (collFinished (collS [d]) 0) = some d ∧ bitAt d.d 241 = true ∧ cdClose d.d = true
      ∧ rdF (collS [d]) (kSh 0 0 R_SH_CFG) 62 61 = 0 := by decide +kernel

/-- The closing phase at a stage; set 0 of two members serves both stages where enabled; entry 16's word may have come. -/
def closeS (stage : Nat) (word : Word) (got : List (Nat × Nat × Word)) : State :=
  let s := wr (collS []) (kColl 0 R_COLL_CLOSE_CFG) 0x8000
  let s := wr s (kSh 0 2 R_SH_CFG) (w64 (2 ^ 63 + 2 * 2 ^ 61 + 16))
  { s with closing := ⟨stage, [], word, got⟩ }
theorem test_wit_closing :
    let a := closeS 1 0 []
    let b := closeS 2 3 [(1, 16, 5)]
    let c := closeS 3 (w64 (2 ^ 63)) []
    a.closing.stage = 1 ∧ (∀ p, p < 4 → collOf a p = []) ∧ allLedger a 2 = true
      ∧ b.closing.stage = 2 ∧ ((others b 0 0).map (member b 0 0)) = [16] ∧ rdB b (kColl 0 R_COLL_CLOSE_CFG) 15 = true
      ∧ rdF b (kColl 0 R_COLL_CLOSE_CFG) 13 8 = 0 ∧ (b.closing.got.find? (fun g => g.1 == 1 && g.2.1 == 16)).isSome = true
      ∧ c.closing.stage = 3 ∧ rdB c (kColl 0 R_COLL_CLOSE_CFG) 7 = false ∧ bitAt c.closing.word 63 = true ∧ bitAt (closeS 3 0 []).closing.word 63 = false
      ∧ shValid c 0 2 = true ∧ shLedger c 0 2 = 2 := by decide +kernel

/-- Shard entry 2 of Panel 0 in a ledger state: 16 FP32 elements, rule 1, planes and gradient in core 0's store. -/
def shardS (ledger : Nat) : State :=
  let s := wr (collS []) (kSh 0 2 R_SH_CFG) (w64 (2 ^ 63 + ledger * 2 ^ 61 + 2 ^ 56 + 16))
  wr (wr s (kSh 0 2 R_SH_STATE_BASE) 0x8000200000) (kSh 0 2 R_SH_GRAD) 0x8000100000
theorem test_wit_optimizers :
    let s := shardS 1
    let d : State := { s with optWritten := [2] }
    let c : State := { s with optDue := [0, 1] }
    let w := wrB c (kRec 0 R_REC_STATUS) 2 true
    let z := wr (wr (wr s (kRec 0 R_REC_INGEST) 0x8000400000) (reg (pgMnt 0) R_MNT_WIN_word_0) 0x3FF) (reg (pgMnt 0) R_MNT_WIN_word_1) 0x810FFFF001
    let a : State := { z with svc := { z.svc with advance := true } }
    domOn s (44 + 0) = true ∧ frozen s 0x4C = false ∧ shValid s 0 2 = true ∧ shLedger s 0 2 = 1 ∧ s.optWritten = [] ∧ optHeld s = false ∧ shRule s 0 2 = 1
      ∧ memWaits s (shBase s 0 2) = false ∧ memWaits s (rdF s (kSh 0 2 R_SH_GRAD) 63 6 * 64) = false ∧ 4096 * 0 + 2 ∈ d.optWritten
      ∧ 0 ∈ c.optDue ∧ rdB c (kRec 0 R_REC_STATUS) 2 = false ∧ c.optWaited = [] ∧ rdB w (kRec 0 R_REC_STATUS) 2 = true
      ∧ blockHeld s (pgOpt 0) = false ∧ (∀ k ∈ shEntries c 0, memWaits c (shBase c 0 k) = false) ∧ (∀ k ∈ shEntries w 0, memWaits w (shBase w 0 k) = false)
      ∧ svcRuns s = true ∧ s.svc.stopFor = none ∧ s.svc.advance = false ∧ s.svc.stopped = false ∧ s.closing.stage = 0 ∧ s.optDue = []
      ∧ svcRuns a = true ∧ a.svc.stopFor = none ∧ a.svc.advance = true ∧ a.svc.stopped = false ∧ a.closing.stage = 0 ∧ a.optDue = []
      ∧ regionOf (cursorAt a) = .data 0 ∧ csAnswers a 0 (cursorAt a) 8 = true ∧ mayWrite a 0x40 (cursorAt a) 8 = true := by decide +kernel

/-- Panel 0 and its HBM ON, REC_STATUS, step and shard entries in a state. -/
def recS (stat step ledger : Nat) : State :=
  let s := wr (wr (shardS ledger) (kRec 0 R_REC_STATUS) (w64 stat)) (kOpt 0 R_NUM_STEP) (w64 step)
  let s := wr (wr s (kRec 0 R_REC_INGEST) 0x8000400000) (kRec 0 R_REC_CFG) (w64 (2 ^ 16 + 16))
  wr (wr s (kPtr 16 R_PTR_CFG0) (w64 (2 ^ 63))) (kPtr 16 R_PTR_STATE) 1
theorem test_wit_recovery_commands :
    let s := recS 0 0 0
    let may := fun (s : State) (v : Word) => verdict s 0x40 (pgRec 0) R_REC_CMD v = .perform
    let u : State := { s with recov := { s.recov with restored := true } }
    let under : State := { s with recov := { s.recov with op := 6 } }
    isMaster 0x40 = true ∧ s.recov.op = 0 ∧ under.recov.op ≠ 0 ∧ may under 1 ∧ may s 1 ∧ rdB s (kRec 0 R_REC_STATUS) 4 = false ∧ may (recS 16 0 0) 1 ∧ rdB (recS 16 0 0) (kRec 0 R_REC_STATUS) 4 = true
      ∧ (∀ r ∈ [false, true], let b := recBegun s (if r then 3 else 2) false
          may s (if r then 3 else 2) ∧ allLedger b 0 = true ∧ (stampOk b 0).2 = true ∧ (stampOk b 7).2 = false)
      ∧ allLedger (recBegun (recS 0 0 1) 2 false) 0 = false ∧ ptrValid s 16 = true ∧ ptrState s 16 = 1 ∧ ptrValid s 0 = false
      ∧ rdF s (kRec 0 R_REC_CFG) 11 0 = 16 ∧ rdF s (kRec 0 R_REC_ARG1) 11 0 = 0
      ∧ may s 4 ∧ (localCheck (stampOk (recBegun s 4 false) 0).1 0).2.1 = some 2 ∧ may s 5 ∧ s.recov.restored = false ∧ may u 5 ∧ u.recov.restored = true
      ∧ may s 6 ∧ coresReset s = true ∧ coresReset (setCtx s 0 0 { Ctx.rst with st := .ready }) = false ∧ may s 7 ∧ may s 0x107
      ∧ rdB (recS 32 0 2) (kRec 0 R_REC_STATUS) 5 = true ∧ allLedger (recS 32 0 2) 2 = true ∧ (recS 32 0 2).optDue = []
      ∧ may s 8 ∧ rdB (recS 32 3 0) (kRec 0 R_REC_STATUS) 5 = true ∧ allLedger (recS 32 3 0) 0 = true ∧ (localCheck (recBegun (recS 32 3 0) 8 false) 2).2.1 = some 2
      ∧ may (recS 32 3 0) 8 ∧ may s 9 ∧ may (recS 32 3 0) 9 := by decide +kernel
/-- The four local slots of step 2 sealed, with no regions, in core 0's store; the batch at the ingest cursor has stamp 2. -/
def slotsS : State :=
  let s := wr (recS 32 3 0) (kRec 0 R_REC_ARG0) 2
  let s := (List.range 4).foldl (fun s p => wr s (kRec p R_REC_SNAP_BASE) 0x8000500000) s
  { s with mem := putCells (putCells (putCells (putCells s.mem 0x8000500000 [2]) 0x8000500020 [1]) 0x8000400000 (valBytes 8 0x8000400008)) 0x8000400008 [2] }
theorem test_wit_recovery_slots :
    let b := recBegun slotsS 4 false
    allLedger b 0 = true ∧ (stampOk b 2).2 = true ∧ (localCheck (stampOk b 2).1 2).2.1 = none ∧ verdict slotsS 0x40 (pgRec 0) R_REC_CMD 4 = .perform
      ∧ (localCheck (recBegun slotsS 8 false) 2).2.1 = none ∧ verdict slotsS 0x40 (pgRec 0) R_REC_CMD 8 = .perform := by decide +kernel

/-- A request in recovery engine 0's inbox. -/
def recReq (ws : List Nat) (s : State) : State := { s with toEngine := [⟨0x50, .entry 16 2, recFrame 0 0 ws, false⟩] }
theorem test_wit_recovery_engines :
    let s := recS 0 2 0
    let due : State := { s with sealDue := [0, 4] }
    let asked := fun (ws : List Nat) => (nextRequest (recReq ws s) 0 (fun k => k == 0 || k == 1 || k == 2 || k == 4)).map (fun i => recWord i.f 0)
    engOn s 0 (pgRec 0) = true ∧ 0 ∈ due.sealDue ∧ due.svc.advance = false ∧ s.svc.advance = false ∧ memWaits s (localSlot s 0 2) = false ∧ rdB s (kRec 0 R_REC_STATUS) 3 = false ∧ s.mirHeader = none ∧ recStep s = 2
      ∧ asked [1, 3] = some 1 ∧ asked [2, 3] = some 2 ∧ asked [1, 2, 0, 0, 7] = some 1 ∧ partLen s 0 ≠ 7 ∧ asked [1, 2, 0, 0, partLen s 0, 0, 0, 64] = some 1
      ∧ asked [0, 2, 0, 5, 0, 0x8000500000] = some 0 ∧ hdrRefusal (hdrRead (recReq [0, 2, 0, 5, 0, 0x8000500000] s) 0x8000500000).2 2 0 true = some 2
      ∧ (let z : State := { recReq [0, 2, 0, 5, 0, 0x8000500000] s with mem := putCells (putCells s.mem 0x8000500000 [2]) 0x8000500020 [5] }; hdrRefusal (hdrRead z 0x8000500000).2 2 0 true = none ∧ (hdrRead z 0x8000500000).2.bytes = 0)
      ∧ (∀ n ∈ [2, 3], let z := recReq [3, n] s; (nextRequest z 0 (fun k => k == 3)).isSome = true ∧ ∀ q, q < 4 → q ≠ 0 → nextRequest z q (fun k => k == 3) = none)
      ∧ rdB (recS 8 2 0) (kRec 0 R_REC_STATUS) 3 = true ∧ (recS 8 2 0).outbox = [] ∧ s.svc.recCmd = none ∧ s.toEngine = []
      ∧ (∀ op ∈ [2, 6], let z : State := { s with recov := ⟨op, false, none, 0, 0, false⟩ }; z.recov.op ≠ 0 ∧ abandonDone z = true ∧ z.recov.asked = 0)
      ∧ ({ s with recov := ⟨5, false, some 6, 3, 0, true⟩ } : State).recov.result = some 6 := by decide +kernel

/-- The Mantle's next command is the word of word Pocket 0; PD_44 and the control port are ON. -/
def mntS (v : Word) : State :=
  let s := wr (wr (onState [44, 48]) (reg (pgWord 0) R_WP_WORD) v) (reg (pgWord 0) R_WP_STATUS) 1
  { s with mnt := { s.mnt with order := [0] } }
def mntReadyB (s : State) (op : Nat) : Bool :=
  !hemHeld s 29 && decide (s.mnt.order.head? = some 0) && bits (mntWord s 0) 63 56 == op && s.mnt.endCmd.all (fun e => e.1 != 0)
    && decide (s.mnt.order.filter (fun x => x != 0) = []) && !wpGo s 8 && s.mnt.out.all (fun a => a.1 != 8) && domOn s 44 && domOn s 48
def mntOp (op arg : Nat) : Word := w64 (op * 2 ^ 56 + 5 * 2 ^ 48 + arg)
theorem test_wit_mantle_commands :
    (∀ op ∈ mntOps, mntReadyB (mntS (mntOp op 0)) op = true)
      ∧ bits (mntOp 1 0x23) 7 0 = 0x23 ∧ isMaster 0x23 = true ∧ isMantle 0x23 = false ∧ isMaster 0x47 = false ∧ (pageMids (pgCore 3)).contains 0x23 = true
      ∧ (mntS 0).breached = [] ∧ ptrValid (mntS 0) 0 = false ∧ ptrValid (wr (mntS 0) (kPtr 0 R_PTR_CFG0) (w64 (2 ^ 63))) 0 = true
      ∧ allIdle (mntS 0) = true ∧ allIdle (setCtx (mntS 0) 3 1 { Ctx.rst with st := .ready }) = false ∧ (mntS 0).mnt.job = none
      ∧ fwIndex 9 0 = none ∧ fwIndex 1 0 = some 1 ∧ fwIndex 2 0 = some 8 ∧ (mntS 0).mnt.upd = none ∧ coreDrained (setCtx (setState (mntS 0) 0 2) 0 0 { Ctx.rst with st := .ready }) 0 = false
      ∧ firmwareOf (readStaged (bump (mntTake (mntS (mntOp 0x30 (2 ^ 40))) 0) (pgMnt 0) R_MNT_CMD_CNT) 0).2 = none
      ∧ reducedService (mntS 0) = false ∧ darnBlock 0x70 = none ∧ darnBlock 3 = some (kCore 3 R_DARN, 128, 32)
      ∧ (mntS 0).mnt.att = none := by decide +kernel
theorem test_wit_mantle_reduced :
    let s := wrB (mntS (mntOp 0x34 (3 * 2 ^ 32))) (kMnt R_BLK_STAT) 9 true
    let full : State := { s with mnt := { s.mnt with fuses := (List.range 32).map (fun i => (3, w64 i)) } }
    let more := wr full (kCore 3 R_DARN) (w64 (2 ^ 63))
    reducedService s = true ∧ mntReadyB s 0x34 = true ∧ ([] : List (Nat × Word)).countP (fun x => x.1 == 3) ≤ 32
      ∧ 32 < (full.mnt.fuses ++ ((validDarns more (kCore 3 R_DARN) 128).filter (fun x => !full.mnt.fuses.contains (3, x))).map (fun x => ((3 : Nat), x))).countP (fun x => x.1 == 3) := by decide +kernel

theorem test_wit_sessions :
    let opened := fun (s : State) (n : Nat) => wrF s (kMnt R_MNT_STATUS) 9 8 n
    (∀ op ∈ [0x10, 0x11, 0x12, 0x13, 0x20], mntReadyB (mntS (mntOp op 213)) op = true ∧ mntReadyB (opened (mntS (mntOp op 213)) 1) op = true
        ∧ session (mntS (mntOp op 213)) = 0 ∧ session (opened (mntS (mntOp op 213)) 1) = 1)
      ∧ bits (mntOp 0x11 213) 15 0 = 213
      ∧ rdB (mntS 0) (kMnt R_MNT_STATUS) 13 = false ∧ rdB (mntS 0) (kMnt R_MNT_STATUS) 15 = false ∧ (mntS 0).mnt.att = none ∧ (mntS 0).mnt.upd = none
      ∧ (∀ p, p < 4 → epochCount (mntS 0) p = 0) ∧ epochCount (wr (mntS 0) (reg (pgCry 2) R_CRY_EPOCH_COUNT) 7) 2 = 7
      ∧ (let s := opened (setState (setState (setState (mntS (mntOp 0x12 0)) 45 2) 46 2) 47 2) 1; mntReadyB s 0x12 = true ∧ session s = 1 ∧ ∀ p, p < 4 → domOn s (44 + p) = true) := by decide +kernel
theorem test_wit_session_end :
    let s := wrF (onState [0, 44, 48, 49]) (kMnt R_MNT_STATUS) 9 8 2
    let e : State := { s with mnt := { s.mnt with endCmd := some (0, 5) } }
    let r := wr e (reg (pgBtn 0xF0) R_BTN_PEND) 0xF00
    session s = 2 ∧ domOn s 44 = true ∧ frozen s 0x40 = false ∧ domState s 49 = 2 ∧ domState s 0 ≠ 0 ∧ e.mnt.order = [] ∧ e.mnt.out = [] ∧ wpGo e 8 = false ∧ domOn e 48 = true
      ∧ r.mnt.scrubOwed = false ∧ scrubRung r = true ∧ scrubRung e = false ∧ ({ s with pwr := { s.pwr with phase := 3 } } : State).pwr.phase ≠ 0 := by decide +kernel

/-- Panel 0 in a rotation: cursor at granule `g` of region 0, `n` regions left. -/
def sweepS (g n : Nat) : State :=
  let s := wr (wr (onState [36, 44]) (reg (pgCry 0) R_CRY_STATUS) 7) (reg (pgHbm 0) R_HBM_STATUS) 1
  wr (wr s (reg (pgCry 0) R_CRY_SWEEP_POS) (w64 g)) (reg (pgCry 0) R_CRY_EPOCH_COUNT) (w64 n)
theorem test_wit_sweep :
    (∀ g ∈ [0, 32767], let s := sweepS g 1
      rdB s (reg (pgCry 0) R_CRY_STATUS) 0 = true ∧ domOn s 44 = true ∧ hbmUp s (64 * g) = true ∧ memWaits s (64 * g) = false ∧ pgCry 0 ∉ s.breached ∧ epochCount s 0 = 1 ∧ retired s (64 * g) = false
        ∧ rdF s (reg (pgCry 0) R_CRY_SWEEP_POS) 14 0 = g ∧ rdF s (reg (pgCry 0) R_CRY_SWEEP_POS) 31 16 = 0)
      ∧ retired (wr (sweepS 0 1) (reg (pgHbm 0) R_HBM_RETIRE) (w64 (2 ^ 63))) 0 = true ∧ hbmUp (wr (sweepS 0 1) (reg (pgHbm 0) R_HBM_RETIRE) (w64 (2 ^ 63))) 0 = true
      ∧ memWaits (wr (sweepS 0 1) (reg (pgHbm 0) R_HBM_RETIRE) (w64 (2 ^ 63))) 0 = false := by decide +kernel

/-- The module at a step of the power-up sequence. -/
def stepS (phase : Nat) (main held : Bool) : State :=
  let s := onState [44, 45, 46, 47, 48, 49]
  { s with pwr := { s.pwr with phase := phase, mainGood := main, resetHeld := held } }
theorem test_wit_power_sequence :
    let z := stepS 0 false false
    let n : State := { z with mnt := { z.mnt with fw := [(0, ⟨true, ⟨false, 0, 0⟩, ⟨false, 0, 0⟩⟩)] } }
    let c := wrB (stepS 4 true false) (reg pgCp R_CP_STATUS) 1 true
    let b := wrB (wrB (stepS 6 true false) (reg (pgBtn 0xF0) R_BTN_PEND) 12 true) (kMnt R_BLK_STAT) 9 true
    let full := (List.range 8).foldl (fun s st => wr s (reg (pgHbm st) R_HBM_STATUS) 2) ((List.range 4).foldl (fun s n => wr s (reg (pgSeam n) R_SEAM_STATUS) 1)
      ((List.range 32).foldl (fun s d => setState s d 0) b))
    z.pwr.phase = 0 ∧ (tabGet (fun _ => FwSlots.rst) z.mnt.fw 0).a.ok = true ∧ (tabGet (fun _ => FwSlots.rst) n.mnt.fw 0).a.ok = false ∧ (tabGet (fun _ => FwSlots.rst) n.mnt.fw 0).b.ok = false
      ∧ (stepS 3 false false).pwr.mainGood = false ∧ domOn c 48 = true ∧ rdB c (reg pgCp R_CP_STATUS) 1 = true ∧ c.pwr.phase = 4 ∧ c.pwr.tripped = false
      ∧ rdB b (reg (pgBtn 0xF0) R_BTN_PEND) 12 = true ∧ domState b 49 = 2 ∧ reducedService b = true ∧ fullService b = false ∧ fullService full = true
      ∧ rdB full (reg (pgBtn 0xF0) R_BTN_PEND) 12 = true ∧ domState full 49 = 2 ∧ reducedService full = true
      ∧ (stepS 4 true false).pwr.mainGood = true ∧ (stepS 4 true false).pwr.resetHeld = false ∧ (stepS 3 true true).pwr.resetHeld = true := by decide +kernel

/-- The rails of Panel 0 up, VCORE and its setting as given, core 0 ON and calibrated. -/
def railS (v want : Nat) (forced : Bool) : State :=
  let s := wrB (setState (stepS 6 true false) 0 2) (kCore 0 R_DL_STATUS) 0 true
  setRail (setVcore s 0 v) 0 { RailSt.rst with want := want, forced := forced }
theorem test_wit_domains :
    let s := setState (stepS 6 true false) 3 2
    let may := fun (s : State) (d q : Nat) => verdict s 0x40 (pgPwr (domPanel d)) (R_PWR_DOMAIN + 8 * d) (w64 q) = .perform
    let busy := wrF (wrB s (kDom 3) 7 true) (kDom 3) 1 0 1
    isMaster 0x40 = true ∧ may s 49 2 ∧ may busy 3 0 ∧ rdB busy (kDom 3) 7 = true ∧ may s 3 0 ∧ rdB s (kDom 3) 7 = false ∧ takesState 3 0 = true ∧ breaksConstraint s 3 0 = false ∧ coreDrained s 3 = true
      ∧ coreDrained (setCtx s 3 0 { Ctx.rst with st := .ready }) 3 = false ∧ domState s 3 = 2 ∧ takesState 48 0 = false ∧ may s 48 0
      ∧ (let z := setState s 44 0; breaksConstraint z 3 2 = true ∧ domState z 44 = 0) ∧ breaksConstraint s 44 0 = true ∧ may s 44 0
      ∧ flushFirst s 3 1 = false ∧ domState busy 3 = 2
      ∧ (let z := setState (setState s 36 2) 32 2; flushFirst z 36 0 = true ∧ rdB z (reg (pgLlc 0) R_LLC_STATUS) 17 = false ∧ may z 36 0) := by decide +kernel
theorem test_wit_loops :
    let s := railS 700 700 false
    railsUp s 0 = true ∧ (railOf s 0).want ≤ vcore s 0 ∧ (railOf s 0).crit = [] ∧ domOn s 0 = true ∧ rdB s (kCore 0 R_DL_STATUS) 0 = true
      ∧ railsUp (railS 650 700 true) 0 = true ∧ ¬ (railOf (railS 650 700 true) 0).want ≤ vcore (railS 650 700 true) 0
      ∧ rdF s (reg (pgPwr 0) R_PWR_THR_CFG) 15 8 = 110 ∧ rdF s (reg (pgPwr 0) R_PWR_THR_CFG) 7 0 = 95
      ∧ (railOf (railS 650 700 true) 0).forced = true ∧ (railOf s 0).raised + 1000000 ≤ refcnt (wr (railS 650 700 true) (reg (pgHem 29) R_HEM_REFCNT) 1000000) 29
      ∧ s.pwr.phase ≠ 0 := by decide +kernel

theorem test_wit_header :
    let s := stepS 6 true false
    let m := fun (a : Word) => ({ s with pwr := { s.pwr with regAddr := a } } : State)
    let n : State := { s with pwr := { s.pwr with phase := 1 } }
    let off := (List.range 49).foldl (fun s d => setState s d 0) s
    s.pwr.phase ≠ 0 ∧ n.pwr.phase = 1 ∧ regionOf (m 0x8000100000).pwr.regAddr.toNat = .data 0 ∧ regionOf (0xF000000000 + pgHbm 3 * 4096) = .mmio (pgHbm 3)
      ∧ pgHbm 3 ∈ (List.range 4).map pgPwr ++ (List.range 8).map pgHbm ++ (List.range 4).map pgMnt
      ∧ firmwareOf (imgContainer n.pwr.imgBuf) = none ∧ (∀ d, d < 49 → domOn off d = false) ∧ domOn s 44 = true
      ∧ frozen s 0x45 = false ∧ memWaits s 0x8000100000 = false ∧ csAnswers (setState s 0 2) 0 0x8000100000 8 = true ∧ cloakDenies s 0x45 false = false
      ∧ mayWrite (wr s (reg (pgMnt 0) R_MNT_WIN_word_1) 0) 0x45 0x8000100000 8 = false
      ∧ mayWrite (wr (wr s (reg (pgMnt 0) R_MNT_WIN_word_0) 0x3FF) (reg (pgMnt 0) R_MNT_WIN_word_1) 0x810FFFF001) 0x45 0x8000100000 8 = true := by decide +kernel

/-- The control port UP, 1 MiB of staging and a telemetry ring in core 0's store, every write admitted. -/
def cpS : State :=
  let s := wr (setState (onState [0, 44, 48]) 49 2) (kCp R_CP_STATUS) 1
  let s := wr (wr s (kCp R_CP_STAGE_BASE) 0x8000200000) (kCp R_CP_STAGE_SIZE) 0x100
  let s := wr (wr (wr s (kCp R_CP_TELE_BASE) 0x8000300000) (kCp R_CP_TELE_SIZE) 0x1000) (kCp R_CP_TELE_HEAD) 64
  wr (wr s (reg (pgMnt 0) R_MNT_WIN_word_0) 0x3FF) (reg (pgMnt 0) R_MNT_WIN_word_1) 0x810FFFF001
def cpF (cls type aux len seq addr : Nat) : CpFrame := ⟨cls, type, 0, aux, len, seq, 0, addr, List.replicate len 5⟩
theorem test_wit_control_port :
    let s := cpS
    let d := wrB (wrB s (reg (pgBtn 0x44) R_BTN_PEND) 0 true) (reg (pgWord 8) R_WP_STATUS) 0 true
    let u := setCpStream s 1 { CpStream.rst with since := 1 }
    let h : State := { s with cp := { s.cp with helloed := false } }
    cpHears s = true ∧ cpHears h = true ∧ cpUp s = true ∧ frozen s 0x44 = false ∧ spanWaits s (stageBase s + 0) 8 = false ∧ stageSize s = 0x100000 ∧ cpRoom s 2 = true ∧ spanWaits s 0xF005002100 8 = false ∧ s.cp.owed = []
      ∧ (∀ c, c < 3 → (cpStream s c).ack = 0 ∧ (cpStream s c).unacked = []) ∧ cpTarget s (0xF000000000 + pgWord 0 * 4096 + R_WP_WORD) = true
      ∧ regionOf (stageBase s) = .data 0 ∧ oneRegion (stageBase s) 8 = true ∧ csAnswers s 0 (stageBase s) 8 = true ∧ mayWrite s 0x44 (stageBase s) 8 = true ∧ cloakDenies s 0x44 false = false
      ∧ regionOf (0xF000000000 + pgWord 0 * 4096) = .mmio (pgWord 0) ∧ pageKind (pgWord 0) ≠ none
      ∧ s.cp.sending = [] ∧ h.cp.helloed = false ∧ cpUp h = true ∧ (cpF 0 2 1 0 0 0).aux.testBit 0 = true ∧ (cpF 0 2 0 0 0 0).aux.testBit 0 = false
      ∧ cpUp d = true ∧ cpButton 520 = some 0 ∧ cpRoom d 0 = true ∧ domOn d 44 = true ∧ rdB d (reg (pgBtn 0x44) R_BTN_PEND) 0 = true ∧ cpWaiting d 520 = true
      ∧ s.cp.teleSent = 0 ∧ (rd s (kCp R_CP_TELE_HEAD)).toNat = 64 ∧ cloakDenies s 0x44 true = false ∧ regionOf (rdF s (kCp R_CP_TELE_BASE) 63 12 * 4096) = .data 0
      ∧ csAnswers s 0 0x8000300000 64 = true ∧ (∀ i, i < 64 → isBad s.mem (0x8000300000 + i) = false) ∧ (cpStream u 1).since ≠ 0 ∧ cpUp u = true := by decide +kernel

/-- Service processor 0 with the command `ws` on Pocket 0; all domains ON, the pages owned as at reset, the service Pockets bound. -/
def svcS (ws : List Word) : State :=
  let s := setState (onState (List.range 49)) 49 2
  let s := { s with mnt := { s.mnt with loaded := [2] } }
  let s := wr (wr s (reg (pgBind 0) R_PKT_BIND) 0x80000A0900004044) (reg (pgBind 0) (R_PKT_BIND + 8)) 0x8000020100084440
  let s := (List.range 4).foldl (fun s p => wr s (reg (pgBind 0) (R_PKT_BIND + 16 + 8 * p)) (w64 (2 ^ 63 + 3 * 2 ^ 32 + (16 + p) * 2 ^ 16 + 0xF040 + p))) s
  let s := (List.zip (List.range 16) ws).foldl (fun s p => wr s (reg (pgPocket 0) (R_PKT_MSG + 8 * p.1)) p.2) s
  wrB (wrB s (reg (pgPocket 0) R_PKT_STATUS) 0 true) (reg (pgBtn 0x40) R_BTN_PEND) 0 true
def svcV (op arg : Nat) : Word := w64 (op * 2 ^ 56 + 9 * 2 ^ 48 + arg)
def svcReadyB (s : State) (op : Nat) : Bool :=
  svcNext s op && decide (verdict s 0x40 (pgBtn 0x40) R_BTN_PEND 1 = .perform) && decide (verdict s 0x40 (pgPocket 0) R_PKT_TAKE 1 = .perform)
    && pktSender s 0 == 0x44 && pktValid s 1 && pktSender s 1 == 0x40 && pktReceiver s 1 == 0x44 && !pktGo s 1 && pktOn s 1 && decide (s.svc.out = []) && domOn s 48
theorem test_wit_service :
    let may := fun (s : State) (page off : Nat) (v : Word) => isMaster (svcMid s (svcReg page off)) = true ∧ verdict s (svcMid s (svcReg page off)) page off v = .perform
    let pw := fun a => svcS [svcV 8 a]
    let rd7 := svcS [svcV 7 0, 5, 6, 7]
    let rk := svcS [svcV 2 0x10003]
    let rc := svcS [svcV 6 6, 1, 2]
    svcReadyB (svcS [svcV 9 100]) 9 = true ∧ svcReadyB (pw 50) 8 = true ∧ svcReadyB (pw (3 * 2 ^ 8 + 5)) 8 = true ∧ may (pw (3 * 2 ^ 8 + 5)) (pgPwr 0) (R_PWR_DOMAIN + 40) 3
      ∧ rdB (pw 0) (kDom 5) 7 = false ∧ reqRefusal (pw 0) 5 3 = none ∧ domState (pw 0) 5 = 2 ∧ reqRefusal (pw 0) 40 1 = some 4
      ∧ rdB (wrB (pw 5) (kDom 5) 7 true) (kDom 5) 7 = true ∧ svcReadyB (wrB (pw 5) (kDom 5) 7 true) 8 = true ∧ may (wrB (pw 5) (kDom 5) 7 true) (pgPwr 0) (R_PWR_DOMAIN + 40) 0
      ∧ may (pw 296) (pgPwr 1) (R_PWR_DOMAIN + 320) 1 ∧ bitAt (svcV 8 (2 ^ 40 + 4 * 2 ^ 32)) 40 = true ∧ may (pw (2 ^ 40 + 2 ^ 32 + 7)) (pgPwr 1) R_PWR_RATE_TARGET 7
      ∧ svcReadyB rd7 7 = true ∧ may rd7 (pgLink 0) R_LNK_STAGE_CFG0 6 ∧ may rd7 (pgLink 0) R_LNK_STAGE_CFG1 7 ∧ may rd7 (pgLink 0) R_PARTNER_CMD (partnerCmd 2 5) ∧ rdB rd7 (kLnk 0 R_PARTNER_CMD_STAT) 0 = false
      ∧ partnerRefusal rd7 0 2 5 ≠ none ∧ svcReadyB rk 2 = true ∧ (∀ p, p < 4 → may rk (pgLink p) R_LNK_SELF_RANK 3)
      ∧ svcReadyB rc 6 = true ∧ rc.recov.op = 0 ∧ may rc (pgRec 0) R_REC_ARG0 1 ∧ may rc (pgRec 0) R_REC_ARG1 2 ∧ may rc (pgRec 0) R_REC_CMD 6 ∧ coresReset rc = true
      ∧ coresReset (setCtx rc 0 0 { Ctx.rst with st := .ready }) = false ∧ svcReadyB { rc with recov := { rc.recov with op := 6 } } 6 = true := by decide +kernel
/-- A redraw of valid entry 5 that is not refused. -/
def redrawS : State :=
  let s := svcS [svcV 7 0, 5, w64 (2 ^ 63 + 2 ^ 37), 0]
  let s := wr (wrB (wrF s (kPtr 5 R_PTR_STATE) 2 0 1) (kPtr 5 R_PTR_CFG0) 63 true) (kLnk 0 R_LNK_REPLAY_SIZE) 0
  s
def jobSec : Section := ⟨2, rankAll, 0, 0x220, valBytes 8 0xF00000C000 ++ valBytes 8 7, false⟩
/-- A container of one unencrypted section of a type. -/
def boxOf (ty : Nat) (body : List Byte) : List Byte :=
  List.replicate 0x18 0 ++ [1] ++ List.replicate (0x200 - 0x19) 0 ++ valBytes 4 ty ++ valBytes 4 0xFFFFFFFF ++ valBytes 8 0x220 ++ valBytes 8 body.length ++ List.replicate 8 0 ++ body
def jobS (op ty : Nat) (body : List Byte) : State :=
  let s := svcS [svcV op 0]
  { s with svc := { s.svc with image := some (boxOf ty body), rank := some 3 } }
theorem test_wit_service_jobs :
    let may := fun (s : State) (page off : Nat) (v : Word) => isMaster (svcMid s (svcReg page off)) = true ∧ verdict s (svcMid s (svcReg page off)) page off v = .perform
    let no := svcS [svcV 3 0]
    let j1 := jobS 3 1 (List.replicate 16 1)
    let j2 := jobS 3 2 (valBytes 8 (svcReg (pgCore 4) R_NUM_SEED) ++ valBytes 8 77)
    let st := svcS [svcV 4 0]
    let go : State := { st with svc := { st.svc with loaded := true, starts := [19] }, mnt := { st.mnt with armed := true } }
    svcReadyB no 3 = true ∧ dataOf (jobSections no) = [] ∧ jobReady no = false
      ∧ svcReadyB j1 3 = true ∧ jobReady j1 = true ∧ (∀ x ∈ jobSections j1, x.type = 1) ∧ may j1 (pgBind 0) R_PKT_LOCK 2
      ∧ svcReadyB j2 3 = true ∧ jobReady j2 = true ∧ (jobSections j2).map (fun x => (x.type, wordRecs 16 x.body)) = [(2, [[svcReg (pgCore 4) R_NUM_SEED, 77]])] ∧ may j2 (pgCore 4) R_NUM_SEED 77
      ∧ svcReadyB st 4 = true ∧ st.svc.loaded = false ∧ svcReadyB go 4 = true ∧ go.closing.stage = 0 ∧ go.svc.stopFor = none ∧ go.svc.advance = false ∧ pktOn go 1 = true ∧ go.optDue = [] ∧ may go (pgCtx 2 3) R_CTX_CTL 1 ∧ (ctxOf go 2 3).st = .idle
      ∧ svcReadyB redrawS 7 = true ∧ partnerRefusal (wr redrawS (kLnk 0 R_LNK_STAGE_CFG0) (w64 (2 ^ 63 + 2 ^ 37))) 0 2 5 = none ∧ engOn go 0 (pgRec 0) = true ∧ frozen go 0x40 = false ∧ go.toEngine = [] ∧ go.recov.asked = 0 ∧ svcReadyB (svcS [svcV 1 0]) 1 = true ∧ memWaits (wr (svcS [svcV 1 0]) (kCp R_CP_STAGE_BASE) 0x8000200000) 0x8000200000 = false ∧ (imageCheck (svcS [svcV 1 0]) []).1 ≠ 0 := by decide +kernel
theorem test_wit_service_stop :
    let may := fun (s : State) (page off : Nat) (v : Word) => isMaster (svcMid s (svcReg page off)) = true ∧ verdict s (svcMid s (svcReg page off)) page off v = .perform
    let s := setSlot (svcS [svcV 5 0]) 40 { SlotSt.rst with en := true }
    svcReadyB s 5 = true ∧ (∀ d, d < 32 → rdB s (kDom d) 7 = false ∧ domState s d ≠ 1 ∧ domOn s (44 + d / 8) = true ∧ may s (pgPwr (d / 8)) (R_PWR_DOMAIN + 8 * d) 3)
      ∧ may s (pgSlots 1) (R_SLOT_CTL + 64 * 8) 0 ∧ may s (pgRec 0) R_REC_CMD 6 ∧ s.recov.op = 0 ∧ blockHeld s pgYoke = false ∧ s.ctxs = [] ∧ s.cores = [] := by decide +kernel
theorem test_wit_flash_and_sleep :
    let s := wrB (svcS []) (reg (pgPocket 3) R_PKT_STATUS) 0 true
    pktOn s 3 = true ∧ hemHeld s 29 = false ∧ yokeOn s = true ∧ pktGo s 3 = true ∧ pktValid s 3 = true ∧ pktReceiver s 3 = 0xF0 ∧ verdict s 0xF0 (pgPocket 3) R_PKT_TAKE 1 = .perform ∧ s.mnt.flash.length < 4096
      ∧ pktSender s 3 = 0x41 ∧ domState s (midDomain 0x41) = 2 ∧ frozen s 0x41 = false ∧ s.asleep = [] ∧ domOn s (44 + 1) = true
      ∧ rd s (reg (pgBtn 0x41) R_BTN_PEND) &&& rd s (reg (pgBtn 0x41) R_BTN_MASK) = 0
      ∧ rd (wr s (reg (pgBtn 0x40) R_BTN_MASK) 1) (reg (pgBtn 0x40) R_BTN_PEND) &&& rd (wr s (reg (pgBtn 0x40) R_BTN_MASK) 1) (reg (pgBtn 0x40) R_BTN_MASK) ≠ 0 := by decide +kernel

/-- PD_44 and core 0 ON, every class admitted everywhere in the stores; a request of two chunks of core 0's store in its store, the result after it. -/
def bistS : State :=
  let s := wr (wr (onState [0, 44]) (reg (pgMnt 0) R_MNT_WIN_word_0) 0x3FF) (reg (pgMnt 0) R_MNT_WIN_word_1) 0x810FFFF001
  { s with mem := putCells s.mem 0x8000100000 (valBytes 64 (0x8000200000 + 100 * 2 ^ 64 + 2 ^ 128 + 37 * 2 ^ 136 + 0x8000100040 * 2 ^ 192)) }
def bistRunS : BistRun := ⟨0x40, 0x8000200000, 100, 1, some 5, 0x8000100040, 64, 2, some (0x8000200008, 3), none⟩
def bistQ (q : List (Nat × Nat)) (r : Option BistRun) : State := setBist bistS 0 ⟨q, r⟩
theorem test_wit_bist :
    let s := bistQ [(0x40, 0x8000100000)] none
    let f := fun (o n : Nat) => bytesVal ((List.range n).map (fun i => getCell s.mem (0x8000100000 + o + i)))
    let full := bistQ (List.replicate 16 (0x40, 0)) none
    isMaster 0x41 = true ∧ verdict s 0x41 (pgBist 0) R_BIST_REQ 64 = .perform ∧ (bistOf full 0).queue.length = 16 ∧ domOn full 44 = true ∧ cloakDenies full 0x41 false = false
      ∧ frozen s 0x54 = false ∧ (bistOf bistS 0).queue = [] ∧ testDomain 0x8000200000 = some (0, 0) ∧ domOn s 0 = true ∧ domOn (setState s 0 0) 0 = false
      ∧ regionOf 0x8000100000 = .data 0 ∧ oneRegion 0x8000100000 64 = true ∧ csAnswers s 0 0x8000100000 64 = true ∧ (∀ i, i < 64 → isBad s.mem (0x8000100000 + i) = false)
      ∧ f 0 8 = 0x8000200000 ∧ f 8 4 = 100 ∧ bistEarly s 0 (f 0 8) (f 8 4) = none ∧ bistEarly (wr s (reg (pgMnt 0) R_MNT_WIN_word_0) 0) 0 (f 0 8) (f 8 4) = some 2
      ∧ bistEarly s 1 (f 0 8) (f 8 4) = some 3 ∧ testDomain 0xF000000000 = none ∧ mayWrite s 0x54 0x8000200000 6400 = true := by decide +kernel
theorem test_wit_bist_result :
    let r : BistRun := { bistRunS with tested := 100 }
    let s := bistQ [] (some r)
    (bistOf s 0).run = some r ∧ frozen s 0x54 = false ∧ domOn s 44 = true ∧ r.len ≤ r.tested ∧ regionOf r.resAddr = .data 0 ∧ oneRegion r.resAddr 64 = true ∧ csAnswers s 0 r.resAddr 64 = true
      ∧ mayWrite s 0x54 r.resAddr 64 = true ∧ hasButtons 0x40 = true ∧ domState s (midDomain 0x40) = 2
      ∧ (bistOf (bistQ [] (some bistRunS)) 0).run = some bistRunS ∧ bistRunS.tested < bistRunS.len := by decide +kernel
theorem test_wit_darn :
    let s := bistS
    let v := w64 (2 ^ 63 + 2 ^ 54 + 37 * 2 ^ 40 + 1300)
    let u : State := { s with mnt := { s.mnt with spares := [(0, 298, 0)] } }
    darnInst (pgCore 0) = some 0 ∧ darnOff (pgCore 0) 127 = some (R_DARN + 1016) ∧ darnInst (pgLlc 1) = some 0x81 ∧ darnOff (pgLlc 1) 63 = some (R_LLC_DARN + 504) ∧ isMaster 0x40 = true
      ∧ verdict s 0x40 (pgCore 0) (R_DARN + 1016) v = .perform ∧ bitAt v 63 = true ∧ spareTaken s 0 v = false ∧ spareTaken u 0 v = true
      ∧ verdict u 0x40 (pgCore 0) (R_DARN + 1016) v = .perform ∧ verdict s 0x40 (pgCore 0) (R_DARN + 1016) 0 = .perform := by decide +kernel

theorem test_wit_merge_saturates : nwMerge 0x00FF000100020003 0x8002FFFF00050001 = 0x80FFFFFF00070004 := by decide +kernel

theorem test_wit_register_addresses : isMaster 0x40 = true ∧ mmioAddr (63 * 1024 + 1023) 4095 = 0xF00FFFFFFF := by decide +kernel

theorem test_wit_pins_agree : PinsAgree State.reset ∧ PinsAgree { State.reset with pwr := { PwrSt.rst with phase := 6, mainGood := true, pwrGood := true } } :=
  ⟨⟨by decide, by decide, by decide, by decide, by decide⟩, ⟨by decide, by decide, by decide, by decide, by decide⟩⟩

theorem test_wit_lines_ok : Memory.wf llcS.mem = true ∧ LinesOk llcS := ⟨by decide +kernel, ⟨by decide +kernel, by decide +kernel, by decide +kernel⟩⟩

theorem test_wit_reset_meets : State.reset.pwr.phase = 0 := rfl

/-! ## The spec's worked examples -/

/-- Code of a value in a format. -/
def codeIn (f : Fmt) (v : FVal) : Option Nat := f.lay.map (fun l => (fRound l .rne v).1)
/-- 04_numerics.md, Table: Encodings of four values under RNE. -/
theorem test_worked_encodings :
    [Fmt.f8a, .f8b, .bf16, .fp16, .fp32, .w40].map (fun f => codeIn f (.fin false 1 0)) = [some 0x38, some 0x3C, some 0x3F80, some 0x3C00, some 0x3F800000, some 0x3FE0000000]
      ∧ [Fmt.f8a, .f8b, .bf16, .fp16, .fp32, .w40].map (fun f => codeIn f (.fin true 11 (-2))) = [some 0xC3, some 0xC2, some 0xC030, some 0xC180, some 0xC0300000, some 0xC00C000000]
      ∧ [Fmt.f8a, .f8b, .bf16, .fp16, .fp32, .w40].map (fun f => codeIn f (.fin false 500 0)) = [some 0x7E, some 0x60, some 0x43FA, some 0x5FD0, some 0x43FA0000, some 0x40FE800000]
      ∧ [Fmt.f8a, .f8b, .bf16, .fp16, .fp32, .w40].map (fun f => codeIn f (.fin false 3 (-10))) = [some 0x02, some 0x1A, some 0x3B40, some 0x1A00, some 0x3B400000, some 0x3ED0000000] := by decide +kernel
/-- 04_numerics.md, Worked block: 12, -3, 0.7 (as 11469 / 2^14) and 5, then 12 zeros. -/
theorem test_worked_block :
    let b := kb4Block (([FVal.fin false 12 0, .fin true 3 0, .fin false 11469 (-14), .fin false 5 0] ++ List.replicate 12 FVal.zero).map (fun v => (v, Rnd.rne)))
    b.1 = 0x80 ∧ b.2.1.take 5 = [7, 0xB, 1, 4, 0] := by decide +kernel
/-- 10_hbm_llc.md, Worked decode. -/
theorem test_worked_decode : hbmPanel 0x4501234A00 = 2 ∧ hbmX 0x4501234A00 = 0x2A ∧ hbmStack 0x4501234A00 = 5 ∧ hbmPc 0x4501234A00 = 10 ∧ hbmRegion 0x4501234A00 = 141321 := by
  decide +kernel
/-- 17_register_pages.md, Worked lookup. -/
theorem test_worked_lookup :
    mmioAddr (pgCore 17) R_CC_STATUS = 0xF000411400 ∧ mmioAddr (pgCtx 17 3) (R_S + 40) = 0xF00058B128 ∧ ownerOf State.reset (pgCore 17) = 0x42
      ∧ mmioAddr (pgPartner 156) (R_PTR_STATE + 128 * 4) = 0xF00349CA10 ∧ ptrPanel 2500 = 2 ∧ verdict (onState [42]) 0x41 (pgPartner 156) (R_PTR_STATE + 128 * 4) 0 = .violation 1 := by decide +kernel
/-- 16_bringup_service.md, Worked repair: the retired segment 2 of bank 37 of core 12, its span, and the Darn entry's segment. -/
theorem test_worked_repair :
    let s := wrB State.reset (kCore 12 (R_SEG_RETIRED + 8 * 4)) 42 true
    csRetired s 12 0x8030B29280 = true ∧ csRetired s 12 0x8030B29200 = false ∧ darnSeg 12 (w64 (2 ^ 63 + 37 * 2 ^ 40 + 1300)) = 8 * 37 + 2 := by decide +kernel
/-- 03_outer_product_arrays.md, Worked example: core 13 of a KNM-A240. -/
theorem test_worked_positions :
    let s := wr State.reset (kCore 13 R_OPE_POS_MAP) 0xF0000000000604
    enabledPos s 13 = [0, 1, 3] ∧ posBand (enabledPos s 13) 3 = some 2 := by decide +kernel
/-- 09_yoke_pockets.md, Worked generations: core 27 arrives with WAIT, which releases generation 0. -/
theorem test_worked_generation :
    let s := wr (onState [0, 9, 27, 44, 45, 47]) (slotKey 40 R_SLOT_MASK0) (w64 1)
    let s := wr (wr s (slotKey 40 R_SLOT_MASK1) (w64 (2 ^ 8))) (slotKey 40 R_SLOT_MASK3) (w64 (2 ^ 24))
    let s := setSlot s 40 ⟨true, false, 2, 1, 2 ^ 72, 1⟩
    let t := arrival s 27 0 (.arrive 40 true) false 40 true
    slotOf t 40 = ⟨true, true, 1, 0, 1, 0⟩ := by decide +kernel

/-! ## Well-formed commands, and for each check one that it refuses -/

theorem test_wf_master : Instr.wf (.readClear 0x40 0) = true ∧ Instr.wf (.readClear 0x47 0) = false ∧ Instr.wf (.registerWrite 0x5C 0 0) = false := by decide
theorem test_wf_access : Instr.wf (.llcAccess 0x40 0 (.read 8) .clean) = true ∧ Instr.wf (.llcAccess 0x40 0 (.read 0) .clean) = false ∧ Instr.wf (.llcAccess 0x40 0 (.write []) .clean) = false := by decide
theorem test_wf_frame : wFrameOk (frameW 0 1 0) = true ∧ wFrameOk { frameW 0 1 0 with len := 513 } = false ∧ wFrameOk { frameW 0 1 0 with payload := [1] } = false ∧ wFrameOk { frameW 0 1 0 with cls := 4 } = false := by decide +kernel
theorem test_wf_cp_frame : cpFrameOk (cpF 0 0 0 8 0 0) = true ∧ cpFrameOk (cpF 0 0 0 7 0 0) = false ∧ cpFrameOk (cpF 4 0 0 8 0 0) = false := by decide +kernel
theorem test_wf_entries : Instr.wf (.creditAudit 4095) = true ∧ Instr.wf (.creditAudit 4096) = false ∧ Instr.wf (.groupValidWrite 0x40 256 0) = false := by decide
theorem test_wf_streams : Instr.wf (.ackDelay (.entry 0 4)) = false ∧ Instr.wf (.ackDelay (.group 256)) = false ∧ Instr.wf (.retxTimeout (.leg 256 0)) = false ∧ Instr.wf (.retxTimeout (.leg 0 0)) = true := by decide
theorem test_wf_deliver : Instr.wf (.cpDeliver 1) = true ∧ Instr.wf (.cpDeliver 520) = true ∧ Instr.wf (.cpDeliver 519) = false ∧ Instr.wf (.cpDeliver 528) = false := by decide
theorem test_wf_header : Instr.wf (.imgData (List.replicate 31 0)) = false ∧ Instr.wf (.extest [true]) = false ∧ Instr.wf (.samplePreload [true, true, true]) = true := by decide


end Sys2Proof.Tests
end

/-! SUPPORT. Reads and writes of registers by a master: what a performed access changes, field by field, and what it leaves alone. -/

namespace Sys2Proof.Machine

/-! ## The commands over registers -/

theorem exec_readClear (mid : Mid) (addr : Word) (s : State) : exec (.readClear mid addr) s = execReadClear mid addr s := rfl
theorem exec_registerWrite (mid : Mid) (addr v : Word) (s : State) : exec (.registerWrite mid addr v) s = execRegisterWrite mid addr v s := rfl

/-- `t` with the registers, wakes, sleepers and the answer of `s`: what is left to compare of `t` where a register access may change only those. -/
def restBeside (s t : State) : State := { t with regs := s.regs, wakes := s.wakes, asleep := s.asleep, resp := s.resp }

theorem apart_restBeside (s : State) : Apart (restBeside s) := ⟨fun _ _ => rfl, fun _ _ => rfl, fun _ _ => rfl⟩
@[simp] theorem restBeside_self (s : State) : restBeside s s = s := rfl
@[simp] theorem restBeside_setResp (s t : State) (r : Resp) : restBeside s (setResp t r) = restBeside s t := rfl
@[simp] theorem restBeside_bumpHdr (s t : State) (page off : Nat) : restBeside s (bumpHdr t page off) = restBeside s t :=
  bumpHdr_apart (apart_restBeside s) _ _ _

/-! ## A read that is performed (R9, R472, R481) -/

/-- The key of the register that a read at offset `off` of a page shows: a header register is the main page's (R475). -/
abbrev readKey (page off : Nat) : Nat := reg (if off < 0x100 then mainPage page else page) off

theorem regRead_performed {s : State} {mid page off : Nat} (ha : off % 8 = 0) (hk : pageKind page ≠ none) (hc : cloakDenies s mid false = false)
    (hp : pageOn s page = true) :
    regRead s mid page off = setResp (bumpHdr (readClears s mid page off) page R_BLK_RD_CNT) (.data (regValue s mid page off)) := by
  unfold regRead
  rw [if_neg (by simp [ha, hk, hc])]
  simp only [hp, if_true]

theorem readClears_eq_of_readSees {s : State} {mid page off : Nat} (h : readSees s mid page off = true) :
    readClears s mid page off = s ∧ fldsMask .rc (regFlds page off) = 0
      ∨ readClears s mid page off = wr s (readKey page off) (rd s (readKey page off) &&& ~~~ fldsMask .rc (regFlds page off)) := by
  simp only [readClears, h, Bool.not_true, Bool.false_eq_true, if_false]
  split
  · next hm => exact .inl ⟨rfl, hm⟩
  · exact .inr rfl

theorem readClears_of_hidden {s : State} {mid page off : Nat} (h : readSees s mid page off = false) : readClears s mid page off = s := by
  simp [readClears, h]

theorem rd_readClears_self (s : State) (mid page off : Nat) :
    rd (readClears s mid page off) (readKey page off)
      = if readSees s mid page off then rd s (readKey page off) &&& ~~~ fldsMask .rc (regFlds page off) else rd s (readKey page off) := by
  split
  · next h =>
    obtain ⟨e, hm⟩ | e := readClears_eq_of_readSees h
    · rw [e, hm, show ~~~(0 : Word) = BitVec.allOnes 64 by decide, BitVec.and_allOnes]
    · rw [e, rd_wr_self]
  · next h => rw [readClears_of_hidden (by simpa using h)]

theorem rd_readClears_ne (s : State) (mid : Nat) {page off k : Nat} (hk : k ≠ readKey page off) : rd (readClears s mid page off) k = rd s k := by
  cases h : readSees s mid page off with
  | false => rw [readClears_of_hidden h]
  | true =>
    obtain ⟨e, -⟩ | e := readClears_eq_of_readSees h
    · rw [e]
    · rw [e, rd_wr_ne _ _ hk]

@[simp] theorem restBeside_readClears (s : State) (mid page off : Nat) : restBeside s (readClears s mid page off) = s := by
  cases h : readSees s mid page off with
  | false => rw [readClears_of_hidden h, restBeside_self]
  | true =>
    obtain ⟨e, -⟩ | e := readClears_eq_of_readSees h
    · rw [e, restBeside_self]
    · rw [e]; rfl

/-- BLK_RD_CNT is one RC field of 64 bits (R476). -/
theorem fldsMask_rc_rdCnt {page : Nat} (h : pageKind page ≠ none) : fldsMask .rc (regFlds page R_BLK_RD_CNT) = BitVec.allOnes 64 := by
  obtain ⟨k, hk⟩ := Option.ne_none_iff_exists'.1 h
  have e : regFlds page R_BLK_RD_CNT = [⟨63, 0, .rc, 0⟩] := by
    simp only [regFlds, hk]
    rfl
  rw [e]
  decide

/-- A key of BLK_RD_CNT is that of the register read only at the counter's own offset. -/
theorem readKey_eq_rdCnt {page p off : Nat} (ho : off < 4096) (h : readKey page off = reg p R_BLK_RD_CNT) : off = R_BLK_RD_CNT := by
  simp only [readKey, reg, R_BLK_RD_CNT] at h ⊢
  omega

/-- The read counter as a read leaves it before it is counted: cleared where it is itself what was read. -/
theorem rd_readClears_rdCnt (s : State) (mid : Nat) {page off : Nat} (hk : pageKind page ≠ none) (ho : off < 4096) :
    rd (readClears s mid page off) (reg (mainPage page) R_BLK_RD_CNT)
      = if readKey page off = reg (mainPage page) R_BLK_RD_CNT ∧ readSees s mid page off = true then 0 else rd s (reg (mainPage page) R_BLK_RD_CNT) := by
  by_cases h : readKey page off = reg (mainPage page) R_BLK_RD_CNT
  · obtain rfl := readKey_eq_rdCnt ho h
    have e := rd_readClears_self s mid page R_BLK_RD_CNT
    rw [h, fldsMask_rc_rdCnt hk, BitVec.not_allOnes, BitVec.and_zero] at e
    simpa only [h, true_and, BitVec.ofNat_eq_ofNat] using e
  · rw [rd_readClears_ne _ _ (Ne.symm h), if_neg (fun c => h c.1)]

theorem plain_rdCnt (page : Nat) : plainKey (reg page R_BLK_RD_CNT) := plain_hdr page (by decide) (by decide) (by decide)

theorem toNat_w64_min_maxWord (n : Nat) : (w64 (min n maxWord)).toNat = min n maxWord := by
  have h : min n maxWord < 2 ^ 64 := Nat.lt_of_le_of_lt (Nat.min_le_right _ _) (by decide)
  rw [w64, BitVec.toNat_ofNat, Nat.mod_eq_of_lt h]

/-- Settles O3: a performed read is the clearing of its register's RC fields, then the count of the read; the two touch one key each. -/
theorem registerReadAnswersAndClears : Obligations.RegisterReadAnswersAndClears := by
  unfold Obligations.RegisterReadAnswersAndClears
  intro mid addr page s hr hm ha hk hc hp
  extract_lets off key
  have ho : off < 4096 := Nat.mod_lt _ (by decide)
  refine ⟨_, (exec_readClear mid addr s).trans (by rw [execReadClear, hr]), ?_⟩
  simp only [hm, if_true]
  rw [regRead_performed ha hk hc hp]
  refine ⟨rfl, fun hpl hne => ?_, ?_, ?_, fun k hpl hmem => ?_⟩
  · rw [rd_setResp, bumpHdr, rd_bump _ _ _ hpl hne]
    exact rd_readClears_self s mid.toNat page off
  · rw [rd_setResp, bumpHdr, rd_bump_self _ _ _ (plain_rdCnt _), toNat_w64_min_maxWord, rd_readClears_rdCnt s _ hk ho]
    split <;> rfl
  · change restBeside s _ = s
    rw [restBeside_setResp, restBeside_bumpHdr, restBeside_readClears]
  · simp only [List.mem_cons, List.not_mem_nil, or_false, not_or] at hmem
    rw [rd_setResp, bumpHdr, rd_bump _ _ _ hpl hmem.2, rd_readClears_ne _ _ hmem.1]

end Sys2Proof.Machine

namespace Sys2Proof.Machine

/-! ## The fields of a register: a bit belongs to one field at most -/

/-- The fields of a register lie inside the word and apart from each other. -/
def fldsApart (fs : List Fld) : Bool :=
  fs.all (fun f => decide (f.hi < 64) && fs.all (fun g => decide (g = f ∨ g.hi < f.lo ∨ f.hi < g.lo)))

theorem kindRows_fldsApart (k : PageKind) : ∀ r ∈ kindRows k, fldsApart r.flds = true := by
  unfold kindRows
  (repeat' split) <;> decide +kernel

/-- The fields at a block-specific offset are those of a row of the page's kind, or none. -/
theorem regFlds_block {page off : Nat} {k : PageKind} (hk : pageKind page = some k) (h : 0x100 ≤ off) :
    regFlds page off = [] ∨ ∃ r ∈ kindRows k, r.hits off = true ∧ regFlds page off = r.flds := by
  simp only [regFlds, hk, if_neg (Nat.not_lt.2 h)]
  cases e : (kindRows k).find? (fun r => r.hits off) with
  | none => exact .inl rfl
  | some r => exact .inr ⟨r, List.mem_of_find?_eq_some e, List.find?_some (p := fun r : RegRow => r.hits off) e, rfl⟩

theorem regFlds_fldsApart {page off : Nat} {k : PageKind} (hk : pageKind page = some k) (h : 0x100 ≤ off) : fldsApart (regFlds page off) = true := by
  obtain e | ⟨r, hr, -, e⟩ := regFlds_block hk h
  · rw [e]; rfl
  · rw [e]; exact kindRows_fldsApart k r hr

theorem getLsbD_fldsMask (a : Acc) (fs : List Fld) (h : ∀ f ∈ fs, f.hi < 64) (i : Nat) :
    (fldsMask a fs).getLsbD i = fs.any (fun f => decide (f.acc = a) && decide (f.lo ≤ i ∧ i ≤ f.hi)) := by
  suffices ∀ m : Word, (fs.foldl (fun m f => if f.acc = a then m ||| maskHL f.hi f.lo else m) m).getLsbD i
      = (m.getLsbD i || fs.any (fun f => decide (f.acc = a) && decide (f.lo ≤ i ∧ i ≤ f.hi))) by
    simpa [fldsMask] using this 0
  induction fs with
  | nil => simp
  | cons f fs ih =>
    intro m
    have hf : f.hi < 64 := h f (List.mem_cons_self ..)
    rw [List.foldl_cons, ih (fun g hg => h g (List.mem_cons_of_mem _ hg)), List.any_cons, ← Bool.or_assoc]
    split
    · next e => rw [BitVec.getLsbD_or, getLsbD_maskHL _ _ _ hf]; simp [e]
    · next e => simp [e]

/-- A bit of a field is in the mask of that field's access code and in no other. -/
theorem getLsbD_fldsMask_of_mem {fs : List Fld} (h : fldsApart fs = true) {f : Fld} (hf : f ∈ fs) {i : Nat} (hl : f.lo ≤ i) (hh : i ≤ f.hi) (a : Acc) :
    (fldsMask a fs).getLsbD i = decide (f.acc = a) := by
  simp only [fldsApart, List.all_eq_true, Bool.and_eq_true, decide_eq_true_eq] at h
  rw [getLsbD_fldsMask a fs (fun g hg => (h g hg).1), Bool.eq_iff_iff]
  simp only [List.any_eq_true, Bool.and_eq_true, decide_eq_true_eq]
  constructor
  · rintro ⟨g, hg, hga, hgl, hgh⟩
    obtain rfl | hlt | hlt := (h f hf).2 g hg
    · exact hga
    · omega
    · omega
  · exact fun e => ⟨f, hf, e, hl, hh⟩

/-! ## The effect of a write on the fields (R9, R10) -/

theorem rd_fieldWrite_ne (s : State) {page off k : Nat} (v : Word) (own mantle : Bool) (hk : k ≠ reg page off) :
    rd (fieldWrite s page off v own mantle) k = rd s k := rd_wr_ne _ _ hk

@[simp] theorem restBeside_fieldWrite (s t : State) (page off : Nat) (v : Word) (own mantle : Bool) :
    restBeside s (fieldWrite t page off v own mantle) = restBeside s t := wr_apart (apart_restBeside s) _ _ _

/-- The Mantle's part of a write shows only in MW fields. -/
theorem fieldWrite_of_noMw (s : State) {page off : Nat} (v : Word) (own m m' : Bool) (h : fldsMask .mw (regFlds page off) = 0) :
    fieldWrite s page off v own m = fieldWrite s page off v own m' := by
  simp only [fieldWrite, h, ite_self]

/-- What the access code `a` makes of a bit: `old` before, `new` written. -/
def accBit (a : Acc) (own mantle old new : Bool) : Bool :=
  match a with
  | .rw => if own then new else old
  | .mw => if mantle then new else old
  | .w1c => old && !(own && new)
  | _ => old

theorem getLsbD_fieldWrite {page off : Nat} (hw : fldsApart (regFlds page off) = true) {f : Fld} (hf : f ∈ regFlds page off) {i : Nat} (hl : f.lo ≤ i)
    (hh : i ≤ f.hi) (s : State) (v : Word) (own mantle : Bool) :
    (rd (fieldWrite s page off v own mantle) (reg page off)).getLsbD i
      = accBit f.acc own mantle ((rd s (reg page off)).getLsbD i) (v.getLsbD i) := by
  have hi : i < 64 := by
    have := hw
    simp only [fldsApart, List.all_eq_true, Bool.and_eq_true, decide_eq_true_eq] at this
    exact Nat.lt_of_le_of_lt hh (this f hf).1
  have hm := getLsbD_fldsMask_of_mem hw hf hl hh
  simp only [fieldWrite, rd_wr_self, BitVec.getLsbD_and, BitVec.getLsbD_or, BitVec.getLsbD_not, hi, decide_true, Bool.true_and]
  generalize f.acc = a at hm ⊢
  cases a <;> cases own <;> cases mantle <;> simp [accBit, hm]

/-! ## A write that is performed, before its effect -/

@[simp] theorem restBeside_wrote (s t : State) (page : Nat) : restBeside s (wrote t page) = restBeside s t := by
  rw [wrote, restBeside_setResp, restBeside_bumpHdr]

/-- Below its maximum the write counter raises no event, and only itself changes. -/
theorem rd_wrote_of_lt (s : State) {page k : Nat} (h : (rd s (reg (mainPage page) R_BLK_WR_CNT)).toNat + 1 < maxWord)
    (hk : k ≠ reg (mainPage page) R_BLK_WR_CNT) : rd (wrote s page) k = rd s k := by
  have hs : saturates s (reg (mainPage page) R_BLK_WR_CNT) 1 = false := by
    simp [saturates, Nat.not_le.2 h]
  rw [wrote, rd_setResp, bumpHdr, bump, bumpN]
  simp only [hs, Bool.false_eq_true, if_false]
  exact rd_bumpReg_ne _ _ hk

/-- The write counter's events touch no register of a block behind its header, outside the Button and power pages. -/
theorem rd_wrote_block (s : State) (page : Nat) {p off : Nat} (h6 : p / 1024 ≠ 6) (h15 : p / 1024 ≠ 0x15) (h : 0x100 ≤ off) (ho : off < 4096) :
    rd (wrote s page) (reg p off) = rd s (reg p off) := rd_wrote _ _ (plain_block h6 h15 ho h) (reg_ne_wr ho h)

theorem rd_wrote_owner (s : State) (page p : Nat) : rd (wrote s page) (reg p R_BLK_OWNER) = rd s (reg p R_BLK_OWNER) :=
  rd_wrote _ _ (plain_hdr p (by decide) (by decide) (by decide)) (by simp only [reg, R_BLK_OWNER, R_BLK_WR_CNT]; omega)

theorem ownsPage_wrote (s : State) (page mid p : Nat) : ownsPage (wrote s page) mid p = ownsPage s mid p := by
  unfold ownsPage ownerOf
  simp only [rd_wrote_owner]
  cases pageKind p with
  | none => rfl
  | some k => cases k <;> rfl

theorem cloaked_wrote (s : State) (page : Nat) : cloaked (wrote s page) = cloaked s :=
  rdB_of_rd (rd_wrote_block s page (by decide) (by decide) (by decide) (by decide)) _

theorem ctxOf_wrote (s : State) (page c x : Nat) : ctxOf (wrote s page) c x = ctxOf s c x :=
  ctxOf_congr (wrote_apart apart_ctxs (fun _ _ => rfl) s page) c x

theorem slotOf_wrote (s : State) (page k : Nat) : slotOf (wrote s page) k = slotOf s k := by
  rw [slotOf, slotOf, wrote_apart apart_slots (fun _ _ => rfl)]

theorem rd_wrote_grpCfg (s : State) (page : Nat) {g : Nat} (h : g < 4096) : rd (wrote s page) (kGrp g R_GRP_CFG) = rd s (kGrp g R_GRP_CFG) :=
  rd_wrote_block s page (by simp only [pgGroup]; omega) (by simp only [pgGroup]; omega) (by simp only [R_GRP_CFG]; omega) (by simp only [R_GRP_CFG]; omega)

theorem grpValid_wrote (s : State) (page : Nat) {g : Nat} (h : g < 4096) : grpValid (wrote s page) g = grpValid s g :=
  rdB_of_rd (rd_wrote_grpCfg s page h) _

theorem ptrValid_wrote (s : State) (page : Nat) {e : Nat} (h : e < 4096) : ptrValid (wrote s page) e = ptrValid s e :=
  rdB_of_rd (rd_wrote_block s page (by simp only [pgPartner]; omega) (by simp only [pgPartner]; omega) (by simp only [R_PTR_CFG0]; omega)
    (by simp only [R_PTR_CFG0]; omega)) _

theorem panelEntries_wrote (s : State) (page : Nat) {p : Nat} (h : p < 4) : panelEntries (wrote s page) p = panelEntries s p := by
  unfold panelEntries
  refine List.filter_congr (fun e he => ptrValid_wrote s page ?_)
  simp only [List.mem_map, List.mem_range] at he
  omega

theorem shValid_wrote (s : State) (page : Nat) {p k : Nat} (hp : p < 4) (hk : k < 4096) : shValid (wrote s page) p k = shValid s p k :=
  rdB_of_rd (rd_wrote_block s page (by simp only [pgOpt]; omega) (by simp only [pgOpt]; omega) (by simp only [R_SH_CFG]; omega)
    (by simp only [R_SH_CFG]; omega)) _

theorem findSome?_congr {α β : Type} {f g : α → Option β} {l : List α} (h : ∀ a ∈ l, f a = g a) : l.findSome? f = l.findSome? g := by
  induction l with
  | nil => rfl
  | cons a l ih =>
    simp only [List.findSome?_cons, h a (List.mem_cons_self ..), ih (fun b hb => h b (List.mem_cons_of_mem _ hb))]

theorem legGroup_wrote (s : State) (page : Nat) {l : Nat} (h : l < 4096) : legGroup (wrote s page) l = legGroup s l := by
  unfold legGroup
  refine findSome?_congr (fun g hg => ?_)
  simp only [List.mem_map, List.mem_range] at hg
  have e := rd_wrote_grpCfg s page (g := g) (by omega)
  simp only [grpValid, grpRoot, rdB, rdF, e]
  rfl

/-! ## Where the pages of some kinds lie -/

/-- The numbers that a page of a kind can have, for the kinds whose writes look at other registers. -/
def kindPlace (page : Nat) : PageKind → Prop
  | .link p => p < 4
  | .group b | .leg b => b < 16
  | .optShard p b => p < 4 ∧ b < 128 ∧ page = pgOpt p + 1 + b
  | _ => True

theorem kindPlace_of_pageKind {page : Nat} {k : PageKind} (hk : pageKind page = some k) : kindPlace page k := by
  unfold pageKind at hk
  extract_lets u at hk
  (repeat' split at hk) <;> cases hk <;> simp only [kindPlace, pgOpt] <;> omega

theorem fieldsOnly_wrote (s : State) (page p off : Nat) (v : Word) {k : PageKind} (hk : pageKind p = some k) (ho : off < 4096) :
    fieldsOnly (wrote s page) k off v = fieldsOnly s k off v := by
  have hp := kindPlace_of_pageKind hk
  cases k with
  | ctx c x => simp only [fieldsOnly, ctxOf_wrote, cloaked_wrote]
  | yokeSlots b => simp only [fieldsOnly, slotOf_wrote]
  | link q => simp only [fieldsOnly, panelEntries_wrote s page hp]
  | group b => simp only [fieldsOnly, grpValid_wrote s page (show 16 * b + (off - 0x800) / 64 < 4096 by simp only [kindPlace] at hp; omega)]
  | leg b => simp only [fieldsOnly, legGroup_wrote s page (show 256 * b + (off - 0x800) / 8 < 4096 by simp only [kindPlace] at hp; omega)]
  | optShard q b => simp only [fieldsOnly, shValid_wrote s page hp.1 (show 32 * b + (off - 0x800) / 64 < 4096 by simp only [kindPlace] at hp; omega)]
  | _ => rfl

/-! ## A write that acts on the fields alone -/

theorem fldsMask_eq_zero {a : Acc} {fs : List Fld} (h : ∀ f ∈ fs, f.acc ≠ a) : fldsMask a fs = 0 := by
  induction fs with
  | nil => rfl
  | cons f fs ih =>
    rw [fldsMask, List.foldl_cons, if_neg (h f (List.mem_cons_self ..))]
    exact ih (fun g hg => h g (List.mem_cons_of_mem _ hg))

/-- No register of these rows has a field that only the Mantle writes. -/
def noMwRows (rows : List RegRow) : Bool := rows.all (fun r => r.flds.all (fun f => decide (f.acc ≠ .mw)))

theorem fldsMask_mw_of_rows {page off : Nat} {k : PageKind} (hk : pageKind page = some k) (h1 : 0x100 ≤ off)
    (h : noMwRows ((kindRows k).filter (fun r => r.hits off)) = true) : fldsMask .mw (regFlds page off) = 0 := by
  obtain e | ⟨r, hr, hh, e⟩ := regFlds_block hk h1
  · rw [e]; rfl
  · rw [e]
    simp only [noMwRows, List.all_eq_true, decide_eq_true_eq] at h
    exact fldsMask_eq_zero (h r (List.mem_filter.2 ⟨hr, hh⟩))

theorem noMwRows_filter {rows : List RegRow} (h : noMwRows rows = true) (p : RegRow → Bool) : noMwRows (rows.filter p) = true := by
  simp only [noMwRows, List.all_eq_true] at h ⊢
  exact fun r hr => h r (List.mem_filter.1 hr).1

/-- The kinds of pages with MW fields behind the header. -/
def mwKind : PageKind → Bool
  | .hbm _ | .power _ | .partner _ | .binding _ => true
  | _ => false

theorem noMwRows_kindRows {k : PageKind} (h : mwKind k = false) : noMwRows (kindRows k) = true := by
  cases k with
  | hbm _ | power _ | partner _ | binding _ => cases h
  | link p | recov p | mantle p => simp only [kindRows]; split <;> rfl
  | _ => rfl

/-- In the binding pages only PKT_LOCK has an MW field. -/
theorem noMwRows_binding {b off : Nat} (h : (b != 0 || decide (off ∉ [R_PKT_LOCK, R_PKT_CLEAR])) = true) :
    noMwRows ((kindRows (.binding b)).filter (fun r => r.hits off)) = true := by
  have hb : noMwRows rowsBinding = true := by decide
  by_cases h0 : b = 0
  · simp only [h0, bne_self_eq_false, Bool.false_or, decide_eq_true_eq, List.mem_cons, List.not_mem_nil, or_false, not_or,
      R_PKT_LOCK, R_PKT_CLEAR] at h
    have e : rowsBinding0.filter (fun r => r.hits off) = [] := by
      simp [rowsBinding0, RegRow.hits]
      omega
    simp only [kindRows, h0, if_true, List.filter_append, e, List.nil_append]
    exact noMwRows_filter hb _
  · simp only [kindRows, if_neg h0]
    exact noMwRows_filter hb _

/-- Off the register that starts something, a write of an entry of a shard page is one of its fields. -/
theorem shardWrite_fields {s : State} {p b page off : Nat} {v : Word} (hpage : page = pgOpt p + 1 + b) (h : fieldsOnly s (.optShard p b) off v = true)
    (ho : off < 4096) :
    shardWrite s p (32 * b + (off - 0x800) / 64) (0x800 + (off - 0x800) % 64) v = fieldWrite s page off v true false := by
  simp only [fieldsOnly, Bool.and_eq_true, decide_eq_true_eq, bne_iff_ne, Bool.not_eq_true'] at h
  obtain ⟨⟨hlo, hcfg⟩, hsh⟩ := h
  have ep : pgOpt p + 1 + (32 * b + (off - 0x800) / 64) / 32 = page := by rw [hpage]; omega
  have eo : 0x800 + (off - 0x800) % 64 + 64 * ((32 * b + (off - 0x800) / 64) % 32) = off := by omega
  simp only [shardWrite, ep, eo, hsh]
  rw [if_neg (by simp only [R_SH_CFG]; omega), if_neg (by decide)]

theorem writeBlock_of_fieldsOnly {s : State} {mid page off : Nat} {v : Word} {k : PageKind} {own mantle : Bool} (hk : pageKind page = some k)
    (h : fieldsOnly s k off v = true) (ho : off < 4096) (h1 : 0x100 ≤ off) (hown : ∀ p b, k = .optShard p b → own = true) :
    writeBlock s k mid page off v own mantle = fieldWrite s page off v own mantle := by
  have hmw : mwKind k = false → fieldWrite s page off v own false = fieldWrite s page off v own mantle := fun hn =>
    fieldWrite_of_noMw _ _ _ _ _ (fldsMask_mw_of_rows hk h1 (noMwRows_filter (noMwRows_kindRows hn) _))
  cases k with
  | core _ | ctx _ _ | tagpool _ | yokeSlots _ | pocket _ | wordPocket _ | button _ | llc _ | fabric _ | port _ | link _ | group _ | coll _ | opt _ | recov _ =>
    -- what `fieldsOnly` leaves out are the conditions of the other branches
    rw [← hmw rfl]
    simp only [fieldsOnly] at h
    simp only [writeBlock, writeCore, writeCtx, writeLlc, writeLink, writeGroup]
    grind
  | leg b =>
    rw [← hmw rfl]
    simp only [fieldsOnly, Option.isNone_iff_eq_none] at h
    simp only [writeBlock, h, Option.isSome_none, Bool.false_eq_true, if_false]
  | hbm _ | power _ | bist _ =>
    simp only [fieldsOnly] at h
    simp only [writeBlock, writeHbm, writePower]
    grind
  | binding b =>
    rw [fieldWrite_of_noMw _ _ _ mantle false (fldsMask_mw_of_rows hk h1 (noMwRows_binding h))]
    simp only [fieldsOnly] at h
    simp only [writeBlock, writeBind]
    grind
  | optShard p b =>
    have hlo : 0x800 ≤ off := by simp only [fieldsOnly] at h; grind
    obtain ⟨-, -, hpage⟩ := kindPlace_of_pageKind hk
    rw [← hmw rfl, hown p b rfl]
    simp only [writeBlock, if_pos hlo]
    exact shardWrite_fields hpage h ho
  | _ => rfl

theorem writeReg_of_fieldsOnly {s : State} {mid page off : Nat} {v : Word} {k : PageKind} (hk : pageKind page = some k)
    (h : fieldsOnly s k off v = true) (ho : off < 4096) (h1 : 0x100 ≤ off) (hown : ∀ p b, k = .optShard p b → ownsPage s mid page = true)
    (hf : regFlds page off ≠ []) :
    writeReg s mid page off v = fieldWrite s page off v (ownsPage s mid page) (isMantle mid) := by
  simp only [writeReg, if_neg hf, if_neg (Nat.not_lt.2 h1), hk]
  exact writeBlock_of_fieldsOnly hk h ho h1 hown

theorem MayWrite.cause {s : State} {mid page off : Nat} {v : Word} (h : MayWrite s mid page off v) : writeCause s mid page off v = none := by
  obtain ⟨-, hv⟩ := h
  unfold verdict at hv
  split at hv
  · cases hv
  · split at hv
    · cases hv
    · next e => exact e

/-- Only its owner may write a shard page: it has no MW field for the Mantle. -/
theorem MayWrite.owns_shard {s : State} {mid page off p b : Nat} {v : Word} (h : MayWrite s mid page off v) (hk : pageKind page = some (.optShard p b))
    (h1 : 0x100 ≤ off) : ownsPage s mid page = true := by
  have hmw : fldsMask .mw (regFlds page off) = 0 := fldsMask_mw_of_rows hk h1 (noMwRows_filter (noMwRows_kindRows rfl) _)
  have hc := h.cause
  simp only [writeCause, hk] at hc
  simp only [ownsPage, hk, beq_iff_eq]
  refine Decidable.byContradiction (fun hne => ?_)
  have ho : off ≠ R_BLK_OWNER := by simp only [R_BLK_OWNER]; omega
  have hmantle : ¬(ownerOf s page = mid ∨ off = R_BLK_OWNER ∨ fldsMask .mw (regFlds page off) ≠ 0) := fun h =>
    h.elim hne (fun h => h.elim ho (fun h => h hmw))
  rw [if_neg hmantle, if_pos hne, ite_self] at hc
  cases hc

/-! ## A write of a register that is a command -/

theorem toNat_mmioAddr {page off : Nat} (hp : page < 65536) (ho : off < 4096) : (mmioAddr page off).toNat = mmioBase + page * 4096 + off := by
  have hlt : mmioBase + page * 4096 + off < 2 ^ 64 := by unfold mmioBase; omega
  rw [mmioAddr, w64, BitVec.toNat_ofNat, Nat.mod_eq_of_lt hlt]

theorem regionOf_mmioAddr {page off : Nat} (hp : page < 65536) (ho : off < 4096) : regionOf (mmioAddr page off).toNat = .mmio page := by
  rw [toNat_mmioAddr hp ho]
  unfold regionOf mmioBase
  rw [if_neg (by omega), if_neg (by omega), if_neg (by omega), if_pos (by omega)]
  congr 1
  omega

theorem mmioAddr_mod {page off : Nat} (hp : page < 65536) (ho : off < 4096) : (mmioAddr page off).toNat % 4096 = off := by
  rw [toNat_mmioAddr hp ho]
  unfold mmioBase
  omega

/-- A write of the register at an address is the guarded write whose effect is the register's. -/
theorem exec_registerWrite_mmioAddr {page off : Nat} (hp : page < 65536) (ho : off < 4096) (mid : Mid) (v : Word) (s : State) {act : State → State}
    (h : ∀ t, writeReg t mid.toNat page off v = act t) :
    exec (.registerWrite mid (mmioAddr page off) v) s = .next (guardWrite s mid.toNat page off v act) := by
  rw [exec_registerWrite, execRegisterWrite, regionOf_mmioAddr hp ho]
  simp only [mmioAddr_mod hp ho, regWrite, h]

theorem pageKind_pgCore (c : Core) : pageKind (pgCore c) = some (.core c) := by
  revert c; decide
theorem pageKind_pgCtx (c : Core) (x : CtxId) : pageKind (pgCtx c x) = some (.ctx c x) := by
  revert c x; decide +kernel
theorem pageKind_pgFab (p : Panel) : pageKind (pgFab p) = some (.fabric p) := by
  revert p; decide

/-- The effect of a write behind the header of an offset where a register stands is that of its block. -/
theorem writeReg_block {page off : Nat} {k : PageKind} (hk : pageKind page = some k) (h1 : 0x100 ≤ off)
    (hf : ((kindRows k).find? (fun r => r.hits off)).any (fun r => !r.flds.isEmpty) = true) (s : State) (mid : Nat) (v : Word) :
    writeReg s mid page off v = writeBlock s k mid page off v (ownsPage s mid page) (isMantle mid) := by
  have hne : regFlds page off ≠ [] := by
    simp only [regFlds, hk, if_neg (Nat.not_lt.2 h1)]
    cases e : (kindRows k).find? (fun r => r.hits off) with
    | none => simp [e] at hf
    | some r => simpa [e] using hf
  simp only [writeReg, if_neg hne, if_neg (Nat.not_lt.2 h1), hk]

theorem exec_write_ctxCtl_start (mid : Mid) (c : Core) (x : CtxId) (s : State) :
    exec (.registerWrite mid (mmioAddr (pgCtx c x) R_CTX_CTL) 1) s = exec (.start mid c x) s :=
  exec_registerWrite_mmioAddr (by simp only [pgCtx]; omega) (by decide) mid 1 s (fun t => writeReg_block (pageKind_pgCtx c x) (by decide) rfl t _ _)

theorem exec_write_dlCtl_recal (mid : Mid) (c : Core) (s : State) :
    exec (.registerWrite mid (mmioAddr (pgCore c) R_DL_CTL) 1) s = exec (.recal mid c) s :=
  exec_registerWrite_mmioAddr (by simp only [pgCore]; omega) (by decide) mid 1 s (fun t => writeReg_block (pageKind_pgCore c) (by decide) rfl t _ _)

theorem exec_write_fbCmd_setFull (mid : Mid) (c : Core) (e : BitVec 12) (s : State) :
    exec (.registerWrite mid (mmioAddr (pgCore c) R_FB_CMD) (w64 (0x10000 + e.toNat))) s = exec (.fbSetFull mid c e) s :=
  exec_registerWrite_mmioAddr (by simp only [pgCore]; omega) (by decide) mid _ s (fun t => writeReg_block (pageKind_pgCore c) (by decide) rfl t _ _)

theorem exec_write_arbCommit (mid : Mid) (p : Panel) (s : State) :
    exec (.registerWrite mid (mmioAddr (pgFab p) R_ARB_COMMIT) 1) s = exec (.arbCommit mid p) s :=
  exec_registerWrite_mmioAddr (by simp only [pgFab]; omega) (by decide) mid 1 s (fun t => writeReg_block (pageKind_pgFab p) (by decide) rfl t _ _)

/-! ## What a performed write of fields leaves -/

theorem exec_registerWrite_performed {mid : Mid} {addr value : Word} {page : Nat} {s : State} (hr : regionOf addr.toNat = .mmio page)
    (h : MayWrite s mid.toNat page (addr.toNat % 4096) value) :
    exec (.registerWrite mid addr value) s = .next (writeReg (wrote s page) mid.toNat page (addr.toNat % 4096) value) := by
  rw [exec_registerWrite, execRegisterWrite, hr]
  simp only [regWrite, h.guard]

/-- The write counted, the register holds what it held: no event writes it, or the count raises none. -/
theorem rd_wrote_key {s : State} {page off : Nat} (ho : off < 4096) (h1 : 0x100 ≤ off)
    (h : plainKey (reg page off) ∨ (rd s (reg (mainPage page) R_BLK_WR_CNT)).toNat + 1 < maxWord) : rd (wrote s page) (reg page off) = rd s (reg page off) :=
  h.elim (fun hp => rd_wrote s page hp (reg_ne_wr ho h1)) (fun hn => rd_wrote_of_lt s hn (reg_ne_wr ho h1))

/-- The effect of a performed write that acts on fields alone: there is no register at the offset, or its fields take the write. -/
theorem writeReg_performed {s : State} {mid page off : Nat} {v : Word} {k : PageKind} (hk : pageKind page = some k) (h : fieldsOnly s k off v = true)
    (ho : off < 4096) (h1 : 0x100 ≤ off) (hm : MayWrite s mid page off v) :
    (regFlds page off = [] ∧ writeReg (wrote s page) mid page off v = wrote s page)
      ∨ writeReg (wrote s page) mid page off v = fieldWrite (wrote s page) page off v (ownsPage s mid page) (isMantle mid) := by
  by_cases hf : regFlds page off = []
  · exact .inl ⟨hf, by simp only [writeReg, hf, if_true]⟩
  · right
    rw [← ownsPage_wrote s page]
    refine writeReg_of_fieldsOnly hk ((fieldsOnly_wrote s page page off v hk ho).trans h) ho h1 (fun p b e => ?_) hf
    rw [ownsPage_wrote]
    exact hm.owns_shard (hk.trans (congrArg some e)) h1

/-- Settles O4: a performed write of a register that starts nothing is the count of the write and `fieldWrite`; one that starts something is the
guarded write that the command is. -/
theorem registerWriteActsFieldByField : Obligations.RegisterWriteActsFieldByField := by
  unfold Obligations.RegisterWriteActsFieldByField
  refine ⟨?_, fun mid c x p e s => ⟨exec_write_ctxCtl_start mid c x s, exec_write_dlCtl_recal mid c s, exec_write_fbCmd_setFull mid c e s,
    exec_write_arbCommit mid p s⟩⟩
  intro mid addr value page k s hr hk hfo h1 hm
  extract_lets off key own mantle
  have ho : off < 4096 := Nat.mod_lt _ (by decide)
  refine ⟨_, exec_registerWrite_performed hr hm, ?_⟩
  have hEv : ∀ j, plainKey j → j ∉ [key, reg (mainPage page) R_BLK_WR_CNT] → j ≠ key ∧ rd (wrote s page) j = rd s j := by
    intro j hp hj
    simp only [List.mem_cons, List.not_mem_nil, or_false, not_or] at hj
    exact ⟨hj.1, rd_wrote s page hp hj.2⟩
  obtain ⟨hnone, e⟩ | e := writeReg_performed hk hfo ho h1 hm
  · rw [e]
    refine ⟨rfl, fun _ f hf => ?_, restBeside_wrote s s page, fun j hp hj => (hEv j hp hj).2⟩
    rw [hnone] at hf
    cases hf
  · rw [e]
    refine ⟨rfl, fun hkey f hf i hl hh => ?_, ?_, fun j hp hj => ?_⟩
    · rw [getLsbD_fieldWrite (regFlds_fldsApart hk h1) hf hl hh, rd_wrote_key ho h1 hkey]
      rfl
    · change restBeside s _ = s
      rw [restBeside_fieldWrite, restBeside_wrote, restBeside_self]
    · rw [rd_fieldWrite_ne _ _ _ _ (hEv j hp hj).1, (hEv j hp hj).2]

end Sys2Proof.Machine

/-! SUPPORT. Delay lines and Hem crossings: what the margin monitor, a recalibration, a Hem's clock and its resynchronisations change
(02_handshake_time.md R39, R41, R52 to R57). -/

namespace Sys2Proof.Machine

/-! ## What events may change -/

/-- `t` with the registers, wakes and sleepers of `s`: what is left to compare of `t` where only events and registers may have changed it. -/
def besideEvents (s t : State) : State := { t with regs := s.regs, wakes := s.wakes, asleep := s.asleep }

theorem apart_besideEvents (s : State) : Apart (besideEvents s) := ⟨fun _ _ => rfl, fun _ _ => rfl, fun _ _ => rfl⟩

theorem mainPage_pgCore (c : Core) : mainPage (pgCore c) = pgCore c := by
  rw [mainPage, pageKind_pgCore]

theorem plain_dlStatus (c : Core) : plainKey (kCore c R_DL_STATUS) := plain_kCore (by omega) (by decide) (by decide)

/-! ## The margin monitor (R41) -/

theorem exec_dlMarginLow (c : Core) (m : Byte) (s : State) : exec (.dlMarginLow c m) s = execDlMarginLow c m s := rfl
theorem exec_recal (mid : Mid) (c : Core) (s : State) : exec (.recal mid c) s = execRecal mid c s := rfl
theorem exec_dlRecalDone (c : Core) (n : Nat) (m : Byte) (s : State) : exec (.dlRecalDone c n m) s = execDlRecalDone c n m s := rfl

/-- DL_STATUS after a reading: the margin in bits 15 to 8, DL_MARGIN_LOW set where it is below 4 %. -/
theorem rd_marginRead_status (s : State) (c : Core) (m : Nat) :
    rd (marginRead s c m) (kCore c R_DL_STATUS)
      = if m < 16 then setBit (setBits (rd s (kCore c R_DL_STATUS)) 15 8 m) 1 true else setBits (rd s (kCore c R_DL_STATUS)) 15 8 m := by
  simp only [marginRead]
  split
  · rw [rd_raiseEvt _ _ _ (plain_dlStatus c), wrB, rd_wr_self, wrF, rd_wr_self]
  · rw [wrF, rd_wr_self]

theorem rd_marginRead_ne (s : State) (c m : Nat) {k : Nat} (h : plainKey k) (hk : k ≠ kCore c R_DL_STATUS) : rd (marginRead s c m) k = rd s k := by
  simp only [marginRead]
  split
  · rw [rd_raiseEvt _ _ _ h, rd_wrB_ne _ _ _ hk, rd_wrF_ne _ _ _ _ hk]
  · rw [rd_wrF_ne _ _ _ _ hk]

theorem marginRead_apart {α : Type} {f : State → α} (h : Apart f) (s : State) (c m : Nat) : f (marginRead s c m) = f s := by
  simp only [marginRead]
  split
  · rw [raiseEvt_apart h, wrB_apart h, wrF_apart h]
  · rw [wrF_apart h]

theorem rdB_marginRead_low (s : State) (c : Core) {m : Nat} (hm : m < 16) : rdB (marginRead s c m) (kCore c R_DL_STATUS) 1 = true := by
  rw [rdB, rd_marginRead_status, if_pos hm, bitAt_setBit_self _ _ _ (by decide)]

theorem rdF_marginRead_margin (s : State) (c : Core) {m : Nat} (hm : m < 256) : rdF (marginRead s c m) (kCore c R_DL_STATUS) 15 8 = m := by
  have e : bits (setBits (rd s (kCore c R_DL_STATUS)) 15 8 m) 15 8 = m := by
    rw [bits_setBits_self _ _ _ _ (by decide) (by decide)]
    exact Nat.mod_eq_of_lt hm
  rw [rdF, rd_marginRead_status]
  split
  · rw [bits_setBit_apart _ _ _ _ _ (by decide) (by decide) (by decide), e]
  · exact e

theorem rdB_marginRead_calibrated (s : State) (c : Core) (m : Nat) : rdB (marginRead s c m) (kCore c R_DL_STATUS) 0 = rdB s (kCore c R_DL_STATUS) 0 := by
  rw [rdB, rd_marginRead_status]
  split
  · rw [bitAt_setBit_ne _ _ _ _ (by decide) (by decide), bitAt_setBits_apart _ _ _ _ _ (by decide) (by decide), rdB]
  · rw [bitAt_setBits_apart _ _ _ _ _ (by decide) (by decide), rdB]

/-! ## A recalibration (R39, R454) -/

theorem coreOf_modCore (s : State) (c d : Nat) (f : CoreSt → CoreSt) : coreOf (modCore s c f) d = if d = c then f (coreOf s c) else coreOf s d :=
  coreOf_setCore _ _ _ _

theorem coreOf_modCore_self (s : State) (c : Nat) (f : CoreSt → CoreSt) : coreOf (modCore s c f) c = f (coreOf s c) := by
  rw [coreOf_modCore, if_pos rfl]

theorem coreOf_modCore_ne (s : State) {c d : Nat} (f : CoreSt → CoreSt) (h : d ≠ c) : coreOf (modCore s c f) d = coreOf s d := by
  rw [coreOf_modCore, if_neg h]

theorem coreOf_wrote (s : State) (page c : Nat) : coreOf (wrote s page) c = coreOf s c :=
  coreOf_congr (wrote_apart apart_cores (fun _ _ => rfl) s page) c

theorem recalStart_of_running {s : State} {c : Nat} (h : (coreOf s c).recal = true) : recalStart s c = s := by
  rw [recalStart, if_pos h]

theorem coreOf_recalStart_of_idle {s : State} {c : Nat} (h : (coreOf s c).recal = false) :
    coreOf (recalStart s c) c = { coreOf s c with recal := true, katRunning := List.range 10 } := by
  rw [recalStart, if_neg (by simp [h]), startKat, coreOf_modCore_self, coreOf_modCore_self]

theorem coreOf_recalStart_ne (s : State) {c d : Nat} (h : d ≠ c) : coreOf (recalStart s c) d = coreOf s d := by
  unfold recalStart
  split
  · rfl
  · rw [startKat, coreOf_modCore_ne _ _ h, coreOf_modCore_ne _ _ h]

theorem rd_recalStart (s : State) (c k : Nat) : rd (recalStart s c) k = rd s k := by
  unfold recalStart
  split
  · rfl
  · rw [startKat, rd_modCore, rd_modCore]

theorem recal_recalStart (s : State) (c : Nat) : (coreOf (recalStart s c) c).recal = true := by
  cases h : (coreOf s c).recal with
  | true => rw [recalStart_of_running h, h]
  | false => rw [coreOf_recalStart_of_idle h]

/-- A core whose calibration has ended at 1.10 times its replica's delay, which its island keeps. -/
def calibrated (k : CoreSt) (replica : Nat) : CoreSt :=
  { k with recal := false, delay := .set (110 * replica), keptDelay := 110 * replica, keptValid := true }

theorem recalDone_of_awaited {s : State} {c : Nat} (replica m : Nat) (hd : domOn s c = true)
    (h : (coreOf s c).recal = true ∨ rdB s (kCore c R_DL_STATUS) 0 = false) :
    recalDone s c replica m = marginRead (wrB (modCore s c (fun k => calibrated k replica)) (kCore c R_DL_STATUS) 0 true) c m := by
  unfold recalDone
  exact if_pos ⟨hd, h.imp_right (fun e => by simp [e])⟩

/-- Settles O6: the three commands are a margin reading, the start of a recalibration after the counted write, and a calibrated core whose margin is
read. -/
theorem delayLineCommands : Obligations.DelayLineCommands := by
  unfold Obligations.DelayLineCommands
  refine ⟨fun c m s hd hm => ?_, fun mid c s hw => ?_, fun c replica m s hd h => ?_⟩
  · refine ⟨marginRead s c m.toNat, by rw [exec_dlMarginLow, execDlMarginLow, if_pos ⟨hd, hm⟩], rdB_marginRead_low s c hm,
      rdF_marginRead_margin s c m.isLt, marginRead_apart (apart_besideEvents s) s c _, fun k hp hk => ?_⟩
    exact rd_marginRead_ne s c _ hp (by simpa using hk)
  · refine ⟨recalStart (wrote s (pgCore c)) c, by rw [exec_recal, execRecal, hw.guard], recal_recalStart _ _, ?_, fun hr => ?_, fun hr => ?_,
      fun d hdc => ?_, ?_, fun k hp hk => ?_⟩
    · rw [rd_recalStart, rd_wrote _ _ (plain_dlStatus c) (reg_ne_wr (by decide) (by decide))]
    · rw [recalStart_of_running (by rw [coreOf_wrote, hr]), coreOf_wrote]
    · rw [coreOf_recalStart_of_idle (by rw [coreOf_wrote, hr])]
    · rw [coreOf_recalStart_ne _ hdc, coreOf_wrote]
    · rw [recalStart_mem, wrote_apart apart_mem (fun _ _ => rfl)]
    · rw [rd_recalStart, rd_wrote _ _ hp (by rw [mainPage_pgCore]; simpa using hk)]
  · have hc : coreOf (recalDone s c replica m.toNat) c = calibrated (coreOf s c) replica := by
      rw [recalDone_of_awaited replica _ hd h, coreOf_congr (marginRead_apart apart_cores ..), coreOf_congr (wrB_cores ..), coreOf_modCore_self]
    refine ⟨recalDone s c replica m.toNat, by rw [exec_dlRecalDone, execDlRecalDone], by rw [hc]; rfl, by rw [hc]; rfl,
      by rw [hc]; rfl, by rw [hc]; rfl, ?_, recalDone_mem .., fun k hp hk => ?_⟩
    · rw [recalDone_of_awaited replica _ hd h, rdB_marginRead_calibrated, rdB_wrB_self _ _ _ _ (by decide)]
    · have hk' : k ≠ kCore c R_DL_STATUS := by simpa using hk
      rw [recalDone_of_awaited replica _ hd h, rd_marginRead_ne _ _ _ hp hk', rd_wrB_ne _ _ _ hk', rd_modCore]

end Sys2Proof.Machine

namespace Sys2Proof.Machine

/-! ## The registers of a Hem -/

theorem exec_hemClockStop (h : HemId) (s : State) : exec (.hemClockStop h) s = execHemClockStop h s := rfl
theorem exec_hemClockRun (h : HemId) (s : State) : exec (.hemClockRun h) s = execHemClockRun h s := rfl
theorem exec_hemClockLoss (h : HemId) (s : State) : exec (.hemClockLoss h) s = execHemClockLoss h s := rfl
theorem exec_overrun (h : HemId) (s : State) : exec (.overrun h) s = execOverrun h s := rfl
theorem exec_resync (h : HemId) (side : Bool) (s : State) : exec (.resync h side) s = execResync h side s := rfl
theorem exec_resyncReady (h : HemId) (side : Bool) (s : State) : exec (.resyncReady h side) s = execResyncReady h side s := rfl

theorem plain_hem (h : HemId) {off : Nat} (h1 : 0x100 ≤ off) (ho : off < 4096) : plainKey (reg (pgHem h) off) :=
  plain_block (by unfold pgHem; omega) (by unfold pgHem; omega) ho h1

theorem plain_xing (h : HemId) : plainKey (kXing h) := plain_hem h (by decide) (by decide)

/-- A register behind the header is none of a header's. -/
theorem reg_ne_hdr {page p off hdr : Nat} (ho : off < 4096) (h1 : 0x100 ≤ off) (hh : hdr < 0x100) : reg page off ≠ reg p hdr := by
  unfold reg
  omega

theorem hemHeld_iff (s : State) (h : Nat) : hemHeld s h = true ↔ h ∈ s.hemStopped ∨ rdB s (kXing h) 3 = true := by
  rw [hemHeld, Bool.or_eq_true, List.contains_iff_mem]

theorem hemHeld_eq_false_iff (s : State) (h : Nat) : hemHeld s h = false ↔ h ∉ s.hemStopped ∧ rdB s (kXing h) 3 = false := by
  rw [← Bool.not_eq_true, hemHeld_iff, not_or, Bool.not_eq_true]

/-! ## Held transfers go on (R52, R56) -/

/-- From `s` to `t` the transfers held at Hem `h` have gone on in their order: a port's frames, or the control port's. -/
def TransfersGo (s t : State) (h : Nat) : Prop :=
  (8 ≤ h → h < 24 → t.wire = s.wire ++ s.wireHeld.filter (fun f => f.port == h - 8) ∧ ∀ f ∈ t.wireHeld, f.port ≠ h - 8)
    ∧ (h = 24 → t.cp.wire = s.cp.wire ++ s.cp.held ∧ t.cp.held = [])

/-- `t` with what a release of held transfers may change taken from `s`. -/
def besideRelease (s t : State) : State := { t with wire := s.wire, wireHeld := s.wireHeld, cp := s.cp }

theorem hemRelease_of_held {s : State} {h : Nat} (hh : hemHeld s h = true) : hemRelease s h = s := by
  rw [hemRelease, if_pos hh]

theorem hemRelease_of_port {s : State} {h : Nat} (hh : hemHeld s h = false) (h8 : 8 ≤ h) (h24 : h < 24) :
    hemRelease s h = { s with
      wire := s.wire ++ s.wireHeld.filter (fun f => f.port == h - 8), wireHeld := s.wireHeld.filter (fun f => f.port != h - 8) } := by
  simp only [hemRelease, hh, Bool.false_eq_true, if_false, h8, h24, and_self, if_true, Nat.ne_of_lt h24]

theorem hemRelease_of_cp {s : State} (hh : hemHeld s 24 = false) :
    hemRelease s 24 = { s with cp := { s.cp with wire := s.cp.wire ++ s.cp.held, held := [] } } := by
  simp [hemRelease, hh]

theorem hemRelease_of_other {s : State} {h : Nat} (hp : ¬(8 ≤ h ∧ h < 24)) (hc : h ≠ 24) : hemRelease s h = s := by
  simp only [hemRelease, if_neg hp, if_neg hc, ite_self]

theorem besideRelease_hemRelease (s : State) (h : Nat) : besideRelease s (hemRelease s h) = s := by
  cases hh : hemHeld s h with
  | true => rw [hemRelease_of_held hh]; rfl
  | false =>
    by_cases hp : 8 ≤ h ∧ h < 24
    · rw [hemRelease_of_port hh hp.1 hp.2]; rfl
    · by_cases hc : h = 24
      · subst hc
        rw [hemRelease_of_cp hh]; rfl
      · rw [hemRelease_of_other hp hc]; rfl

/-- A release of held transfers keeps every projection that sees neither the frames before and on the fibres nor the control port. -/
theorem hemRelease_keeps {α : Type} {f : State → α} (hf : ∀ t w wh cp, f { t with wire := w, wireHeld := wh, cp := cp } = f t)
    (s : State) (h : Nat) : f (hemRelease s h) = f s :=
  (hf _ _ _ _).symm.trans (congrArg f (besideRelease_hemRelease s h))

theorem hemRelease_regs (s : State) (h : Nat) : (hemRelease s h).regs = s.regs := hemRelease_keeps (fun _ _ _ _ => rfl) s h
theorem hemRelease_hemStopped (s : State) (h : Nat) : (hemRelease s h).hemStopped = s.hemStopped := hemRelease_keeps (fun _ _ _ _ => rfl) s h
theorem hemRelease_resync (s : State) (h : Nat) : (hemRelease s h).resync = s.resync := hemRelease_keeps (fun _ _ _ _ => rfl) s h

theorem hemHeld_hemRelease (s : State) (h : Nat) : hemHeld (hemRelease s h) h = hemHeld s h := by
  rw [hemHeld, hemRelease_hemStopped, rdB_congr (hemRelease_regs s h), hemHeld]

theorem transfersGo_hemRelease {s : State} {h : Nat} (hh : hemHeld s h = false) : TransfersGo s (hemRelease s h) h := by
  refine ⟨fun h8 h24 => ?_, ?_⟩
  · rw [hemRelease_of_port hh h8 h24]
    exact ⟨rfl, fun f hf => by simpa using (List.mem_filter.1 hf).2⟩
  · rintro rfl
    rw [hemRelease_of_cp hh]
    exact ⟨rfl, rfl⟩

/-! ## Errors reported (R53, R478) -/

theorem mainPage_hemOwnerPage (h : HemId) : mainPage (hemOwnerPage h) = hemOwnerPage h := by
  revert h
  decide

section
variable {s : State} {page code : Nat} {addr : Word} (hm : mainPage page = page)
include hm

theorem rd_reportErr {k : Nat} (h : plainKey k) (hl : k ≠ reg page R_BLK_ERR_LOG) (ha : k ≠ reg page R_BLK_ERR_ADDR)
    (hc : k ≠ reg page R_BLK_ERR_CNT) : rd (reportErr s page code addr) k = rd s k := by
  have hb : rd (bumpHdr s page R_BLK_ERR_CNT) k = rd s k := by
    rw [bumpHdr, hm, rd_bump _ _ _ h hc]
  simp only [reportErr, hm]
  rw [rd_raiseEvt _ _ _ h]
  split
  · rw [rd_wr_ne _ _ ha, rd_wr_ne _ _ hl, hb]
  · split
    · rw [rd_wr_ne _ _ ha, rd_wr_ne _ _ hl, hb]
    · rw [rd_wrB_ne _ _ _ hl, hb]

/-- A reported error stands in BLK_ERR_LOG, VALID set. -/
theorem rdB_reportErr_valid : rdB (reportErr s page code addr) (reg page R_BLK_ERR_LOG) 63 = true := by
  have hp : plainKey (reg page R_BLK_ERR_LOG) := plain_hdr page (by decide) (by decide) (by decide)
  have hla : reg page R_BLK_ERR_LOG ≠ reg page R_BLK_ERR_ADDR := by simp only [reg, R_BLK_ERR_LOG, R_BLK_ERR_ADDR]; omega
  simp only [reportErr, hm]
  rw [rdB_of_rd (rd_raiseEvt _ _ _ hp)]
  split
  · rw [rdB_of_rd (rd_wr_ne _ _ hla), rdB, rd_wr_self, bitAt_setBit_self _ _ _ (by decide)]
  · next hv =>
    split
    · rw [rdB_of_rd (rd_wr_ne _ _ hla), rdB, rd_wr_self, bitAt_setBit_self _ _ _ (by decide)]
    · rw [rdB_wrB_ne _ _ _ _ _ (by decide) (by decide)]
      simpa using hv

end

theorem mem_breached_breach (s : State) (page : Nat) (mids : List Nat) (addr : Word) : page ∈ (breach s page mids addr).breached := by
  simp only [breach, judgeFailed, reportErr_breached]
  split
  · next h => exact List.contains_iff_mem.1 h
  · exact List.mem_append_right _ (List.mem_singleton_self page)

/-! ## A reset of a crossing aborts what crosses it (R56) -/

theorem rd_fillSlots (s : State) (c k : Nat) : rd (fillSlots s c) k = rd s k := by
  refine foldl_keeps (fun t => rd t k) _ (fun t _ => ?_) _ _
  unfold fillSlot
  dsimp only
  (repeat' split) <;> rfl

section
variable {k : Nat} (hp : plainKey k) (hg : ∀ p, k ≠ reg (pgPool p) R_POOL_GRANT_CNT)
include hp hg

/-- A request that takes a tag may count a grant in its Panel's pool; no other plain register changes. -/
theorem rd_hold (s : State) (c : Nat) (r : StrReq) (t : TagKind) : rd (hold s c r t) k = rd s k := by
  simp only [hold]
  split
  · rw [rd_bump _ _ _ hp (hg _), rd_modCore]
  · rw [rd_modCore]

theorem rd_unparkAll (s : State) (p : Nat) (ret : Option Returned) : rd (unparkAll s p ret) k = rd s k := by
  refine foldl_keeps (fun t => rd t k) _ (fun t i => ?_) _ _
  refine foldl_keeps (fun t => rd t k) _ (fun t r => ?_) _ _
  split
  · rfl
  · split
    · rfl
    · rw [rd_hold hp hg, rd_modCore]

theorem rd_abortStack (s : State) (st : Nat) : rd (abortStack s st) k = rd s k := by
  refine foldl_keeps (fun t => rd t k) _ (fun t c => ?_) _ _
  dsimp only
  split
  · rfl
  · rw [rd_fillSlots, rd_unparkAll hp hg, rd_setCore]

theorem rd_hemAbort (s : State) (h : Nat) : rd (hemAbort s h) k = rd s k := by
  unfold hemAbort
  split
  · exact rd_abortStack hp hg s h
  · (repeat' split) <;> rfl

end

theorem rd_hemAbort_hem (s : State) (h : HemId) {off : Nat} (h1 : 0x100 ≤ off) (ho : off < 4096) :
    rd (hemAbort s h) (reg (pgHem h) off) = rd s (reg (pgHem h) off) :=
  rd_hemAbort (plain_hem h h1 ho) (fun p => by simp only [reg, pgHem, pgPool, R_POOL_GRANT_CNT]; omega) s h

theorem hemAbort_wireHeld {s : State} {h : Nat} (h8 : 8 ≤ h) (h24 : h < 24) :
    (hemAbort s h).wireHeld = s.wireHeld.filter (fun f => f.port != h - 8) := by
  rw [hemAbort, if_neg (Nat.not_lt.2 h8), if_pos h24]

/-! ## A resynchronisation (R56, R57) -/

/-- The first side of a crossing to be reset starts the resynchronisation and counts it. -/
def resyncCounted (s : State) (h : Nat) : State :=
  if rdB s (kXing h) 3 then s else bump (wrB s (kXing h) 3 true) (pgHem h) R_HEM_RESYNC_CNT

/-- The sides of crossings in reset are `l`; where it is the handshake side of Hem `h` that changed, HEM_XING_STAT shows its reset as `b`. -/
def withSides (s : State) (h : Nat) (side : Bool) (l : List (Nat × Bool)) (b : Bool) : State :=
  if side then { s with resync := l } else wrB { s with resync := l } (kXing h) 2 b

section
variable (s : State) (h : Nat) (side : Bool) (l : List (Nat × Bool)) (b : Bool)

@[simp] theorem withSides_resync : (withSides s h side l b).resync = l := by cases side <;> rfl
@[simp] theorem withSides_hemStopped : (withSides s h side l b).hemStopped = s.hemStopped := by cases side <;> rfl
@[simp] theorem withSides_wireHeld : (withSides s h side l b).wireHeld = s.wireHeld := by cases side <;> rfl

theorem rd_withSides_ne {k : Nat} (hk : k ≠ kXing h) : rd (withSides s h side l b) k = rd s k := by
  cases side with
  | true => rfl
  | false => exact rd_wrB_ne _ _ _ hk

/-- RESYNC itself stays as it is. -/
@[simp] theorem rdB_withSides : rdB (withSides s h side l b) (kXing h) 3 = rdB s (kXing h) 3 := by
  cases side with
  | true => rfl
  | false => exact rdB_wrB_ne _ _ _ _ _ (by decide) (by decide)

/-- Only registers and the sides in reset change. -/
theorem withSides_keeps {α : Type} {f : State → α} (hf : ∀ t r l, f { t with regs := r, resync := l } = f t) : f (withSides s h side l b) = f s := by
  cases side with
  | true => exact hf s s.regs l
  | false => exact hf s (withSides s h false l b).regs l

end

/-- The sides in reset once side `side` of the crossing of Hem `h` is reset too. -/
def sidesReset (s : State) (h : Nat) (side : Bool) : List (Nat × Bool) :=
  if s.resync.contains (h, side) then s.resync else s.resync ++ [(h, side)]

theorem mem_sidesReset (s : State) (h : Nat) (side : Bool) : (h, side) ∈ sidesReset s h side := by
  unfold sidesReset
  split
  · next hc => exact List.contains_iff_mem.1 hc
  · exact List.mem_append_right _ (List.mem_singleton_self _)

theorem resyncStart_eq (s : State) (h : Nat) (side : Bool) :
    resyncStart s h side = withSides (resyncCounted s h) h side (sidesReset (resyncCounted s h) h side) true := rfl

theorem kXing_ne_reg (h off : Nat) (ho : off ≠ R_HEM_XING_STAT) : kXing h ≠ reg (pgHem h) off := by
  simp only [kXing, reg]
  omega

theorem rdB_resyncCounted (s : State) (h : HemId) : rdB (resyncCounted s h) (kXing h) 3 = true := by
  unfold resyncCounted
  split
  · assumption
  · rw [rdB_of_rd (rd_bump _ _ _ (plain_xing h) (kXing_ne_reg h _ (by decide))), rdB_wrB_self _ _ _ _ (by decide)]

theorem rd_resyncCounted_cnt (s : State) (h : HemId) :
    rd (resyncCounted s h) (reg (pgHem h) R_HEM_RESYNC_CNT)
      = if rdB s (kXing h) 3 then rd s (reg (pgHem h) R_HEM_RESYNC_CNT) else w64 (min ((rd s (reg (pgHem h) R_HEM_RESYNC_CNT)).toNat + 1) maxWord) := by
  unfold resyncCounted
  split
  · rfl
  · rw [rd_bump_self _ _ _ (plain_hem h (by decide) (by decide)), rd_wrB_ne _ _ _ (kXing_ne_reg h _ (by decide)).symm]

theorem resyncCounted_apart {α : Type} {f : State → α} (hf : Apart f) (s : State) (h : Nat) : f (resyncCounted s h) = f s := by
  unfold resyncCounted
  split
  · rfl
  · rw [bump_apart hf, wrB_apart hf]

/-! ## READY of a side -/

/-- Side `side` of the crossing of Hem `h` has raised READY, its own reset released. -/
def sideReady (s : State) (h : Nat) (side : Bool) : State := withSides s h side (s.resync.filter (fun r => r != (h, side))) false

/-- READY of the last side ends the resynchronisation; that of another leaves it running. -/
theorem resyncReady_of_awaited {s : State} {h : Nat} {side : Bool} (hon : hemOn s h = true) (hr : (h, side) ∈ s.resync) :
    resyncReady s h side
      = if resyncSides (sideReady s h side) h = [] then hemRelease (wrB (sideReady s h side) (kXing h) 3 false) h else sideReady s h side := by
  unfold resyncReady
  exact if_neg (by simp [hon, hr])

theorem resyncSides_sideReady_eq_nil_iff (s : State) (h : Nat) (side : Bool) :
    resyncSides (sideReady s h side) h = [] ↔ ∀ r ∈ s.resync, r.1 = h → r = (h, side) := by
  rw [resyncSides, sideReady, withSides_resync, List.filter_eq_nil_iff]
  simp only [List.mem_filter, bne_iff_ne, beq_iff_eq, and_imp]
  exact forall₂_congr (fun _ _ => Decidable.not_imp_not)

/-- `t` with what READY of a side may change taken from `s`. -/
def besideReady (s t : State) : State := { t with regs := s.regs, resync := s.resync, wire := s.wire, wireHeld := s.wireHeld, cp := s.cp }

/-- A crossing's resynchronisation has ended: RESYNC is clear. -/
abbrev resyncEnded (s : State) (h : Nat) (side : Bool) : State := wrB (sideReady s h side) (kXing h) 3 false

theorem transfersGo_resyncEnded {s : State} {h : Nat} {side : Bool} (hc : h ∉ s.hemStopped) :
    hemHeld (hemRelease (resyncEnded s h side) h) h = false ∧ TransfersGo s (hemRelease (resyncEnded s h side) h) h := by
  have hf : hemHeld (resyncEnded s h side) h = false :=
    (hemHeld_eq_false_iff _ _).2 ⟨by rwa [wrB_hemStopped, sideReady, withSides_hemStopped], rdB_wrB_self _ _ _ _ (by decide)⟩
  refine ⟨by rw [hemHeld_hemRelease, hf], ?_⟩
  have e := transfersGo_hemRelease hf
  cases side <;> exact e

/-! ## The clock of a Hem (R52) -/

/-- The clock of Hem `h` has stopped. -/
def clockStops (s : State) (h : Nat) : State := { wrB s (kXing h) 0 false with hemStopped := s.hemStopped ++ [h] }

theorem mem_hemStopped_clockStops (s : State) (h : Nat) : h ∈ (clockStops s h).hemStopped := List.mem_append_right _ (List.mem_singleton_self h)

theorem rdB_clockStops_locked (s : State) (h : Nat) : rdB (clockStops s h) (kXing h) 0 = false := rdB_wrB_self s _ _ _ (by decide)

theorem clockStops_beside (s : State) (h : Nat) : { clockStops s h with regs := s.regs, hemStopped := s.hemStopped } = s := by
  cases s
  rfl

theorem rd_clockStops_ne (s : State) (h : Nat) {k : Nat} (hk : k ≠ kXing h) : rd (clockStops s h) k = rd s k := rd_wrB_ne s _ _ hk

/-- The clock of Hem `h` runs again, its PLL locked. -/
def clockRuns (s : State) (h : Nat) : State := { wrB s (kXing h) 0 true with hemStopped := s.hemStopped.filter (fun x => x != h) }

/-- `t` with what a clock that runs again may change taken from `s`. -/
def besideClock (s t : State) : State := { t with regs := s.regs, hemStopped := s.hemStopped, wire := s.wire, wireHeld := s.wireHeld, cp := s.cp }

theorem besideClock_clockRuns (s : State) (h : Nat) : besideClock s (clockRuns s h) = s := by
  cases s
  rfl

theorem not_mem_hemStopped_clockRuns (s : State) (h : Nat) : h ∉ (clockRuns s h).hemStopped := by simp [clockRuns]

theorem rdB_clockRuns_locked (s : State) (h : Nat) : rdB (clockRuns s h) (kXing h) 0 = true := rdB_wrB_self s _ _ _ (by decide)

theorem rd_clockRuns_ne (s : State) (h : Nat) {k : Nat} (hk : k ≠ kXing h) : rd (clockRuns s h) k = rd s k := rd_wrB_ne s _ _ hk

theorem hemHeld_clockRuns {s : State} {h : Nat} (hr : rdB s (kXing h) 3 = false) : hemHeld (clockRuns s h) h = false :=
  (hemHeld_eq_false_iff _ _).2 ⟨not_mem_hemStopped_clockRuns s h, (rdB_wrB_ne s _ _ _ _ (by decide) (by decide)).trans hr⟩

/-! ## The commands -/

section
variable {s : State} {h : HemId} (hon : hemOn s h = true)
include hon

theorem exec_hemClockStop_of_on (hs : s.hemStopped.contains h.val = false) :
    exec (.hemClockStop h) s = .next (clockStops s h) := by
  rw [exec_hemClockStop, execHemClockStop, if_pos ⟨hon, by simp only [hs, Bool.not_false]⟩, clockStops]

theorem exec_hemClockRun_of_on : exec (.hemClockRun h) s = .next (hemRelease (clockRuns s h) h) := by
  rw [exec_hemClockRun, execHemClockRun, if_pos hon, clockRuns]

theorem exec_hemClockLoss_of_unlocked (hl : rdB s (kXing h) 0 = false) :
    exec (.hemClockLoss h) s = .next (reportErr (wrB s (kXing h) 4 true) (hemOwnerPage h) 0x204 (mmioAddr (pgHem h) 0)) := by
  rw [exec_hemClockLoss, execHemClockLoss, if_pos ⟨hon, by simp only [hl, Bool.not_false]⟩]

theorem exec_overrun_of_receive (hp : 8 ≤ h.val ∧ h.val < 25) :
    exec (.overrun h) s = .next (bump (wrB s (kXing h) 1 true) (pgHem h) R_HEM_OVERRUN_CNT) := by
  rw [exec_overrun, execOverrun, if_neg (by simp [hon]), if_pos hp]

theorem exec_overrun_of_other (hp : ¬(8 ≤ h.val ∧ h.val < 25)) :
    exec (.overrun h) s = .next (breach s (hemOwnerPage h) (pageMids (hemOwnerPage h)) (mmioAddr (pgHem h) 0)) := by
  rw [exec_overrun, execOverrun, if_neg (by simp [hon]), if_neg hp]

theorem exec_resync_of_on (side : Bool) : exec (.resync h side) s = .next (resyncStart (hemAbort s h) h side) := by
  rw [exec_resync, execResync, if_neg (by simp [hon])]

end

section
variable {s : State} {h : HemId}

theorem runs_hemClockLoss (hon : hemOn s h = true) (hl : rdB s (kXing h) 0 = false) :
    Runs (.hemClockLoss h) s (fun t => rdB t (kXing h) 4 = true
      ∧ rdB t (reg (mainPage (hemOwnerPage h)) R_BLK_ERR_LOG) 63 = true
      ∧ OnlyEvents s t [kXing h, reg (mainPage (hemOwnerPage h)) R_BLK_ERR_LOG, reg (mainPage (hemOwnerPage h)) R_BLK_ERR_ADDR,
          reg (mainPage (hemOwnerPage h)) R_BLK_ERR_CNT]) := by
  have hm := mainPage_hemOwnerPage h
  have hne : ∀ {hdr : Nat}, hdr < 0x100 → kXing h ≠ reg (hemOwnerPage h) hdr := reg_ne_hdr (by decide) (by decide)
  refine ⟨_, exec_hemClockLoss_of_unlocked hon hl, ?_, ?_, ?_, fun k hp hk => ?_⟩
  · rw [rdB_of_rd (rd_reportErr hm (plain_xing h) (hne (by decide)) (hne (by decide)) (hne (by decide))), rdB_wrB_self _ _ _ _ (by decide)]
  · rw [hm]
    exact rdB_reportErr_valid hm
  · exact (reportErr_apart (apart_besideEvents s) ..).trans (wrB_apart (apart_besideEvents s) ..)
  · rw [hm] at hk
    simp only [List.mem_cons, List.not_mem_nil, or_false, not_or] at hk
    obtain ⟨hx, hlog, haddr, hcnt⟩ := hk
    rw [rd_reportErr hm hp hlog haddr hcnt, rd_wrB_ne _ _ _ hx]

theorem runs_overrun_receive (hon : hemOn s h = true) (hp : 8 ≤ h.val ∧ h.val < 25) :
    Runs (.overrun h) s (fun t => rdB t (kXing h) 1 = true
      ∧ rd t (reg (pgHem h) R_HEM_OVERRUN_CNT) = w64 (min ((rd s (reg (pgHem h) R_HEM_OVERRUN_CNT)).toNat + 1) maxWord)
      ∧ OnlyEvents s t [kXing h, reg (pgHem h) R_HEM_OVERRUN_CNT]) := by
  have hne := kXing_ne_reg h R_HEM_OVERRUN_CNT (by decide)
  refine ⟨_, exec_overrun_of_receive hon hp, ?_, ?_, ?_, fun k hp hk => ?_⟩
  · rw [rdB_of_rd (rd_bump _ _ _ (plain_xing h) hne), rdB_wrB_self _ _ _ _ (by decide)]
  · rw [rd_bump_self _ _ _ (plain_hem h (by decide) (by decide)), rd_wrB_ne _ _ _ hne.symm]
  · exact (bump_apart (apart_besideEvents s) ..).trans (wrB_apart (apart_besideEvents s) ..)
  · simp only [List.mem_cons, List.not_mem_nil, or_false, not_or] at hk
    rw [rd_bump _ _ _ hp hk.2, rd_wrB_ne _ _ _ hk.1]

theorem runs_resync (hon : hemOn s h = true) (side : Bool) :
    Runs (.resync h side) s (fun t => rdB t (kXing h) 3 = true ∧ (h.val, side) ∈ t.resync ∧ hemHeld t h = true ∧ t.mem = s.mem
      ∧ rd t (reg (pgHem h) R_HEM_RESYNC_CNT)
          = (if rdB s (kXing h) 3 then rd s (reg (pgHem h) R_HEM_RESYNC_CNT) else w64 (min ((rd s (reg (pgHem h) R_HEM_RESYNC_CNT)).toNat + 1) maxWord))
      ∧ (8 ≤ h.val → h.val < 24 → ∀ f ∈ t.wireHeld, f.port ≠ h.val - 8)) := by
  have hx : rdB (resyncStart (hemAbort s h) h side) (kXing h) 3 = true := by rw [resyncStart_eq, rdB_withSides, rdB_resyncCounted]
  refine ⟨_, exec_resync_of_on hon side, hx, ?_, (hemHeld_iff _ _).2 (.inr hx), ?_, ?_, fun h8 h24 f hf => ?_⟩
  · rw [resyncStart_eq, withSides_resync]
    exact mem_sidesReset ..
  · rw [resyncStart_mem, hemAbort_mem]
  · rw [resyncStart_eq, rd_withSides_ne _ _ _ _ _ (kXing_ne_reg h _ (by decide)).symm, rd_resyncCounted_cnt,
      rdB_of_rd (rd_hemAbort_hem s h (by decide) (by decide)), rd_hemAbort_hem s h (by decide) (by decide)]
  · rw [resyncStart_eq, withSides_wireHeld, resyncCounted_apart apart_wireHeld, hemAbort_wireHeld h8 h24] at hf
    simpa using (List.mem_filter.1 hf).2

theorem runs_resyncReady (hon : hemOn s h = true) {side : Bool} (hr : (h.val, side) ∈ s.resync) :
    Runs (.resyncReady h side) s (fun t => (h.val, side) ∉ t.resync
      ∧ ((∀ r ∈ s.resync, r.1 = h.val → r = (h.val, side)) →
          rdB t (kXing h) 3 = false ∧ (s.hemStopped.contains h.val = false → hemHeld t h = false ∧ TransfersGo s t h))
      ∧ ((∃ r ∈ s.resync, r.1 = h.val ∧ r ≠ (h.val, side)) → rdB t (kXing h) 3 = rdB s (kXing h) 3)
      ∧ besideReady s t = s ∧ ∀ k, k ≠ kXing h → rd t k = rd s k) := by
  have hnot : (h.val, side) ∉ (sideReady s h side).resync := by
    rw [sideReady, withSides_resync]
    simp
  have hrest : besideReady s (sideReady s h side) = s := withSides_keeps _ _ _ _ _ (fun _ _ _ => rfl)
  refine ⟨_, (exec_resyncReady ..).trans (by rw [execResyncReady, resyncReady_of_awaited hon hr]), ?_⟩
  by_cases hl : resyncSides (sideReady s h side) h = []
  · have hall := (resyncSides_sideReady_eq_nil_iff ..).1 hl
    rw [if_pos hl]
    refine ⟨by rwa [hemRelease_resync], fun _ => ⟨?_, fun hc => transfersGo_resyncEnded (by simpa using hc)⟩,
      fun ⟨r, hm, hrh, hne⟩ => absurd (hall r hm hrh) hne, ?_, fun k hk => ?_⟩
    · rw [rdB_congr (hemRelease_regs ..), rdB_wrB_self _ _ _ _ (by decide)]
    · exact (hemRelease_keeps (f := besideReady s) (fun _ _ _ _ => rfl) (resyncEnded s h side) h).trans hrest
    · rw [rd_congr (hemRelease_regs ..), rd_wrB_ne _ _ _ hk, sideReady, rd_withSides_ne _ _ _ _ _ hk]
  · rw [if_neg hl]
    refine ⟨hnot, fun hall => absurd ((resyncSides_sideReady_eq_nil_iff ..).2 hall) hl, fun _ => rdB_withSides .., hrest,
      fun k hk => rd_withSides_ne _ _ _ _ _ hk⟩

end

/-- Settles O7: a clock's stop and run, its loss, an overrun and both ends of a resynchronisation, each from what its command makes of the state of a
Hem that is ON. -/
theorem hemClockCommands : Obligations.HemClockCommands := by
  unfold Obligations.HemClockCommands
  intro h s hon go
  refine ⟨fun hs => ?_, ?_, runs_hemClockLoss hon, runs_overrun_receive hon,
    fun hp => ⟨_, exec_overrun_of_other hon hp, mem_breached_breach .., breach_mem ..⟩, fun side => ⟨runs_resync hon side, runs_resyncReady hon⟩⟩
  · have hin := mem_hemStopped_clockStops s h
    exact ⟨clockStops s h, exec_hemClockStop_of_on hon hs, rdB_clockStops_locked s h, hin, (hemHeld_iff _ _).2 (.inl hin),
      clockStops_beside s h, fun k hk => rd_clockStops_ne s h hk⟩
  · refine ⟨hemRelease (clockRuns s h) h, exec_hemClockRun_of_on hon, ?_, ?_,
      fun hr => ⟨?_, transfersGo_hemRelease (hemHeld_clockRuns hr)⟩, ?_, fun k hk => ?_⟩
    · rw [rdB_congr (hemRelease_regs ..), rdB_clockRuns_locked]
    · rw [hemRelease_hemStopped]
      exact not_mem_hemStopped_clockRuns s h
    · rw [hemHeld_hemRelease, hemHeld_clockRuns hr]
    · exact (hemRelease_keeps (f := besideClock s) (fun _ _ _ _ => rfl) (clockRuns s h) h).trans (besideClock_clockRuns s h)
    · rw [rd_congr (hemRelease_regs ..), rd_clockRuns_ne s h hk]

end Sys2Proof.Machine

/-! SUPPORT. The numerics word: its fields, and their saturating merge (04_numerics.md R111, R112). -/

namespace Sys2Proof.Machine

/-! ## The fields of a numerics word (R111) -/

/-- The numerics word with these counts of overflows, non-finite values, underflows and retries, and ANY_NONFINITE `any`. -/
def nwPack (ovf nonfin uflow retries any : Nat) : Word :=
  w64 (ovf + nonfin * 2 ^ 16 + uflow * 2 ^ 32 + retries * 2 ^ 48 + any * 2 ^ 63)

theorem bits_w64_of_lt {n : Nat} (h : n < 2 ^ 64) (hi lo : Nat) : bits (w64 n) hi lo = n / 2 ^ lo % 2 ^ (hi + 1 - lo) := by
  rw [bits, w64, BitVec.toNat_ofNat, Nat.mod_eq_of_lt h, Nat.shiftRight_eq_div_pow]

theorem bits_lt {w : Nat} (v : BitVec w) (hi lo : Nat) : bits v hi lo < 2 ^ (hi + 1 - lo) := Nat.mod_lt _ (Nat.two_pow_pos _)

/-- Counts that fit their fields stand in them, and the reserved bits are zero. -/
theorem bits_nwPack {ovf nonfin uflow retries any : Nat} (ho : ovf ≤ 0xFFFF) (hn : nonfin ≤ 0xFFFF) (hu : uflow ≤ 0xFFFF) (hr : retries ≤ 0xFF)
    (ha : any ≤ 1) : let w := nwPack ovf nonfin uflow retries any
    bits w 15 0 = ovf ∧ bits w 31 16 = nonfin ∧ bits w 47 32 = uflow ∧ bits w 55 48 = retries ∧ bits w 63 63 = any ∧ bits w 62 56 = 0 := by
  have h : ovf + nonfin * 2 ^ 16 + uflow * 2 ^ 32 + retries * 2 ^ 48 + any * 2 ^ 63 < 2 ^ 64 := by omega
  simp only [nwPack, bits_w64_of_lt h]
  omega

/-! ## The merge (R112) -/

theorem nwMerge_eq_nwPack (a b : Word) :
    nwMerge a b = nwPack (min (bits a 15 0 + bits b 15 0) 0xFFFF) (min (bits a 31 16 + bits b 31 16) 0xFFFF) (min (bits a 47 32 + bits b 47 32) 0xFFFF)
      (min (bits a 55 48 + bits b 55 48) 0xFF) (max (bits a 63 63) (bits b 63 63)) := rfl

theorem bits_nwMerge (a b : Word) : let w := nwMerge a b
    bits w 15 0 = min (bits a 15 0 + bits b 15 0) 0xFFFF ∧ bits w 31 16 = min (bits a 31 16 + bits b 31 16) 0xFFFF
      ∧ bits w 47 32 = min (bits a 47 32 + bits b 47 32) 0xFFFF ∧ bits w 55 48 = min (bits a 55 48 + bits b 55 48) 0xFF
      ∧ bits w 63 63 = max (bits a 63 63) (bits b 63 63) ∧ bits w 62 56 = 0 :=
  bits_nwPack (Nat.min_le_right _ _) (Nat.min_le_right _ _) (Nat.min_le_right _ _) (Nat.min_le_right _ _)
    (Nat.max_le.2 ⟨Nat.lt_succ_iff.1 (bits_lt a 63 63), Nat.lt_succ_iff.1 (bits_lt b 63 63)⟩)

theorem bitAt_eq_bits {w : Nat} (v : BitVec w) (i : Nat) : bitAt v i = decide (bits v i i = 1) := by
  rw [bitAt, BitVec.getLsbD, Nat.testBit_eq_decide_div_mod_eq, bits, Nat.add_sub_cancel_left, Nat.shiftRight_eq_div_pow, Nat.pow_one]

/-- The larger of two one-bit fields is their OR. -/
theorem bitAt_of_bits_max {u v w : Word} {i : Nat} (h : bits w i i = max (bits u i i) (bits v i i)) : bitAt w i = (bitAt u i || bitAt v i) := by
  have hu := bits_lt u i i
  have hv := bits_lt v i i
  rw [Nat.add_sub_cancel_left] at hu hv
  rw [bitAt_eq_bits, bitAt_eq_bits, bitAt_eq_bits, h, ← Bool.decide_or, decide_eq_decide]
  omega

theorem nwMerge_comm (a b : Word) : nwMerge a b = nwMerge b a := by
  simp only [nwMerge_eq_nwPack, Nat.add_comm (bits a _ _), Nat.max_comm (bits a _ _)]

/-- A sum that saturates at `m` may saturate in part before. -/
theorem min_min_add (x y z m : Nat) : min (min (x + y) m + z) m = min (x + min (y + z) m) m := by
  omega

theorem nwMerge_assoc (a b c : Word) : nwMerge (nwMerge a b) c = nwMerge a (nwMerge b c) := by
  obtain ⟨ho, hn, hu, hr, ha, -⟩ := bits_nwMerge a b
  obtain ⟨ho', hn', hu', hr', ha', -⟩ := bits_nwMerge b c
  rw [nwMerge_eq_nwPack (nwMerge a b) c, nwMerge_eq_nwPack a (nwMerge b c), ho, hn, hu, hr, ha, ho', hn', hu', hr', ha']
  simp only [min_min_add, Nat.max_assoc]

/-- Settles O56: the fields of a merge are the saturated sums and the OR of the fields merged, and saturated sums commute and associate. -/
theorem numericsWordsMerge : Obligations.NumericsWordsMerge := by
  unfold Obligations.NumericsWordsMerge
  refine ⟨fun a b => ?_, nwMerge_comm, nwMerge_assoc⟩
  obtain ⟨ho, hn, hu, hr, ha, hz⟩ := bits_nwMerge a b
  exact ⟨ho, hn, hu, hr, bitAt_of_bits_max ha, hz⟩

end Sys2Proof.Machine

/-! SUPPORT. The flags of BLK_STAT over SAT: events and counts leave them alone, a degradation sets its own (01_module_at_work.md R30). -/

namespace Sys2Proof.Machine

/-! ## The flags of BLK_STAT over SAT stay as they are when events are counted and raised -/

theorem rdB_wrB_sat (s : State) (page p : Nat) (b : Bool) {j : Nat} (hj : j ≠ 0) :
    rdB (wrB s (reg page R_BLK_STAT) 0 b) (reg p R_BLK_STAT) j = rdB s (reg p R_BLK_STAT) j := by
  by_cases h : reg p R_BLK_STAT = reg page R_BLK_STAT
  · rw [h, rdB_wrB_ne _ _ _ _ _ (by decide) hj]
  · exact rdB_of_rd (rd_wrB_ne _ _ _ h) _

theorem stat_ne_evt (page p : Nat) : reg p R_BLK_STAT ≠ reg page R_BLK_EVT := by
  simp only [reg, R_BLK_STAT, R_BLK_EVT]
  omega

theorem stat_ne_block (page p : Nat) {off : Nat} (h1 : 0x100 ≤ off) (ho : off < 4096) : reg p R_BLK_STAT ≠ reg page off :=
  (reg_ne_hdr ho h1 (by decide)).symm

theorem stat_ne_dom (p d : Nat) (hd : d < 50) : reg p R_BLK_STAT ≠ kDom d :=
  stat_ne_block _ p (by simp only [R_PWR_DOMAIN]; omega) (by simp only [R_PWR_DOMAIN]; omega)

section
variable (s : State) (p : Nat) {j : Nat} (hj : j ≠ 0)

theorem rd_btnWake_stat (mid : Nat) : rd (btnWake s mid) (reg p R_BLK_STAT) = rd s (reg p R_BLK_STAT) := by
  have hd := stat_ne_dom p (midDomain mid) (midDomain_lt mid)
  unfold btnWake
  split
  · rfl
  · dsimp only
    split
    · rw [rd_wrF_ne _ _ _ _ hd, rd_wrF_ne _ _ _ _ hd]
      rfl
    · rfl

include hj

theorem rdB_bumpBtn_stat (mid : Nat) {off : Nat} (h1 : 0x100 ≤ off) (ho : off < 4096) :
    rdB (bumpBtn s mid off) (reg p R_BLK_STAT) j = rdB s (reg p R_BLK_STAT) j := by
  have e : rd (bumpReg s (reg (pgBtn mid) off) 1) (reg p R_BLK_STAT) = rd s (reg p R_BLK_STAT) := rd_bumpReg_ne _ _ (stat_ne_block _ p h1 ho)
  simp only [bumpBtn]
  split
  · rw [markSat, rdB_of_rd (rd_wrB_ne _ _ _ (stat_ne_evt _ p)), rdB_wrB_sat _ _ _ _ hj, rdB_of_rd e]
  · rw [rdB_of_rd e]

theorem rdB_ringSet_stat (mid b : Nat) : rdB (ringSet s mid b) (reg p R_BLK_STAT) j = rdB s (reg p R_BLK_STAT) j := by
  have hp : reg p R_BLK_STAT ≠ reg (pgBtn mid) R_BTN_PEND := stat_ne_block _ p (by decide) (by decide)
  unfold ringSet
  extract_lets kp t1 masked t2
  have h1 : rdB t1 (reg p R_BLK_STAT) j = rdB s (reg p R_BLK_STAT) j := by
    rw [rdB_bumpBtn_stat _ _ hj _ (by decide) (by decide), rdB_of_rd (rd_wrB_ne _ _ _ hp)]
  have h2 : rdB t2 (reg p R_BLK_STAT) j = rdB s (reg p R_BLK_STAT) j := by
    change rdB (if _ then _ else _) _ j = _
    split
    · rw [rdB_of_rd (rd_wrB_ne _ _ _ (stat_ne_evt _ p)), h1]
    · exact h1
  clear_value t1 t2
  split
  · rw [rdB_of_rd (rd_btnWake_stat ..), rdB_bumpBtn_stat _ _ hj _ (by decide) (by decide)]
  · rw [rdB_of_rd (rd_btnWake_stat ..)]
    split
    · exact h2
    · exact h2

theorem rdB_ringBtn_stat (mid b : Nat) (m : Bool) : rdB (ringBtn s mid b m) (reg p R_BLK_STAT) j = rdB s (reg p R_BLK_STAT) j := by
  have drop := rdB_bumpBtn_stat s p hj mid (off := R_BTN_DROP_CNT) (by decide) (by decide)
  unfold ringBtn
  split
  · rfl
  · split
    · exact drop
    · split
      · exact drop
      · exact rdB_ringSet_stat _ _ hj _ _

theorem rdB_raiseEvt_stat (page b : Nat) : rdB (raiseEvt s page b) (reg p R_BLK_STAT) j = rdB s (reg p R_BLK_STAT) j := by
  have e : rdB (wrB s (reg (mainPage page) R_BLK_EVT) b true) (reg p R_BLK_STAT) j = rdB s (reg p R_BLK_STAT) j :=
    rdB_of_rd (rd_wrB_ne _ _ _ (stat_ne_evt _ p)) _
  simp only [raiseEvt]
  split
  · exact e
  · split
    · rw [rdB_ringBtn_stat _ _ hj, e]
    · exact e

theorem rdB_bump_stat (page : Nat) {off : Nat} (hk : reg p R_BLK_STAT ≠ reg page off) :
    rdB (bump s page off) (reg p R_BLK_STAT) j = rdB s (reg p R_BLK_STAT) j := by
  simp only [bump, bumpN]
  split
  · rw [rdB_raiseEvt_stat _ _ hj, rdB_wrB_sat _ _ _ _ hj, rdB_of_rd (rd_bumpReg_ne _ _ hk)]
  · rw [rdB_of_rd (rd_bumpReg_ne _ _ hk)]

end

/-! ## A degraded flag (R30) -/

theorem rd_setDegraded (s : State) (page b : Nat) {k : Nat} (h : plainKey k) (hk : k ≠ reg (mainPage page) R_BLK_DEGRADE_CNT) :
    rd (setDegraded s page b) k = rd s k := by
  unfold setDegraded
  split
  · rfl
  · rw [rd_raiseEvt _ _ _ h, bumpHdr, rd_bump _ _ _ h hk, rd_wrB_ne _ _ _ (plain_ne_stat h _)]

theorem rdB_setDegraded_self (s : State) (page : Nat) {b : Nat} (hb : b < 64) (h0 : b ≠ 0) :
    rdB (setDegraded s page b) (reg page R_BLK_STAT) b = true := by
  unfold setDegraded
  split
  · assumption
  · have hne : reg page R_BLK_STAT ≠ reg (mainPage page) R_BLK_DEGRADE_CNT := by
      simp only [reg, R_BLK_STAT, R_BLK_DEGRADE_CNT]
      omega
    rw [rdB_raiseEvt_stat _ _ h0, bumpHdr, rdB_bump_stat _ _ h0 _ hne, rdB_wrB_self _ _ _ _ hb]

end Sys2Proof.Machine

/-! SUPPORT. Random sources: what a write of NUM_CTL and of NUM_STEP and the end of a known-answer test change (04_numerics.md R101, R106, R115,
R116). -/

namespace Sys2Proof.Machine

/-! ## The pages of blocks with random sources -/

theorem pageKind_pgColl (p : Panel) : pageKind (pgColl p) = some (.coll p) := by
  revert p; decide
theorem pageKind_pgOpt (p : Panel) : pageKind (pgOpt p) = some (.opt p) := by
  revert p; decide

theorem mainPage_srPage (b : SrBlock) : mainPage (srPage b) = srPage b := by
  cases b with
  | core c => exact mainPage_pgCore c
  | coll p => rw [srPage, mainPage, pageKind_pgColl]
  | opt p => rw [srPage, mainPage, pageKind_pgOpt]

theorem plain_srPage (b : SrBlock) {off : Nat} (h1 : 0x100 ≤ off) (ho : off < 4096) : plainKey (reg (srPage b) off) := by
  cases b with
  | core c => exact plain_kCore (by omega) h1 ho
  | coll p | opt p => exact plain_block (by simp only [srPage, pgColl, pgOpt]; omega) (by simp only [srPage, pgColl, pgOpt]; omega) ho h1

theorem plain_srNumCtl (b : SrBlock) : plainKey (reg (srPage b) R_NUM_CTL) := plain_srPage b (by decide) (by decide)

theorem numCtl_ne_failCnt (page : Nat) : reg page R_NUM_CTL ≠ reg page R_NUM_SR_FAIL_CNT := by
  simp only [reg, R_NUM_CTL, R_NUM_SR_FAIL_CNT]
  omega

/-- NUM_CTL is laid out alike in the three kinds of pages: SR_KAT_RUN, SR_KAT_PASS, RETRY_SHIFT. -/
theorem regFlds_numCtl (b : SrBlock) : regFlds (srPage b) R_NUM_CTL = [⟨16, 16, .wo, 0⟩, ⟨4, 4, .ro, 0⟩, ⟨3, 0, .rw, 4⟩] := by
  cases b with
  | core c => simp only [srPage, regFlds, pageKind_pgCore]; rfl
  | coll p => simp only [srPage, regFlds, pageKind_pgColl]; rfl
  | opt p => simp only [srPage, regFlds, pageKind_pgOpt]; rfl

/-! ## A write of NUM_CTL (R106, R115) -/

theorem exec_srKatRun (mid : Mid) (b : SrBlock) (v : Word) (s : State) : exec (.srKatRun mid b v) s = execSrKatRun mid b v s := rfl
theorem exec_srKatDone (b : SrBlock) (i : Nat) (pass : Bool) (s : State) : exec (.srKatDone b i pass) s = execSrKatDone b i pass s := rfl
theorem exec_numStepWrite (mid : Mid) (c : Core) (v : Word) (s : State) : exec (.numStepWrite mid c v) s = execNumStepWrite mid c v s := rfl

theorem rd_katStart (s : State) (page k : Nat) : rd (katStart s page) k = rd s k := by
  unfold katStart
  split
  · exact rd_modCore ..
  · rfl

theorem katStart_pgCore (s : State) (c : Core) : katStart s (pgCore c) = startKat s c := by
  have hp : pgCore c / 1024 = 1 := by simp only [pgCore]; omega
  have hc : pgCore c % 1024 = c := by simp only [pgCore]; omega
  rw [katStart, if_pos hp, hc]

theorem katStart_of_engine (s : State) {page : Nat} (h : page / 1024 ≠ 1) :
    katStart s page = { s with katPages := if s.katPages.contains page then s.katPages else s.katPages ++ [page] } := if_neg h

theorem mem_katPages_katStart (s : State) {page : Nat} (h : page / 1024 ≠ 1) : page ∈ (katStart s page).katPages := by
  rw [katStart_of_engine s h]
  dsimp only
  split
  · next hc => exact List.contains_iff_mem.1 hc
  · exact List.mem_append_right _ (List.mem_singleton_self _)

/-- An RW field holds what its owner writes. -/
theorem rdF_fieldWrite_rw {page off : Nat} (hw : fldsApart (regFlds page off) = true) {f : Fld} (hf : f ∈ regFlds page off) (ha : f.acc = .rw)
    (hl : f.lo ≤ f.hi) (s : State) (v : Word) (mantle : Bool) : rdF (fieldWrite s page off v true mantle) (reg page off) f.hi f.lo = bits v f.hi f.lo := by
  refine bits_congr _ _ _ _ hl (fun i h1 h2 => ?_)
  rw [getLsbD_fieldWrite hw hf h1 h2, ha]
  rfl

theorem rdF_fieldWrite_retryShift (s : State) (b : SrBlock) (v : Word) (mantle : Bool) :
    rdF (fieldWrite s (srPage b) R_NUM_CTL v true mantle) (reg (srPage b) R_NUM_CTL) 3 0 = bits v 3 0 := by
  have hw : fldsApart (regFlds (srPage b) R_NUM_CTL) = true := by rw [regFlds_numCtl]; decide
  have hf : ⟨3, 0, .rw, 4⟩ ∈ regFlds (srPage b) R_NUM_CTL := by rw [regFlds_numCtl]; simp
  exact rdF_fieldWrite_rw hw hf rfl (by decide) s v mantle

/-- NUM_CTL as a write asks for it: RETRY_SHIFT 0 selects 4. -/
def numCtlAsked (v : Word) : Word := if bits v 3 0 = 0 then setBits v 3 0 4 else v

theorem bits_numCtlAsked (v : Word) : bits (numCtlAsked v) 3 0 = if bits v 3 0 = 0 then 4 else bits v 3 0 := by
  unfold numCtlAsked
  split
  · exact bits_setBits_self _ _ _ _ (by decide) (by decide)
  · rfl

/-- A performed write of NUM_CTL that sets SR_KAT_RUN. -/
theorem exec_srKatRun_performed {mid : Mid} {b : SrBlock} {v : Word} {s : State} (h : MayWrite s mid.toNat (srPage b) R_NUM_CTL v) (hr : bitAt v 16 = true) :
    exec (.srKatRun mid b v) s
      = .next (katStart (fieldWrite (wrote s (srPage b)) (srPage b) R_NUM_CTL (numCtlAsked v) true false) (srPage b)) := by
  rw [exec_srKatRun, execSrKatRun, h.guard]
  simp only [numCtlWrite, hr, if_true, numCtlAsked]

/-! ## A write of NUM_STEP (R101) -/

/-- One value stored at the keys of a list. -/
theorem rd_foldl_wr {α : Type} (key : α → Nat) (v : Word) (l : List α) (s : State) (k : Nat) :
    rd (l.foldl (fun s x => wr s (key x) v) s) k = if k ∈ l.map key then v else rd s k := by
  induction l generalizing s with
  | nil => simp
  | cons x l ih =>
    rw [List.foldl_cons, ih, rd_wr, List.map_cons]
    by_cases hx : k = key x
    · simp [hx]
    · simp [hx]

theorem rd_numStepSet (s : State) (c : Nat) (v : Word) (k : Nat) :
    rd (numStepSet s c v) k = if k ∈ (List.range 8).map (fun x => kCtx c x R_CTX_SEQ) then 0 else if k = kCore c R_NUM_STEP then v else rd s k := by
  rw [numStepSet, rd_foldl_wr (fun x => kCtx c x R_CTX_SEQ), rd_wr]

theorem numStep_not_mem_ctxSeq (c : Core) : kCore c R_NUM_STEP ∉ (List.range 8).map (fun x => kCtx c x R_CTX_SEQ) := by
  simp only [List.mem_map, List.mem_range, not_exists, not_and, kCtx, kCore, reg, pgCtx, pgCore, R_CTX_SEQ, R_NUM_STEP]
  omega

/-! ## A source's mark -/

theorem testBit_sub_two_pow {n i : Nat} (h : n.testBit i = true) (j : Nat) : (n - 2 ^ i).testBit j = (decide (j ≠ i) && n.testBit j) := by
  have hle := Nat.ge_two_pow_of_testBit h
  induction i generalizing n j with
  | zero =>
    have hodd : n % 2 = 1 := by simpa using h
    cases j with
    | zero =>
      rw [Nat.testBit_zero, decide_eq_false (not_not_intro rfl), Bool.false_and, decide_eq_false_iff_not]
      omega
    | succ j => rw [Nat.testBit_succ, Nat.testBit_succ, show (n - 2 ^ 0) / 2 = n / 2 by omega]; simp
  | succ i ih =>
    rw [Nat.testBit_succ] at h
    cases j with
    | zero =>
      rw [Nat.testBit_zero, Nat.testBit_zero, decide_eq_true (Nat.succ_ne_zero i).symm, Bool.true_and, decide_eq_decide]
      omega
    | succ j =>
      rw [Nat.testBit_succ, Nat.testBit_succ, show (n - 2 ^ (i + 1)) / 2 = n / 2 - 2 ^ i by omega, ih h _ (Nat.ge_two_pow_of_testBit h)]
      simp

/-- The engines of a core with source `i` marked failed, or in service. -/
def sourceMarked (k : CoreSt) (i : Nat) (failed : Bool) : CoreSt :=
  if i < 8 then { k with arrFail := if failed then k.arrFail ||| 2 ^ i else if k.arrFail.testBit i then k.arrFail - 2 ^ i else k.arrFail }
  else if i = 8 then { k with vecFail := failed } else { k with strFail := failed }

section
variable (k : CoreSt) (failed : Bool)

theorem katRunning_sourceMarked (i : Nat) : (sourceMarked k i failed).katRunning = k.katRunning := by
  unfold sourceMarked
  (repeat' split) <;> rfl

theorem arrFail_sourceMarked_of_ge {i : Nat} (h : 8 ≤ i) : (sourceMarked k i failed).arrFail = k.arrFail := by
  rw [sourceMarked, if_neg (Nat.not_lt.2 h)]
  split <;> rfl

theorem testBit_sourceMarked_self {i : Nat} (h : i < 8) : (sourceMarked k i failed).arrFail.testBit i = failed := by
  rw [sourceMarked, if_pos h]
  cases failed with
  | true => simp
  | false =>
    dsimp only
    split
    · contradiction
    · split
      · next hb => simp [testBit_sub_two_pow hb]
      · next hb => simpa using hb

theorem testBit_sourceMarked_ne {i j : Nat} (hj : j ≠ i) : (sourceMarked k i failed).arrFail.testBit j = k.arrFail.testBit j := by
  by_cases h : i < 8
  · rw [sourceMarked, if_pos h]
    dsimp only
    split
    · simp [Nat.testBit_two_pow_of_ne hj.symm]
    · split
      · next hb => simp [testBit_sub_two_pow hb, hj]
      · rfl
  · rw [arrFail_sourceMarked_of_ge _ _ (Nat.not_lt.1 h)]

theorem vecFail_sourceMarked : (sourceMarked k 8 failed).vecFail = failed := rfl
theorem strFail_sourceMarked : (sourceMarked k 9 failed).strFail = failed := rfl

end

/-- No source of a core is failed. -/
def noSourceFailed (k : CoreSt) : Bool := k.arrFail == 0 && !k.vecFail && !k.strFail

theorem noSourceFailed_iff (k : CoreSt) : noSourceFailed k = true ↔ ¬(k.arrFail ≠ 0 ∨ k.vecFail = true ∨ k.strFail = true) := by
  simp [noSourceFailed, and_assoc]

theorem noSourceFailed_of_failed (k : CoreSt) {i : Nat} (h : i < 10) : noSourceFailed (sourceMarked k i true) = false := by
  by_cases h8 : i < 8
  · have hne : (sourceMarked k i true).arrFail ≠ 0 := fun e => by
      have hb := testBit_sourceMarked_self k true h8
      simp [e] at hb
    simp [noSourceFailed, hne]
  · obtain rfl | rfl : i = 8 ∨ i = 9 := by omega
    · simp [noSourceFailed, vecFail_sourceMarked]
    · simp [noSourceFailed, strFail_sourceMarked]

/-! ## A failed source shows in the registers of its block (R116) -/

/-- A source of the block of page `pg` has failed: SR_KAT_PASS clear, SR_FALLBACK set, the failure counted. -/
def srFailShown (s : State) (pg : Nat) : State := bump (setDegraded (wrB s (reg pg R_NUM_CTL) 4 false) pg 7) pg R_NUM_SR_FAIL_CNT

theorem srFailShown_apart {α : Type} {f : State → α} (h : Apart f) (s : State) (pg : Nat) : f (srFailShown s pg) = f s := by
  rw [srFailShown, bump_apart h, setDegraded_apart h, wrB_apart h]

section
variable (s : State) (b : SrBlock)

theorem rd_srFailShown {k : Nat} (h : plainKey k) (hc : k ≠ reg (srPage b) R_NUM_CTL) (hn : k ≠ reg (srPage b) R_NUM_SR_FAIL_CNT)
    (hd : k ≠ reg (srPage b) R_BLK_DEGRADE_CNT) : rd (srFailShown s (srPage b)) k = rd s k := by
  rw [srFailShown, rd_bump _ _ _ h hn, rd_setDegraded _ _ _ h (by rwa [mainPage_srPage]), rd_wrB_ne _ _ _ hc]

theorem rdB_srFailShown_katPass : rdB (srFailShown s (srPage b)) (reg (srPage b) R_NUM_CTL) 4 = false := by
  have hp := plain_srNumCtl b
  rw [srFailShown, rdB_of_rd (rd_bump _ _ _ hp (numCtl_ne_failCnt _)),
    rdB_of_rd (rd_setDegraded _ _ _ hp (reg_ne_hdr (by decide) (by decide) (by decide))), rdB_wrB_self _ _ _ _ (by decide)]

theorem rdB_srFailShown_fallback : rdB (srFailShown s (srPage b)) (reg (srPage b) R_BLK_STAT) 7 = true := by
  rw [srFailShown, rdB_bump_stat _ _ (by decide) _ (stat_ne_block _ _ (by decide) (by decide)), rdB_setDegraded_self _ _ (by decide) (by decide)]

theorem rd_srFailShown_cnt :
    rd (srFailShown s (srPage b)) (reg (srPage b) R_NUM_SR_FAIL_CNT) = w64 (min ((rd s (reg (srPage b) R_NUM_SR_FAIL_CNT)).toNat + 1) maxWord) := by
  have hp : plainKey (reg (srPage b) R_NUM_SR_FAIL_CNT) := plain_srPage b (by decide) (by decide)
  rw [srFailShown, rd_bump_self _ _ _ hp, rd_setDegraded _ _ _ hp (reg_ne_hdr (by decide) (by decide) (by decide)), rd_wrB_ne _ _ _ (numCtl_ne_failCnt _).symm]

end

/-! ## The end of a test of a core (R115, R116) -/

/-- The test of source `i` of a core has ended: it is not running, and its source is marked. -/
def testEnded (s : State) (c i : Nat) (pass : Bool) : State :=
  modCore (modCore s c (fun k => { k with katRunning := k.katRunning.filter (fun j => j != i) })) c (fun k => sourceMarked k i (!pass))

/-- The result of a test in the registers of its core: a failure, or SR_FALLBACK cleared where no source is failed. -/
def resultShown (s : State) (c : Nat) (pass : Bool) : State :=
  if pass then if noSourceFailed (coreOf s c) then clearFlag s (pgCore c) 7 else s else srFailShown s (pgCore c)

/-- The last running test of a core sets SR_KAT_PASS just where no source is failed. -/
def katShown (s : State) (c : Nat) : State :=
  if (coreOf s c).katRunning = [] then wrB s (kCore c R_NUM_CTL) 4 (noSourceFailed (coreOf s c)) else s

/-- The end of a test of a core, as a whole. -/
def coreKatDone (s : State) (c i : Nat) (pass : Bool) : State := katShown (resultShown (testEnded s c i pass) c pass) c

theorem sourcePass_eq (s : State) (c i : Nat) : sourcePass s c i = resultShown (modCore s c (fun k => sourceMarked k i false)) c true := by
  simp only [resultShown, noSourceFailed, Bool.and_eq_true, beq_iff_eq, and_assoc, if_true]
  rfl

theorem sourceFail_eq (s : State) (c i : Nat) : sourceFail s c i = resultShown (modCore s c (fun k => sourceMarked k i true)) c false := rfl

theorem katDone_core_of_running {s : State} {c : Core} {i : Nat} (h : i ∈ (coreOf s c).katRunning) (pass : Bool) :
    katDone s (.core c) i pass = coreKatDone s c i pass := by
  have hc : (!(coreOf s c).katRunning.contains i) = false := by simp [h]
  cases pass with
  | true => simp only [katDone, hc, Bool.false_eq_true, if_false, if_true, sourcePass_eq]; rfl
  | false => simp only [katDone, hc, Bool.false_eq_true, if_false, sourceFail_eq]; rfl

theorem resultShown_apart {α : Type} {f : State → α} (h : Apart f) (s : State) (c : Nat) (pass : Bool) : f (resultShown s c pass) = f s := by
  unfold resultShown
  split
  · split
    · exact clearFlag_apart h ..
    · rfl
  · exact srFailShown_apart h ..

theorem katShown_apart {α : Type} {f : State → α} (h : Apart f) (s : State) (c : Nat) : f (katShown s c) = f s := by
  unfold katShown
  split
  · exact wrB_apart h ..
  · rfl

theorem rd_katShown_ne (s : State) (c : Nat) {k : Nat} (hk : k ≠ kCore c R_NUM_CTL) : rd (katShown s c) k = rd s k := by
  unfold katShown
  split
  · exact rd_wrB_ne _ _ _ hk
  · rfl

theorem rdB_katShown_katPass (s : State) (c : Nat) :
    rdB (katShown s c) (kCore c R_NUM_CTL) 4 = if (coreOf s c).katRunning = [] then noSourceFailed (coreOf s c) else rdB s (kCore c R_NUM_CTL) 4 := by
  unfold katShown
  split
  · exact rdB_wrB_self _ _ _ _ (by decide)
  · rfl

section
variable (s : State) (c : Core) (i : Nat) (pass : Bool)

theorem coreOf_testEnded :
    coreOf (testEnded s c i pass) c = sourceMarked { coreOf s c with katRunning := (coreOf s c).katRunning.filter (fun j => j != i) } i (!pass) := by
  rw [testEnded, coreOf_modCore_self, coreOf_modCore_self]

theorem coreOf_resultShown : coreOf (resultShown (testEnded s c i pass) c pass) c = coreOf (testEnded s c i pass) c :=
  coreOf_congr (resultShown_apart apart_cores ..) _

theorem coreOf_coreKatDone :
    coreOf (coreKatDone s c i pass) c = sourceMarked { coreOf s c with katRunning := (coreOf s c).katRunning.filter (fun j => j != i) } i (!pass) := by
  rw [coreKatDone, coreOf_congr (katShown_apart apart_cores ..), coreOf_resultShown, coreOf_testEnded]

theorem coreKatDone_mem : (coreKatDone s c i pass).mem = s.mem := by
  rw [coreKatDone, katShown_apart apart_mem, resultShown_apart apart_mem]
  rfl

theorem rd_testEnded (k : Nat) : rd (testEnded s c i pass) k = rd s k := rfl

/-- Once no test runs, SR_KAT_PASS shows whether no source is failed. -/
theorem katPass_coreKatDone_of_last (h : (coreOf (coreKatDone s c i pass) c).katRunning = []) :
    rdB (coreKatDone s c i pass) (kCore c R_NUM_CTL) 4 = noSourceFailed (coreOf (coreKatDone s c i pass) c) := by
  rw [coreKatDone, coreOf_congr (katShown_apart apart_cores ..)] at h ⊢
  rw [rdB_katShown_katPass, if_pos h]

theorem katPass_coreKatDone_of_failed (hi : i < 10) : rdB (coreKatDone s c i false) (kCore c R_NUM_CTL) 4 = false := by
  rw [coreKatDone, rdB_katShown_katPass, coreOf_resultShown, coreOf_testEnded]
  split
  · exact noSourceFailed_of_failed _ hi
  · exact rdB_srFailShown_katPass (testEnded s c i false) (.core c)

theorem fallback_coreKatDone_of_failed : rdB (coreKatDone s c i false) (kCore c R_BLK_STAT) 7 = true := by
  rw [coreKatDone, rdB_of_rd (rd_katShown_ne _ _ (stat_ne_block _ _ (by decide) (by decide)))]
  exact rdB_srFailShown_fallback (testEnded s c i false) (.core c)

theorem fallback_coreKatDone_of_passed (h : noSourceFailed (coreOf (coreKatDone s c i true) c) = true) :
    rdB (coreKatDone s c i true) (kCore c R_BLK_STAT) 7 = false := by
  rw [coreOf_coreKatDone, ← coreOf_testEnded] at h
  rw [coreKatDone, rdB_of_rd (rd_katShown_ne _ _ (stat_ne_block _ _ (by decide) (by decide))), resultShown, if_pos rfl, if_pos h, clearFlag,
    rdB_wrB_self _ _ _ _ (by decide)]

theorem failCnt_coreKatDone_of_failed :
    rd (coreKatDone s c i false) (kCore c R_NUM_SR_FAIL_CNT) = w64 (min ((rd s (kCore c R_NUM_SR_FAIL_CNT)).toNat + 1) maxWord) := by
  rw [coreKatDone, rd_katShown_ne _ _ (numCtl_ne_failCnt _).symm]
  exact rd_srFailShown_cnt (testEnded s c i false) (.core c)

theorem eventRegs_coreKatDone :
    EventRegs s (coreKatDone s c i pass) ([kCore c R_NUM_CTL] ++ if pass then [] else [kCore c R_NUM_SR_FAIL_CNT, kCore c R_BLK_DEGRADE_CNT]) := by
  intro k hp hk
  cases pass with
  | true =>
    have hc : k ≠ kCore c R_NUM_CTL := by simpa using hk
    rw [coreKatDone, rd_katShown_ne _ _ hc, resultShown, if_pos rfl]
    split
    · rw [clearFlag, rd_wrB_ne _ _ _ (plain_ne_stat hp _), rd_testEnded]
    · rfl
  | false =>
    obtain ⟨hc, hn, hd⟩ : k ≠ kCore c R_NUM_CTL ∧ k ≠ kCore c R_NUM_SR_FAIL_CNT ∧ k ≠ kCore c R_BLK_DEGRADE_CNT := by simpa using hk
    rw [coreKatDone, rd_katShown_ne _ _ hc]
    exact rd_srFailShown (testEnded s c i false) (.core c) hp hc hn hd

end

/-! ## The end of a test of a collective or optimizer engine -/

/-- The source of an engine has passed its test and returns to service. -/
def enginePassed (s : State) (pg : Nat) : State :=
  clearFlag (wrB { s with srFailed := s.srFailed.filter (fun x => x != pg) } (reg pg R_NUM_CTL) 4 true) pg 7

/-- The source of an engine has failed its test. -/
def engineFailed (s : State) (pg : Nat) : State :=
  srFailShown { s with srFailed := if s.srFailed.contains pg then s.srFailed else s.srFailed ++ [pg] } pg

/-- The test of the engine of page `pg` no longer runs. -/
def engineTestEnded (s : State) (pg : Nat) : State := { s with katPages := s.katPages.filter (fun x => x != pg) }

theorem katDone_engine_of_running {s : State} {b : SrBlock} (hb : ∀ c, b ≠ .core c) (h : srPage b ∈ s.katPages) (pass : Bool) :
    katDone s b 0 pass = if pass then enginePassed (engineTestEnded s (srPage b)) (srPage b) else engineFailed (engineTestEnded s (srPage b)) (srPage b) := by
  have hc : ¬((!s.katPages.contains (srPage b)) = true ∨ (0 : Nat) ≠ 0) := by simp [h]
  cases b with
  | core c => exact absurd rfl (hb c)
  | coll p | opt p => exact if_neg hc

theorem mem_srFailed_engineFailed (s : State) (pg : Nat) : pg ∈ (engineFailed s pg).srFailed := by
  rw [engineFailed, srFailShown_apart apart_srFailed]
  dsimp only
  split
  · next hc => exact List.contains_iff_mem.1 hc
  · exact List.mem_append_right _ (List.mem_singleton_self _)

theorem not_mem_srFailed_enginePassed (s : State) (pg : Nat) : pg ∉ (enginePassed s pg).srFailed := by
  rw [enginePassed, clearFlag_apart apart_srFailed, wrB_apart apart_srFailed]
  simp

theorem enginePassed_katPages (s : State) (pg : Nat) : (enginePassed s pg).katPages = s.katPages := by
  rw [enginePassed, clearFlag_apart apart_katPages, wrB_apart apart_katPages]

theorem enginePassed_mem (s : State) (pg : Nat) : (enginePassed s pg).mem = s.mem := by
  rw [enginePassed, clearFlag_mem, wrB_mem]

theorem rd_enginePassed (s : State) {pg k : Nat} (hp : plainKey k) (hk : k ≠ reg pg R_NUM_CTL) : rd (enginePassed s pg) k = rd s k := by
  rw [enginePassed, clearFlag, rd_wrB_ne _ _ _ (plain_ne_stat hp _), rd_wrB_ne _ _ _ hk]
  rfl

theorem katPass_enginePassed (s : State) (pg : Nat) : rdB (enginePassed s pg) (reg pg R_NUM_CTL) 4 = true := by
  rw [enginePassed, clearFlag, rdB_of_rd (rd_wrB_ne _ _ _ (stat_ne_block _ _ (by decide) (by decide)).symm), rdB_wrB_self _ _ _ _ (by decide)]

theorem fallback_enginePassed (s : State) (pg : Nat) : rdB (enginePassed s pg) (reg pg R_BLK_STAT) 7 = false := by
  rw [enginePassed, clearFlag, rdB_wrB_self _ _ _ _ (by decide)]

/-! ## The commands -/

/-- From `s` to `t` the tests of a block have started: all ten of a core, or the one of an engine. -/
def TestsStarted (s t : State) : SrBlock → Prop
  | .core c => (coreOf t c).katRunning = List.range 10 ∧ t.katPages = s.katPages
  | .coll p => pgColl p ∈ t.katPages ∧ t.cores = s.cores
  | .opt p => pgOpt p ∈ t.katPages ∧ t.cores = s.cores

theorem startKat_starts (s : State) (c : Core) : (coreOf (startKat s c) c).katRunning = List.range 10 ∧ (startKat s c).katPages = s.katPages := by
  rw [startKat, coreOf_modCore_self, modCore_katPages]
  exact ⟨rfl, rfl⟩

theorem katStart_starts_engine (s : State) {page : Nat} (h : page / 1024 ≠ 1) : page ∈ (katStart s page).katPages ∧ (katStart s page).cores = s.cores :=
  ⟨mem_katPages_katStart s h, by rw [katStart_of_engine s h]⟩

theorem testsStarted_katStart (s : State) (b : SrBlock) : TestsStarted s (katStart s (srPage b)) b := by
  cases b with
  | core c =>
    rw [srPage, katStart_pgCore]
    exact startKat_starts s c
  | coll p => exact katStart_starts_engine s (by simp only [srPage, pgColl]; omega)
  | opt p => exact katStart_starts_engine s (by simp only [srPage, pgOpt]; omega)

theorem TestsStarted.of_eq {s u t : State} {b : SrBlock} (h : TestsStarted u t b) (hk : u.katPages = s.katPages) (hc : u.cores = s.cores) :
    TestsStarted s t b := by
  cases b with
  | core c => exact ⟨h.1, h.2.trans hk⟩
  | coll p | opt p => exact ⟨h.1, h.2.trans hc⟩

theorem runs_srKatRun {mid : Mid} {b : SrBlock} {v : Word} {s : State} (hm : MayWrite s mid.toNat (srPage b) R_NUM_CTL v) (hr : bitAt v 16 = true) :
    Runs (.srKatRun mid b v) s (fun t => rdF t (reg (srPage b) R_NUM_CTL) 3 0 = (if bits v 3 0 = 0 then 4 else bits v 3 0)
      ∧ t.mem = s.mem ∧ EventRegs s t [reg (srPage b) R_NUM_CTL, reg (srPage b) R_BLK_WR_CNT] ∧ TestsStarted s t b) := by
  refine ⟨_, exec_srKatRun_performed hm hr, ?_, ?_, fun k hp hk => ?_, (testsStarted_katStart _ b).of_eq ?_ ?_⟩
  · rw [rdF_of_rd (rd_katStart ..), rdF_fieldWrite_retryShift, bits_numCtlAsked]
  · rw [katStart_mem, fieldWrite_mem, wrote_apart apart_mem (fun _ _ => rfl)]
  · obtain ⟨hc, hw⟩ : k ≠ reg (srPage b) R_NUM_CTL ∧ k ≠ reg (srPage b) R_BLK_WR_CNT := by simpa using hk
    rw [rd_katStart, rd_fieldWrite_ne _ _ _ _ hc, rd_wrote _ _ hp (by rwa [mainPage_srPage])]
  · rw [fieldWrite, wr_katPages, wrote_apart apart_katPages (fun _ _ => rfl)]
  · rw [fieldWrite, wr_cores, wrote_apart apart_cores (fun _ _ => rfl)]

theorem exec_srKatDone_of_on {b : SrBlock} {s : State} (hon : pageOn s (srPage b) = true) (i : Nat) (pass : Bool) :
    exec (.srKatDone b i pass) s = .next (katDone s b i pass) := by
  rw [exec_srKatDone, execSrKatDone, if_pos hon]

theorem runs_numStepWrite {mid : Mid} {c : Core} {v : Word} {s : State} (h : MayWrite s mid.toNat (pgCore c) R_NUM_STEP v) :
    Runs (.numStepWrite mid c v) s (fun t => rd t (kCore c R_NUM_STEP) = v ∧ (∀ x, x < 8 → rd t (kCtx c x R_CTX_SEQ) = 0) ∧ t.mem = s.mem
      ∧ EventRegs s t (kCore c R_NUM_STEP :: kCore c R_BLK_WR_CNT :: (List.range 8).map (fun x => kCtx c x R_CTX_SEQ))) := by
  refine ⟨numStepSet (wrote s (pgCore c)) c v, by rw [exec_numStepWrite, execNumStepWrite, h.guard], ?_, fun x hx => ?_, ?_, fun k hp hk => ?_⟩
  · rw [rd_numStepSet, if_neg (numStep_not_mem_ctxSeq c), if_pos rfl]
  · rw [rd_numStepSet, if_pos (List.mem_map_of_mem (List.mem_range.2 hx))]
  · rw [numStepSet_mem, wrote_apart apart_mem (fun _ _ => rfl)]
  · rw [List.mem_cons, List.mem_cons, not_or, not_or] at hk
    obtain ⟨hn, hw, hx⟩ := hk
    rw [rd_numStepSet, if_neg hx, if_neg hn, rd_wrote _ _ hp (by rwa [mainPage_pgCore])]

/-- Settles O10: a write of NUM_CTL is a write of its fields and the start of the tests; the end of a test is the source's mark and what the block's
registers show of it; a write of NUM_STEP stores the index and zeroes eight keys. -/
theorem randomSourceTests : Obligations.RandomSourceTests := by
  unfold Obligations.RandomSourceTests
  refine ⟨fun mid b v s hm hr => ?_, fun c i pass s hon hi h10 => ?_, fun b pass s hb hon h => ?_, fun mid c v s => runs_numStepWrite⟩
  · cases b <;> exact runs_srKatRun hm hr
  · extract_lets left failed
    have hc := coreOf_coreKatDone s c i pass
    refine ⟨_, (exec_srKatDone_of_on (b := .core c) hon i pass).trans (congrArg _ (katDone_core_of_running hi pass)), ?_, coreKatDone_mem ..,
      fun h8 => ?_, ?_, ?_, fun j hj => ?_, fun hl => ?_, ?_, ?_, eventRegs_coreKatDone s c i pass⟩
    · rw [hc, katRunning_sourceMarked]
    · rw [hc, testBit_sourceMarked_self _ _ h8]
    · rintro rfl
      rw [hc, vecFail_sourceMarked]
    · rintro rfl
      rw [hc, strFail_sourceMarked]
    · rw [hc, testBit_sourceMarked_ne _ _ hj]
    · rw [katPass_coreKatDone_of_last _ _ _ _ (by rw [hc, katRunning_sourceMarked]; exact hl)]
      exact noSourceFailed_iff _
    · rintro rfl hf
      exact fallback_coreKatDone_of_passed s c i ((noSourceFailed_iff _).2 hf)
    · rintro rfl
      exact ⟨katPass_coreKatDone_of_failed s c i h10, fallback_coreKatDone_of_failed s c i, failCnt_coreKatDone_of_failed s c i⟩
  · cases pass with
    | true =>
      refine ⟨enginePassed (engineTestEnded s (srPage b)) (srPage b), ?_, ?_, ?_, katPass_enginePassed .., fallback_enginePassed .., ?_,
        fun hf => Bool.noConfusion hf, fun k hp hk => rd_enginePassed _ hp (by simpa using hk)⟩
      · rw [exec_srKatDone_of_on hon, katDone_engine_of_running hb h, if_pos rfl]
      · rw [enginePassed_katPages, engineTestEnded]
      · exact enginePassed_mem _ _
      · exact iff_of_false (not_mem_srFailed_enginePassed _ _) Bool.noConfusion
    | false =>
      refine ⟨engineFailed (engineTestEnded s (srPage b)) (srPage b), ?_, ?_, ?_, rdB_srFailShown_katPass _ b, rdB_srFailShown_fallback _ b, ?_,
        fun _ => rd_srFailShown_cnt _ b, fun k hp hk => ?_⟩
      · rw [exec_srKatDone_of_on hon, katDone_engine_of_running hb h, if_neg Bool.false_ne_true]
      · rw [engineFailed, srFailShown_apart apart_katPages, engineTestEnded]
      · rw [engineFailed, srFailShown_apart apart_mem, engineTestEnded]
      · exact iff_of_true (mem_srFailed_engineFailed ..) rfl
      · obtain ⟨hc, hn, hd⟩ : k ≠ reg (srPage b) R_NUM_CTL ∧ k ≠ reg (srPage b) R_NUM_SR_FAIL_CNT ∧ k ≠ reg (srPage b) R_BLK_DEGRADE_CNT := by
          simpa using hk
        exact rd_srFailShown _ b hp hc hn hd

end Sys2Proof.Machine

/-! SUPPORT. Softmax records: what folding key blocks into one leaves in its fields, and the probability of a masked key (04_numerics.md R95;
05_forward_backward.md R132, R133, R139). -/

namespace Sys2Proof.Machine

/-! ## FP32 operations on zeros, infinities and NaN (R95) -/

@[simp] theorem r32_nan : r32 .nan = .nan := by decide
@[simp] theorem r32_inf (n : Bool) : r32 (.inf n) = .inf n := by cases n <;> decide

theorem isZero_r32_zero (n : Bool) (e : Int) : (r32 (.fin n 0 e)).isZero = true := by
  have h : r32 (.fin n 0 e) = fDecode layFp32 (signCode layFp32 n) := rfl
  rw [h]
  cases n <;> decide

@[simp] theorem FVal.add_nan (a : FVal) : a.add .nan = .nan := by cases a <;> rfl
@[simp] theorem FVal.div_nan (a : FVal) : a.div .nan = .nan := by cases a <;> rfl

@[simp] theorem fSub_nan (a : FVal) : fSub a .nan = .nan := by simp [fSub, FVal.neg]
@[simp] theorem fDiv_nan_left (a : FVal) : fDiv .nan a = .nan := by simp [fDiv, FVal.div]
@[simp] theorem fDiv_nan_right (a : FVal) : fDiv a .nan = .nan := by simp [fDiv]
@[simp] theorem fExp_nan : fExp .nan = .nan := by simp [fExp, FVal.exp]

theorem fSub_negInf_of_isFinite {a : FVal} (h : a.isFinite = true) : fSub (.inf true) a = .inf true := by
  cases a with
  | fin n m e => simp [fSub, FVal.neg, FVal.add]
  | nan | inf => simp [FVal.isFinite] at h

/-- The exponential of minus infinity is a zero. -/
theorem isZero_fExp_negInf : (fExp (.inf true)).isZero = true := isZero_r32_zero false 0

theorem isZero_fDiv {a b : FVal} (ha : a.isZero = true) (hb : b.isFinite = true) (hz : b.isZero = false) : (fDiv a b).isZero = true := by
  cases a with
  | nan | inf => simp [FVal.isZero] at ha
  | fin n m e =>
    cases b with
    | nan | inf => simp [FVal.isFinite] at hb
    | fin n' m' e' =>
      have hm : m = 0 := by simpa [FVal.isZero] using ha
      have hm' : m' ≠ 0 := by simpa [FVal.isZero] using hz
      have h : (FVal.fin n m e).div (.fin n' m' e') = .fin (n != n') 0 (e - e' - ((64 + m'.log2 : Nat) : Int) - 1) := by
        simp [FVal.div, hm, hm']
      rw [fDiv, h]
      exact isZero_r32_zero _ _

/-! ## A probability (R133) -/

theorem smaxP_of_empty {x : StatRec} (h : x.empty = true) (v : FVal) (vis : Bool) : smaxP x v vis = .zero := by simp [smaxP, h]

/-- A masked key is scored minus infinity. -/
theorem smaxP_masked {x : StatRec} (h : x.empty = false) (v : FVal) : smaxP x v false = fDiv (fExp (fSub (.inf true) x.stat0)) x.stat1 := by
  simp [smaxP, h]

theorem isZero_smaxP_masked {x : StatRec} (h : x.empty = false) (hm : x.stat0.isFinite = true) (hl : x.stat1.isFinite = true)
    (hz : x.stat1.isZero = false) (v : FVal) : (smaxP x v false).isZero = true := by
  rw [smaxP_masked h, fSub_negInf_of_isFinite hm]
  exact isZero_fDiv isZero_fExp_negInf hl hz

theorem smaxP_masked_nan {x : StatRec} (h : x.empty = false) (hn : x.stat0 = .nan ∨ x.stat1 = .nan) (v : FVal) : smaxP x v false = .nan := by
  rw [smaxP_masked h]
  rcases hn with hn | hn <;> simp [hn]

/-! ## One fold (R132) -/

@[simp] theorem smaxFold_count (x : StatRec) (o : Bool) (b : List (FVal × Bool)) : (smaxFold x o b).count = x.count + b.length := by
  simp only [smaxFold]; split <;> rfl
@[simp] theorem smaxFold_kind (x : StatRec) (o : Bool) (b : List (FVal × Bool)) : (smaxFold x o b).kind = x.kind := by
  simp only [smaxFold]; split <;> rfl
@[simp] theorem smaxFold_pos (x : StatRec) (o : Bool) (b : List (FVal × Bool)) : (smaxFold x o b).pos = x.pos := by
  simp only [smaxFold]; split <;> rfl
@[simp] theorem smaxFold_tag (x : StatRec) (o : Bool) (b : List (FVal × Bool)) : (smaxFold x o b).tag = x.tag := by
  simp only [smaxFold]; split <;> rfl

/-- No key of a block is visible. -/
def Masked (b : List (FVal × Bool)) : Prop := ∀ p ∈ b, p.2 = false

theorem visibleScores_eq_nil_iff (b : List (FVal × Bool)) : (b.filter (fun p => p.2)).map (fun p => p.1) = [] ↔ Masked b := by
  simp [Masked]

/-- A masked block adds its keys to COUNT and leaves m and l as they are. -/
theorem smaxFold_of_masked (x : StatRec) (o : Bool) {b : List (FVal × Bool)} (h : Masked b) :
    smaxFold x o b = { x with count := x.count + b.length, empty := o || x.empty } := by
  simp [smaxFold, (visibleScores_eq_nil_iff b).2 h]

theorem smaxFold_empty_iff (x : StatRec) (o : Bool) (b : List (FVal × Bool)) :
    (smaxFold x o b).empty = true ↔ Masked b ∧ (o = true ∨ x.empty = true) := by
  by_cases h : Masked b
  · simp [smaxFold_of_masked x o h, h]
  · have hv := mt (visibleScores_eq_nil_iff b).1 h
    simp only [smaxFold, if_neg hv, beq_eq_false_iff_ne.2 hv, Bool.false_and, Bool.false_eq_true, h, false_and]

/-! ## All blocks of a row -/

/-- The further blocks of a row, folded into its record in their order. -/
def smaxFolds (x : StatRec) (more : List (List (FVal × Bool))) : StatRec := more.foldl (fun x b => smaxFold x false b) x

@[simp] theorem smaxFolds_cons (x : StatRec) (b : List (FVal × Bool)) (more : List (List (FVal × Bool))) :
    smaxFolds x (b :: more) = smaxFolds (smaxFold x false b) more := rfl

/-- COUNT is the number of keys folded; KIND, position and tag stay. -/
theorem smaxFolds_fields (x : StatRec) (more : List (List (FVal × Bool))) :
    (smaxFolds x more).count = x.count + (more.map List.length).sum ∧ (smaxFolds x more).kind = x.kind
      ∧ (smaxFolds x more).pos = x.pos ∧ (smaxFolds x more).tag = x.tag := by
  induction more generalizing x with
  | nil => simp [smaxFolds]
  | cons b more ih =>
    obtain ⟨hc, hk, hp, ht⟩ := ih (smaxFold x false b)
    simp [hc, hk, hp, ht, Nat.add_assoc]

theorem smaxFolds_empty_iff (x : StatRec) (more : List (List (FVal × Bool))) :
    (smaxFolds x more).empty = true ↔ (∀ b ∈ more, Masked b) ∧ x.empty = true := by
  induction more generalizing x with
  | nil => simp [smaxFolds]
  | cons b more ih => simp [ih, smaxFold_empty_iff, and_assoc, and_comm]

theorem smaxFolds_stats_of_masked (x : StatRec) (more : List (List (FVal × Bool))) (h : ∀ b ∈ more, Masked b) :
    (smaxFolds x more).stat0 = x.stat0 ∧ (smaxFolds x more).stat1 = x.stat1 := by
  induction more generalizing x with
  | nil => simp [smaxFolds]
  | cons b more ih =>
    obtain ⟨hb, hm⟩ := List.forall_mem_cons.1 h
    obtain ⟨h0, h1⟩ := ih (smaxFold x false b) hm
    rw [smaxFolds_cons, h0, h1, smaxFold_of_masked x false hb]
    exact ⟨rfl, rfl⟩

/-- The record that an opening of softmax starts from, at its query's position and tag (R131, R204). -/
def openedRec (pos tag : Nat) : StatRec := ⟨3, false, pos, tag, 0, .zero, .inf true⟩

/-- The record of a row whose first block opens it. -/
def rowRec (pos tag : Nat) (first : List (FVal × Bool)) (more : List (List (FVal × Bool))) : StatRec :=
  smaxFolds (smaxFold (openedRec pos tag) true first) more

section
variable (pos tag : Nat) (first : List (FVal × Bool)) (more : List (List (FVal × Bool)))

theorem rowRec_fields : (rowRec pos tag first more).count = first.length + (more.map List.length).sum ∧ (rowRec pos tag first more).kind = 3
    ∧ (rowRec pos tag first more).pos = pos ∧ (rowRec pos tag first more).tag = tag := by
  simpa [rowRec, openedRec] using smaxFolds_fields (smaxFold (openedRec pos tag) true first) more

/-- EMPTY outlasts exactly the masked blocks. -/
theorem rowRec_empty_iff : (rowRec pos tag first more).empty = true ↔ ∀ b ∈ first :: more, Masked b := by
  rw [rowRec, smaxFolds_empty_iff, smaxFold_empty_iff, List.forall_mem_cons]
  simp [and_comm]

theorem rowRec_stats_of_masked (h : ∀ b ∈ first :: more, Masked b) :
    (rowRec pos tag first more).stat0 = .inf true ∧ (rowRec pos tag first more).stat1 = .zero := by
  obtain ⟨hfirst, hmore⟩ := List.forall_mem_cons.1 h
  obtain ⟨h0, h1⟩ := smaxFolds_stats_of_masked (smaxFold (openedRec pos tag) true first) more hmore
  rw [rowRec, h0, h1, smaxFold_of_masked _ _ hfirst]
  exact ⟨rfl, rfl⟩

end

/-- Settles O18: by induction over the key blocks EMPTY outlasts exactly the masked ones, and those leave m and l alone; the exponential of a masked
score is zero under a finite m, and NaN under NaN. -/
theorem maskedSoftmaxRow : Obligations.MaskedSoftmaxRow := by
  unfold Obligations.MaskedSoftmaxRow
  intro pos tag first more
  change let x := rowRec pos tag first more; _
  intro x
  obtain ⟨hcount, hkind, hpos, htag⟩ := rowRec_fields pos tag first more
  refine ⟨hcount, hkind, hpos, htag, fun hmask => ?_, fun hvis => ?_⟩
  · obtain ⟨hm, hl⟩ := rowRec_stats_of_masked pos tag first more hmask
    have he := (rowRec_empty_iff pos tag first more).2 hmask
    exact ⟨he, hm, hl, smaxP_of_empty he⟩
  · obtain ⟨b, hb, p, hp, hseen⟩ := hvis
    have he : x.empty = false := by
      rw [← Bool.not_eq_true, rowRec_empty_iff]
      exact fun h => absurd (h b hb p hp) (by simp [hseen])
    exact ⟨he, fun v => ⟨fun hm hl hz => isZero_smaxP_masked he hm hl hz v, fun hn => smaxP_masked_nan he hn v⟩⟩

end Sys2Proof.Machine

/-! SUPPORT. The firing of vector and stream records: two statements, refuted on states in which a full bit names a stream engine above 31, or a running
record has a request of another record still to make. The model's commands bring neither about, but the statements range over every state. -/

namespace Sys2Proof.Machine

/-- Core 0 ON and calibrated, with the engines `k`. -/
def runningCore (k : CoreSt) : State := setCore (wrB (wrF State.reset (kDom 0) 5 4 2) (kCore 0 R_DL_STATUS) 0 true) 0 k

/-- A descriptor of one element in a row copy at `base`, with the format code, and FB_VALID with entry 0. -/
def oneElem (base fmt : Nat) (fbValid : Bool) : Desc :=
  BitVec.ofNat 512 (base + 2 ^ 256 + 2 ^ 288 + fmt * 2 ^ 384 + 2 ^ 388 + if fbValid then 2 ^ 400 else 0)

/-- `s` with the descriptor `d` at address `a`. -/
def withDesc (s : State) (a : Nat) (d : Desc) : State := { s with mem := putCells s.mem a (valBytes 64 d.toNat) }

/-! ## A vector record that evicts a tile which an engine above 31 prefetched (08_core_store_streaming.md R230) -/

/-- VEC.RAND into one U16 element. -/
def randQ : QEntry :=
  ⟨1, 0, 0x100000, BitVec.ofNat 256 (0x5D + 2 ^ 63), [0x8000100040], 0, false, false, [], false, ⟨0, 0, 0, 0, 0, 0⟩, []⟩

/-- `randQ` in the queue of core 0; the tile it writes is FULL and unread, and its entry names stream 0 of engine 256. -/
def strayPrefetchS : State :=
  setFb (withDesc (runningCore { CoreSt.rst with vecQ := [randQ] }) 0x8000100040 (oneElem 0x8000102000 7 true)) 0 0
    { FbEntry.rst with st := .full, prefetch := some (256 * 256, 0) }

theorem vecReady_strayPrefetchS : VecReady strayPrefetchS 0 0x5D randQ [] where
  runs := by decide +kernel
  head := by decide +kernel
  fresh := rfl
  quiet := by decide +kernel
  alone := by decide +kernel
  isOp := by decide +kernel
  checked := by decide +kernel
  tiles := by decide +kernel
  source := fun _ => .inl (by decide +kernel)
  inside := by decide +kernel

/-- A record of random numbers has no row that can be refused. -/
theorem vecRowsOk_strayPrefetchS : VecRowsOk (vecAt strayPrefetchS 0 randQ) (vecLatched strayPrefetchS 0 randQ) := by
  have h : recOp (vecLatched strayPrefetchS 0 randQ).word = 0x5D := by decide +kernel
  simp [VecRowsOk, h]

theorem exec_vecRand_of_runs {s : State} {c : Core} (h : coreRuns s c = true) :
    exec (.vecRand c) s = .next (vecPick (vecArrive s c 0x5D) c 0x5D) := by
  change vecStep c 0x5D s = _
  rw [vecStep, if_pos h]

/-- The eviction is counted in core page 256, which is the page of context 0 of core 0. -/
theorem rd_vecPick_strayPrefetchS :
    rd (vecPick (vecArrive strayPrefetchS 0 0x5D) 0 0x5D) (kCtx 0 0 R_PF_EARLY_EVICT_CNT) = 1
      ∧ rd strayPrefetchS (kCtx 0 0 R_PF_EARLY_EVICT_CNT) = 0 := by decide +kernel

/-- Refutes O17: its clause that no register of a context page changes fails where the full bit of the destination names a prefetch by the stream engine of
"core 256", whose count of early evictions stands in the page of context 0 of core 0. The statement lacks the premise that every such engine is one of the 32. -/
theorem not_vectorRecordsFire : ¬ Obligations.VectorRecordsFire := by
  unfold Obligations.VectorRecordsFire
  intro h
  obtain ⟨-, -, -, -, -, -, -, -, -, -, -, -, -, hrand, -⟩ := h 0 strayPrefetchS randQ []
  obtain ⟨t, ht, hfired⟩ := (hrand vecReady_strayPrefetchS).1 vecRowsOk_strayPrefetchS
  rw [exec_vecRand_of_runs vecReady_strayPrefetchS.runs, Host.Outcome.next.injEq] at ht
  subst ht
  obtain ⟨hcounted, hbefore⟩ := rd_vecPick_strayPrefetchS
  exact absurd (hcounted.symm.trans ((hfired.contexts 0 0 R_PF_EARLY_EVICT_CNT (by decide) (by decide) (by decide)).trans hbefore)) (by decide)

/-! ## A stream record beside a running one that holds a request of it (08_core_store_streaming.md R219) -/

/-- STR.MOVE of one FP32 element, of stream 3. -/
def moveQ : QEntry :=
  ⟨1, 0, 0x100000, BitVec.ofNat 256 (0x80 + 2 ^ 39 + 2 ^ 47 + 3 * 2 ^ 64), [0x8000100040, 0x8000100080, 0], 0, false, false, [], false,
   ⟨0, 0, 0, 0, 0, 0⟩, []⟩

/-- A running record, number 2, of stream 0, whose one request still to be made names record 1. -/
def strayRun : StrRun :=
  ⟨2, { moveQ with id := 2, fired := true }, 0, 0, [⟨1, 9, 0, 0, 0x8000104000, 4, 0x8000104000, [], .none, false, false, 0⟩], [], false, false, false⟩

/-- `moveQ` in the queue of core 0, beside `strayRun`. -/
def strayRequestS : State :=
  withDesc (withDesc (runningCore { CoreSt.rst with strQ := [moveQ], runs := [strayRun] }) 0x8000100040 (oneElem 0x8000102000 0 false))
    0x8000100080 (oneElem 0x8000103000 0 false)

theorem strReady_strayRequestS : StrReady strayRequestS 0 0x80 moveQ where
  runs := by decide +kernel
  free := by decide +kernel
  head := by decide +kernel
  fresh := rfl
  isOp := by decide +kernel
  checked := by decide +kernel
  tiles := by decide +kernel
  room := by decide +kernel
  unwatched := .inl (by decide +kernel)
  alone := by decide +kernel

theorem exec_strMove (c : Core) (s : State) : exec (.strMove c) s = .next (strHead s c 0x80) := rfl

/-- The record has the one request 0. -/
theorem requests_strayRequestS :
    (numberReqs (coreOf strayRequestS 0).nextReq (strRequests (strHere strayRequestS 0 moveQ) (moveQ.arrive strayRequestS))).map (fun r => r.num) = [0] := by
  decide +kernel

/-- The engine's slots hold two requests that name it. -/
theorem slots_strHead_strayRequestS :
    ((coreOf (strHead strayRequestS 0 0x80) 0).slots.filter (fun r => r.cmd == moveQ.id)).map (fun r => r.num) = [9, 0] := by decide +kernel

/-- Refutes O20: the requests in the slots that name the record are not the record's alone where another running record still has one to make that names it.
The statement's `alone` bars such requests in the slots, the tags held and the parking places, and not those that a running record has still to make. -/
theorem not_streamRecordsFire : ¬ Obligations.StreamRecordsFire := by
  unfold Obligations.StreamRecordsFire
  intro h
  obtain ⟨hmove, -, -, -⟩ := h 0 strayRequestS moveQ
  obtain ⟨t, ht, hreqs, -⟩ := hmove strReady_strayRequestS
  rw [exec_strMove, Host.Outcome.next.injEq] at ht
  subst ht
  have hone := requests_strayRequestS
  obtain ⟨run, -, -, -, -, hnums, -⟩ := hreqs (fun hnil => absurd (hnil ▸ hone) (by decide))
  have hslots : [9, 0] ++ run.todo.map (fun r => r.num) = [0] := slots_strHead_strayRequestS ▸ hnums.trans hone
  simp at hslots

end Sys2Proof.Machine

/-! SUPPORT. Scalar loads and stores: the access that a record sends, and what its answer does to the scalar, to memory and to the log of a task
(06_control_core.md R171; 07_command_encoding.md R208; 08_core_store_streaming.md R213, R214). -/

namespace Sys2Proof.Machine

theorem exec_scLd (c : Core) (x : CtxId) (s : State) : exec (.scLd c x) s = execScLd c x s := rfl
theorem exec_scSt (c : Core) (x : CtxId) (s : State) : exec (.scSt c x) s = execScSt c x s := rfl
theorem exec_scalarAccessResponse (c : Core) (x : CtxId) (s : State) : exec (.scalarAccessResponse c x) s = execScalarAccessResponse c x s := rfl

/-! ## Words and their little-endian bytes (R7) -/

theorem bytesVal_lt (l : List Byte) : bytesVal l < 256 ^ l.length := by
  induction l with
  | nil => decide
  | cons b l ih =>
    have hb : b.toNat < 256 := b.isLt
    rw [bytesVal, List.length_cons, Nat.pow_succ]
    omega

/-- Byte `i` of the number that bytes spell is byte `i` of them. -/
theorem bytesVal_byte (l : List Byte) (i : Nat) (h : i < l.length) : bytesVal l / 256 ^ i % 256 = l[i].toNat := by
  induction l generalizing i with
  | nil => exact absurd h (Nat.not_lt_zero _)
  | cons b l ih =>
    have hb : b.toNat < 256 := b.isLt
    cases i with
    | zero => simp only [bytesVal, Nat.pow_zero, Nat.div_one, List.getElem_cons_zero]; omega
    | succ i =>
      have hq : bytesVal (b :: l) / 256 = bytesVal l := by rw [bytesVal]; omega
      rw [Nat.pow_succ', ← Nat.div_div_eq_div_mul, hq]
      exact ih i (Nat.lt_of_succ_lt_succ h)

@[simp] theorem length_valBytes (n v : Nat) : (valBytes n v).length = n := by
  induction n generalizing v with
  | zero => rfl
  | succ n ih => exact congrArg (· + 1) (ih _)

theorem getElem_valBytes (n v i : Nat) (h : i < (valBytes n v).length) : (valBytes n v)[i] = BitVec.ofNat 8 (v / 256 ^ i % 256) := by
  induction n generalizing v i with
  | zero => exact absurd h (Nat.not_lt_zero _)
  | succ n ih =>
    cases i with
    | zero => simp [valBytes]
    | succ i => rw [Nat.pow_succ', ← Nat.div_div_eq_div_mul]; exact ih _ i (Nat.lt_of_succ_lt_succ h)

theorem bits_byte {w : Nat} (v : BitVec w) (i : Nat) : bits v (8 * i + 7) (8 * i) = v.toNat / 256 ^ i % 256 := by
  have hplace : 2 ^ (8 * i) = 256 ^ i := Nat.pow_mul 2 8 i
  have hsize : 2 ^ (8 * i + 7 + 1 - 8 * i) = 256 := congrArg (2 ^ ·) (show 8 * i + 7 + 1 - 8 * i = 8 by omega)
  rw [bits, Nat.shiftRight_eq_div_pow, hplace, hsize]

/-- Byte `i` of a word read from memory is the byte at its place. -/
theorem bits_codeAt (get : Nat → Byte) (a : Nat) {i : Nat} (h : i < 8) : bits (w64 (codeAt get a 8)) (8 * i + 7) (8 * i) = (get (a + i)).toNat := by
  have hl : ((List.range 8).map (fun i => get (a + i))).length = 8 := by simp
  have hlt : bytesVal ((List.range 8).map (fun i => get (a + i))) < 2 ^ 64 := Nat.lt_of_lt_of_eq (bytesVal_lt _) (congrArg (256 ^ ·) hl)
  rw [bits_byte, codeAt, w64, BitVec.toNat_ofNat, Nat.mod_eq_of_lt hlt, bytesVal_byte _ _ (by rwa [hl])]
  simp

/-- A word written to memory: byte `i` stands at its place. -/
theorem toNat_getCell_putWord (m : MemSt) (a : Nat) (v : Word) {i : Nat} (h : i < 8) :
    (getCell (putCells m a (valBytes 8 v.toNat)) (a + i)).toNat = bits v (8 * i + 7) (8 * i) := by
  rw [getCell_putCells_in _ _ _ (by rwa [length_valBytes]), getElem_valBytes, bits_byte, BitVec.toNat_ofNat]
  exact Nat.mod_eq_of_lt (Nat.mod_lt _ (by decide))

/-! ## Words of a data region (R210, R469) -/

section
variable {s : State} {c x a : Nat}

theorem regionOf_eq_data_iff : regionOf a = .data c ↔ c < 32 ∧ csBase c + 0x100000 ≤ a ∧ a < csBase c + 0x2800000 := by
  unfold csBase
  constructor
  · intro h
    unfold regionOf at h
    split at h
    · cases h
    · split at h
      · dsimp only at h
        split at h
        · cases h
        · split at h <;> cases h
          omega
      · (repeat' split at h) <;> cases h
  · rintro ⟨hc, hlo, hhi⟩
    have hcore : (a - 0x8000000000) / 0x4000000 = c := by omega
    have hoff : (a - 0x8000000000) % 0x4000000 = a - 0x8000000000 - c * 0x4000000 := by omega
    rw [regionOf, if_neg (by omega), if_pos (by omega)]
    simp only [hcore, hoff]
    rw [if_neg (by omega), if_pos (by omega)]

theorem core_of_data (h : regionOf a = .data c) : c < 32 := (regionOf_eq_data_iff.1 h).1

theorem regionOf_wordEnd (h : regionOf a = .data c) (h8 : a % 8 = 0) : regionOf (a + 8 - 1) = .data c := by
  have hr := regionOf_eq_data_iff.1 h
  refine regionOf_eq_data_iff.2 ?_
  unfold csBase at *
  omega

theorem oneRegion_word (h : regionOf a = .data c) (h8 : a % 8 = 0) : oneRegion a 8 = true := by
  rw [oneRegion, h, regionOf_wordEnd h h8]
  simp

theorem wordsOf_word (h : a % 8 = 0) : wordsOf a 8 = [a] := by
  have hn : (a + 8 + 7) / 8 - a / 8 = 1 := by omega
  rw [wordsOf, hn]
  simp only [List.range_one, List.map_cons, List.map_nil]
  congr 1
  omega

theorem isBad_in_word (m : MemSt) {i : Nat} (h : a % 8 = 0) (hi : i < 8) : isBad m (a + i) = isBad m a := by
  rw [isBad, isBad, show (a + i) / 8 = a / 8 by omega]

theorem cloakDenies_core (s : State) (hc : c < 32) (read : Bool) : cloakDenies s c read = false := by
  have h5 : (c == 0x45) = false := by simp; omega
  have h4 : (c == 0x44) = false := by simp; omega
  simp [cloakDenies, h5, h4]

theorem memWaits_data {d : Nat} (s : State) (ha : regionOf a = .data d) : memWaits s a = false := by rw [memWaits, ha]

/-! ## What a fetch leaves alone (R212, R213) -/

theorem SameBytes.of_fetched {t : State} (h : FetchedFrom s t c) : SameBytes s t := fun b => by
  have hcells : t.mem.cells = s.mem.cells := (congrArg MemSt.cells h.marks :)
  rw [getCell, getCell, hcells]

theorem rd_ctx_of_eventRegs {t : State} {d : Nat} (h : EventRegs s t [kCore d R_CS_CE_CNT]) (hd : d < 32) (hc : c < 32) (hx : x < 8) {off : Nat}
    (h1 : 0x100 ≤ off) (ho : off < 4096) : rd t (kCtx c x off) = rd s (kCtx c x off) := by
  refine h _ (plain_kCtx hc hx h1 ho) ?_
  simp only [List.mem_singleton, kCtx, kCore, reg, pgCtx, pgCore, R_CS_CE_CNT]
  omega

theorem ctxPc_of_eventRegs {t : State} {d : Nat} (h : EventRegs s t [kCore d R_CS_CE_CNT]) (hd : d < 32) (hc : c < 32) (hx : x < 8) : ctxPc t c x = ctxPc s c x := by
  rw [ctxPc, ctxPc, rd_ctx_of_eventRegs h hd hc hx (by decide) (by decide)]

theorem scalarSrc_congr {t : State} (hr : ∀ off, 0x100 ≤ off → off < 4096 → rd t (kCtx c x off) = rd s (kCtx c x off))
    (hd : (ctxOf t c x).depth = (ctxOf s c x).depth) (code : Nat) : scalarSrc t c x code = scalarSrc s c x code := by
  unfold scalarSrc scalarReg
  split
  · next h => exact hr _ (by simp only [R_S]; omega) (by simp only [R_S]; omega)
  · split
    · next h => rw [hd, hr _ (by simp only [R_LOOP_ITER]; omega) (by simp only [R_LOOP_ITER]; omega)]
    · rw [hr _ (by decide) (by decide), hr _ (by decide) (by decide)]

theorem dataBank_lt (c a : Nat) : dataBank c a < 64 :=
  Nat.xor_lt_two_pow (n := 6) (Nat.xor_lt_two_pow (Nat.mod_lt _ (by decide)) (Nat.mod_lt _ (by decide))) (Nat.mod_lt _ (by decide))

theorem csRetired_of_eventRegs {t : State} {d : Nat} (h : EventRegs s t [kCore d R_CS_CE_CNT]) (hc : c < 32) (a : Nat) : csRetired t c a = csRetired s c a := by
  have hb := dataBank_lt c a
  refine rdB_of_rd (h _ (plain_kCore (by omega) ?_ ?_) ?_) _
  all_goals simp only [List.mem_singleton, kCore, reg, pgCore, R_SEG_RETIRED, R_CS_CE_CNT]
  all_goals omega

theorem scalarPlace_of_eventRegs {t : State} {d : Nat} (h : EventRegs s t [kCore d R_CS_CE_CNT]) (a : Nat) : scalarPlace t a = scalarPlace s a := by
  unfold scalarPlace
  cases hr : regionOf a with
  | data e => simp only [csRetired_of_eventRegs h (core_of_data hr)]
  | _ => rfl

/-! ## The record sends its access (R208) -/

variable {r : Rec}

theorem eventRegs_acting (h : Acts s c x r) (hc : c < 32) : EventRegs s (acting s c x r) [kCore c R_CS_CE_CNT] := fun k hp hk =>
  (rd_acting ..).trans ((fetched_fetchRec (by omega) h.good).regs k hp hk)

theorem mem_acting (s : State) (c x : Nat) (r : Rec) : (acting s c x r).mem = (fetchRec s c x).mem := by
  rw [acting, modCtx_mem, took, modCtx_mem, modCore_mem]

theorem sameBytes_acting (h : Acts s c x r) (hc : c < 32) : SameBytes s (acting s c x r) := fun b =>
  (congrArg (getCell · b) (mem_acting ..)).trans (SameBytes.of_fetched (fetched_fetchRec (by omega) h.good) b)

theorem ctxOf_acting_of_acts (h : Acts s c x r) (hc : c < 32) : ctxOf (acting s c x r) c x = ctxTook (ctxOf s c x) r := by
  rw [ctxOf_acting, ctxOf_congr ((fetched_fetchRec (by omega) h.good).keeps State.ctxs (fun _ _ _ _ _ _ => rfl))]

theorem scalarSrc_acting (h : Acts s c x r) (hc : c < 32) (hx : x < 8) (code : Nat) : scalarSrc (acting s c x r) c x code = scalarSrc s c x code :=
  scalarSrc_congr (fun _ h1 ho => rd_ctx_of_eventRegs (eventRegs_acting h hc) hc hc hx h1 ho) (by rw [ctxOf_acting_of_acts h hc]; rfl) code

/-- From `s` to `t` the record `r` of context `x` has been taken, and the context waits for the access `acc`. -/
def AccessSent (s t : State) (c x : Nat) (r : Rec) (acc : ScalarAcc) : Prop :=
  ctxOf t c x = { ctxTook (ctxOf s c x) r with st := .waitLocal, lw := .mem acc } ∧ SameBytes s t ∧ EventRegs s t [kCore c R_CS_CE_CNT]

theorem accessSent_startScalar (h : Acts s c x r) (hc : c < 32) (acc : ScalarAcc) : AccessSent s (startScalar (acting s c x r) c x acc) c x r acc := by
  refine ⟨?_, fun b => ?_, fun k hp hk => (rd_modCtx ..).trans (eventRegs_acting h hc k hp hk)⟩
  · rw [startScalar, modCtx, ctxOf_setCtx_self, ctxOf_acting_of_acts h hc]
  · rw [startScalar_mem, sameBytes_acting h hc]

end

theorem runs_scLd {c : Core} {x : CtxId} {s : State} {r : Rec} (h : Acts s c x r) (hop : recOp r = 0x0A) {a : Nat}
    (ha : offAddr (scalarSrc s c x (bits r 47 40)) (bits r 95 64) = a) (hp : scalarPlace s a = true) :
    Runs (.scLd c x) s (fun t => AccessSent s t c x r (.ld a (bits r 37 32))) := by
  refine ⟨_, ?_, accessSent_startScalar h c.isLt _⟩
  have hrec := execRec_of_acts h
  rw [hop] at hrec
  have hplace : scalarPlace (acting s c x r) a = true := (scalarPlace_of_eventRegs (eventRegs_acting h c.isLt) a).trans hp
  rw [exec_scLd, execScLd, hrec, scalarSrc_acting h c.isLt x.isLt, ha]
  simp only [hplace]
  rfl

theorem runs_scSt {c : Core} {x : CtxId} {s : State} {r : Rec} (h : Acts s c x r) (hop : recOp r = 0x0B) {a : Nat}
    (ha : offAddr (scalarSrc s c x (bits r 47 40)) (bits r 95 64) = a) (hp : scalarPlace s a = true)
    (ht : (ctxOf s c x).task = none ∨ regionOf a = .data c) :
    Runs (.scSt c x) s (fun t => AccessSent s t c x r (.st a (scalarSrc s c x (bits r 39 32)))) := by
  refine ⟨_, ?_, accessSent_startScalar h c.isLt _⟩
  have hrec := execRec_of_acts h
  rw [hop] at hrec
  have hplace : scalarPlace (acting s c x r) a = true := (scalarPlace_of_eventRegs (eventRegs_acting h c.isLt) a).trans hp
  have hscope : ((ctxOf (acting s c x r) c x).task.isSome && regionOf a != .data c) = false := by
    rw [ctxOf_acting_of_acts h c.isLt, ctxTook]
    rcases ht with ht | ht <;> simp [ht]
  rw [exec_scSt, execScSt, hrec, scalarSrc_acting h c.isLt x.isLt, scalarSrc_acting h c.isLt x.isLt, ha]
  simp only [hplace, hscope]
  rfl

/-! ## The record completes (R150, R184) -/

section
variable {α : Type} {f : State → α} {s : State} {c x : Nat}

theorem execDone_apart (h : Apart f) (s : State) (c x : Nat) : f (execDone s c x) = f s := by
  rw [execDone, bump_apart h, setPc, wr_apart h]

theorem rd_execDone (s : State) (c x : Nat) {k : Nat} (h : plainKey k) (hp : k ≠ kCtx c x R_CTX_PC) (he : k ≠ kCore c R_CC_EXEC_CNT) :
    rd (execDone s c x) k = rd s k := by
  rw [execDone, rd_bump _ _ _ h he, setPc, rd_wr_ne _ _ hp]

theorem pc_execDone (s : State) (hc : c < 32) (hx : x < 8) : rd (execDone s c x) (kCtx c x R_CTX_PC) = w64 ((ctxPc s c x + 32) % 2 ^ 26) := by
  rw [execDone, rd_bump _ _ _ (plain_kCtx hc hx (by decide) (by decide)) (pc_ne_core hc (by decide)), setPc, rd_wr_self, pc_next]

theorem ctxPc_congr {t : State} (h : rd t (kCtx c x R_CTX_PC) = rd s (kCtx c x R_CTX_PC)) : ctxPc t c x = ctxPc s c x := by rw [ctxPc, ctxPc, h]

/-- The access of context `x` has been answered: its record completes. -/
def scalarDone (s : State) (c x : Nat) : State := execDone (readyCtx s c x) c x

theorem scalarEnd_data (s : State) (c x sd : Nat) (v : Word) :
    scalarEnd (setResp s (.data v)) c x (some sd) = scalarDone (setScalar (setResp s (.data v)) c x sd v) c x := rfl

theorem scalarEnd_ok (s : State) (c x : Nat) : scalarEnd (setResp s .ok) c x none = scalarDone (setResp s .ok) c x := rfl

theorem ctxOf_scalarDone (s : State) (c x : Nat) : ctxOf (scalarDone s c x) c x = { ctxOf s c x with st := .ready, lw := .none } := by
  rw [scalarDone, ctxOf_congr (execDone_apart apart_ctxs ..), readyCtx, modCtx, ctxOf_setCtx_self]

theorem coreOf_scalarDone (s : State) (c x d : Nat) : coreOf (scalarDone s c x) d = coreOf s d :=
  coreOf_congr ((execDone_apart apart_cores ..).trans (modCtx_cores ..)) d

theorem scalarDone_mem (s : State) (c x : Nat) : (scalarDone s c x).mem = s.mem := by rw [scalarDone, execDone_mem, readyCtx_mem]

theorem pc_scalarDone (s : State) (hc : c < 32) (hx : x < 8) : rd (scalarDone s c x) (kCtx c x R_CTX_PC) = w64 ((ctxPc s c x + 32) % 2 ^ 26) :=
  pc_execDone (readyCtx s c x) hc hx

theorem rd_scalarDone (s : State) (c x : Nat) {k : Nat} (h : plainKey k) (hp : k ≠ kCtx c x R_CTX_PC) (he : k ≠ kCore c R_CC_EXEC_CNT) :
    rd (scalarDone s c x) k = rd s k := rd_execDone _ _ _ h hp he

end

/-! ## The answer to a load (R208, R213, R214) -/

section
variable {s : State} {c x a sd : Nat}

/-- Core `c` after its read of the word at `a`: its bank asked, its check bits checked. -/
def wordFetched (s : State) (c a : Nat) : State := csCheck (askBanks s 7 0 [(a, a + 8)]) c a 8 false

theorem fetched_wordFetched (s : State) (hc : c < 32) (h8 : a % 8 = 0) (hg : isBad s.mem a = false) : FetchedFrom s (wordFetched s c a) c := by
  refine (fetched_askBanks (.refl s c) 7 0 [(a, a + 8)]).trans (fetched_csCheck (by omega) false _ _ ?_)
  simp [wordsOf_word h8, hg]

/-- A good word of the core's own data region is answered with its value. -/
theorem readWord_data (hr : regionOf a = .data c) (h8 : a % 8 = 0) (ha : csAnswers s c a 8 = true) (hg : isBad s.mem a = false) :
    readWord s c a = setResp (wordFetched s c a) (.data (w64 (codeAt (getCell s.mem) a 8))) := by
  have hmem : readMem (askBanks s 7 0 [(a, a + 8)]) a 8 (decide (c < 0x20)) false
      = ⟨wordFetched s c a, true, (List.range 8).map (fun i => (getCell s.mem (a + i), isBad s.mem (a + i)))⟩ := by
    have hans : csAnswers (askBanks s 7 0 [(a, a + 8)]) c a 8 = true := ha
    rw [readMem, oneRegion_word hr h8, hr]
    simp only [hans, askBanks_mem]
    rfl
  have hgood : (RdOut.mk (wordFetched s c a) true ((List.range 8).map (fun i => (getCell s.mem (a + i), isBad s.mem (a + i))))).anyBad = false := by
    simp only [RdOut.anyBad, List.any_eq_false, List.mem_map, List.mem_range]
    rintro _ ⟨i, hi, rfl⟩
    simp [isBad_in_word _ h8 hi, hg]
  rw [readWord, hr]
  dsimp only
  rw [if_neg (by simp [cloakDenies_core s (core_of_data hr)]), if_pos (.inl ⟨core_of_data hr, rfl⟩), hmem]
  simp [hgood, RdOut.val, RdOut.bytes, codeAt, Function.comp_def]

/-- The state in which a load's access is answered: the scalar set, its record completed. -/
def loaded (s : State) (c x a sd : Nat) : State :=
  scalarDone (setScalar (setResp (wordFetched s c a) (.data (w64 (codeAt (getCell s.mem) a 8)))) c x sd (w64 (codeAt (getCell s.mem) a 8))) c x

theorem scalarResponse_ld (hst : (ctxOf s c x).st = .waitLocal) (hlw : (ctxOf s c x).lw = .mem (.ld a sd)) (hr : regionOf a = .data c) (h8 : a % 8 = 0)
    (ha : csAnswers s c a 8 = true) (hg : isBad s.mem a = false) : scalarResponse s c x = loaded s c x a sd := by
  simp only [scalarResponse, hst, hlw, memWaits_data s hr, readWord_data hr h8 ha hg, Bool.false_eq_true, if_false, scalarEnd_data, loaded]

theorem pc_ne_scalar (hd : sd < 64) : kCtx c x R_CTX_PC ≠ kCtx c x (R_S + 8 * sd) := by
  simp only [kCtx, reg, R_CTX_PC, R_S]
  omega

theorem rd_loaded_scalar (hc : c < 32) (hx : x < 8) (hd : sd < 64) : rd (loaded s c x a sd) (kCtx c x (R_S + 8 * sd)) = w64 (codeAt (getCell s.mem) a 8) := by
  have hplain : plainKey (kCtx c x (R_S + 8 * sd)) := plain_kCtx hc hx (by simp only [R_S]; omega) (by simp only [R_S]; omega)
  have hexec : kCtx c x (R_S + 8 * sd) ≠ kCore c R_CC_EXEC_CNT := by simp only [kCtx, kCore, reg, pgCtx, pgCore, R_S, R_CC_EXEC_CNT]; omega
  rw [loaded, rd_scalarDone _ _ _ hplain (pc_ne_scalar hd).symm hexec, setScalar, rd_wr_self]

variable (h : FetchedFrom s (wordFetched s c a) c)
include h

theorem pc_loaded (hc : c < 32) (hx : x < 8) (hd : sd < 64) : rd (loaded s c x a sd) (kCtx c x R_CTX_PC) = w64 ((ctxPc s c x + 32) % 2 ^ 26) := by
  rw [loaded, setScalar, pc_scalarDone _ hc hx, ctxPc_congr (rd_wr_ne _ _ (pc_ne_scalar hd)), ctxPc_congr (rd_setResp ..), ctxPc_of_eventRegs h.regs hc hc hx]

theorem sameBytes_loaded : SameBytes s (loaded s c x a sd) := fun b => by
  rw [loaded, scalarDone_mem, setScalar_mem]
  exact SameBytes.of_fetched h b

theorem eventRegs_loaded :
    EventRegs s (loaded s c x a sd) [kCtx c x (R_S + 8 * sd), kCtx c x R_CTX_PC, kCore c R_CC_EXEC_CNT, kCore c R_CS_CE_CNT] := fun k hp hk => by
  simp only [List.mem_cons, List.not_mem_nil, or_false, not_or] at hk
  obtain ⟨hs, hpc, hexec, hce⟩ := hk
  rw [loaded, rd_scalarDone _ _ _ hp hpc hexec, setScalar, rd_wr_ne _ _ hs, rd_setResp]
  exact h.regs k hp (by simpa using hce)

end

/-! ## A store into a data region (R171, R214; in a task logged as every store of it, log entry 40) -/

section
variable {α : Type} {f : State → α} {s : State} {c x a : Nat}

theorem watchBump_apart (h : Apart f) (s : State) (a n : Nat) : f (watchBump s a n) = f s := by
  unfold watchBump
  extract_lets p
  clear_value p
  refine foldl_keeps f _ (fun t w => ?_) _ _
  extract_lets k
  split
  · exact wr_apart h ..
  · rfl

/-- Watch versions stand in the pages of the tag pools, so the registers of a context stay as they are. -/
theorem rd_watchBump_ctx (s : State) (a n : Nat) (hc : c < 32) (hx : x < 8) {off : Nat} (ho : off < 4096) :
    rd (watchBump s a n) (kCtx c x off) = rd s (kCtx c x off) := by
  unfold watchBump
  extract_lets p
  clear_value p
  refine foldl_keeps (rd · (kCtx c x off)) _ (fun t w => ?_) _ _
  extract_lets k
  split
  · refine rd_wr_ne _ _ ?_
    simp only [k, kCtx, reg, pgCtx, pgPool]
    omega
  · rfl

theorem cells_clearBad (m : MemSt) (a n : Nat) : (clearBad m a n).cells = m.cells :=
  foldl_keeps MemSt.cells (fun m i => setWeak (setBad m (a + 8 * i) false) (a + 8 * i) false) (fun _ _ => rfl) _ m

theorem storeMem_data (s : State) (hr : regionOf a = .data c) (bytes : List Byte) (pois : Bool) :
    storeMem s a bytes pois
      = watchBump { s with mem := clearBad (putCells s.mem a bytes) ((a + 7) / 8 * 8) (a + bytes.length - (a + 7) / 8 * 8) } a bytes.length := by
  rw [storeMem, hr]

theorem storeMem_data_apart (h : Apart f) (hm : ∀ t m, f { t with mem := m } = f t) (s : State) (hr : regionOf a = .data c) (bytes : List Byte) (pois : Bool) :
    f (storeMem s a bytes pois) = f s := by
  rw [storeMem_data s hr, watchBump_apart h, hm]

theorem getCell_storeMem_data (s : State) (hr : regionOf a = .data c) (bytes : List Byte) (pois : Bool) (b : Nat) :
    getCell (storeMem s a bytes pois).mem b = getCell (putCells s.mem a bytes) b := by
  rw [storeMem_data s hr, watchBump_mem, getCell, getCell, cells_clearBad]

theorem rd_storeMem_data (s : State) (hr : regionOf a = .data c) (bytes : List Byte) (pois : Bool) {d : Nat} (hd : d < 32) (hx : x < 8) {off : Nat} (ho : off < 4096) :
    rd (storeMem s a bytes pois) (kCtx d x off) = rd s (kCtx d x off) := by
  rw [storeMem_data s hr, rd_watchBump_ctx _ _ _ hd hx ho]
  rfl

/-- Core `c` after its write of the word `v` at `a`, with its bank asked. -/
def wordWritten (s : State) (c a : Nat) (v : Word) : State :=
  askBanks (storeMem s a (valBytes 8 v.toNat) false) (bankClass c ((a - 0x8000000000) / 0x4000000)) 0 [(a, a + 8)]

/-- A write of a word of the core's own data region is accepted. -/
theorem writeWord_data (hr : regionOf a = .data c) (h8 : a % 8 = 0) (ha : csAnswers s c a 8 = true) (v : Word) :
    writeWord s c a v = setResp (wordWritten s c a v) .ok := by
  have hexempt : mayWrite s c a 8 = true := by
    have hc : c < 0x40 := Nat.lt_trans (core_of_data hr) (by decide)
    simp [mayWrite, winExempt, hc, hr, Nat.mod_eq_of_lt (core_of_data hr)]
  have hwrite : writeMem s c a (valBytes 8 v.toNat) false = ⟨wordWritten s c a v, .ok⟩ := by
    simp [writeMem, oneRegion_word hr h8, cloakDenies_core s (core_of_data hr), hr, ha, hexempt, wordWritten]
  rw [writeWord, hr]
  simp only [hwrite]

/-- The state in which a store's access is answered: the granule logged in a task, the word written, the record completed. -/
def stored (s : State) (c x a : Nat) (v : Word) : State := scalarDone (setResp (wordWritten (storeLog s c x a) c a v) .ok) c x

theorem storeLog_regs (s : State) (c x a : Nat) : (storeLog s c x a).regs = s.regs := by
  unfold storeLog
  split <;> rfl

theorem csAnswers_congr {t : State} (h : t.regs = s.regs) (c a n : Nat) : csAnswers t c a n = csAnswers s c a n := by
  have hret : csRetired t c = csRetired s c := funext fun l => rdB_congr h ..
  rw [csAnswers, csAnswers, hret, domOn, domOn, domState, domState, rdF_of_rd (rd_congr h _)]

theorem scalarResponse_st {v : Word} (hst : (ctxOf s c x).st = .waitLocal) (hlw : (ctxOf s c x).lw = .mem (.st a v)) (hr : regionOf a = .data c) (h8 : a % 8 = 0)
    (ha : csAnswers s c a 8 = true) (hroom : inTask s c x = true → logIsFull (coreOf s c) = false) : scalarResponse s c x = stored s c x a v := by
  have hgo : ¬(memWaits s a = true ∨ inTask s c x = true ∧ logIsFull (coreOf s c) = true) := by
    rw [memWaits_data s hr]
    rintro (hw | ⟨ht, hf⟩)
    · cases hw
    · exact Bool.false_ne_true ((hroom ht).symm.trans hf)
  have hans : csAnswers (storeLog s c x a) c a 8 = true := (csAnswers_congr (storeLog_regs ..) ..).trans ha
  simp only [scalarResponse, hst, hlw, if_neg hgo, writeWord_data hr h8 hans, scalarEnd_ok, stored]

theorem getCell_stored (hr : regionOf a = .data c) (v : Word) (b : Nat) :
    getCell (stored s c x a v).mem b = getCell (putCells s.mem a (valBytes 8 v.toNat)) b := by
  rw [stored, scalarDone_mem, ← storeLog_mem s c x a, ← getCell_storeMem_data _ hr _ false]
  rfl

theorem sameBytesBut_stored (hr : regionOf a = .data c) (v : Word) : SameBytesBut s (stored s c x a v) a 8 := fun b hb => by
  rw [getCell_stored hr, getCell_putCells_out _ _ _ (by rwa [length_valBytes])]

theorem pc_stored (hr : regionOf a = .data c) (hx : x < 8) (v : Word) : rd (stored s c x a v) (kCtx c x R_CTX_PC) = w64 ((ctxPc s c x + 32) % 2 ^ 26) := by
  have hc := core_of_data hr
  have hpc : rd (setResp (wordWritten (storeLog s c x a) c a v) .ok) (kCtx c x R_CTX_PC) = rd s (kCtx c x R_CTX_PC) :=
    (rd_storeMem_data (storeLog s c x a) hr (valBytes 8 v.toNat) false hc hx (off := R_CTX_PC) (by decide)).trans (rd_congr (storeLog_regs ..) _)
  rw [stored, pc_scalarDone _ hc hx, ctxPc_congr hpc]

theorem log_stored (hr : regionOf a = .data c) (v : Word) :
    (coreOf (stored s c x a v) c).log = (coreOf s c).log ++ (if inTask s c x then
      [⟨x, a / 64 * 64, (List.range 64).map (fun i => getCell s.mem (a / 64 * 64 + i))⟩] else []) := by
  have hcores : (setResp (wordWritten (storeLog s c x a) c a v) .ok).cores = (storeLog s c x a).cores :=
    storeMem_data_apart apart_cores (fun _ _ => rfl) _ hr _ _
  rw [stored, coreOf_scalarDone, coreOf_congr hcores, storeLog]
  split
  · rw [coreOf_modCore_self]
  · rw [List.append_nil]

end

/-! ## The command -/

theorem exec_scalarAccessResponse_of_on {c : Core} {s : State} (hon : domOn s c = true) (x : CtxId) :
    exec (.scalarAccessResponse c x) s = .next (scalarResponse s c x) := by
  rw [exec_scalarAccessResponse, execScalarAccessResponse, if_pos hon]

theorem domOn_of_csAnswers {s : State} {c a n : Nat} (h : csAnswers s c a n = true) : domOn s c = true := (Bool.and_eq_true_iff.1 h).1

/-- Settles O12: the record leaves the context waiting for its access; the answer to a load sets the scalar to the word read, a store logs its granule in a
task and writes the word, and then the record completes. -/
theorem scalarAccesses : Obligations.ScalarAccesses := by
  unfold Obligations.ScalarAccesses
  refine fun c x s => ⟨fun r h => ?_, fun a sd hst hlw hd hr h8 ha hg => ?_, fun a v hst hlw hr h8 ha hroom => ?_⟩
  · intro a k hp
    exact ⟨fun hop => runs_scLd h hop rfl hp, fun hop ht => runs_scSt h hop rfl hp ht⟩
  · have hf := fetched_wordFetched s c.isLt h8 hg
    refine ⟨loaded s c x a sd, ?_, fun i hi => ?_, pc_loaded hf c.isLt x.isLt hd, ?_, ?_, sameBytes_loaded hf, eventRegs_loaded hf⟩
    · rw [exec_scalarAccessResponse_of_on (domOn_of_csAnswers ha), scalarResponse_ld hst hlw hr h8 ha hg]
    · rw [rd_loaded_scalar c.isLt x.isLt hd, bits_codeAt _ _ hi]
    all_goals rw [loaded, ctxOf_scalarDone]
  · refine ⟨stored s c x a v, ?_, fun i hi => ?_, sameBytesBut_stored hr v, ?_, ?_, pc_stored hr x.isLt v, log_stored hr v⟩
    · rw [exec_scalarAccessResponse_of_on (domOn_of_csAnswers ha), scalarResponse_st hst hlw hr h8 ha hroom]
    · rw [getCell_stored hr, toNat_getCell_putWord _ _ _ hi]
    all_goals rw [stored, ctxOf_scalarDone]

end Sys2Proof.Machine
